-- ==== Sys2Proof/Word.lean ====
section
/-!
DEFINITION. Widths and containers of the JL5120 model: the 32-bit register word (spec 00, Registers), the 64-bit
vector-memory row (spec 05 R126), and the sparse table that holds every indexed register file.
-/
namespace Sys2Proof

/-- A register of the part: 32 bits (spec 00, Registers). -/
abbrev Word := BitVec 32

/-- One row of vector memory, one ECC word of 64 data bits (R126). -/
abbrev Row := BitVec 64

/-- One byte. -/
abbrev Byte := BitVec 8

/-- A register file or memory by index, as plain data: (index, value) pairs with strictly rising indexes and no entry
equal to what an unlisted index reads as (the canonical form is `Tbl.wf` in Machine/Table.lean). -/
abbrev Tbl (α : Type) := List (Nat × α)

end Sys2Proof
end

