-- ==== Sys2Proof/Syntax.lean ====
section
/-!
DEFINITION. The commands of the JL5120: one constructor per row of spec/opcode_table.json, with the operands the row's
rule gives it. A Ronrax instruction carries the sequencer that executes it, bits [55:0] of its word (R64) and what the
control store reports while it runs (R398). A register access carries its party and value. An event at a pin, a
converter or a clock carries the unit and what is observed there.
-/
namespace Sys2Proof

/-- Cluster Cc, c = 0 to 15 (R7). -/
abbrev Cl := Fin 16
/-- Sequencer x: SEQ0 to SEQ15, and 16 for SEQH (the numbering of R400's registers). -/
abbrev Sq := Fin 17
/-- Channel Pn (R7). -/
abbrev Chan := Fin 512
/-- Rail r (R8). -/
abbrev Rail := Fin 64
/-- Site Ss (R10). -/
abbrev Site := Fin 128
/-- Kettle zone Kq, quadrant Qq, warden slice q (R8). -/
abbrev Quad := Fin 4
/-- Event channel ECk (R351). -/
abbrev Ec := Fin 1024

/-- The parties that issue register accesses, in the order of R33. -/
inductive Party where
  | warden | pf1 | sp | pf0 | seqh
  deriving DecidableEq, Repr

/-- The register spaces: PF0 BAR0, PF1 BAR0 (R456), the service window (R441), and the BARs of PF0 and PF1 that hold the MSI-X
table and PBA (R248). -/
inductive Space where
  | pf0 | pf1 | win | msix0 | msix1
  deriving DecidableEq, Repr

/-- The shape of a PF0 or PF1 request (R458): one dword, two dwords with the upper dword that a write carries, or any other
size. -/
inductive Shape where
  | dword
  | dwords (hi : Word)
  | other
  deriving DecidableEq, Repr

/-- What an ECC checker reports for the word read (R341). -/
inductive Ecc where
  | ok | corrected | uncorrectable
  deriving DecidableEq, Repr

/-- A row that has come for a vector (R130, R341): what the checker of vector memory reports of it, and what that of the vector
cache or of the streaming buffer reports as the vector is issued. -/
structure Arrive where
  mem   : Ecc
  cache : Ecc
  deriving DecidableEq, Repr

/-- State of a comparator (R164). -/
inductive Cmp where
  | low | high | unk | off
  deriving DecidableEq, Repr

/-- What a fetch of the control store meets (R394, R398): whether the condition of the word holds at its end, whether the word that the
ROM gives fails its parity, and what the caddy's checker reports where a caddy word is fetched. -/
structure MicroFetch where
  cond : Bool
  bad  : Bool
  ecc  : Ecc
  deriving DecidableEq, Repr

/-- What the control store meets while an instruction runs: its fetches in order, each pass of a waiting word on its own. A fetch that
no command reports meets no fault, and its condition is open (R396). -/
structure Micro where
  words : List MicroFetch
  deriving DecidableEq, Repr

/-- What the pin shows at a strobe: whether CH and CL are HIGH (R164) at E4 and at E5, and whether the compare's condition
held through the whole guarded window (R165, R192, R214). -/
structure StrobeObs where
  ch4 : Bool
  cl4 : Bool
  ch5 : Bool
  cl5 : Bool
  held : Bool
  deriving DecidableEq, Repr

/-- An enable output with a read-back (R292, R300). -/
inductive Enable where
  | railA (r : Rail) | railB (r : Rail) | kenA (q : Quad) | kenB (q : Quad)
  deriving DecidableEq, Repr

/-- Producer of a record (R226). -/
inductive Producer where
  | capture (c : Cl) | qpush (x : Sq) | meas (c : Cl) | tiu (t : Fin 8)
  deriving DecidableEq, Repr

/-- An offer of a record as the queue manager meets it (R341): the producer, what the checker of the descriptor cache reports of
the descriptor, and the data words of a capture record in which the checker of the capture buffer finds an error, each with
whether it is uncorrectable. -/
structure Offer where
  src   : Producer
  desc  : Ecc
  words : List (Fin 1008 × Bool)
  deriving DecidableEq, Repr

/-- Kind of reset (R418). -/
inductive ResetKind where
  | cold | full | pcie
  deriving DecidableEq, Repr

/-- What a read of the card flash gave: bytes, and whether the read failed (R402). -/
structure FlashRead where
  bytes : List Byte
  err   : Bool
  deriving DecidableEq, Repr

/-- What power-up meets outside the core die (R423): slices alive, checkers that fail their self-test, bad ROM words
(sequencer, microaddress), OTP words lost and OTP words corrected, whether the factory header is valid, the flash header's 64 bytes, the two
user copies, the patch image, and whether DRAM training failed twice. -/
structure Boot where
  slices    : BitVec 4
  bistBad   : List (Fin 101)
  romBad    : List (Sq × BitVec 14)
  otpBad    : List (Fin 16384)
  otpFixed  : List (Fin 16384)
  factoryOk : Bool
  header    : FlashRead
  copyA     : FlashRead
  copyB     : FlashRead
  patch     : FlashRead
  dramOk    : Bool
  ovoWarm   : Bool
  deriving DecidableEq, Repr

/-- Where a clamp acts: a channel (R178), or an aux output (R297). -/
inductive ClampAt where
  | chan (n : Chan)
  | aux (a : Fin 16)
  deriving DecidableEq, Repr

/-- What a permit path reads back (R313, R326): the I32 or HV gate of a channel, or the warden's copy of CHSITE of a channel or of
RAILSITE of a rail. -/
inductive PermitPath where
  | i32Gate | hvGate | chCopy | railCopy
  deriving DecidableEq, Repr

/-- An edge at a TIU (R252, R257): the bin of its interpolator, and whether it rises (a comparator goes from LOW to HIGH). -/
structure TiuEdge where
  bin    : BitVec 8
  rising : Bool
  deriving DecidableEq, Repr

/-- A vector start as the pins meet it (R69, R198, R341): its cluster, and the words of the applied copy of edge RAM that are
found now to hold an uncorrectable error, and those corrected. -/
structure VecStart where
  cl    : Cl
  ue    : List Nat
  fixed : List Nat
  deriving DecidableEq, Repr

/-- The commands, one constructor per row of the table, in the table's order. -/
inductive Instr where
  | registerWrite (p : Party) (sp : Space) (off : BitVec 26) (shape : Shape) (v : Word)
  | lowWordRead (p : Party) (sp : Space) (off : BitVec 26) (shape : Shape)
  | chsiteWrite (p : Party) (n : Chan) (v : Word)
  | railsiteWrite (p : Party) (r : Rail) (v : Word)
  | auxsiteWrite (p : Party) (a : Fin 16) (v : Word)
  | siteEnable (p : Party) (s : Site) (v : Word)
  | siteDisable (p : Party) (s : Site) (v : Word)
  | siteUnfence (p : Party) (s : Site) (v : Word)
  | clusterPark (p : Party) (c : Cl) (v : Word)
  | parkComplete (c : Cl)
  | clusterUnpark (p : Party) (c : Cl) (v : Word)
  | tick
  | heartbeatToggle
  | clusterPourDone (c : Cl)
  | pourDone
  | pourLimitExpiry
  | seqRun (p : Party) (c : Cl) (v : Word)
  | seqStop (p : Party) (c : Cl) (v : Word)
  | seqRegWrite (p : Party) (x : Sq) (k : Fin 24) (v : Word)
  | idmaGo (p : Party) (c : Cl) (v : Word)
  | idmaComplete (c : Cl)
  | nop (x : Sq) (w : BitVec 56) (mc : Option Micro)
  | vec (x : Sq) (w : BitVec 56) (mc : Option Micro) (avail : List Arrive)
  | vecr (x : Sq) (w : BitVec 56) (mc : Option Micro) (avail : List Arrive)
  | tset (x : Sq) (w : BitVec 56) (mc : Option Micro)
  | sitem (x : Sq) (w : BitVec 56) (mc : Option Micro)
  | add (x : Sq) (w : BitVec 56) (mc : Option Micro)
  | sub (x : Sq) (w : BitVec 56) (mc : Option Micro)
  | and (x : Sq) (w : BitVec 56) (mc : Option Micro)
  | or (x : Sq) (w : BitVec 56) (mc : Option Micro)
  | xor (x : Sq) (w : BitVec 56) (mc : Option Micro)
  | shl (x : Sq) (w : BitVec 56) (mc : Option Micro)
  | shr (x : Sq) (w : BitVec 56) (mc : Option Micro)
  | sar (x : Sq) (w : BitVec 56) (mc : Option Micro)
  | cmp (x : Sq) (w : BitVec 56) (mc : Option Micro)
  | mul (x : Sq) (w : BitVec 56) (mc : Option Micro)
  | addi (x : Sq) (w : BitVec 56) (mc : Option Micro)
  | subi (x : Sq) (w : BitVec 56) (mc : Option Micro)
  | andi (x : Sq) (w : BitVec 56) (mc : Option Micro)
  | ori (x : Sq) (w : BitVec 56) (mc : Option Micro)
  | xori (x : Sq) (w : BitVec 56) (mc : Option Micro)
  | shli (x : Sq) (w : BitVec 56) (mc : Option Micro)
  | shri (x : Sq) (w : BitVec 56) (mc : Option Micro)
  | sari (x : Sq) (w : BitVec 56) (mc : Option Micro)
  | cmpi (x : Sq) (w : BitVec 56) (mc : Option Micro)
  | movi (x : Sq) (w : BitVec 56) (mc : Option Micro)
  | mov (x : Sq) (w : BitVec 56) (mc : Option Micro)
  | mtlc (x : Sq) (w : BitVec 56) (mc : Option Micro)
  | mflc (x : Sq) (w : BitVec 56) (mc : Option Micro)
  | mfs (x : Sq) (w : BitVec 56) (mc : Option Micro)
  | ldv (x : Sq) (w : BitVec 56) (mc : Option Micro)
  | stv (x : Sq) (w : BitVec 56) (mc : Option Micro)
  | vmemAccessDone (x : Sq) (ecc : Ecc)
  | ovl (x : Sq) (w : BitVec 56) (mc : Option Micro)
  | ovlw (x : Sq) (w : BitVec 56) (mc : Option Micro)
  | steep (x : Sq) (w : BitVec 56) (mc : Option Micro)
  | pour (x : Sq) (w : BitVec 56) (mc : Option Micro)
  | halt (x : Sq) (w : BitVec 56) (mc : Option Micro)
  | tret (x : Sq) (w : BitVec 56) (mc : Option Micro)
  | jmp (x : Sq) (w : BitVec 56) (mc : Option Micro)
  | jf (x : Sq) (w : BitVec 56) (mc : Option Micro)
  | je (x : Sq) (w : BitVec 56) (mc : Option Micro)
  | call (x : Sq) (w : BitVec 56) (mc : Option Micro)
  | ret (x : Sq) (w : BitVec 56) (mc : Option Micro)
  | loop (x : Sq) (w : BitVec 56) (mc : Option Micro)
  | endl (x : Sq) (w : BitVec 56) (mc : Option Micro)
  | mloop (x : Sq) (w : BitVec 56) (mc : Option Micro) (avail : List Arrive)
  | mloopPassResolve (c : Cl) (avail : List Arrive)
  | range (x : Sq) (w : BitVec 56) (mc : Option Micro)
  | force (x : Sq) (w : BitVec 56) (mc : Option Micro)
  | meas (x : Sq) (w : BitVec 56) (mc : Option Micro)
  | capTrig (x : Sq) (w : BitVec 56) (mc : Option Micro)
  | capArm (x : Sq) (w : BitVec 56) (mc : Option Micro)
  | capClose (x : Sq) (w : BitVec 56) (mc : Option Micro)
  | capDisarm (x : Sq) (w : BitVec 56) (mc : Option Micro)
  | evs (x : Sq) (w : BitVec 56) (mc : Option Micro)
  | evw (x : Sq) (w : BitVec 56) (mc : Option Micro)
  | evwTimeout (x : Sq)
  | qpush (x : Sq) (w : BitVec 56) (mc : Option Micro)
  | sfclr (x : Sq) (w : BitVec 56) (mc : Option Micro)
  | rdr (w : BitVec 56) (mc : Option Micro)
  | wrr (w : BitVec 56) (mc : Option Micro)
  | regAccessDone
  | waitc (w : BitVec 56) (mc : Option Micro)
  | waitcExpiry
  | cpx (w : BitVec 56) (mc : Option Micro) (ecc : List Ecc)
  | cpTransferDone (data : List Byte) (pollTimeout : Bool)
  | interruptEntry (x : Sq)
  | vectorApply (c : VecStart)
  | strobeResolve (c : Cl) (i : Fin 32) (obs : StrobeObs)
  | rangeApply (c : Cl)
  | forceApply (c : Cl)
  | measApply (c : Cl)
  | measSettleEnd (c : Cl) (i : Fin 32)
  | adcSampleDone (c : Cl) (k : Fin 4) (code : Int)
  | listArmApply (c : Cl)
  | listTrigApply (c : Cl)
  | listCloseApply (c : Cl)
  | listDisarmApply (c : Cl)
  | evsEntryApply (c : Cl)
  | vectorStallEnd (c : Cl) (avail : List Arrive)
  | underrunStart (c : Cl)
  | potCfgWrite (p : Party) (k : Fin 64) (v : Word)
  | potWrWrite (p : Party) (k : Fin 64) (v : Word)
  | bar2Read (row : BitVec 32) (ecc : Ecc)
  | bar2Write (row : BitVec 32) (data : Row) (be : BitVec 8) (ecc : Ecc)
  | fillGo (p : Party) (v : Word)
  | fillRegionComplete
  | strainerWord (m : Fin 101) (ecc : Ecc)
  | bucketLeak (m : Fin 101)
  | comparatorTransition (n : Chan) (k : Fin 4) (new : Cmp)
  | unkTimeout (n : Chan) (k : Fin 2)
  | clampEngage (o : ClampAt) (acts : Bool)
  | tsEdataRead (p : Party) (c : Cl)
  | tsEdataWrite (p : Party) (c : Cl) (v : Word)
  | caplConfigWrite (p : Party) (c : Cl) (l : Fin 8) (k : Fin 12) (v : Word)
  | capGovWrite (p : Party) (c : Cl) (v : Word)
  | rearmComplete (c : Cl)
  | govRise (c : Cl)
  | recordAccept (o : Offer)
  | holdoverMove
  | qdWrite (p : Party) (k : Fin 8) (v : Word)
  | qheadAdv (p : Party) (v : Word)
  | qmHoldWrite (p : Party) (len : Bool) (v : Word)
  | dmaCopy (e : Fin 64) (ecc : List Ecc)
  | linkDown (bmeCleared : Bool)
  | linkUp
  | tiuGo (p : Party) (t : Fin 8) (v : Word)
  | tiuAbort (p : Party) (t : Fin 8) (v : Word)
  | tiuConfigWrite (p : Party) (t : Fin 8) (k : Fin 6) (v : Word)
  | tiuStartEdge (t : Fin 8) (tclk : Nat) (e : TiuEdge)
  | tiuStopEdge (t : Fin 8) (tclk : Nat) (e : TiuEdge)
  | tiuShotArm (t : Fin 8)
  | tiuOverflow (t : Fin 8)
  | tiuCalGo (p : Party) (t : Fin 8) (v : Word)
  | tiuCalDone (t : Fin 8) (hits : List Nat)
  | weGo (p : Party) (w : Fin 16) (v : Word)
  | weStop (p : Party) (w : Fin 16) (v : Word)
  | weConfigWrite (p : Party) (w : Fin 16) (k : Fin 32) (v : Word)
  | weStart (w : Fin 16)
  | weUpdate (w : Fin 16) (rows : List Ecc)
  | weSampleArrive (w : Fin 16)
  | syncSend (p : Party) (v : Word)
  | syncArm (p : Party) (v : Word)
  | syncPulse (phase : Fin 2500)
  | railVsetWrite (p : Party) (r : Rail) (v : Word)
  | railVmaxWrite (p : Party) (r : Rail) (v : Word)
  | railCfgWrite (p : Party) (r : Rail) (v : Word)
  | railEnableConfirm (r : Rail)
  | railEnfail (r : Rail)
  | railSettled (r : Rail)
  | railRampfail (r : Rail)
  | railMeasure (r : Rail) (v i : Int)
  | railOcTrip (r : Rail)
  | railDischDone (r : Rail)
  | railDtmo (r : Rail)
  | stuckEnable (e : Enable)
  | sitePowerRequest (p : Party) (s : Site) (v : Word)
  | sitePowerRelease (p : Party) (s : Site) (v : Word)
  | auxCfgWrite (p : Party) (a : Fin 16) (v : Word)
  | auxCodeWrite (p : Party) (a : Fin 16) (v : Word)
  | kzEnable (p : Party) (q : Quad) (v : Word)
  | kzDisable (p : Party) (q : Quad) (v : Word)
  | kzThWrite (p : Party) (q : Quad) (v : Word)
  | kzEnableConfirm (q : Quad)
  | kzEnfail (q : Quad)
  | kzStopDelay (q : Quad)
  | kzOff (q : Quad)
  | kzUpdate (q : Quad) (ohms : Nat)
  | contactRise
  | contactFall
  | tdSettled
  | liftReqRise
  | liftReqFall
  | wardenRingMessage
  | sliceSilent (q : Quad)
  | sliceDisagree
  | wardenSample (r : Rail) (v i : Int)
  | wardenThprotSample (q : Quad) (ohms : Nat)
  | heartbeatTimeout (q : Quad)
  | estop
  | limitCopyCompare (q : Quad) (second : List (Nat × Word)) (ue1 ue2 : Bool)
  | f4PermitTimeout
  | safeRequest (p : Party) (v : Word)
  | f2Clear (p : Party) (v : Word)
  | historyClear (p : Party) (v : Word)
  | wardenLimitWrite (p : Party) (off : BitVec 20) (v : Word)
  | wlTbndWrite (p : Party) (v : Word)
  | ecConfigWrite (p : Party) (k : Ec) (j : Fin 5) (v : Word)
  | evSwPulse (p : Party) (v : Word)
  | eventPass (k : Ec)
  | pinActionHoldEnd (slot : Fin 64)
  | powerInterval (mw : List (BitVec 16))
  | modelAUpdate (ta : List (Option (BitVec 16))) (tmem tmax : Option (BitVec 16))
  | modelBUpdate (tb : List (Option (BitVec 16)))
  | calUdataRead (p : Party)
  | calUdataWrite (p : Party) (v : Word)
  | calFdataRead (p : Party)
  | calSave (p : Party) (v : Word)
  | calSaveDone (ok : Bool)
  | bgCalStart (c : Cl) (i : Fin 32) (strobe : Bool)
  | bgCalDone (c : Cl) (r : Int)
  | patchLoad (p : Party) (v : Word) (flash : FlashRead)
  | patchClear (p : Party) (v : Word)
  | patchLoadDone (flash : FlashRead)
  | refclkLoss
  | pllaLockLoss
  | refclkPresent
  | pllaLock (band : BitVec 4)
  | pllaLockTimeout
  | relockComplete
  | ovoReadyRise
  | ovoReadyFall
  | clkOutWrite (p : Party) (k : Fin 6) (v : Word)
  | clkDelayStep (k : Fin 6)
  | coldReset (supply : Bool)
  | fullReset
  | pcieReset
  | rstRequest (p : Party) (v : Word)
  | resetDelayExpiry
  | ready
  | seqhRun (p : Party) (v : Word)
  | seqhStop (p : Party) (v : Word)
  | seqhLineFill (data : List Row) (crc : Word)
  | linePrefetch (data : List Row) (crc : Word)
  | flashPoll (busy : Bool)
  | spCmdSafe (v : Word)
  | spCmdRst (v : Word)
  | spPtrWrite (v : Word)
  | spDataWrite (v : Word)
  | spDataRead
  | spAccessDone
  | spFrameError
  | p1wDataRead
  | p1wDataWrite (v : Word)
  | readClear (p : Party) (sp : Space) (off : BitVec 26) (shape : Shape)
  | resetRelease (k : ResetKind) (b : Boot)
  | fetchException (x : Sq) (ecc : Ecc) (mc : Option Micro)
  | gateReadbackFault (f : PermitPath) (n : Chan)
  | vectorPeriodEnd (c : Cl)
  deriving DecidableEq, Repr

end Sys2Proof
end

