-- ==== Sys2Proof/Decode.lean ====
section
/-!
DEFINITION. The command a table word spells. spec/opcode_table.json gives no row a bit, so no word spells a command.
-/
namespace Sys2Proof

/-- The command of a word by the table's bits: none, for the table's rows have no bits. -/
def decodeTableWord (_nbits _w : Nat) : Option Instr := none

end Sys2Proof
end

