-- ==== Sys2Proof/Config.lean ====
section
/-!
DEFINITION. What an implementation fixes and the spec leaves open: constants without a body, so that no proof can see
their value. Each is named in the assumption log.
-/
namespace Sys2Proof

/-- Factory calibration item at halfword index `i` of the table image in OTP (R375 to R377): measured per part. -/
opaque Config.factoryItem : Nat → BitVec 16

/-- Factory delay of clock output `k`, loaded from OTP (R409, CLK_OUT.DELAY). -/
opaque Config.clkDelay : Nat → BitVec 6

/-- Output of the polyphase filter (R274) for the stored samples that a group delay of 8 spans, newest first (17), one of its
64 phases, and WE_STEP and WE_RATE.UDIV, which set its band: the spec gives its band limits and no coefficients. -/
opaque Config.polyFilter : List (BitVec 18) → BitVec 6 → BitVec 32 → BitVec 20 → BitVec 18

/-- What a bad row gives where no stored sample has played before it (R280). The argument numbers the read. -/
opaque Config.firstSample : Nat → BitVec 18

/-- The value of a shot whose prescaled edges arrive within 3 TCLK (R255: "its value is not defined"). The argument
numbers the shot. -/
opaque Config.fastShot : Nat → Int

/-- Path delay in fs of comparator `k` (CH, CL, MH, ML) of a channel in M0 or M1 (R253): the spec names no calibration item
for it. -/
opaque Config.cmpDelay : Nat → Nat → Int

/-- Whether the row of a pot that software rewrites between RD and WR shows its old contents (R138: "which one is not
defined"). The argument numbers the read. -/
opaque Config.potOldRow : Nat → Bool

/-- The word of the capture buffer (R339) that an error met by a record stands in: the spec gives no layout of the buffer. The
argument numbers the error. -/
opaque Config.bufAddr : Nat → Fin 32768

/-- The word of the descriptor cache (R339) that an error met by a read of a descriptor stands in. The argument numbers the read. -/
opaque Config.descAddr : Nat → Fin 32768

/-- Data of a word of vector memory that reads with an uncorrectable error and that its consumer goes on with: a record that moves
out of the holdover area (R237, R342). The argument numbers the read. -/
opaque Config.lostRow : Nat → BitVec 64

/-- Which word of the next record that is filed meets an uncorrectable error of the capture buffer (R341): 0 for none, else
the word's number plus 1, modulo the record's words. The spec does not say which record a buffer word belongs to. The
argument numbers the record. -/
opaque Config.bufWord : Nat → Nat

/-- Whether a read of the vector cache or of the descriptor cache meets a word in which the strainer has found an uncorrectable error (R130, R341): the spec
does not say which line a word of the cache holds. The argument numbers the read. -/
opaque Config.cacheMeet : Nat → Bool

/-- The word of the vector cache and streaming buffer (R339) that an error met by a read stands in. The argument numbers the
read. -/
opaque Config.cacheWord : Nat → Fin 16896

/-- Whether a word of a vector cache, a capture buffer or the descriptor cache that the strainer has found bad still holds its error
when the strainer reads it again: one that has been written since does not (R130, R341). The argument numbers the reading. -/
opaque Config.cacheKept : Nat → Bool

/-- What the ECC checker reports for a read of vector memory that no command reports (R341): 0 nothing, 1 a corrected error,
2 an uncorrectable one. The argument numbers the read. -/
opaque Config.rowMeet : Nat → Fin 3

/-- Whether the effects of an instruction stand whose micro-routine a machine check ends after its first microword (R398): which
microword drives which effect depends on the ROM (R396). The argument numbers the check. -/
opaque Config.microDone : Nat → Bool

/-- Lines that the fill engine writes in a CCLK (R148): the spec gives its rate on otherwise idle memory, 6.25 lines, and no
rate under load. The argument numbers the CCLK. -/
opaque Config.fillLines : Nat → Fin 8

/-- Data rates of the host link in GT/s (R246). -/
inductive LinkRate where
  | g2_5 | g5 | g8 | g16 | g32 | g64
  deriving DecidableEq, Repr, Inhabited
/-- Widths of the host link (R246). -/
inductive LinkWidth where
  | x8 | x4 | x2 | x1
  deriving DecidableEq, Repr, Inhabited
/-- What the host link has trained to: its rate, its width, and whether the partner supports Flit mode (R246). -/
structure LinkMode where
  rate  : LinkRate
  width : LinkWidth
  flit  : Bool
  deriving DecidableEq, Repr, Inhabited

/-- What the link trains to (R246): its rate and width, and Flit mode, follow from its partner. The argument numbers the
training. -/
opaque Config.linkTrained : Nat → LinkMode

/-- What the checker finds in a word of edge RAM as a tick takes up its timing set (R198, R341): 0 nothing, 1 a corrected error, 2
an uncorrectable one. The first argument numbers the take-up, the second is the word. -/
opaque Config.edgeMeet : Nat → Nat → Fin 3

/-- Whether a word of edge RAM in which the strainer finds an uncorrectable error belongs to the applied copy (R198),
else to the shadow copy: the spec does not place the copies. The argument numbers the find. -/
opaque Config.edgeCopy : Nat → Bool

/-- KZ_STAT.TEMP where the beta equation of R301 states no temperature: RNOM or BETA is 0, the divisor is not positive, or
the result lies outside the 16-bit field. The argument numbers the update. -/
opaque Config.kettleTemp : Nat → BitVec 16

/-- Temperature of node `i` of model A after an update (R364), from the nodes before it, the powers of the 40 domains in mW, and
THM_CFG: the spec gives a network without its coefficients. -/
opaque Config.nodeA : Nat → List (BitVec 16) → List (BitVec 16) → BitVec 32 → BitVec 16

/-- Place of node `i` of model A (R364): 0 to 3, pin die Qq and the core die under its clusters; 4, the DRAM stacks; 5, elsewhere. -/
opaque Config.placeA : Nat → Fin 6

/-- Temperature of node `i` of model B after an update (R365), from the nodes before it, the powers at the package supply entries, and
WL_TBND. -/
opaque Config.nodeB : Nat → List (BitVec 16) → List (BitVec 16) → BitVec 32 → BitVec 16

/-- What the warden's own monitors read at the package supply entries (R365). The argument numbers the update. -/
opaque Config.supplyB : Nat → List (BitVec 16)

/-- Output of model B for quadrant `q` from its six nodes (R365). -/
opaque Config.tempB : Nat → List (BitVec 16) → BitVec 16

/-- Page programs of a save (R389): the spec gives no page size of the card flash. -/
opaque Config.savePages : Nat

/-- Microword of the ROM of sequencer `x` (R391): its contents are no part of the spec (R396). -/
opaque Config.rom : Nat → Fin 12288 → BitVec 136

/-- Dispatch entry of an opcode in ROM (R395). -/
opaque Config.microEntry : Nat → Fin 12288

/-- Entry of the trap entry routine in ROM (R394). -/
opaque Config.trapRoutine : Fin 12288

/-- Whether the condition of a microword holds that no command reports (R394, R396). The arguments number the routine's run and the word
in it. -/
opaque Config.microCond : Nat → Nat → Bool

/-- Whether PF0's configuration space enables the report of an error that its AER registers log (R343): the host sets that enable by a
configuration write, for which the table has no row. The argument numbers the error. -/
opaque Config.errReport : Nat → Bool

/-- Whether a frame of the service port that ends in an error had fewer than the 8 bits of its first byte (R442), which its command does
not say. The argument numbers the frame. -/
opaque Config.shortFrame : Nat → Bool

/-- PWR_TOTAL where the domains' sum exceeds its 16 bits (R363). The argument numbers the report. -/
opaque Config.powerTotal : Nat → BitVec 16

/-- Which of its two conditions OVO_READY loses (R411: "the oven leaves its temperature or PLLB loses lock"): the oven's, else
PLLB's lock. The argument numbers the fall. -/
opaque Config.ovenLost : Nat → Bool

/-- Serial number of the part, from OTP (R248, Device Serial Number). -/
opaque Config.serial : BitVec 64

end Sys2Proof
end

