-- ==== Sys2Proof/Machine/State.lean ====
section
/-!
DEFINITION. The state of the JL5120 as plain data. Registers stand in images keyed by their byte offset (`reg` for PF0
BAR0, `sec` for PF1 BAR0, `win` for the service window), because software reads and writes them whole; an unlisted offset
reads as the register's reset value (Machine/RegMap.lean). What stands behind the registers has a record per unit.
All times are in CCLK (1.25 ns) since the last reset; times at the pins are in units of 0.5 ps ("half picoseconds", R188).
-/
namespace Sys2Proof.Machine

open Sys2Proof

/-- Mode of a sequencer, as SEQ_STAT.STATE codes it (R62). -/
inductive SeqMode where
  | halted | startPend | running | yielded
  deriving DecidableEq, Repr

/-- A word of instruction SRAM: the instruction and whether a fetch of it fails as uncorrectable (R58, R60). -/
structure SramWord where
  w   : Row
  bad : Bool
  deriving DecidableEq, Repr

/-- An instruction copy in progress, started by IDMA_CTL.GO or OVL (R59, R61). -/
structure Copy where
  row   : Nat
  dst   : Nat
  len   : Nat
  wait  : Nat            -- CCLK until the first word is written
  done  : Nat            -- words written so far
  deriving DecidableEq, Repr

/-- Where a run of vectors takes its rows (R72). -/
inductive VSrc where
  | mem (base : Nat) (stride : Nat)   -- row (base + k × stride) mod 2^32
  | one (row : Row)                   -- VECR: the row read once; `hold` of the job says whether it was poisoned
  | pot (p : Nat)                     -- VEC from a pot
  deriving DecidableEq, Repr

/-- The MLOOP part of a run of vectors (R94). -/
structure MLoop where
  gt     : Nat
  limit  : Nat
  base   : Nat
  cnt    : Nat
  pass   : Nat          -- pass being issued, from 1
  done   : Nat          -- passes resolved
  failed : List Nat     -- passes in which a counted compare failed
  ended  : List Nat     -- CCLK at which each unresolved pass leaves the pins, in order
  hit    : Bool         -- a pass has matched: what is issued of the present pass is emitted in full
  deriving DecidableEq, Repr

/-- A VEC, VECR or MLOOP that is issuing (R73, R74, R94). -/
structure Job where
  src     : VSrc
  k       : Nat          -- vectors issued so far
  left    : Nat          -- vectors still to issue (of this pass, for MLOOP)
  hold    : Bool         -- VECR of a poisoned row
  zeros   : Bool         -- VECR of a row answered NOTINIT
  avail   : List Arrive  -- rows that vector memory delivers before the next stall (R140), with what the checkers report
  stalled : Bool         -- stalled for want of a row (R140)
  once    : Bool         -- VECR: the row is read once (R74)
  ml      : Option MLoop
  deriving DecidableEq, Repr

/-- The record header's fields and body (R225); `steep` is the steep it belongs to (R40), `closing` marks a record of a
closing piece of a parked or fenced cluster (R239). -/
structure Rec where
  tsStart : BitVec 64
  tsEnd   : BitVec 64
  dead    : BitVec 24
  site    : BitVec 7
  segnum  : BitVec 20
  src     : BitVec 8
  decexp  : BitVec 4
  qid     : BitVec 20
  flags   : BitVec 16
  sthr    : BitVec 16
  body    : List Byte
  steep   : BitVec 64
  closing : Bool
  made    : Nat          -- place in its cluster's production order (R30)
  deriving DecidableEq, Repr

/-- What the instruction in progress of a sequencer waits for (R115 and the rules of each instruction). -/
inductive Wait where
  | none
  | issue (j : Job)
  | access (store : Bool) (rd : Nat) (row : Nat) (hi : Bool) (waited : Bool)
  | pend                -- the next instruction has begun and stalls on a pending register (R107)
  | ovl (row dst len : Nat)
  | ovlw
  | pour
  | jfw (sel neg : Bool) (site : Nat) (target : Nat)
  | evw (slots : BitVec 8) (all clr : Bool) (start : Nat) (tmo : Nat)
  | qpush (r : Rec)
  | regRead (rd : Nat) (off : Nat)
  | regWrite (off : Nat) (v : Word)
  | waitc (due : Nat)
  | cpx (row : Nat)
  | micro               -- a routine whose microwords have not reached END (R394)
  deriving DecidableEq, Repr

/-- One sequencer, SEQ0 to SEQ15 or SEQH (R55, R125). -/
structure SeqSt where
  mode     : SeqMode
  pc       : Nat                   -- index of the instruction executing, or of the next one (SEQ_STAT.PC)
  g        : Tbl Word              -- G0 to G15
  lc       : Tbl Word              -- LC0 to LC7
  stack    : List Nat              -- return indexes, top first, at most 16
  mtch     : Bool                  -- flag MATCH
  zero     : Bool
  carry    : Bool
  evt      : Bool
  siteFail : BitVec 128
  failNow  : Nat × BitVec 128      -- CCLK of the last fail, and the SITEFAIL bits set in it (R4)
  vmask    : BitVec 128
  cmask    : BitVec 128
  vUse     : BitVec 128            -- VMASK carried by vectors issued now (R47, R79)
  cUse     : BitVec 128            -- CMASK carried by vectors issued now
  useAt    : Option (Nat × BitVec 128 × BitVec 128)  -- CCLK in which masks took effect, with the masks before it (R31)
  due      : List (BitVec 64 × BitVec 128 × BitVec 128)  -- decisions not yet in effect: steep whose POUR_DONE each awaits, masks (R47)
  tset     : BitVec 8
  vcnt     : Word                  -- SEQ_VCNT
  pend     : List Nat              -- registers pending a MEAS result (R107)
  wait     : Wait
  readyAt  : Nat                   -- CCLK at which the next instruction may begin (R85, R121)
  stopReq  : Bool                  -- STOP written; halts at the next boundary
  abort    : Bool                  -- yielded by an underrun under ABORT (R143)
  snapS    : Word                  -- MFS snapshot of STEEP_NUM high (R83)
  snapT    : Word                  -- MFS snapshot of TSTAMP high
  fnSite   : Nat                   -- lowest site fenced since EV_LATCH.FN was last clear (R120)
  copy     : Option Copy
  loops    : List Nat              -- loops in progress, innermost first: LC k in the first pass, k + 8 after it (R131)
  locked   : List (Nat × Nat)      -- vector cache lines locked, with the loop that holds each: LC 0 to 7, 8 for MLOOP
  upc      : BitVec 14             -- microaddress of the next microword (R394), after the last routine that ran word by word
  ustack   : List (BitVec 14)      -- micro-stack, newest first, at most 4
  floor    : Nat                   -- CCLK before which the patched routine in progress does not end (R396)
  lockRows : Tbl Bool              -- rows read into the locked lines, and whether each was poisoned when it was read
  sram     : Tbl SramWord
  deriving DecidableEq, Repr

/-- A vector in the FIFO (R73, R75). -/
structure Vec where
  row    : Row
  hold   : Bool                    -- plays in place of a poisoned row (R133)
  tset   : BitVec 8
  steep  : BitVec 64
  num    : Nat                     -- number within its steep, counted as SEQ_VCNT
  vmask  : BitVec 128
  cmask  : BitVec 128
  masked : BitVec 128              -- sites whose MASK fail action covers it after POUR_DONE (R23)
  issued : Nat
  pass   : Nat                     -- MLOOP pass, 0 outside MLOOP
  last   : Bool                    -- last vector of its MLOOP pass
  deriving DecidableEq, Repr

/-- A MEAS from its issue to its result (R105, R106). -/
structure Meas where
  ch      : Nat
  rd      : Nat
  qid     : Option (BitVec 20)
  cur     : Bool
  n       : Nat
  set     : Nat
  steep   : BitVec 64
  due     : Nat                    -- CCLK at which settling ends
  sum     : Int
  count   : Nat                    -- samples converted
  samples : List Word              -- samples of the record being built, R215 format
  recNo   : Nat
  tsFirst : BitVec 64
  started : Nat                    -- CCLK at which the sample in conversion began to track
  lost    : Bool                   -- its result has been discarded (R107)
  deriving DecidableEq, Repr

/-- What a FIFO slot holds: a vector, or an entry that takes no pin time (R96). -/
inductive EKind where
  | vec (v : Vec)
  | range (mask : Word) (mode : BitVec 2) (ir : BitVec 3)
  | force (mask : Word) (code : BitVec 18)
  | meas (m : Meas)
  | capTrig
  | capArm (list : Nat) (step : BitVec 16)
  | capClose
  | capDisarm
  | evs (src : Nat)
  deriving DecidableEq, Repr

/-- One FIFO slot with the steep of its instruction (R40) and the CCLK of its issue. -/
structure Entry where
  kind   : EKind
  steep  : BitVec 64
  issued : Nat                     -- the instruction's last cycle, in which the entry enters the FIFO
  deriving DecidableEq, Repr

/-- A compare or raw sample that waits for its strobe (R99, R214). -/
structure Strobe where
  vid     : Nat                    -- vector, numbered per cluster
  ch      : Nat
  st      : BitVec 3               -- applied state after R69
  steep   : BitVec 64
  pass    : Nat
  counts  : Bool                   -- a counted compare (R94, R99)
  site    : Nat
  window  : Bool                   -- strobe mode of the timing set (R192)
  due     : Nat                    -- CCLK in which it resolves: the 16th after its strobe instant (R99)
  at4     : Nat                    -- CCLK that holds E4 and the one that holds E5 (R165, R214)
  at5     : Nat
  raw     : Bool                   -- it samples the RAW bits (R214)
  deriving DecidableEq, Repr

/-- One entry of a capture piece: a vector's fail and raw bits, or an ADC sample (R207, R213). -/
structure CapEntry where
  vid    : Nat
  fail   : Word
  raw    : BitVec 128
  sample : Option (Nat × Word)     -- channel index and R215 word
  tsEnd  : BitVec 64               -- end of the vector or of the conversion (R217)
  deriving DecidableEq, Repr

/-- A piece of a segment, open or closed and not yet filed (R207 to R211, R228). -/
structure Piece where
  list    : Nat
  step    : BitVec 16
  seg     : Nat
  num     : Nat
  cont    : Bool
  mode    : BitVec 2               -- data mode of the piece (FSUM when folded)
  d       : Nat
  fold    : Bool
  steep   : BitVec 64
  trig    : BitVec 8
  dead    : Nat
  gap     : Nat
  vstart  : Nat
  mask    : Word                   -- CAPL_CHMASK
  sites   : List (Nat × Word)      -- sites with captured channels, rising, each with its channels, as at the opening (R29)
  sthr    : BitVec 16              -- stretch code of the piece's steep (R51)
  made    : Nat                    -- place in the cluster's production order (R30)
  entries : List CapEntry          -- oldest first
  tsStart : BitVec 64
  tsEnd   : BitVec 64
  cause   : Nat
  trunc   : Bool
  fenced  : List (Nat × Nat)       -- sites fenced while open, with the entries they keep (R211)
  marked  : List Nat               -- sites fenced after the piece closed: their records carry FENCE (R25)
  filed   : List Nat               -- sites whose record has been offered
  cut     : List (Nat × Nat)       -- sites disabled since, each with the CCLK: no record is produced (R28)
  closing : Bool
  split   : Bool                   -- a governor split awaits the next entry of its steep (R208)
  deriving DecidableEq, Repr

/-- The open segment of an acquisition list (R206, R207). -/
structure Segment where
  num    : Nat
  count  : Nat                     -- entries counted
  pieces : Nat                     -- pieces opened so far
  deriving DecidableEq, Repr

/-- The capture engine of a cluster (R199 to R224). -/
structure CapSt where
  act      : Option Nat            -- list in a state other than IDLE
  step     : BitVec 16
  seg      : Option Segment
  piece    : Option Piece
  old      : Option Piece          -- in PMU mode, the piece of the ended steep that still takes samples (R209)
  closed   : List Piece            -- closed pieces, oldest first
  fired    : List (Nat × Nat)      -- slots fired while ARMED, with the point from which a vector may open (R205):
                                   -- a steep for TICK, a CCLK of issue for POUR_DONE, else a half picosecond
  closedAt : BitVec 64             -- TSTAMP of the last close
  dead     : Nat                   -- re-arm time of the next segment's first piece (R218)
  fill     : Nat                   -- bytes in the capture buffer
  pressAt  : Option Nat            -- CCLK of the last rise while pressure persists (R220)
  lowOk    : Bool                  -- the buffer stayed at or below LOW, no queue above (R221)
  dropping : Bool                  -- entries are being dropped (R224)
  oldD     : Nat × Bool            -- exponent and fold of pieces of the steep before the last tick (R221)
  truncAt  : List (BitVec 64 × BitVec 64)  -- steep and TSTAMP of a truncated piece's close, until a piece continues it (R224)
  lost     : List Nat              -- buffer words found with an uncorrectable error and not yet met (R341)
  deriving DecidableEq, Repr

/-- One cluster (R7) behind its registers. -/
structure CluSt where
  fifo     : List Entry            -- oldest first
  cur      : Option (Vec × Nat × Nat)  -- vector in progress at the pins, its start and its end (half picoseconds)
  lastEnd  : Nat                   -- end of the last vector's period, half picoseconds
  placed   : List (BitVec 64 × Nat)  -- per steep not yet committed, the last edge or strobe instant of its vectors (R41)
  made     : Nat                   -- records produced so far (R30)
  idle     : Bool                  -- the FIFO is empty at the pins (R71, R75)
  vids     : Nat                   -- vectors applied so far
  strobes  : List Strobe
  flags    : List (BitVec 64 × BitVec 16)   -- flags of the cluster per steep not yet committed (R227)
  poured   : List (BitVec 64)      -- ended steeps for which CPOUR_DONE has been reached (R42)
  gapAt    : Option Nat            -- CCLK at which an underrun in progress began (R141)
  chain    : Nat                   -- start of the chain of vectors in progress, half picoseconds (R188)
  parking  : Bool                  -- the park causes are being carried out (R155)
  cap      : CapSt
  settling : List Meas             -- MEAS entries applied and settling
  adc      : Tbl (List Meas)       -- per ADC, conversions in issue order (R106)
  out      : List Rec              -- MEAS records waiting to be filed
  bg       : Option (Nat × Bool × Nat)   -- background measurement: channel index, strobe path, start (R385)
  bgNext   : Nat                   -- next path in the order of R385
  vcLost   : List Nat              -- vector cache words found with an uncorrectable error and not yet met (R130)
  deriving DecidableEq, Repr

/-- A step of the driver (R158, R159): its instant in half picoseconds, whether it turns the driver on, the level it sets (0 VIL,
1 VIH, 2 VTT; none: with `on` the level it has, else off), and the steep of its vector. A step that does not turn the driver on
leaves one that is off. -/
structure DrvStep where
  at_   : Int
  on    : Bool
  lvl   : Option Nat
  steep : BitVec 64
  deriving DecidableEq, Repr

/-- One channel (R150 to R182) behind its registers. -/
structure ChanSt where
  prev    : BitVec 3               -- previous applied state (R70)
  base    : BitVec 3               -- state of the vector in progress without a pin action (R362)
  baseLvl : Option Nat             -- level of the driver without a pin action (R362), none: off
  baseSteps : List DrvStep         -- its steps to come
  lvl     : Option Nat             -- level of the driver: 0 VIL, 1 VIH, 2 VTT, none: off
  steps   : List DrvStep           -- its steps to come, oldest first (R159, R447)
  cfg     : Option Word            -- CH_DRVCFG of the last vector since the channel left park (R452)
  edges   : List (Int × Int)       -- coarse count N and fine tap f of E0 to E5 of the last vector (R191)
  transAt : Option Nat             -- half picosecond of the last level transition (R160)
  unkAt   : Option Nat × Option Nat  -- start of UNK of MH and ML (R168)
  moveEnd : Nat                    -- CCLK at which a RANGE transition has ended (R175)
  sides   : Tbl Cmp                -- per comparator, side of the HYST band of the input as last reported (R167)
  watch   : Tbl Cmp                -- CH and CL of a WAKE channel behind the open switch (R157)
  cmpLog  : List (Nat × Nat × Nat) -- changes of comparators: CCLK, comparator, code of the state before it (R165, R252)
  tapDrv  : Int
  tapStb  : Int
  tapCh   : Int
  tapCl   : Int
  tapOld  : Int × Int × Int × Int  -- drive, strobe, CH and CL taps of the steep before (R49)
  drvAt   : Option Nat             -- CCLK of the last background measurement of the drive path
  stbAt   : Option Nat
  deriving DecidableEq, Repr

/-- One site (R10) behind its registers. -/
structure SiteSt where
  heldEn    : Bool
  heldUnf   : Bool
  heldPwr   : Bool
  maskSteep : Option (BitVec 64)   -- steep of the MASK fail in effect (R23)
  down      : Bool                 -- a ramp-down runs (R295)
  stepAt    : Option Nat           -- CCLK in which the next rail group goes on (R294, R295)
  enAt      : Option (Nat × Bool)  -- CCLK in which EN changed, and what it was before (R31)
  pwrAt     : Option Nat           -- CCLK in which a power request was accepted (R31, R296)
  fencedAt  : Option Nat           -- CCLK in which the fence was applied (R31)
  maskAt    : Option (Nat × Option (BitVec 64))  -- CCLK of a MASK fail action, with `maskSteep` before it (R31)
  deriving DecidableEq, Repr

/-- One rail controller (R286 to R292) behind its registers. -/
structure RailSt where
  acc     : Nat                    -- setpoint × 800
  accAt   : Nat                    -- CCLK at which `acc` was taken
  target  : Nat                    -- target code of the ramp
  since   : Nat                    -- start of the state
  tolAt   : Option Nat             -- V within VTOL of VSET without a break since, in RAMPUP
  ilimAt  : Option Nat             -- current at ILIM without a break since
  ovNow   : Bool                   -- V was above VMAX in the last measurement (R290)
  ocDone  : Bool                   -- the current limit of `ilimAt` has tripped
  lowAt   : Option Nat             -- DISCH condition without a break since; in OFF, the CCLK of the discharge's end
  aLowAt  : Option Nat             -- RAIL_EN_A driven low at, until its read-back is low
  bLowAt  : Option Nat             -- RAIL_EN_B driven low at
  breq    : Bool                   -- request to the warden (R288)
  bgrant  : Bool                   -- RAIL_EN_B driven high by the warden
  wdis    : Bool                   -- the warden asserts RAIL_DIS
  viol    : Bool                   -- a warden violation since the request began
  reqSafe : Bool                   -- the request began in F4 or F5
  dtmo    : Bool                   -- the discharge in progress has timed out
  deriving DecidableEq, Repr

/-- One kettle zone (R300 to R304) behind its registers. -/
structure ZoneSt where
  i       : Int                    -- integrator, 1/65,536 of a code
  since   : Nat
  stopAt  : Option Nat             -- CCLK at which STOPPING drives KEN_A low
  ena     : Bool                   -- KEN_A driven high
  aLowAt  : Option Nat
  bLowAt  : Option Nat
  bgrant  : Bool                   -- KEN_B driven high by the warden
  viol    : Bool
  reqSafe : Bool
  deriving DecidableEq, Repr

/-- One entry of the history queue (R332). -/
structure Hist where
  ts : BitVec 64
  w2 : Word
  w3 : Word
  deriving DecidableEq, Repr

/-- One uncleared F2 (R321). -/
structure F2 where
  src  : BitVec 16
  done : Bool
  rep  : BitVec 8
  deriving DecidableEq, Repr

/-- The fault unit (R319 to R333) behind its registers. -/
structure FaultSt where
  hist   : Tbl Hist                -- slots 0 to 15
  order  : List Nat                -- slots in use, oldest first
  frozen : Option Nat              -- CCLK in which the queue froze (R331)
  f2     : Tbl F2                  -- entries 0 to 63
  f4     : Bool
  f5     : Bool
  f4At   : Nat
  swept  : Bool                    -- the 100 ms permit removal has run (R324)
  estop  : Bool                    -- filtered ESTOP_N is low
  deriving DecidableEq, Repr

/-- The four warden slices (R311 to R318) behind their registers. -/
structure WardSt where
  chCopy   : Tbl Word              -- the warden's copy of CHSITE (R313)
  railCopy : Tbl Word              -- the warden's copy of RAILSITE
  lim2     : Tbl Word              -- second copy of the limits, keyed as PF1 BAR0, that of WL_SITE by slice too (R330)
  err1     : BitVec 4              -- first copy of slice q's table holds an uncorrectable error
  err2     : BitVec 4
  was1     : BitVec 4              -- an earlier compare found such an error in the first copy
  was2     : BitVec 4
  alive    : BitVec 4
  safeAct  : Bool
  granting : Bool                  -- READY seen (R311)
  railV    : Tbl Int               -- last sense reading of each rail (R315)
  gates    : List (Nat × Bool)     -- gates in use: channel, HV (else I32) (R313)
  deriving DecidableEq, Repr

/-- A pulse that has reached event channel `ch` through producer `prod` in CCLK `at_`, with the EC_CFG that stands in that cycle (R351
to R357). -/
structure Pulse where
  ch   : Nat
  prod : Nat
  at_  : Nat
  hc   : Nat
  cfg  : Word
  deriving DecidableEq, Repr

/-- A source pulse that has not reached the event channels (R350, R351, R353): its hop count, the CCLK in which it does, and the
quadrant of a comparator's pulse, which then enters the channels of the other sections. -/
structure Transit where
  src  : Nat
  hc   : Nat
  at_  : Nat
  quad : Option Nat
  deriving DecidableEq, Repr

/-- The hold of a pin action (R362): its slot and the TCLK cycles in which it starts and ends; `on` says that the
override has started. -/
structure Hold where
  slot  : Nat
  start : Nat
  stop  : Nat
  on    : Bool
  deriving DecidableEq, Repr

/-- An implicit-fill slot (R147): its region and the lines filled or marked. -/
structure FillSlot where
  region : Nat
  lines  : List Nat
  deriving DecidableEq, Repr

/-- Vector memory (R126, R146 to R149, R342). -/
structure MemSt where
  cells  : List Host.Cell          -- bytes; an unlisted byte reads the fill pattern of its region or line
  pat    : Tbl Row                 -- pattern of the last explicit fill of a region (R148); 0 where there was none
  bad    : List Nat                -- poisoned rows, rising
  init   : List Nat                -- regions whose init bit is 1, rising
  slots  : List FillSlot           -- implicit-fill slots in use, oldest first
  fill   : Option (Nat × Nat)      -- explicit fill: next region, last region
  cur    : Option (Nat × Bool)     -- region the engine works on, and whether the explicit fill owns it
  pos    : Nat                     -- lines of that region that the engine has passed
  curPat : Row                     -- pattern of the explicit fill in that region
  deriving DecidableEq, Repr

/-- Instructions of the TAP (R480). -/
inductive TapInstr where
  | bypass | samplePreload | extest | extestPulse | extestTrain | idcode
  deriving DecidableEq, Repr

/-- The instruction lets boundary cells drive. -/
def TapInstr.drives : TapInstr → Bool
  | .extest | .extestPulse | .extestTrain => true
  | _ => false

/-- An error that PF0 logs in its AER registers (R343, R344): Poisoned Egress of a read, or Completer Abort of a posted write with its
request header, row address, byte enables and length in dwords; and whether ERR_NONFATAL was sent. -/
structure Aer where
  poison : Bool
  row    : Nat
  be     : BitVec 8
  dwords : Nat
  sent   : Bool
  deriving DecidableEq, Repr

/-- A record in the holdover area (R237) and the units of 32 B of the area that hold it, in order. -/
structure Held where
  rcd   : Rec
  units : List Nat
  deriving DecidableEq, Repr

/-- A placed record that has not committed (R237, R238): queue, ring index, record. -/
structure Staged where
  qid : Nat
  idx : Nat
  rcd : Rec
  deriving DecidableEq, Repr

/-- Queue manager and host side (R230 to R249). -/
structure QmSt where
  staged   : List Staged
  hold     : List Held             -- holdover area, in order of acceptance
  dcLost   : List Nat              -- descriptor cache words found with an uncorrectable error and not yet met (R341)
  badSeen  : List Nat              -- queues whose descriptor error has raised its F2 (R234)
  moving   : Bool
  link     : Bool
  mode     : Option LinkMode       -- what the link has trained to, while it is up (R246)
  bme      : Bool
  perst    : Bool                  -- PERST_N is low (R422)
  hostMem  : List Host.Cell        -- bytes written by DMA and write-back
  msix     : List (Bool × BitVec 11)   -- MSI-X messages sent: PF1?, vector; newest last
  msixPend : List (Bool × BitVec 11)   -- messages pending while the link is down
  sentNow  : List (Bool × BitVec 11)   -- messages sent in the present CCLK (R250)
  aer      : List Aer              -- what PF0's AER registers have logged
  order    : Tbl (List Nat)        -- per DMA engine, queues waiting in commit order
  siteFlags : List (BitVec 64 × Nat × BitVec 16)  -- flags of a site's records per steep not yet committed (R227)
  allFlags : List (BitVec 64 × BitVec 16)  -- flags of every record of a steep not yet committed (R227)
  deriving DecidableEq, Repr

/-- An edge that a TIU has timed (R253, R257): its TCLK cycle and bin, the path delay in fs that is subtracted from it, and whether
its comparator ran in M2 or M3. -/
structure TiuTime where
  tclk  : Nat
  bin   : BitVec 8
  delay : Int
  slow  : Bool
  deriving DecidableEq, Repr

/-- One time-interval unit (R252 to R270) behind its registers. -/
structure TiuSt where
  armed   : Bool
  started : Bool
  start   : TiuTime                -- the edge that fired the start
  preA    : Nat                    -- start prescaler count
  preB    : Nat                    -- stop prescaler count
  stops   : Nat                    -- prescaled stop edges counted
  latest  : List TiuTime           -- the two latest stop edges before the start, newest first (R260)
  lastA   : Option TiuTime         -- last prescaled edge of each path (R255)
  lastB   : Option TiuTime
  fallA   : Option Nat             -- CCLK in which the event channel of the start path goes low again (R252)
  fallB   : Option Nat
  fenced  : Bool                   -- the record's site was fenced while it waits in FILING (R25)
  fastNow : Bool                   -- FASTIN in the shot in progress
  sum     : Int
  sumsq   : Int
  fast    : Bool
  slow    : Bool
  sdsat   : Bool
  ovr     : Bool
  tbloss  : Bool
  tsFirst : Option (BitVec 64)
  tsLast  : BitVec 64
  rearm   : Nat                    -- CCLK at which the next shot is armed
  ending  : Option (Nat × Int × Bool)  -- the last shot of the run, completed in the present CCLK: stop, value, UNDER (R264)
  tab     : Tbl Nat                -- applied bin table
  cd      : Option (Tbl Nat)       -- last valid code-density table
  runTab  : Tbl Nat                -- table of the run
  runSrc  : Bool                   -- BINSRC of the run
  tabSrc  : Bool                   -- source of the applied table
  deriving DecidableEq, Repr

/-- One waveform engine (R271 to R280) behind its registers. -/
structure WeSt where
  phase  : Nat                     -- phase accumulator, 24 fraction bits; its whole part counts samples to take
  idx    : Nat                     -- stored sample within the play
  play   : Nat
  potRow : Tbl (Row × Bool)        -- per pot, the row whose second half is next, and whether it is bad
  memRow : Option (Nat × Row × Bool) -- row of a memory segment read last: its number, data, and whether it is bad
  hist   : List (BitVec 18)        -- stored samples, newest first (at most 17)
  jump   : Bool
  stop   : Bool
  nextAt : Nat
  out    : BitVec 18
  start  : Option Nat              -- CCLK at which the start condition of an armed engine occurred (R277)
  deriving DecidableEq, Repr

/-- Multi-part alignment (R281 to R284). -/
structure SyncSt where
  send     : Bool
  samples  : List Int              -- unwrapped phases of a measurement, half picoseconds
  left     : Nat                   -- pulses still accepted
  lastAt   : Option Nat            -- TCLK cycle that the last SYNC instant begins
  corrNew  : Option Int            -- SK_CORR to take effect at the next tick
  corr     : Int                   -- SK_CORR in effect
  fresh    : Bool                  -- measured since the last PLLA lock
  loadAt   : Option Nat            -- CCLK of the SYNC instant of an accepted re-phase that has not come
  rephase  : Option (BitVec 64)    -- steep number that the next tick begins
  grid     : Nat                   -- TCLK cycles, modulo 4, by which re-phases have moved the CCLK edges (R283)
  out      : Nat                   -- pulses launched on SYNC_OUT
  outAt    : Option Nat            -- CCLK in which the last one was launched
  deriving DecidableEq, Repr

/-- A read's answer, per party. -/
inductive ReadOut where
  | none | data (v : Word) | pair (lo hi : Word) | abort | unsupported
  deriving DecidableEq, Repr

/-- The card flash image header (R432). -/
structure Hdr where
  entry   : Nat
  cstart  : Nat
  cend    : Nat
  crcbase : Nat
  calA    : Nat
  calB    : Nat
  patch   : Nat
  deriving DecidableEq, Repr

/-- A transfer that a CPX has started (R438): the descriptor's row and device, whether it writes and polls, whether its poll
timed out, its length and its first buffer row. -/
structure Xfer where
  row   : Nat
  dev   : Nat
  write : Bool
  poll  : Bool
  tmo   : Bool
  ended : Bool                     -- its poll has ended
  len   : Nat
  buf   : Nat
  w0    : Word                     -- W0 of its descriptor
  deriving DecidableEq, Repr

/-- What a poll of a device belongs to (R437): the CPX that runs, a save, or a program or erase whose CPX has retired. -/
inductive PollFor where
  | cpx | save | past
  deriving DecidableEq, Repr

/-- A program or erase that is polled (R437): its device, the CCLK in which it has taken 5 ms, known from its first poll on, and the CCLK
from which the next poll may run. -/
structure Poll where
  dev   : Nat
  what  : PollFor
  limit : Option Nat
  next  : Nat
  deriving DecidableEq, Repr

/-- A save that runs (R389): whether the target is copy B, its SEQ, the programs and erases left, and whether one runs. -/
structure Save where
  toB  : Bool
  seq  : Word
  left : Nat
  busy : Bool
  deriving DecidableEq, Repr

/-- A patch load that runs (R405): from vector memory or card flash, whether pass 1 has ended, and what pass 1 reads from card flash
where its command carried it. -/
structure Load where
  mem    : Bool
  second : Bool
  image  : Option FlashRead
  deriving DecidableEq, Repr

/-- Card port (R432 to R439). -/
structure CpSt where
  hdr   : Option Hdr
  lines : List (Nat × List Row)    -- prefetch lines: line number and 32 instructions, most recently used first
  bad   : List Nat                 -- lines marked bad
  retry : List Nat                 -- lines whose first CRC check failed
  want  : Option Nat               -- next sequential line to prefetch
  xfer  : Option Xfer              -- CPX transfer running
  xip   : Word × Word              -- CP_XIP and CP_DEV[0] in use for continuous reads
  polls : List Poll                -- programs and erases that are polled
  deriving DecidableEq, Repr

/-- Service port (R440 to R444): the indirect access in progress. -/
structure SpSt where
  busy  : Option (Bool × Bool × Nat × Word)  -- write?, PF1 space?, offset, data
  start : Nat
  deriving DecidableEq, Repr

/-- Microcode stores (R391 to R405) behind their registers. -/
structure McSt where
  caddy  : Tbl (BitVec 136)        -- word 512 × x + i of sequencer x
  ue     : List Nat                -- caddy words with an uncorrectable error
  romBad : List (Nat × Nat)        -- bad ROM words: sequencer, microaddress
  load   : Option Load             -- patch load in progress
  deriving DecidableEq, Repr

/-- Clocks (R406 to R417) behind their registers. -/
structure ClkSt where
  lockAt   : Option Nat            -- start of a PLLA lock
  relockAt : Option Nat            -- start of the recalibration after relock
  delay    : Tbl Nat               -- delay in force per output, when moved away from its register
  stepAt   : Tbl Nat               -- CCLK from which the delay of an output may move again
  warm     : Nat                   -- CCLK since VDD_OVO was applied, up to the last reset (PLLB_STAT.WARM)
  deriving DecidableEq, Repr

/-- Reset and power-up (R418 to R423). -/
structure RstSt where
  held    : Bool                   -- a cold or full reset is asserted
  cold    : Bool                   -- PORST_N, or a supply monitor, asserts it
  low     : Bool                   -- RST_N is low
  ready   : Bool
  safeUp  : Bool
  relAt   : Nat                    -- CCLK of the release
  boot    : Option Boot            -- what power-up met
  loaded  : Bool                   -- steps 2 to 5 have run
  safeReq : Bool                   -- SAFE requested by the service port before READY
  reqAt   : Option (Nat × BitVec 3)  -- requested full reset: CCLK and cause
  deriving DecidableEq, Repr

/-- Calibration (R375 to R390) behind its registers. -/
structure CalSt where
  utab  : Tbl (BitVec 16)          -- live user table, shadow
  utabA : Tbl (BitVec 16)          -- live user table, applied
  utabP : Tbl (BitVec 16)          -- live user table as applied in the steep before (R49)
  save  : Option Save              -- save in progress
  nomF  : List Nat                 -- OTP words of 32 bits whose factory items are nominal (R378)
  tg    : Tbl Int                  -- TG of each quadrant as sampled at the last tick (R367, R382)
  tgP   : Tbl Int                  -- TG as sampled at the tick before (R49)
  deriving DecidableEq, Repr

/-- The steep (R35 to R45) behind its registers. -/
structure SteepSt where
  num      : BitVec 64             -- STEEP_NUM
  tickLeft : Nat                   -- CCLK until the next tick
  lastTick : Nat                   -- CCLK of the last tick
  lp       : Nat                   -- pour limit of the steep that ended last (R43)
  ended    : List (BitVec 64 × Nat)  -- steeps that ended and have not committed, oldest first, with the CCLK of the end
  limitOn  : Bool                  -- the pour limit of the last ended steep has not expired
  hb       : Bool
  hbAt     : Nat
  deriving DecidableEq, Repr

/-- A setting stored in the present CCLK: what the shadow copy held before it, whether it was pending, and whether its
edge RAM entry was in error (R50). -/
structure Late where
  off   : Nat
  old   : Word
  dirty : Bool
  bad   : Bool
  deriving DecidableEq, Repr

/-- A register that the part changed in the present CCLK: its value before, and what those changes make of a register
that held 0 (R4). -/
structure Mark where
  off : Nat
  was : Word
  new : Word
  deriving DecidableEq, Repr

/-- The machine: registers, the units behind them, and the queue of waiting commands. -/
structure State where
  /-- The commands that wait, first in, first out. -/
  pending  : List Instr
  /-- CCLK since the last reset (nominal: 2 per bypass cycle, R413). -/
  now      : Nat
  /-- TSTAMP (R6). -/
  tstamp   : BitVec 64
  /-- PF0 BAR0 registers by offset (R456). -/
  reg      : Tbl Word
  /-- PF1 BAR0 registers by offset. -/
  sec      : Tbl Word
  /-- Service window registers by window address (R441). -/
  win      : Tbl Word
  /-- Applied values of the settings of R49 in the steep in progress. -/
  app      : Tbl Word
  /-- Applied values in the steep before it (R49: two sets live in the pour window). -/
  appPrev  : Tbl Word
  /-- Settings of R49 written since the last take-up, by offset (R50). -/
  dirty    : List Nat
  /-- Settings stored in the present CCLK, with what the shadow copy held before it (R50). -/
  late     : List Late
  /-- Edge RAM, shadow: entry 65,536 × c + INDEX (R185). -/
  edge     : Tbl Word
  edgeApp  : Tbl Word
  edgePrev : Tbl Word
  /-- Edge RAM entries with an uncorrectable error, shadow and applied copy (R198). -/
  edgeBad  : List Nat
  edgeLost : List Nat
  /-- Those of the applied copy of the steep before. -/
  edgeGone : List Nat
  /-- Snapshot register of each party: tag and high word (R462). -/
  snap     : Tbl (Nat × Word)
  /-- The answer to each party's last read. -/
  rdata    : Tbl ReadOut
  /-- Data of the last PF0 BAR2 read: row, data, Poisoned bit (R341). -/
  bar2     : Option (Nat × Row × Bool)
  /-- Register writes stored in the present CCLK: party rank and register key (R33). -/
  wrote    : List (Nat × Nat)
  /-- Registers that the part changed in the present CCLK (R4). -/
  marks    : List Mark
  /-- RC registers that also show units, as they read at the start of the present CCLK (R461). -/
  pre      : List (Nat × Word)
  /-- Registers of the site map and of event channels written in the present CCLK, with their old values (R14, R351). -/
  regOld   : List (Nat × Word)
  /-- Commands of the present CCLK that wait for others of it (R33, R38). -/
  behind   : List Instr
  /-- Event channels that passed a pulse in the present CCLK; it reaches their consumers in the next (R352). -/
  reach    : List Nat
  /-- Instruction register of the boundary-scan TAP (R480). -/
  tap      : TapInstr
  /-- What the requests admitted in the present CCLK add to the admitted sum, in quarters of a microwatt (R34, R374). -/
  admNow   : Nat
  /-- Writes that wait for an implicit-fill slot, and their parties' accesses behind them (R147, R463). -/
  held     : List Instr
  /-- Those of them that are tried again in the present CCLK. -/
  retried  : List Instr
  steep    : SteepSt
  seq      : Tbl SeqSt
  clu      : Tbl CluSt
  chan     : Tbl ChanSt
  site     : Tbl SiteSt
  rail     : Tbl RailSt
  zone     : Tbl ZoneSt
  /-- Output code in force of each aux output (R297). -/
  auxOut   : Tbl (BitVec 18)
  /-- Aux outputs on which a clamp acts (R297). -/
  auxClamps : List Nat
  /-- CCLK at which CONTACT was seen high (R306). -/
  contactAt : Option Nat
  fault    : FaultSt
  ward     : WardSt
  pulses   : List Pulse
  transit  : List Transit
  /-- Pin-action holds (R362). -/
  holds    : List Hold
  mem      : MemSt
  /-- Published pot rows that software rewrote, with their old contents (R138). -/
  potOld   : Tbl Row
  /-- Strainer: next word per memory, and CCLK of the start of its lap, from its first word on (R345). -/
  strain   : Tbl (Nat × Option Nat)
  /-- CCLK of the last leak per memory (R346). -/
  leakAt   : Tbl Nat
  /-- Memories whose bucket has raised its F1 and not returned to 0 (R346). -/
  disarmed : List Nat
  qm       : QmSt
  tiu      : Tbl TiuSt
  we       : Tbl WeSt
  sync     : SyncSt
  /-- The 96 nodes of model A (R364). -/
  nodesA   : List (BitVec 16)
  /-- The 24 nodes of model B, six per quadrant (R365). -/
  nodesB   : List (BitVec 16)
  /-- Consecutive model B updates that differ, and that agree, per quadrant (R366). -/
  diffRun  : Tbl (Nat × Nat)
  cal      : CalSt
  mc       : McSt
  clk      : ClkSt
  rst      : RstSt
  cp       : CpSt
  spp      : SpSt
  /-- The model's own counter of free values: nothing rests on its value. -/
  freeCtr  : Nat
  deriving DecidableEq, Repr

/-- Reasons the machine stops with a fault. No rule of the spec stops the part, so no meaning answers one; the
constructor keeps the interface's type inhabited. -/
inductive Fault where
  /-- Raised by nobody: every effect of the spec is a next state. Safe. -/
  | unreachable
  deriving DecidableEq, Repr

/-- Reasons a command is refused. -/
inductive Refusal where
  /-- Raised by `exec` for a row without a meaning: the machine stops where the part goes on. Safe. -/
  | notModelled (mnemonic : String)
  deriving DecidableEq, Repr

/-- A sequencer after reset (R56): all 0, both masks all ones. -/
def SeqSt.reset : SeqSt :=
  { mode := .halted, pc := 0, g := [], lc := [], stack := [], mtch := false, zero := false, carry := false,
    evt := false, siteFail := 0, failNow := (0, 0), vmask := BitVec.allOnes 128, cmask := BitVec.allOnes 128,
    vUse := BitVec.allOnes 128, cUse := BitVec.allOnes 128, useAt := none, due := [], tset := 0, vcnt := 0, pend := [],
    wait := .none, readyAt := 0, stopReq := false, abort := false, snapS := 0, snapT := 0, fnSite := 0, copy := none,
    loops := [], locked := [], upc := 0, ustack := [], floor := 0, lockRows := [],
    sram := [] }

/-- A capture engine after reset: every list IDLE (R200). -/
def CapSt.reset : CapSt :=
  { act := none, step := 0, seg := none, piece := none, old := none, closed := [], fired := [], closedAt := 0, dead := 0,
    fill := 0, pressAt := none, lowOk := true, dropping := false, oldD := (0, false), truncAt := [],
    lost := [] }

/-- A cluster after reset: FIFO empty, pins idle. -/
def CluSt.reset : CluSt :=
  { fifo := [], cur := none, lastEnd := 0, placed := [], made := 0, idle := true, vids := 0, strobes := [], flags := [], poured := [],
    gapAt := none, chain := 0, parking := false, cap := .reset, settling := [], adc := [],
    out := [], bg := none, bgNext := 0, vcLost := [] }

/-- A channel after reset: previous applied state Z (R70), driver off (R152). -/
def ChanSt.reset : ChanSt :=
  { prev := 0b010, base := 0b010, baseLvl := none, baseSteps := [], lvl := none, steps := [], cfg := none,
    edges := [], transAt := none,
    unkAt := (none, none), moveEnd := 0, sides := [], watch := [], cmpLog := [], tapDrv := 0, tapStb := 0, tapCh := 0,
    tapCl := 0, tapOld := (0, 0, 0, 0), drvAt := none,
    stbAt := none }

/-- A site after reset. -/
def SiteSt.reset : SiteSt :=
  { heldEn := false, heldUnf := false, heldPwr := false, maskSteep := none, down := false, stepAt := none,
    enAt := none, pwrAt := none,
    fencedAt := none, maskAt := none }

/-- A rail after reset: OFF, setpoint 0 (R288). -/
def RailSt.reset : RailSt :=
  { acc := 0, accAt := 0, target := 0, since := 0, tolAt := none, ilimAt := none, ovNow := false, ocDone := false, lowAt := none,
    aLowAt := none,
    bLowAt := none, breq := false, bgrant := false, wdis := false, viol := false, reqSafe := false,
    dtmo := false }

/-- A kettle zone after reset: OFF, i = 0 (R302). -/
def ZoneSt.reset : ZoneSt :=
  { i := 0, since := 0, stopAt := none, ena := false, aLowAt := none, bLowAt := none, bgrant := false, viol := false,
    reqSafe := false }

/-- A TIU after reset: IDLE. -/
def TiuSt.reset : TiuSt :=
  { armed := false, started := false, start := { tclk := 0, bin := 0, delay := 0, slow := false }, preA := 0, preB := 0, stops := 0, latest := [],
    lastA := none, lastB := none, fallA := none, fallB := none, fenced := false, fastNow := false, sum := 0, sumsq := 0,
    fast := false, slow := false, sdsat := false,
    ovr := false, tbloss := false, tsFirst := none, tsLast := 0, rearm := 0, ending := none, tab := [], cd := none, runTab := [],
    runSrc := false, tabSrc := false }

/-- A waveform engine after reset: IDLE. -/
def WeSt.reset : WeSt :=
  { phase := 0, idx := 0, play := 0, potRow := [], memRow := none, hist := [], jump := false, stop := false, nextAt := 0, out := 0,
    start := none }

/-- The machine right after a cold reset, with the reset still asserted (R418, R423): every register at its reset value,
memory with nothing listed, no command waiting. -/
def State.reset : State :=
  { pending := [], now := 0, tstamp := 0, reg := [], sec := [], win := [], app := [], appPrev := [],
    dirty := [], late := [], edge := [], edgeApp := [], edgePrev := [], edgeBad := [], edgeLost := [], edgeGone := [], snap := [], rdata := [], bar2 := none,
    wrote := [], marks := [], pre := [], regOld := [], behind := [], reach := [], tap := .idcode, admNow := 0, held := [],
    retried := [],
    steep := { num := 0, tickLeft := 0, lastTick := 0, lp := 0, ended := [], limitOn := false, hb := false, hbAt := 0 },
    seq := [], clu := [], chan := [], site := [], rail := [], zone := [], auxOut := [], auxClamps := [], contactAt := none,
    fault := { hist := [], order := [], frozen := none, f2 := [], f4 := false, f5 := false, f4At := 0, swept := false,
               estop := false },
    ward := { chCopy := [], railCopy := [], lim2 := [], err1 := 0, err2 := 0, was1 := 0, was2 := 0, alive := 0,
              safeAct := false, granting := false, railV := [], gates := [] },
    pulses := [], transit := [], holds := [],
    mem := { cells := [], pat := [], bad := [], init := [], slots := [], fill := none, cur := none, pos := 0, curPat := 0 },
    potOld := [], strain := [], leakAt := [], disarmed := [],
    qm := { staged := [], hold := [], dcLost := [], badSeen := [], moving := false, link := false, mode := none, bme := false,
            perst := false, hostMem := [], msix := [], msixPend := [], sentNow := [], aer := [], order := [], siteFlags := [], allFlags := [] },
    tiu := [], we := [],
    sync := { send := false, samples := [], left := 0, lastAt := none, grid := 0, outAt := none, corrNew := none,
              corr := 0, fresh := false, loadAt := none, rephase := none, out := 0 },
    nodesA := List.replicate 96 1120, nodesB := List.replicate 24 1120, diffRun := [],
    cal := { utab := [], utabA := [], utabP := [], save := none, nomF := [], tg := [], tgP := [] },
    mc := { caddy := [], ue := [], romBad := [], load := none },
    clk := { lockAt := none, relockAt := none, delay := [], stepAt := [], warm := 0 },
    rst := { held := true, cold := true, low := false, ready := false, safeUp := false, relAt := 0, boot := none, loaded := false, safeReq := false, reqAt := none },
    cp := { hdr := none, lines := [], bad := [], retry := [], want := none, xfer := none, xip := (0, 0), polls := [] },
    spp := { busy := none, start := 0 },
    freeCtr := 0 }

end Sys2Proof.Machine
end

