-- ==== Sys2Proof/Machine/Bits.lean ====
section
/-!
DEFINITION. Bits and fields of registers: the field of a word as a number, a word with a field replaced, one flag,
counters that saturate, and two's complement fields (R6).
-/
namespace Sys2Proof.Machine

/-- Bits [lo+len-1:lo] of a word, as a number. -/
def fld (w : Word) (lo len : Nat) : Nat := (w.toNat >>> lo) % 2 ^ len

/-- The word with bits [lo+len-1:lo] replaced by `v` modulo 2^len. -/
def setFld (w : Word) (lo len v : Nat) : Word :=
  (w &&& ~~~(BitVec.ofNat 32 ((2 ^ len - 1) <<< lo))) ||| BitVec.ofNat 32 ((v % 2 ^ len) <<< lo)

/-- Bit `i` of a word. -/
def flag (w : Word) (i : Nat) : Bool := w.getLsbD i

/-- The word with bit `i` set to `b`. -/
def setFlag (w : Word) (i : Nat) (b : Bool) : Word := setFld w i 1 (if b then 1 else 0)

/-- Adds `n` to the counter in bits [lo+len-1:lo], saturating at all ones. -/
def satAdd (w : Word) (lo len n : Nat) : Word := setFld w lo len (min (2 ^ len - 1) (fld w lo len + n))

/-- The signed value of a two's complement field of `len` bits. -/
def signed (len v : Nat) : Int :=
  if v % 2 ^ len < 2 ^ (len - 1) then (v % 2 ^ len : Nat) else ((v % 2 ^ len : Nat) : Int) - (2 ^ len : Nat)

/-- The two's complement field of `len` bits of an integer. -/
def unsigned (len : Nat) (v : Int) : Nat := (v % ((2 ^ len : Nat) : Int)).toNat

/-- The nearest number within bounds. -/
def clampI (lo hi v : Int) : Int := max lo (min hi v)

/-- The nearest number within bounds. -/
def clampN (lo hi v : Nat) : Nat := max lo (min hi v)

/-- Bit `i` of a number. -/
def nbit (v i : Nat) : Bool := v.testBit i

/-- The indexes below `n` that satisfy `p`, rising. -/
def idxs (n : Nat) (p : Nat → Bool) : List Nat := (List.range n).filter p

/-- The mask with a bit for every listed index. -/
def maskOf (n : Nat) (l : List Nat) : BitVec n := l.foldl (fun m i => m ||| (BitVec.ofNat n 1 <<< i)) 0

/-- Puts a number into a rising list that does not hold it. -/
def insN (k : Nat) : List Nat → List Nat
  | [] => [k]
  | i :: t => if k < i then k :: i :: t else if k = i then i :: t else i :: insN k t

/-- Smallest multiple of `m` that is not below `v`. -/
def roundUp (m v : Nat) : Nat := (v + (m - 1)) / m * m

/-- Division rounded to the nearest, ties away from zero. -/
def roundDiv (a : Int) (b : Nat) : Int :=
  let m := (2 * a.natAbs + b) / (2 * b)
  if a < 0 then -(m : Int) else m

end Sys2Proof.Machine
end

