-- ==== Sys2Proof/Machine/RegMap.lean ====
section
/-!
DEFINITION. The register map (R456, and the register tables of each chapter): every register's name, place, reset value
and the access of its bits (R2). A row's places are its base plus index times stride in each of its dimensions, the
largest stride first. Bits that no mask lists are RO or reserved.
-/
namespace Sys2Proof.Machine

/-- The registers by name, in the order of the chapters. -/
inductive RegId where
  | chsite | railsite | auxsite | mapStat | siteCtl | siteStat | siteClmask | siteCnt | wrlostA | wrlostB
  | steep | pourCtl | steepStat | pourLast | steepNumLo | steepNumHi | clSteep | clSteepstat | seqCtl | seqStat
  | seqStart | seqVcnt | seqG | seqLc | idmaSrc | idmaDst | idmaLen | idmaCtl | idmaStat | tsSmap | clMapsel
  | msixTab | msixPba0 | msixPba1
  | seqHalt | clPmustat | evSel | evLatch | intCtl | trapCtl | trapStat | trapPc | trapInfo | trapCnt | seqhCtl
  | seqhStat | seqhStart | clVcstat | clPoison | potCfg | potBase | potWr | potRd | potWm | potStat | potUcnt
  | clUnderrunCtl | clUnderrunStat | clUnderrunGap | vmFillBase | vmFillLen | vmFillPatLo | vmFillPatHi
  | vmFillCtl | vmFillStat | vmTrk | vmNotinit | vmInit | clPark | clClamp | chVih | chVil | chVtt | chIol
  | chIoh | chVcom | chVoh | chVol | chMht | chMlt | chIlim | chVclh | chVcll | chDrvcfg | chCmpcfg | chMoncfg
  | chCmpstat | chPmustat | chStat | tsPeriod | tsCtl | tsEaddr | tsEdata | clStretch | tsErr | caplCfg
  | caplLen | caplChmask | caplTrg | caplStat | caplCnt | capGov | capGovstat | capBuf | caplRoute | qmHoldBase
  | qmHoldLen | qmHoldStat | qmStat | qmStat2 | qdSel | qdW | qheadAdv | dmaStat | dmaErrq | dmaErraddrLo
  | dmaErraddrHi | irqmap | tiuCfg | tiuStart | tiuStop | tiuN | tiuWin | tiuRoute | tiuCmd | tiuStat
  | tiuCount | tiuUnder | tiuLast | tiuMean | tiuMin | tiuMax | tiuSdev | tiuCalctl | tiuCalstat | tiuTbstat
  | tiuBin | weCfg | weTgt | weChmask | weRate | weStep | weCtl | weStat | weCnt | weSega | weSegb | syncCfg
  | syncCmd | syncStat | syncTsLo | syncTsHi | syncSteepLo | syncSteepHi | skCfg | skStat | railVset | railVmax
  | railIlim | railRamp | railCfg | railTime | railStat | railV | railI | sitePwr | kzCtl | kzPi | kzOut
  | kzMan | kzTh | kzTmax | kzStat | kzU | auxCfg | auxCode | auxStat | tdSettle | tdStat | tdCnt | fuStat
  | fuCnt | fuF2clr | fuSafereq | fuHstat | fuHclr | fuHist | fuF2tab | wlRvmax | wlRimax | wlZone | wlSite
  | wdStat | wdViol | wdF5 | pirqmap | miCfg | miStat | miAddr | miLap | miPwstat | miOtpbad | ecCfg | ecProd
  | ecCnt | evflag | evStat | evSw | evpaCfg | evpaHold | thmCfg | thrCtl | admCtl | admStat | thmTa | thmTb
  | thmQstat | thmChip | thmStat | pwrDom | pwrTotal | wlTbnd | calCtl | calStat | calSeq | calUaddr | calFaddr
  | calUdata | calFdata | calSave | calAge | calCstat | mcver | mccrc | mcLstat | mcRombad | mcErr | mcErrpc
  | mcMatch | mcCsel | mcCdata | mcpSrc | mcpRow | mcpCtl | clkStat | clkOut | pllbStat | rstStat | rstTime
  | rstReq | cpDev | cpXip | cpFlash | cpStat | spErr | cpCfg | spId | spHealth | spCmd | spPtr | spData
  | spStat | spCfg | spIrq | p1wPtr | p1wData | id | tstampLo | tstampHi | regErr
  deriving DecidableEq, Repr

/-- One register of the map: its place and the masks of its RW, W1C, RC and WO bits. -/
structure RegRow where
  id   : RegId
  base : Nat
  dims : List (Nat × Nat)
  rw   : Nat
  w1c  : Nat
  rc   : Nat
  wo   : Nat
  deriving DecidableEq, Repr

/-- Registers of PF0 BAR0, part 1. -/
def pf0Rows0 : List RegRow :=
  [⟨.chsite, 0x1000000, [(0x4, 512)], 0x8000037f, 0x0, 0x0, 0x0⟩,
   ⟨.railsite, 0x1000800, [(0x4, 64)], 0x8000077f, 0x0, 0x0, 0x0⟩,
   ⟨.auxsite, 0x1000900, [(0x4, 16)], 0x8000007f, 0x0, 0x0, 0x0⟩,
   ⟨.mapStat, 0x1000a00, [], 0x0, 0x0, 0xffff, 0x0⟩,
   ⟨.siteCtl, 0x1001000, [(0x10, 128)], 0x80000003, 0x0, 0x0, 0x0⟩,
   ⟨.siteStat, 0x1001004, [(0x10, 128)], 0x0, 0x80000000, 0x0, 0x0⟩,
   ⟨.siteClmask, 0x1001008, [(0x10, 128)], 0x0, 0x0, 0x0, 0x0⟩,
   ⟨.siteCnt, 0x100100c, [(0x10, 128)], 0x0, 0x0, 0x0, 0x0⟩,
   ⟨.wrlostA, 0x100, [], 0x0, 0x0, 0xffffffff, 0x0⟩,
   ⟨.wrlostB, 0x104, [], 0x0, 0xffff, 0xffff0000, 0x0⟩,
   ⟨.steep, 0x10, [], 0xffffff, 0x0, 0x0, 0x0⟩,
   ⟨.pourCtl, 0x14, [], 0x3f, 0x0, 0x0, 0x0⟩,
   ⟨.steepStat, 0x18, [], 0x0, 0x0, 0x0, 0x0⟩,
   ⟨.pourLast, 0x1c, [], 0x0, 0x0, 0x0, 0x0⟩,
   ⟨.steepNumLo, 0x20, [], 0x0, 0x0, 0x0, 0x0⟩,
   ⟨.steepNumHi, 0x24, [], 0x0, 0x0, 0x0, 0x0⟩,
   ⟨.clSteep, 0x100100, [(0x40000, 16)], 0x10f, 0x0, 0x0, 0x0⟩,
   ⟨.clSteepstat, 0x100104, [(0x40000, 16)], 0x0, 0x0, 0xffff0000, 0x0⟩,
   ⟨.seqCtl, 0x100000, [(0x40000, 16)], 0x0, 0x0, 0x0, 0x3⟩,
   ⟨.seqStat, 0x100004, [(0x40000, 16)], 0x0, 0x0, 0xff0000, 0x0⟩,
   ⟨.seqStart, 0x100008, [(0x40000, 16)], 0x7fff, 0x0, 0x0, 0x0⟩,
   ⟨.seqVcnt, 0x10000c, [(0x40000, 16)], 0x0, 0x0, 0x0, 0x0⟩,
   ⟨.seqG, 0x100040, [(0x40000, 17), (0x4, 16)], 0xffffffff, 0x0, 0x0, 0x0⟩,
   ⟨.seqLc, 0x100080, [(0x40000, 17), (0x4, 8)], 0xffffffff, 0x0, 0x0, 0x0⟩,
   ⟨.idmaSrc, 0x1000a0, [(0x40000, 16)], 0xffffffff, 0x0, 0x0, 0x0⟩,
   ⟨.idmaDst, 0x1000a4, [(0x40000, 16)], 0x7fff, 0x0, 0x0, 0x0⟩,
   ⟨.idmaLen, 0x1000a8, [(0x40000, 16)], 0x7fff, 0x0, 0x0, 0x0⟩,
   ⟨.idmaCtl, 0x1000ac, [(0x40000, 16)], 0x0, 0x0, 0x0, 0x1⟩,
   ⟨.idmaStat, 0x1000b0, [(0x40000, 16)], 0x0, 0x60000000, 0xffff, 0x0⟩,
   ⟨.tsSmap, 0x102000, [(0x40000, 16), (0x4, 256)], 0xffffff, 0x0, 0x0, 0x0⟩]

/-- Registers of PF0 BAR0, part 2. -/
def pf0Rows1 : List RegRow :=
  [⟨.clMapsel, 0x1000c0, [(0x40000, 16)], 0xffffffff, 0x0, 0x0, 0x0⟩,
   ⟨.seqHalt, 0x100010, [(0x40000, 17)], 0x0, 0x0, 0x80000000, 0x0⟩,
   ⟨.clPmustat, 0x100120, [(0x40000, 16)], 0x0, 0x0, 0xffffffff, 0x0⟩,
   ⟨.evSel, 0x100160, [(0x40000, 17), (0x4, 8)], 0x800003ff, 0x0, 0x0, 0x0⟩,
   ⟨.evLatch, 0x100158, [(0x40000, 17)], 0x0, 0x1ff, 0x0, 0x0⟩,
   ⟨.intCtl, 0x100154, [(0x40000, 17)], 0x1ff, 0x0, 0x0, 0x0⟩,
   ⟨.trapCtl, 0x100140, [(0x40000, 17)], 0x80ffffff, 0x0, 0x0, 0x0⟩,
   ⟨.trapStat, 0x100144, [(0x40000, 17)], 0x0, 0x0, 0x0, 0x0⟩,
   ⟨.trapPc, 0x100148, [(0x40000, 17)], 0x0, 0x0, 0x0, 0x0⟩,
   ⟨.trapInfo, 0x10014c, [(0x40000, 17)], 0x0, 0x0, 0x0, 0x0⟩,
   ⟨.trapCnt, 0x100150, [(0x40000, 17)], 0x0, 0x0, 0xffffffff, 0x0⟩,
   ⟨.seqhCtl, 0x500000, [], 0x0, 0x0, 0x0, 0x3⟩,
   ⟨.seqhStat, 0x500004, [], 0x0, 0x0, 0x30000000, 0x0⟩,
   ⟨.seqhStart, 0x500008, [], 0xffffff, 0x0, 0x0, 0x0⟩,
   ⟨.clVcstat, 0x10011c, [(0x40000, 16)], 0x0, 0x0, 0xffff, 0x0⟩,
   ⟨.clPoison, 0x100118, [(0x40000, 16)], 0x0, 0x0, 0xffffffff, 0x0⟩,
   ⟨.potCfg, 0xa2000, [(0x20, 64)], 0xcf1f0000, 0x0, 0x0, 0x0⟩,
   ⟨.potBase, 0xa2004, [(0x20, 64)], 0xfffffff8, 0x0, 0x0, 0x0⟩,
   ⟨.potWr, 0xa2008, [(0x20, 64)], 0xffffffff, 0x0, 0x0, 0x0⟩,
   ⟨.potRd, 0xa200c, [(0x20, 64)], 0x0, 0x0, 0x0, 0x0⟩,
   ⟨.potWm, 0xa2010, [(0x20, 64)], 0x7ffffff, 0x0, 0x0, 0x0⟩,
   ⟨.potStat, 0xa2014, [(0x20, 64)], 0x0, 0xf0000000, 0x0, 0x0⟩,
   ⟨.potUcnt, 0xa2018, [(0x20, 64)], 0x0, 0x0, 0xffff, 0x0⟩,
   ⟨.clUnderrunCtl, 0x100108, [(0x40000, 16)], 0x17fff, 0x0, 0x0, 0x0⟩,
   ⟨.clUnderrunStat, 0x10010c, [(0x40000, 16)], 0x0, 0x0, 0xffffffff, 0x0⟩,
   ⟨.clUnderrunGap, 0x100110, [(0x40000, 16)], 0x0, 0x0, 0xffffffff, 0x0⟩,
   ⟨.vmFillBase, 0xa0800, [], 0x7fff, 0x0, 0x0, 0x0⟩,
   ⟨.vmFillLen, 0xa0804, [], 0x7fff, 0x0, 0x0, 0x0⟩,
   ⟨.vmFillPatLo, 0xa0808, [], 0xffffffff, 0x0, 0x0, 0x0⟩,
   ⟨.vmFillPatHi, 0xa080c, [], 0xffffffff, 0x0, 0x0, 0x0⟩]

/-- Registers of PF0 BAR0, part 3. -/
def pf0Rows2 : List RegRow :=
  [⟨.vmFillCtl, 0xa0810, [], 0x0, 0x0, 0x0, 0x1⟩,
   ⟨.vmFillStat, 0xa0814, [], 0x0, 0x60000000, 0x0, 0x0⟩,
   ⟨.vmTrk, 0xa0818, [], 0x0, 0x0, 0xffff, 0x0⟩,
   ⟨.vmNotinit, 0xa081c, [], 0x0, 0x0, 0xffffffff, 0x0⟩,
   ⟨.vmInit, 0xa1000, [(0x4, 1024)], 0x0, 0x0, 0x0, 0x0⟩,
   ⟨.clPark, 0x100124, [(0x40000, 16)], 0x3, 0x4, 0x0, 0x0⟩,
   ⟨.clClamp, 0x100128, [(0x40000, 16)], 0x0, 0x0, 0x0, 0x0⟩,
   ⟨.chVih, 0x110000, [(0x40000, 16), (0x100, 32)], 0x3ffff, 0x0, 0x0, 0x0⟩,
   ⟨.chVil, 0x110004, [(0x40000, 16), (0x100, 32)], 0x3ffff, 0x0, 0x0, 0x0⟩,
   ⟨.chVtt, 0x110008, [(0x40000, 16), (0x100, 32)], 0x3ffff, 0x0, 0x0, 0x0⟩,
   ⟨.chIol, 0x110010, [(0x40000, 16), (0x100, 32)], 0x3ffff, 0x0, 0x0, 0x0⟩,
   ⟨.chIoh, 0x110014, [(0x40000, 16), (0x100, 32)], 0x3ffff, 0x0, 0x0, 0x0⟩,
   ⟨.chVcom, 0x110018, [(0x40000, 16), (0x100, 32)], 0x3ffff, 0x0, 0x0, 0x0⟩,
   ⟨.chVoh, 0x110020, [(0x40000, 16), (0x100, 32)], 0x3ffff, 0x0, 0x0, 0x0⟩,
   ⟨.chVol, 0x110024, [(0x40000, 16), (0x100, 32)], 0x3ffff, 0x0, 0x0, 0x0⟩,
   ⟨.chMht, 0x11002c, [(0x40000, 16), (0x100, 32)], 0x3ffff, 0x0, 0x0, 0x0⟩,
   ⟨.chMlt, 0x110030, [(0x40000, 16), (0x100, 32)], 0x3ffff, 0x0, 0x0, 0x0⟩,
   ⟨.chIlim, 0x110040, [(0x40000, 16), (0x100, 32)], 0x3ffff, 0x0, 0x0, 0x0⟩,
   ⟨.chVclh, 0x110044, [(0x40000, 16), (0x100, 32)], 0x3ffff, 0x0, 0x0, 0x0⟩,
   ⟨.chVcll, 0x110048, [(0x40000, 16), (0x100, 32)], 0x3ffff, 0x0, 0x0, 0x0⟩,
   ⟨.chDrvcfg, 0x11000c, [(0x40000, 16), (0x100, 32)], 0xc0000000, 0x0, 0x0, 0x0⟩,
   ⟨.chCmpcfg, 0x110028, [(0x40000, 16), (0x100, 32)], 0xffffffff, 0x0, 0x0, 0x0⟩,
   ⟨.chMoncfg, 0x110034, [(0x40000, 16), (0x100, 32)], 0xe0000000, 0x0, 0x0, 0x0⟩,
   ⟨.chCmpstat, 0x110038, [(0x40000, 16), (0x100, 32)], 0x0, 0xf00, 0x0, 0x0⟩,
   ⟨.chPmustat, 0x11004c, [(0x40000, 16), (0x100, 32)], 0x0, 0x0, 0x0, 0x0⟩,
   ⟨.chStat, 0x110050, [(0x40000, 16), (0x100, 32)], 0x0, 0xfe, 0x0, 0x0⟩,
   ⟨.tsPeriod, 0x102400, [(0x40000, 16), (0x4, 256)], 0x80ffffff, 0x0, 0x0, 0x0⟩,
   ⟨.tsCtl, 0x102800, [(0x40000, 16), (0x4, 256)], 0x1, 0x0, 0x0, 0x0⟩,
   ⟨.tsEaddr, 0x102c00, [(0x40000, 16)], 0x8000ffff, 0x0, 0x0, 0x0⟩,
   ⟨.tsEdata, 0x102c04, [(0x40000, 16)], 0xffffff, 0x0, 0x0, 0x0⟩]

/-- Registers of PF0 BAR0, part 4. -/
def pf0Rows3 : List RegRow :=
  [⟨.clStretch, 0x10012c, [(0x40000, 16)], 0x0, 0x0, 0x0, 0x0⟩,
   ⟨.tsErr, 0x100130, [(0x40000, 16)], 0x0, 0xf0000000, 0xff00, 0x0⟩,
   ⟨.caplCfg, 0x103000, [(0x40000, 16), (0x40, 8)], 0xff0fffff, 0x0, 0x0, 0x0⟩,
   ⟨.caplLen, 0x103004, [(0x40000, 16), (0x40, 8)], 0xffffff, 0x0, 0x0, 0x0⟩,
   ⟨.caplChmask, 0x103008, [(0x40000, 16), (0x40, 8)], 0xffffffff, 0x0, 0x0, 0x0⟩,
   ⟨.caplTrg, 0x103010, [(0x40000, 16), (0x40, 8), (0x4, 8)], 0xf00003ff, 0x0, 0x0, 0x0⟩,
   ⟨.caplStat, 0x103030, [(0x40000, 16), (0x40, 8)], 0x0, 0x30000000, 0x0, 0x0⟩,
   ⟨.caplCnt, 0x103034, [(0x40000, 16), (0x40, 8)], 0x0, 0x0, 0xffffffff, 0x0⟩,
   ⟨.capGov, 0x103200, [(0x40000, 16)], 0xfffff, 0x0, 0x0, 0x0⟩,
   ⟨.capGovstat, 0x103204, [(0x40000, 16)], 0x0, 0x0, 0xffff, 0x0⟩,
   ⟨.capBuf, 0x103208, [(0x40000, 16)], 0x0, 0x0, 0x1fff0000, 0x0⟩,
   ⟨.caplRoute, 0x10300c, [(0x40000, 16), (0x40, 8)], 0xf00fffff, 0x0, 0x0, 0x0⟩,
   ⟨.qmHoldBase, 0xb0000, [], 0x7fff, 0x0, 0x0, 0x0⟩,
   ⟨.qmHoldLen, 0xb0004, [], 0x7fff, 0x0, 0x0, 0x0⟩,
   ⟨.qmHoldStat, 0xb0008, [], 0x0, 0x0, 0x0, 0x0⟩,
   ⟨.qmStat, 0xb0010, [], 0x0, 0x0, 0xffffffff, 0x0⟩,
   ⟨.qmStat2, 0xb0014, [], 0x0, 0x0, 0xff00ffff, 0x0⟩,
   ⟨.qdSel, 0xb0100, [], 0xfffff, 0x0, 0x0, 0x0⟩,
   ⟨.qdW, 0xb0120, [(0x4, 8)], 0xffffffff, 0x0, 0x0, 0x0⟩,
   ⟨.qheadAdv, 0xb0140, [], 0x0, 0x0, 0x0, 0xffffffff⟩,
   ⟨.dmaStat, 0xb1000, [(0x10, 64)], 0x0, 0x0, 0xffff, 0x0⟩,
   ⟨.dmaErrq, 0xb1004, [(0x10, 64)], 0x0, 0x0, 0x0, 0x0⟩,
   ⟨.dmaErraddrLo, 0xb1008, [(0x10, 64)], 0x0, 0x0, 0x0, 0x0⟩,
   ⟨.dmaErraddrHi, 0xb100c, [(0x10, 64)], 0x0, 0x0, 0x0, 0x0⟩,
   ⟨.irqmap, 0xb2000, [(0x4, 512)], 0x800007ff, 0x0, 0x0, 0x0⟩,
   ⟨.tiuCfg, 0x60000, [(0x100, 8)], 0xc700ffff, 0x0, 0x0, 0x0⟩,
   ⟨.tiuStart, 0x60004, [(0x100, 8)], 0x7fff, 0x0, 0x0, 0x0⟩,
   ⟨.tiuStop, 0x60008, [(0x100, 8)], 0x7fff, 0x0, 0x0, 0x0⟩,
   ⟨.tiuN, 0x6000c, [(0x100, 8)], 0xffffff, 0x0, 0x0, 0x0⟩,
   ⟨.tiuWin, 0x60010, [(0x100, 8)], 0xffff, 0x0, 0x0, 0x0⟩]

/-- Registers of PF0 BAR0, part 5. -/
def pf0Rows4 : List RegRow :=
  [⟨.tiuRoute, 0x60014, [(0x100, 8)], 0x87ffffff, 0x0, 0x0, 0x0⟩,
   ⟨.tiuCmd, 0x60018, [(0x100, 8)], 0x0, 0x0, 0x0, 0x3⟩,
   ⟨.tiuStat, 0x6001c, [(0x100, 8)], 0x0, 0x3f800000, 0x0, 0x0⟩,
   ⟨.tiuCount, 0x60020, [(0x100, 8)], 0x0, 0x0, 0x0, 0x0⟩,
   ⟨.tiuUnder, 0x60024, [(0x100, 8)], 0x0, 0x0, 0x0, 0x0⟩,
   ⟨.tiuLast, 0x60028, [(0x100, 8), (0x4, 2)], 0x0, 0x0, 0x0, 0x0⟩,
   ⟨.tiuMean, 0x60030, [(0x100, 8), (0x4, 2)], 0x0, 0x0, 0x0, 0x0⟩,
   ⟨.tiuMin, 0x60038, [(0x100, 8), (0x4, 2)], 0x0, 0x0, 0x0, 0x0⟩,
   ⟨.tiuMax, 0x60040, [(0x100, 8), (0x4, 2)], 0x0, 0x0, 0x0, 0x0⟩,
   ⟨.tiuSdev, 0x60048, [(0x100, 8)], 0x0, 0x0, 0x0, 0x0⟩,
   ⟨.tiuCalctl, 0x60050, [(0x100, 8)], 0x2, 0x0, 0x0, 0x1⟩,
   ⟨.tiuCalstat, 0x60054, [(0x100, 8)], 0x0, 0x70000000, 0x0, 0x0⟩,
   ⟨.tiuTbstat, 0x60800, [], 0x0, 0x0, 0xffff, 0x0⟩,
   ⟨.tiuBin, 0x61000, [(0x400, 8), (0x4, 256)], 0x0, 0x0, 0x0, 0x0⟩,
   ⟨.weCfg, 0x70000, [(0x100, 16)], 0xfc7fffff, 0x0, 0x0, 0x0⟩,
   ⟨.weTgt, 0x70004, [(0x100, 16)], 0x8000000f, 0x0, 0x0, 0x0⟩,
   ⟨.weChmask, 0x70008, [(0x100, 16)], 0xffffffff, 0x0, 0x0, 0x0⟩,
   ⟨.weRate, 0x7000c, [(0x100, 16)], 0xfffff, 0x0, 0x0, 0x0⟩,
   ⟨.weStep, 0x70010, [(0x100, 16)], 0xffffffff, 0x0, 0x0, 0x0⟩,
   ⟨.weCtl, 0x70014, [(0x100, 16)], 0x0, 0x0, 0x0, 0x3⟩,
   ⟨.weStat, 0x70018, [(0x100, 16)], 0x0, 0x3b800000, 0x0, 0x0⟩,
   ⟨.weCnt, 0x7001c, [(0x100, 16)], 0x0, 0x0, 0xffffffff, 0x0⟩,
   ⟨.weSega, 0x70040, [(0x100, 16), (0x8, 8)], 0xffffffff, 0x0, 0x0, 0x0⟩,
   ⟨.weSegb, 0x70044, [(0x100, 16), (0x8, 8)], 0xffffffff, 0x0, 0x0, 0x0⟩,
   ⟨.syncCfg, 0x71000, [], 0xc0ffffff, 0x0, 0x0, 0x0⟩,
   ⟨.syncCmd, 0x71004, [], 0x0, 0x0, 0x0, 0x3⟩,
   ⟨.syncStat, 0x71008, [], 0x0, 0x38000000, 0xff, 0x0⟩,
   ⟨.syncTsLo, 0x71010, [], 0xffffffff, 0x0, 0x0, 0x0⟩,
   ⟨.syncTsHi, 0x71014, [], 0xffffffff, 0x0, 0x0, 0x0⟩,
   ⟨.syncSteepLo, 0x71018, [], 0xffffffff, 0x0, 0x0, 0x0⟩]

/-- Registers of PF0 BAR0, part 6. -/
def pf0Rows5 : List RegRow :=
  [⟨.syncSteepHi, 0x7101c, [], 0xffffffff, 0x0, 0x0, 0x0⟩,
   ⟨.skCfg, 0x71020, [], 0xff00ffff, 0x0, 0x0, 0x0⟩,
   ⟨.skStat, 0x71024, [], 0x0, 0x0, 0x0, 0x0⟩,
   ⟨.railVset, 0x80000, [(0x40, 64)], 0x3ffff, 0x0, 0x0, 0x0⟩,
   ⟨.railVmax, 0x80004, [(0x40, 64)], 0x3ffff, 0x0, 0x0, 0x0⟩,
   ⟨.railIlim, 0x80008, [(0x40, 64)], 0x3ffff, 0x0, 0x0, 0x0⟩,
   ⟨.railRamp, 0x8000c, [(0x40, 64)], 0xffffffff, 0x0, 0x0, 0x0⟩,
   ⟨.railCfg, 0x80010, [(0x40, 64)], 0xffff3fff, 0x0, 0x0, 0x0⟩,
   ⟨.railTime, 0x80014, [(0x40, 64)], 0xffffffff, 0x0, 0x0, 0x0⟩,
   ⟨.railStat, 0x80018, [(0x40, 64)], 0x0, 0x1180000, 0x0, 0x0⟩,
   ⟨.railV, 0x8001c, [(0x40, 64)], 0x0, 0x0, 0x0, 0x0⟩,
   ⟨.railI, 0x80020, [(0x40, 64)], 0x0, 0x0, 0x0, 0x0⟩,
   ⟨.sitePwr, 0x81000, [(0x4, 128)], 0x80000000, 0x800, 0x0, 0x0⟩,
   ⟨.kzCtl, 0x82000, [(0x40, 4)], 0xc000ffff, 0x0, 0x0, 0x0⟩,
   ⟨.kzPi, 0x82004, [(0x40, 4)], 0xffffffff, 0x0, 0x0, 0x0⟩,
   ⟨.kzOut, 0x82008, [(0x40, 4)], 0xfff1ffff, 0x0, 0x0, 0x0⟩,
   ⟨.kzMan, 0x8200c, [(0x40, 4)], 0x1ffff, 0x0, 0x0, 0x0⟩,
   ⟨.kzTh, 0x82010, [(0x40, 4)], 0xffff1fff, 0x0, 0x0, 0x0⟩,
   ⟨.kzTmax, 0x82014, [(0x40, 4)], 0xffff, 0x0, 0x0, 0x0⟩,
   ⟨.kzStat, 0x82018, [(0x40, 4)], 0x0, 0x4400000, 0x0, 0x0⟩,
   ⟨.kzU, 0x8201c, [(0x40, 4)], 0x0, 0x0, 0x0, 0x0⟩,
   ⟨.auxCfg, 0x83000, [(0x10, 16)], 0xc0000000, 0x0, 0x0, 0x0⟩,
   ⟨.auxCode, 0x83004, [(0x10, 16)], 0x3ffff, 0x0, 0x0, 0x0⟩,
   ⟨.auxStat, 0x83008, [(0x10, 16)], 0x0, 0x70000000, 0xffff, 0x0⟩,
   ⟨.tdSettle, 0x84000, [], 0xffffffff, 0x0, 0x0, 0x0⟩,
   ⟨.tdStat, 0x84004, [], 0x0, 0x8000000, 0x0, 0x0⟩,
   ⟨.tdCnt, 0x84008, [], 0x0, 0x0, 0xffffffff, 0x0⟩,
   ⟨.fuStat, 0x30000, [], 0x0, 0x7, 0x0, 0x0⟩,
   ⟨.fuCnt, 0x30004, [], 0x0, 0x0, 0xffffffff, 0x0⟩,
   ⟨.fuF2clr, 0x30008, [], 0x0, 0x0, 0x0, 0xffff⟩]

/-- Registers of PF0 BAR0, part 7. -/
def pf0Rows6 : List RegRow :=
  [⟨.fuSafereq, 0x3000c, [], 0x0, 0x0, 0x0, 0xffff0001⟩,
   ⟨.fuHstat, 0x30010, [], 0x0, 0x0, 0xff, 0x0⟩,
   ⟨.fuHclr, 0x30014, [], 0x0, 0x0, 0x0, 0x1⟩,
   ⟨.fuHist, 0x30100, [(0x10, 16), (0x4, 4)], 0x0, 0x0, 0x0, 0x0⟩,
   ⟨.fuF2tab, 0x30200, [(0x4, 64)], 0x0, 0x0, 0x0, 0x0⟩,
   ⟨.miCfg, 0xa0000, [(0x10, 101)], 0xffffff, 0x0, 0x0, 0x0⟩,
   ⟨.miStat, 0xa0004, [(0x10, 101)], 0x0, 0x60000000, 0xffff, 0x0⟩,
   ⟨.miAddr, 0xa0008, [(0x10, 101)], 0x0, 0x0, 0x0, 0x0⟩,
   ⟨.miLap, 0xa000c, [(0x10, 101)], 0x0, 0x0, 0x0, 0x0⟩,
   ⟨.miPwstat, 0xa0700, [], 0x0, 0x0, 0xffffffff, 0x0⟩,
   ⟨.miOtpbad, 0xa0780, [(0x4, 16)], 0x0, 0x0, 0x0, 0x0⟩,
   ⟨.ecCfg, 0x20000, [(0x20, 1024)], 0xf070007f, 0x0, 0x0, 0x0⟩,
   ⟨.ecProd, 0x20004, [(0x20, 1024), (0x4, 4)], 0x8fff8fff, 0x0, 0x0, 0x0⟩,
   ⟨.ecCnt, 0x20014, [(0x20, 1024)], 0x0, 0x0, 0xffffffff, 0x0⟩,
   ⟨.evflag, 0x28000, [(0x4, 32)], 0x0, 0xffffffff, 0x0, 0x0⟩,
   ⟨.evStat, 0x28100, [], 0x0, 0xc0000000, 0xff0000, 0x0⟩,
   ⟨.evSw, 0x28104, [], 0x0, 0x0, 0x0, 0xffff⟩,
   ⟨.evpaCfg, 0x29000, [(0x8, 64)], 0xe3ff007f, 0x0, 0x0, 0x0⟩,
   ⟨.evpaHold, 0x29004, [(0x8, 64)], 0xffff, 0x0, 0x0, 0x0⟩,
   ⟨.thmCfg, 0x40000, [], 0xffff, 0x0, 0x0, 0x0⟩,
   ⟨.thrCtl, 0x40004, [], 0x80ffffff, 0x0, 0x0, 0x0⟩,
   ⟨.admCtl, 0x40008, [], 0x1fff, 0x0, 0x0, 0x0⟩,
   ⟨.admStat, 0x4000c, [], 0x0, 0x0, 0xffff, 0x0⟩,
   ⟨.thmTa, 0x40020, [(0x4, 4)], 0x0, 0x0, 0x0, 0x0⟩,
   ⟨.thmTb, 0x40030, [(0x4, 4)], 0x0, 0x0, 0x0, 0x0⟩,
   ⟨.thmQstat, 0x40040, [(0x4, 4)], 0x0, 0x0, 0x0, 0x0⟩,
   ⟨.thmChip, 0x40050, [], 0x0, 0x0, 0x0, 0x0⟩,
   ⟨.thmStat, 0x40054, [], 0x0, 0x0, 0xffff, 0x0⟩,
   ⟨.pwrDom, 0x40100, [(0x4, 40)], 0x0, 0x0, 0xffff0000, 0x0⟩,
   ⟨.pwrTotal, 0x40200, [], 0x0, 0x0, 0x0, 0x0⟩]

/-- Registers of PF0 BAR0, part 8. -/
def pf0Rows7 : List RegRow :=
  [⟨.calCtl, 0x50000, [], 0x80000000, 0x0, 0x0, 0x0⟩,
   ⟨.calStat, 0x50004, [], 0x0, 0xbc00000, 0x0, 0x0⟩,
   ⟨.calSeq, 0x50008, [], 0x0, 0x0, 0x0, 0x0⟩,
   ⟨.calUaddr, 0x50010, [], 0x7fff, 0x0, 0x0, 0x0⟩,
   ⟨.calFaddr, 0x50018, [], 0x7fff, 0x0, 0x0, 0x0⟩,
   ⟨.calUdata, 0x50014, [], 0xffff, 0x0, 0x0, 0x0⟩,
   ⟨.calFdata, 0x5001c, [], 0x0, 0x0, 0x0, 0x0⟩,
   ⟨.calSave, 0x50020, [], 0x0, 0x0, 0x0, 0x1⟩,
   ⟨.calAge, 0x51000, [(0x8, 512)], 0x0, 0x0, 0x0, 0x0⟩,
   ⟨.calCstat, 0x51004, [(0x8, 512)], 0x0, 0x100, 0x0, 0x0⟩,
   ⟨.mcver, 0xc0000, [], 0x0, 0x0, 0x0, 0x0⟩,
   ⟨.mccrc, 0xc0004, [], 0x0, 0x0, 0x0, 0x0⟩,
   ⟨.mcLstat, 0xc0008, [], 0x0, 0x78000000, 0x0, 0x0⟩,
   ⟨.mcRombad, 0xc0040, [(0x4, 17)], 0x0, 0x0, 0x0, 0x0⟩,
   ⟨.mcErr, 0xc0100, [(0x10, 17)], 0x0, 0x80000000, 0x0, 0x0⟩,
   ⟨.mcErrpc, 0xc0104, [(0x10, 17)], 0x0, 0x0, 0x0, 0x0⟩,
   ⟨.mcMatch, 0xc0400, [(0x4, 32)], 0x0, 0x0, 0x0, 0x0⟩,
   ⟨.mcCsel, 0xc0500, [], 0x1f01ff, 0x0, 0x0, 0x0⟩,
   ⟨.mcCdata, 0xc0504, [(0x4, 5)], 0x0, 0x0, 0x0, 0x0⟩,
   ⟨.clkStat, 0x10000, [], 0x0, 0x1c000000, 0xffff, 0x0⟩,
   ⟨.clkOut, 0x10010, [(0x4, 6)], 0x8000003f, 0x0, 0x0, 0x0⟩,
   ⟨.pllbStat, 0x10040, [], 0x0, 0x0, 0x0, 0x0⟩,
   ⟨.rstStat, 0x10100, [], 0x0, 0x0, 0x0, 0x0⟩,
   ⟨.rstTime, 0x10104, [], 0x0, 0x0, 0x0, 0x0⟩,
   ⟨.cpDev, 0x90000, [(0x4, 15)], 0x3ff0f00, 0x0, 0x0, 0x0⟩,
   ⟨.cpXip, 0x90040, [], 0xffffffdf, 0x0, 0x0, 0x0⟩,
   ⟨.cpFlash, 0x90044, [], 0xffffffff, 0x0, 0x0, 0x0⟩,
   ⟨.cpStat, 0x90048, [], 0x0, 0x1c000000, 0xff, 0x0⟩,
   ⟨.spErr, 0x90100, [], 0x0, 0x0, 0x0, 0x0⟩,
   ⟨.id, 0x0, [], 0x0, 0x0, 0x0, 0x0⟩]

/-- Registers of PF0 BAR0, part 9. -/
def pf0Rows8 : List RegRow :=
  [⟨.tstampLo, 0x28, [], 0x0, 0x0, 0x0, 0x0⟩,
   ⟨.tstampHi, 0x2c, [], 0x0, 0x0, 0x0, 0x0⟩,
   ⟨.regErr, 0x30, [], 0x0, 0x0, 0xffff0000, 0x0⟩]

/-- The registers of PF0 BAR0. -/
def pf0Rows : List RegRow := pf0Rows0 ++ pf0Rows1 ++ pf0Rows2 ++ pf0Rows3 ++ pf0Rows4 ++ pf0Rows5 ++ pf0Rows6 ++ pf0Rows7 ++ pf0Rows8

/-- Registers of PF1 BAR0, part 1. -/
def pf1Rows0 : List RegRow :=
  [⟨.wlRvmax, 0x0, [(0x8, 64)], 0x3ffff, 0x0, 0x0, 0x0⟩,
   ⟨.wlRimax, 0x4, [(0x8, 64)], 0x3ffff, 0x0, 0x0, 0x0⟩,
   ⟨.wlZone, 0x400, [(0x4, 4)], 0x1fffff, 0x0, 0x0, 0x0⟩,
   ⟨.wlSite, 0x800, [(0x4, 128)], 0x3, 0x0, 0x0, 0x0⟩,
   ⟨.wdStat, 0x1000, [], 0x0, 0x0, 0x0, 0x0⟩,
   ⟨.wdViol, 0x1004, [], 0x0, 0x0, 0xffff0000, 0x0⟩,
   ⟨.wdF5, 0x1008, [], 0x0, 0x0, 0x0, 0x0⟩,
   ⟨.pirqmap, 0x2000, [(0x4, 8)], 0x800007ff, 0x0, 0x0, 0x0⟩,
   ⟨.wlTbnd, 0x1800, [], 0xffff, 0x0, 0x0, 0x0⟩,
   ⟨.mcpSrc, 0x3000, [], 0x1, 0x0, 0x0, 0x0⟩,
   ⟨.mcpRow, 0x3004, [], 0xffffffff, 0x0, 0x0, 0x0⟩,
   ⟨.mcpCtl, 0x3008, [], 0x0, 0x0, 0x0, 0x3⟩,
   ⟨.rstReq, 0x4000, [], 0x0, 0x0, 0x0, 0xffff0001⟩,
   ⟨.cpCfg, 0x5000, [], 0x1, 0x0, 0x0, 0x0⟩,
   ⟨.p1wPtr, 0x6000, [], 0x83fffffc, 0x0, 0x0, 0x0⟩,
   ⟨.p1wData, 0x6004, [], 0xffffffff, 0x0, 0x0, 0x0⟩]

/-- The registers of PF1 BAR0. -/
def pf1Rows : List RegRow := pf1Rows0

/-- Registers of the service window, part 1. -/
def winRows0 : List RegRow :=
  [⟨.spId, 0x0, [], 0x0, 0x0, 0x0, 0x0⟩,
   ⟨.spHealth, 0x4, [], 0x0, 0x0, 0x0, 0x0⟩,
   ⟨.spCmd, 0x8, [], 0x0, 0x0, 0x0, 0xffff0003⟩,
   ⟨.spPtr, 0xc, [], 0xe3fffffc, 0x0, 0x0, 0x0⟩,
   ⟨.spData, 0x10, [], 0xffffffff, 0x0, 0x0, 0x0⟩,
   ⟨.spStat, 0x14, [], 0x0, 0x78000000, 0xffff, 0x0⟩,
   ⟨.spCfg, 0x18, [], 0x8000001f, 0x0, 0x0, 0x0⟩,
   ⟨.spIrq, 0x1c, [], 0x0, 0x4, 0x0, 0x0⟩]

/-- The registers of the service window. -/
def winRows : List RegRow := winRows0

/-- Indexes of `off` in a row of the map, the largest stride first; `none` where the offset is not one of the row's. -/
def dimIdx : Nat → List (Nat × Nat) → Option (List Nat)
  | rem, [] => if rem = 0 then some [] else none
  | rem, (st, n) :: ds =>
    if rem / st < n then (dimIdx (rem % st) ds).map (rem / st :: ·) else none

/-- The row's indexes of an offset. -/
def RegRow.idx (r : RegRow) (off : Nat) : Option (List Nat) :=
  if off < r.base then none else dimIdx (off - r.base) r.dims

/-- A register found by its place: its row and its indexes. -/
def findReg : List RegRow → Nat → Option (RegRow × List Nat)
  | [], _ => none
  | r :: rs, off => match r.idx off with
    | some ix => some (r, ix)
    | none => findReg rs off

/-- The rows of a space. -/
def Space.rows : Space → List RegRow
  | .pf0 => pf0Rows
  | .pf1 => pf1Rows
  | .win => winRows
  | .msix0 => [⟨.msixTab, 0x0, [(0x4, 8192)], 0xffffffff, 0x0, 0x0, 0x0⟩, ⟨.msixPba0, 0x8000, [(0x4, 64)], 0x0, 0x0, 0x0, 0x0⟩]
  | .msix1 => [⟨.msixTab, 0x0, [(0x4, 8192)], 0xffffffff, 0x0, 0x0, 0x0⟩, ⟨.msixPba1, 0x8000, [(0x4, 64)], 0x0, 0x0, 0x0, 0x0⟩]

/-- Whether an offset lies inside a mapped extent (R456). -/
def Space.mapped : Space → Nat → Bool
  | .pf0, off => off < 0xD0000 || (0x100000 ≤ off && off < 0x540000) || (0x1000000 ≤ off && off < 0x1100000)
  | .pf1, off => off < 0x8000
  | .win, off => off < 0x80
  | _, off => off < 0x10000

/-- Reset values other than 0 in PF0 BAR0, by block, from the register tables of each chapter. -/
def resetPf0 (off : Nat) : Word :=
  if 0x100000 ≤ off ∧ off < 0x500000 then
    let c := (off - 0x100000) % 0x40000
    if 0x10000 ≤ c ∧ c < 0x12000 then
      let d := c % 0x100
      if d = 0x40 then 0x186a0#32
      else if d = 0x44 then 0x19640#32
      else if d = 0x48 then 0x38300#32
      else if d = 0x28 then 0x8080#32
      else if d = 0x38 then 0xff#32
      else if d = 0x4c then 0x18000000#32
      else if d = 0x50 then 0xc0000000#32
      else 0#32
    else if c = 0x100 then 0x1#32
    else if 0x2000 ≤ c ∧ c < 0x2400 ∧ (c - 0x2000) % 0x4 = 0 then 0xdec688#32
    else if 0x2400 ≤ c ∧ c < 0x2800 ∧ (c - 0x2400) % 0x4 = 0 then 0x2710#32
    else if c = 0x3200 then 0x8040#32
    else 0#32
  else if 0x0 ≤ off ∧ off < 0x10000 then
    if off = 0x10 then 0x13880#32
    else if off = 0x14 then 0x10#32
    else if off = 0x0 then 0x512000a1#32
    else 0#32
  else if 0x10000 ≤ off ∧ off < 0x20000 then
    if off = 0x10000 then 0x40000000#32
    else if 0x10010 ≤ off ∧ off < 0x10028 ∧ (off - 0x10010) % 0x4 = 0 then
      BitVec.ofNat 32 (0x80000000 + 0x200 * 2 ^ ((off - 0x10010) / 4))
    else 0#32
  else if 0x40000 ≤ off ∧ off < 0x50000 then
    if off = 0x40000 then 0x460#32
    else if off = 0x40004 then 0x80040640#32
    else if off = 0x40008 then 0xfa0#32
    else 0#32
  else if 0x50000 ≤ off ∧ off < 0x60000 then
    if off = 0x50000 then 0x80000000#32
    else if 0x51000 ≤ off ∧ off < 0x52000 ∧ (off - 0x51000) % 0x8 = 0 then 0xffffffff#32
    else 0#32
  else if 0x70000 ≤ off ∧ off < 0x80000 then
    if 0x7000c ≤ off ∧ off < 0x7100c ∧ (off - 0x7000c) % 0x100 = 0 then 0x50#32
    else if 0x70010 ≤ off ∧ off < 0x71010 ∧ (off - 0x70010) % 0x100 = 0 then 0x1000000#32
    else if off = 0x71000 then 0x13880#32
    else 0#32
  else if 0x80000 ≤ off ∧ off < 0x90000 then
    if 0x8000c ≤ off ∧ off < 0x8100c ∧ (off - 0x8000c) % 0x40 = 0 then 0x10001#32
    else if 0x80010 ≤ off ∧ off < 0x81010 ∧ (off - 0x80010) % 0x40 = 0 then 0x6400000#32
    else if 0x80014 ≤ off ∧ off < 0x81014 ∧ (off - 0x80014) % 0x40 = 0 then 0x3200320#32
    else if 0x80018 ≤ off ∧ off < 0x81018 ∧ (off - 0x80018) % 0x40 = 0 then 0x4000000#32
    else if 0x82008 ≤ off ∧ off < 0x82108 ∧ (off - 0x82008) % 0x40 = 0 then 0x100000#32
    else if 0x82014 ≤ off ∧ off < 0x82114 ∧ (off - 0x82014) % 0x40 = 0 then 0x500#32
    else if off = 0x84000 then 0xf42400#32
    else 0#32
  else if 0x90000 ≤ off ∧ off < 0xa0000 then
    if 0x90000 ≤ off ∧ off < 0x9003c ∧ (off - 0x90000) % 0x4 = 0 then 0x800000#32
    else if off = 0x90040 then 0x13004000#32
    else if off = 0x90044 then 0x12210605#32
    else 0#32
  else if 0xa0000 ≤ off ∧ off < 0xb0000 then
    if 0xa0000 ≤ off ∧ off < 0xa0650 ∧ (off - 0xa0000) % 0x10 = 0 then 0x1003e8#32
    else 0#32
  else if 0xc0000 ≤ off ∧ off < 0xd0000 then
    if off = 0xc0000 then 0x120000#32
    else 0#32
  else 0#32

/-- Reset values other than 0 in PF1 BAR0: WL_TBND (R365). -/
def resetPf1 (off : Nat) : Word := if off = 0x1800 then 0x460#32 else 0#32

/-- Reset values other than 0 in the service window: SP_ID (R446). -/
def resetWin (off : Nat) : Word := if off = 0 then 0x512000A1#32 else 0#32

namespace Off

/-- CHSITE[n]. -/
def chsite (i : Nat) : Nat := 0x1000000 + 0x4 * i
/-- RAILSITE[r]. -/
def railsite (i : Nat) : Nat := 0x1000800 + 0x4 * i
/-- AUXSITE[a]. -/
def auxsite (i : Nat) : Nat := 0x1000900 + 0x4 * i
/-- MAP_STAT. -/
def mapStat : Nat := 0x1000a00
/-- SITE_CTL[s]. -/
def siteCtl (i : Nat) : Nat := 0x1001000 + 0x10 * i
/-- SITE_STAT[s]. -/
def siteStat (i : Nat) : Nat := 0x1001004 + 0x10 * i
/-- SITE_CLMASK[s]. -/
def siteClmask (i : Nat) : Nat := 0x1001008 + 0x10 * i
/-- SITE_CNT[s]. -/
def siteCnt (i : Nat) : Nat := 0x100100c + 0x10 * i
/-- WRLOST_A. -/
def wrlostA : Nat := 0x100
/-- WRLOST_B. -/
def wrlostB : Nat := 0x104
/-- STEEP. -/
def steep : Nat := 0x10
/-- POUR_CTL. -/
def pourCtl : Nat := 0x14
/-- STEEP_STAT. -/
def steepStat : Nat := 0x18
/-- POUR_LAST. -/
def pourLast : Nat := 0x1c
/-- STEEP_NUM_LO. -/
def steepNumLo : Nat := 0x20
/-- STEEP_NUM_HI. -/
def steepNumHi : Nat := 0x24
/-- CL_STEEP. -/
def clSteep (i : Nat) : Nat := 0x100100 + 0x40000 * i
/-- CL_STEEPSTAT. -/
def clSteepstat (i : Nat) : Nat := 0x100104 + 0x40000 * i
/-- SEQ_CTL. -/
def seqCtl (i : Nat) : Nat := 0x100000 + 0x40000 * i
/-- SEQ_STAT. -/
def seqStat (i : Nat) : Nat := 0x100004 + 0x40000 * i
/-- SEQ_START. -/
def seqStart (i : Nat) : Nat := 0x100008 + 0x40000 * i
/-- SEQ_VCNT. -/
def seqVcnt (i : Nat) : Nat := 0x10000c + 0x40000 * i
/-- SEQ_G[k]. -/
def seqG (i : Nat) (j : Nat) : Nat := 0x100040 + 0x40000 * i + 0x4 * j
/-- SEQ_LC[k]. -/
def seqLc (i : Nat) (j : Nat) : Nat := 0x100080 + 0x40000 * i + 0x4 * j
/-- IDMA_SRC. -/
def idmaSrc (i : Nat) : Nat := 0x1000a0 + 0x40000 * i
/-- IDMA_DST. -/
def idmaDst (i : Nat) : Nat := 0x1000a4 + 0x40000 * i
/-- IDMA_LEN. -/
def idmaLen (i : Nat) : Nat := 0x1000a8 + 0x40000 * i
/-- IDMA_CTL. -/
def idmaCtl (i : Nat) : Nat := 0x1000ac + 0x40000 * i
/-- IDMA_STAT. -/
def idmaStat (i : Nat) : Nat := 0x1000b0 + 0x40000 * i
/-- TS_SMAP[t]. -/
def tsSmap (i : Nat) (j : Nat) : Nat := 0x102000 + 0x40000 * i + 0x4 * j
/-- CL_MAPSEL. -/
def clMapsel (i : Nat) : Nat := 0x1000c0 + 0x40000 * i
/-- SEQ_HALT. -/
def seqHalt (i : Nat) : Nat := 0x100010 + 0x40000 * i
/-- CL_PMUSTAT. -/
def clPmustat (i : Nat) : Nat := 0x100120 + 0x40000 * i
/-- EV_SEL[k]. -/
def evSel (i : Nat) (j : Nat) : Nat := 0x100160 + 0x40000 * i + 0x4 * j
/-- EV_LATCH. -/
def evLatch (i : Nat) : Nat := 0x100158 + 0x40000 * i
/-- INT_CTL. -/
def intCtl (i : Nat) : Nat := 0x100154 + 0x40000 * i
/-- TRAP_CTL. -/
def trapCtl (i : Nat) : Nat := 0x100140 + 0x40000 * i
/-- TRAP_STAT. -/
def trapStat (i : Nat) : Nat := 0x100144 + 0x40000 * i
/-- TRAP_PC. -/
def trapPc (i : Nat) : Nat := 0x100148 + 0x40000 * i
/-- TRAP_INFO. -/
def trapInfo (i : Nat) : Nat := 0x10014c + 0x40000 * i
/-- TRAP_CNT. -/
def trapCnt (i : Nat) : Nat := 0x100150 + 0x40000 * i
/-- SEQH_CTL. -/
def seqhCtl : Nat := 0x500000
/-- SEQH_STAT. -/
def seqhStat : Nat := 0x500004
/-- SEQH_START. -/
def seqhStart : Nat := 0x500008
/-- CL_VCSTAT. -/
def clVcstat (i : Nat) : Nat := 0x10011c + 0x40000 * i
/-- CL_POISON. -/
def clPoison (i : Nat) : Nat := 0x100118 + 0x40000 * i
/-- POT_CFG[p]. -/
def potCfg (i : Nat) : Nat := 0xa2000 + 0x20 * i
/-- POT_BASE[p]. -/
def potBase (i : Nat) : Nat := 0xa2004 + 0x20 * i
/-- POT_WR[p]. -/
def potWr (i : Nat) : Nat := 0xa2008 + 0x20 * i
/-- POT_RD[p]. -/
def potRd (i : Nat) : Nat := 0xa200c + 0x20 * i
/-- POT_WM[p]. -/
def potWm (i : Nat) : Nat := 0xa2010 + 0x20 * i
/-- POT_STAT[p]. -/
def potStat (i : Nat) : Nat := 0xa2014 + 0x20 * i
/-- POT_UCNT[p]. -/
def potUcnt (i : Nat) : Nat := 0xa2018 + 0x20 * i
/-- CL_UNDERRUN_CTL. -/
def clUnderrunCtl (i : Nat) : Nat := 0x100108 + 0x40000 * i
/-- CL_UNDERRUN_STAT. -/
def clUnderrunStat (i : Nat) : Nat := 0x10010c + 0x40000 * i
/-- CL_UNDERRUN_GAP. -/
def clUnderrunGap (i : Nat) : Nat := 0x100110 + 0x40000 * i
/-- VM_FILL_BASE. -/
def vmFillBase : Nat := 0xa0800
/-- VM_FILL_LEN. -/
def vmFillLen : Nat := 0xa0804
/-- VM_FILL_PAT_LO. -/
def vmFillPatLo : Nat := 0xa0808
/-- VM_FILL_PAT_HI. -/
def vmFillPatHi : Nat := 0xa080c
/-- VM_FILL_CTL. -/
def vmFillCtl : Nat := 0xa0810
/-- VM_FILL_STAT. -/
def vmFillStat : Nat := 0xa0814
/-- VM_TRK. -/
def vmTrk : Nat := 0xa0818
/-- VM_NOTINIT. -/
def vmNotinit : Nat := 0xa081c
/-- VM_INIT[k]. -/
def vmInit (i : Nat) : Nat := 0xa1000 + 0x4 * i
/-- CL_PARK. -/
def clPark (i : Nat) : Nat := 0x100124 + 0x40000 * i
/-- CL_CLAMP. -/
def clClamp (i : Nat) : Nat := 0x100128 + 0x40000 * i
/-- CH_VIH. -/
def chVih (i : Nat) (j : Nat) : Nat := 0x110000 + 0x40000 * i + 0x100 * j
/-- CH_VIL. -/
def chVil (i : Nat) (j : Nat) : Nat := 0x110004 + 0x40000 * i + 0x100 * j
/-- CH_VTT. -/
def chVtt (i : Nat) (j : Nat) : Nat := 0x110008 + 0x40000 * i + 0x100 * j
/-- CH_IOL. -/
def chIol (i : Nat) (j : Nat) : Nat := 0x110010 + 0x40000 * i + 0x100 * j
/-- CH_IOH. -/
def chIoh (i : Nat) (j : Nat) : Nat := 0x110014 + 0x40000 * i + 0x100 * j
/-- CH_VCOM. -/
def chVcom (i : Nat) (j : Nat) : Nat := 0x110018 + 0x40000 * i + 0x100 * j
/-- CH_VOH. -/
def chVoh (i : Nat) (j : Nat) : Nat := 0x110020 + 0x40000 * i + 0x100 * j
/-- CH_VOL. -/
def chVol (i : Nat) (j : Nat) : Nat := 0x110024 + 0x40000 * i + 0x100 * j
/-- CH_MHT. -/
def chMht (i : Nat) (j : Nat) : Nat := 0x11002c + 0x40000 * i + 0x100 * j
/-- CH_MLT. -/
def chMlt (i : Nat) (j : Nat) : Nat := 0x110030 + 0x40000 * i + 0x100 * j
/-- CH_ILIM. -/
def chIlim (i : Nat) (j : Nat) : Nat := 0x110040 + 0x40000 * i + 0x100 * j
/-- CH_VCLH. -/
def chVclh (i : Nat) (j : Nat) : Nat := 0x110044 + 0x40000 * i + 0x100 * j
/-- CH_VCLL. -/
def chVcll (i : Nat) (j : Nat) : Nat := 0x110048 + 0x40000 * i + 0x100 * j
/-- CH_DRVCFG. -/
def chDrvcfg (i : Nat) (j : Nat) : Nat := 0x11000c + 0x40000 * i + 0x100 * j
/-- CH_CMPCFG. -/
def chCmpcfg (i : Nat) (j : Nat) : Nat := 0x110028 + 0x40000 * i + 0x100 * j
/-- CH_MONCFG. -/
def chMoncfg (i : Nat) (j : Nat) : Nat := 0x110034 + 0x40000 * i + 0x100 * j
/-- CH_CMPSTAT. -/
def chCmpstat (i : Nat) (j : Nat) : Nat := 0x110038 + 0x40000 * i + 0x100 * j
/-- CH_PMUSTAT. -/
def chPmustat (i : Nat) (j : Nat) : Nat := 0x11004c + 0x40000 * i + 0x100 * j
/-- CH_STAT. -/
def chStat (i : Nat) (j : Nat) : Nat := 0x110050 + 0x40000 * i + 0x100 * j
/-- TS_PERIOD[t]. -/
def tsPeriod (i : Nat) (j : Nat) : Nat := 0x102400 + 0x40000 * i + 0x4 * j
/-- TS_CTL[t]. -/
def tsCtl (i : Nat) (j : Nat) : Nat := 0x102800 + 0x40000 * i + 0x4 * j
/-- TS_EADDR. -/
def tsEaddr (i : Nat) : Nat := 0x102c00 + 0x40000 * i
/-- TS_EDATA. -/
def tsEdata (i : Nat) : Nat := 0x102c04 + 0x40000 * i
/-- CL_STRETCH. -/
def clStretch (i : Nat) : Nat := 0x10012c + 0x40000 * i
/-- TS_ERR. -/
def tsErr (i : Nat) : Nat := 0x100130 + 0x40000 * i
/-- CAPL_CFG[l]. -/
def caplCfg (i : Nat) (j : Nat) : Nat := 0x103000 + 0x40000 * i + 0x40 * j
/-- CAPL_LEN[l]. -/
def caplLen (i : Nat) (j : Nat) : Nat := 0x103004 + 0x40000 * i + 0x40 * j
/-- CAPL_CHMASK[l]. -/
def caplChmask (i : Nat) (j : Nat) : Nat := 0x103008 + 0x40000 * i + 0x40 * j
/-- CAPL_TRG[l][k]. -/
def caplTrg (i : Nat) (j : Nat) (k : Nat) : Nat := 0x103010 + 0x40000 * i + 0x40 * j + 0x4 * k
/-- CAPL_STAT[l]. -/
def caplStat (i : Nat) (j : Nat) : Nat := 0x103030 + 0x40000 * i + 0x40 * j
/-- CAPL_CNT[l]. -/
def caplCnt (i : Nat) (j : Nat) : Nat := 0x103034 + 0x40000 * i + 0x40 * j
/-- CAP_GOV. -/
def capGov (i : Nat) : Nat := 0x103200 + 0x40000 * i
/-- CAP_GOVSTAT. -/
def capGovstat (i : Nat) : Nat := 0x103204 + 0x40000 * i
/-- CAP_BUF. -/
def capBuf (i : Nat) : Nat := 0x103208 + 0x40000 * i
/-- CAPL_ROUTE[l]. -/
def caplRoute (i : Nat) (j : Nat) : Nat := 0x10300c + 0x40000 * i + 0x40 * j
/-- QM_HOLD_BASE. -/
def qmHoldBase : Nat := 0xb0000
/-- QM_HOLD_LEN. -/
def qmHoldLen : Nat := 0xb0004
/-- QM_HOLD_STAT. -/
def qmHoldStat : Nat := 0xb0008
/-- QM_STAT. -/
def qmStat : Nat := 0xb0010
/-- QM_STAT2. -/
def qmStat2 : Nat := 0xb0014
/-- QD_SEL. -/
def qdSel : Nat := 0xb0100
/-- QD_W[k]. -/
def qdW (i : Nat) : Nat := 0xb0120 + 0x4 * i
/-- QHEAD_ADV. -/
def qheadAdv : Nat := 0xb0140
/-- DMA_STAT[e]. -/
def dmaStat (i : Nat) : Nat := 0xb1000 + 0x10 * i
/-- DMA_ERRQ[e]. -/
def dmaErrq (i : Nat) : Nat := 0xb1004 + 0x10 * i
/-- DMA_ERRADDR_LO[e]. -/
def dmaErraddrLo (i : Nat) : Nat := 0xb1008 + 0x10 * i
/-- DMA_ERRADDR_HI[e]. -/
def dmaErraddrHi (i : Nat) : Nat := 0xb100c + 0x10 * i
/-- IRQMAP[k]. -/
def irqmap (i : Nat) : Nat := 0xb2000 + 0x4 * i
/-- TIU_CFG. -/
def tiuCfg (i : Nat) : Nat := 0x60000 + 0x100 * i
/-- TIU_START. -/
def tiuStart (i : Nat) : Nat := 0x60004 + 0x100 * i
/-- TIU_STOP. -/
def tiuStop (i : Nat) : Nat := 0x60008 + 0x100 * i
/-- TIU_N. -/
def tiuN (i : Nat) : Nat := 0x6000c + 0x100 * i
/-- TIU_WIN. -/
def tiuWin (i : Nat) : Nat := 0x60010 + 0x100 * i
/-- TIU_ROUTE. -/
def tiuRoute (i : Nat) : Nat := 0x60014 + 0x100 * i
/-- TIU_CMD. -/
def tiuCmd (i : Nat) : Nat := 0x60018 + 0x100 * i
/-- TIU_STAT. -/
def tiuStat (i : Nat) : Nat := 0x6001c + 0x100 * i
/-- TIU_COUNT. -/
def tiuCount (i : Nat) : Nat := 0x60020 + 0x100 * i
/-- TIU_UNDER. -/
def tiuUnder (i : Nat) : Nat := 0x60024 + 0x100 * i
/-- TIU_LAST. -/
def tiuLast (i : Nat) (j : Nat) : Nat := 0x60028 + 0x100 * i + 0x4 * j
/-- TIU_MEAN. -/
def tiuMean (i : Nat) (j : Nat) : Nat := 0x60030 + 0x100 * i + 0x4 * j
/-- TIU_MIN. -/
def tiuMin (i : Nat) (j : Nat) : Nat := 0x60038 + 0x100 * i + 0x4 * j
/-- TIU_MAX. -/
def tiuMax (i : Nat) (j : Nat) : Nat := 0x60040 + 0x100 * i + 0x4 * j
/-- TIU_SDEV. -/
def tiuSdev (i : Nat) : Nat := 0x60048 + 0x100 * i
/-- TIU_CALCTL. -/
def tiuCalctl (i : Nat) : Nat := 0x60050 + 0x100 * i
/-- TIU_CALSTAT. -/
def tiuCalstat (i : Nat) : Nat := 0x60054 + 0x100 * i
/-- TIU_TBSTAT. -/
def tiuTbstat : Nat := 0x60800
/-- TIU_BIN[t][b]. -/
def tiuBin (i : Nat) (j : Nat) : Nat := 0x61000 + 0x400 * i + 0x4 * j
/-- WE_CFG. -/
def weCfg (i : Nat) : Nat := 0x70000 + 0x100 * i
/-- WE_TGT. -/
def weTgt (i : Nat) : Nat := 0x70004 + 0x100 * i
/-- WE_CHMASK. -/
def weChmask (i : Nat) : Nat := 0x70008 + 0x100 * i
/-- WE_RATE. -/
def weRate (i : Nat) : Nat := 0x7000c + 0x100 * i
/-- WE_STEP. -/
def weStep (i : Nat) : Nat := 0x70010 + 0x100 * i
/-- WE_CTL. -/
def weCtl (i : Nat) : Nat := 0x70014 + 0x100 * i
/-- WE_STAT. -/
def weStat (i : Nat) : Nat := 0x70018 + 0x100 * i
/-- WE_CNT. -/
def weCnt (i : Nat) : Nat := 0x7001c + 0x100 * i
/-- WE_SEGA[k]. -/
def weSega (i : Nat) (j : Nat) : Nat := 0x70040 + 0x100 * i + 0x8 * j
/-- WE_SEGB[k]. -/
def weSegb (i : Nat) (j : Nat) : Nat := 0x70044 + 0x100 * i + 0x8 * j
/-- SYNC_CFG. -/
def syncCfg : Nat := 0x71000
/-- SYNC_CMD. -/
def syncCmd : Nat := 0x71004
/-- SYNC_STAT. -/
def syncStat : Nat := 0x71008
/-- SYNC_TS_LO. -/
def syncTsLo : Nat := 0x71010
/-- SYNC_TS_HI. -/
def syncTsHi : Nat := 0x71014
/-- SYNC_STEEP_LO. -/
def syncSteepLo : Nat := 0x71018
/-- SYNC_STEEP_HI. -/
def syncSteepHi : Nat := 0x7101c
/-- SK_CFG. -/
def skCfg : Nat := 0x71020
/-- SK_STAT. -/
def skStat : Nat := 0x71024
/-- RAIL_VSET. -/
def railVset (i : Nat) : Nat := 0x80000 + 0x40 * i
/-- RAIL_VMAX. -/
def railVmax (i : Nat) : Nat := 0x80004 + 0x40 * i
/-- RAIL_ILIM. -/
def railIlim (i : Nat) : Nat := 0x80008 + 0x40 * i
/-- RAIL_RAMP. -/
def railRamp (i : Nat) : Nat := 0x8000c + 0x40 * i
/-- RAIL_CFG. -/
def railCfg (i : Nat) : Nat := 0x80010 + 0x40 * i
/-- RAIL_TIME. -/
def railTime (i : Nat) : Nat := 0x80014 + 0x40 * i
/-- RAIL_STAT. -/
def railStat (i : Nat) : Nat := 0x80018 + 0x40 * i
/-- RAIL_V. -/
def railV (i : Nat) : Nat := 0x8001c + 0x40 * i
/-- RAIL_I. -/
def railI (i : Nat) : Nat := 0x80020 + 0x40 * i
/-- SITE_PWR[s]. -/
def sitePwr (i : Nat) : Nat := 0x81000 + 0x4 * i
/-- KZ_CTL. -/
def kzCtl (i : Nat) : Nat := 0x82000 + 0x40 * i
/-- KZ_PI. -/
def kzPi (i : Nat) : Nat := 0x82004 + 0x40 * i
/-- KZ_OUT. -/
def kzOut (i : Nat) : Nat := 0x82008 + 0x40 * i
/-- KZ_MAN. -/
def kzMan (i : Nat) : Nat := 0x8200c + 0x40 * i
/-- KZ_TH. -/
def kzTh (i : Nat) : Nat := 0x82010 + 0x40 * i
/-- KZ_TMAX. -/
def kzTmax (i : Nat) : Nat := 0x82014 + 0x40 * i
/-- KZ_STAT. -/
def kzStat (i : Nat) : Nat := 0x82018 + 0x40 * i
/-- KZ_U. -/
def kzU (i : Nat) : Nat := 0x8201c + 0x40 * i
/-- AUX_CFG[a]. -/
def auxCfg (i : Nat) : Nat := 0x83000 + 0x10 * i
/-- AUX_CODE[a]. -/
def auxCode (i : Nat) : Nat := 0x83004 + 0x10 * i
/-- AUX_STAT[a]. -/
def auxStat (i : Nat) : Nat := 0x83008 + 0x10 * i
/-- TD_SETTLE. -/
def tdSettle : Nat := 0x84000
/-- TD_STAT. -/
def tdStat : Nat := 0x84004
/-- TD_CNT. -/
def tdCnt : Nat := 0x84008
/-- FU_STAT. -/
def fuStat : Nat := 0x30000
/-- FU_CNT. -/
def fuCnt : Nat := 0x30004
/-- FU_F2CLR. -/
def fuF2clr : Nat := 0x30008
/-- FU_SAFEREQ. -/
def fuSafereq : Nat := 0x3000c
/-- FU_HSTAT. -/
def fuHstat : Nat := 0x30010
/-- FU_HCLR. -/
def fuHclr : Nat := 0x30014
/-- FU_HIST[k]. -/
def fuHist (i : Nat) (j : Nat) : Nat := 0x30100 + 0x10 * i + 0x4 * j
/-- FU_F2TAB[k]. -/
def fuF2tab (i : Nat) : Nat := 0x30200 + 0x4 * i
/-- WL_RVMAX[r]. -/
def wlRvmax (i : Nat) : Nat := 0x0 + 0x8 * i
/-- WL_RIMAX[r]. -/
def wlRimax (i : Nat) : Nat := 0x4 + 0x8 * i
/-- WL_ZONE[q]. -/
def wlZone (i : Nat) : Nat := 0x400 + 0x4 * i
/-- WL_SITE[s]. -/
def wlSite (i : Nat) : Nat := 0x800 + 0x4 * i
/-- WD_STAT. -/
def wdStat : Nat := 0x1000
/-- WD_VIOL. -/
def wdViol : Nat := 0x1004
/-- WD_F5. -/
def wdF5 : Nat := 0x1008
/-- PIRQMAP[k]. -/
def pirqmap (i : Nat) : Nat := 0x2000 + 0x4 * i
/-- MI_CFG[m]. -/
def miCfg (i : Nat) : Nat := 0xa0000 + 0x10 * i
/-- MI_STAT[m]. -/
def miStat (i : Nat) : Nat := 0xa0004 + 0x10 * i
/-- MI_ADDR[m]. -/
def miAddr (i : Nat) : Nat := 0xa0008 + 0x10 * i
/-- MI_LAP[m]. -/
def miLap (i : Nat) : Nat := 0xa000c + 0x10 * i
/-- MI_PWSTAT. -/
def miPwstat : Nat := 0xa0700
/-- MI_OTPBAD[k]. -/
def miOtpbad (i : Nat) : Nat := 0xa0780 + 0x4 * i
/-- EC_CFG[k]. -/
def ecCfg (i : Nat) : Nat := 0x20000 + 0x20 * i
/-- EC_PROD[k][j]. -/
def ecProd (i : Nat) (j : Nat) : Nat := 0x20004 + 0x20 * i + 0x4 * j
/-- EC_CNT[k]. -/
def ecCnt (i : Nat) : Nat := 0x20014 + 0x20 * i
/-- EVFLAG[w]. -/
def evflag (i : Nat) : Nat := 0x28000 + 0x4 * i
/-- EV_STAT. -/
def evStat : Nat := 0x28100
/-- EV_SW. -/
def evSw : Nat := 0x28104
/-- EVPA_CFG[k]. -/
def evpaCfg (i : Nat) : Nat := 0x29000 + 0x8 * i
/-- EVPA_HOLD[k]. -/
def evpaHold (i : Nat) : Nat := 0x29004 + 0x8 * i
/-- THM_CFG. -/
def thmCfg : Nat := 0x40000
/-- THR_CTL. -/
def thrCtl : Nat := 0x40004
/-- ADM_CTL. -/
def admCtl : Nat := 0x40008
/-- ADM_STAT. -/
def admStat : Nat := 0x4000c
/-- THM_TA[q]. -/
def thmTa (i : Nat) : Nat := 0x40020 + 0x4 * i
/-- THM_TB[q]. -/
def thmTb (i : Nat) : Nat := 0x40030 + 0x4 * i
/-- THM_QSTAT[q]. -/
def thmQstat (i : Nat) : Nat := 0x40040 + 0x4 * i
/-- THM_CHIP. -/
def thmChip : Nat := 0x40050
/-- THM_STAT. -/
def thmStat : Nat := 0x40054
/-- PWR_DOM[k]. -/
def pwrDom (i : Nat) : Nat := 0x40100 + 0x4 * i
/-- PWR_TOTAL. -/
def pwrTotal : Nat := 0x40200
/-- WL_TBND. -/
def wlTbnd : Nat := 0x1800
/-- CAL_CTL. -/
def calCtl : Nat := 0x50000
/-- CAL_STAT. -/
def calStat : Nat := 0x50004
/-- CAL_SEQ. -/
def calSeq : Nat := 0x50008
/-- CAL_UADDR. -/
def calUaddr : Nat := 0x50010
/-- CAL_FADDR. -/
def calFaddr : Nat := 0x50018
/-- CAL_UDATA. -/
def calUdata : Nat := 0x50014
/-- CAL_FDATA. -/
def calFdata : Nat := 0x5001c
/-- CAL_SAVE. -/
def calSave : Nat := 0x50020
/-- CAL_AGE[n]. -/
def calAge (i : Nat) : Nat := 0x51000 + 0x8 * i
/-- CAL_CSTAT[n]. -/
def calCstat (i : Nat) : Nat := 0x51004 + 0x8 * i
/-- MCVER. -/
def mcver : Nat := 0xc0000
/-- MCCRC. -/
def mccrc : Nat := 0xc0004
/-- MC_LSTAT. -/
def mcLstat : Nat := 0xc0008
/-- MC_ROMBAD[x]. -/
def mcRombad (i : Nat) : Nat := 0xc0040 + 0x4 * i
/-- MC_ERR[x]. -/
def mcErr (i : Nat) : Nat := 0xc0100 + 0x10 * i
/-- MC_ERRPC[x]. -/
def mcErrpc (i : Nat) : Nat := 0xc0104 + 0x10 * i
/-- MC_MATCH[k]. -/
def mcMatch (i : Nat) : Nat := 0xc0400 + 0x4 * i
/-- MC_CSEL. -/
def mcCsel : Nat := 0xc0500
/-- MC_CDATA[j]. -/
def mcCdata (i : Nat) : Nat := 0xc0504 + 0x4 * i
/-- MCP_SRC. -/
def mcpSrc : Nat := 0x3000
/-- MCP_ROW. -/
def mcpRow : Nat := 0x3004
/-- MCP_CTL. -/
def mcpCtl : Nat := 0x3008
/-- CLK_STAT. -/
def clkStat : Nat := 0x10000
/-- CLK_OUT[k]. -/
def clkOut (i : Nat) : Nat := 0x10010 + 0x4 * i
/-- PLLB_STAT. -/
def pllbStat : Nat := 0x10040
/-- RST_STAT. -/
def rstStat : Nat := 0x10100
/-- RST_TIME. -/
def rstTime : Nat := 0x10104
/-- RST_REQ. -/
def rstReq : Nat := 0x4000
/-- CP_DEV[d]. -/
def cpDev (i : Nat) : Nat := 0x90000 + 0x4 * i
/-- CP_XIP. -/
def cpXip : Nat := 0x90040
/-- CP_FLASH. -/
def cpFlash : Nat := 0x90044
/-- CP_STAT. -/
def cpStat : Nat := 0x90048
/-- SP_ERR. -/
def spErr : Nat := 0x90100
/-- CP_CFG. -/
def cpCfg : Nat := 0x5000
/-- SP_ID. -/
def spId : Nat := 0x0
/-- SP_HEALTH. -/
def spHealth : Nat := 0x4
/-- SP_CMD. -/
def spCmd : Nat := 0x8
/-- SP_PTR. -/
def spPtr : Nat := 0xc
/-- SP_DATA. -/
def spData : Nat := 0x10
/-- SP_STAT. -/
def spStat : Nat := 0x14
/-- SP_CFG. -/
def spCfg : Nat := 0x18
/-- SP_IRQ. -/
def spIrq : Nat := 0x1c
/-- P1W_PTR. -/
def p1wPtr : Nat := 0x6000
/-- P1W_DATA. -/
def p1wData : Nat := 0x6004
/-- ID. -/
def id : Nat := 0x0
/-- TSTAMP_LO. -/
def tstampLo : Nat := 0x28
/-- TSTAMP_HI. -/
def tstampHi : Nat := 0x2c
/-- REG_ERR. -/
def regErr : Nat := 0x30

end Off

end Sys2Proof.Machine
end

