-- ==== Sys2Proof/Machine/Table.lean ====
section
/-!
DEFINITION. The sparse table in its canonical form: (index, value) pairs with strictly rising indexes and no entry equal
to what an unlisted index reads as. That default is a function of the index (a register's reset value) or one value (a
unit after reset). Every register file, unit file and the bytes of vector memory are such tables.
-/
namespace Sys2Proof.Machine

/-- The value at an index: the listed one, else the default. -/
def tblGet {α : Type} (dflt : Nat → α) : List (Nat × α) → Nat → α
  | [], k => dflt k
  | (i, v) :: t, k => if i = k then v else tblGet dflt t k

/-- Puts an entry in its place. -/
def tblPut {α : Type} (k : Nat) (v : α) : List (Nat × α) → List (Nat × α)
  | [] => [(k, v)]
  | (i, w) :: t =>
    if i < k then (i, w) :: tblPut k v t
    else if i = k then (k, v) :: t
    else (k, v) :: (i, w) :: t

/-- Takes an index out of the table. -/
def Tbl.drop {α : Type} (t : List (Nat × α)) (k : Nat) : List (Nat × α) := t.filter fun e => !decide (e.1 = k)

/-- Writes a value at an index; a value equal to the default leaves no entry. -/
def tblSet {α : Type} [DecidableEq α] (dflt : Nat → α) (t : List (Nat × α)) (k : Nat) (v : α) : List (Nat × α) :=
  if v = dflt k then Tbl.drop t k else tblPut k v t

/-- The indexes of a table rise strictly from above `b`. -/
def tblRising {α : Type} : Option Nat → List (Nat × α) → Bool
  | _, [] => true
  | b, (i, _) :: t => (match b with | none => true | some j => decide (j < i)) && tblRising (some i) t

/-- No entry equals what an unlisted index reads as. -/
def tblLean {α : Type} [DecidableEq α] (dflt : Nat → α) : List (Nat × α) → Bool
  | [] => true
  | (i, v) :: t => !decide (v = dflt i) && tblLean dflt t

/-- The canonical form. -/
def tblWf {α : Type} [DecidableEq α] (dflt : Nat → α) (t : List (Nat × α)) : Bool :=
  tblRising none t && tblLean dflt t

/-- The value at an index with one default. -/
def Tbl.get {α : Type} (d : α) (t : List (Nat × α)) (k : Nat) : α := tblGet (fun _ => d) t k

/-- Writes a value at an index with one default. -/
def Tbl.set {α : Type} [DecidableEq α] (d : α) (t : List (Nat × α)) (k : Nat) (v : α) : List (Nat × α) :=
  tblSet (fun _ => d) t k v

/-- Looks an index up among the listed entries. -/
def Tbl.find {α : Type} (t : List (Nat × α)) (k : Nat) : Option α := tblGet (fun _ => none) (t.map fun e => (e.1, some e.2)) k

end Sys2Proof.Machine
end

