-- ==== Sys2Proof/Machine/Ops.lean ====
section
/-!
DEFINITION. The named operations on the state: registers by space and offset, units by number, time, messages to the
host, pulses into the event fabric, and the history queue with the notices of classes F0 and F1.
-/
namespace Sys2Proof.Machine

open Sys2Proof

/-- What a meaning answers. -/
abbrev Result := Host.Outcome State Fault Refusal

/-! ### Registers -/

/-- Register of PF0 BAR0 at an offset. -/
def State.rg (s : State) (off : Nat) : Word := tblGet resetPf0 s.reg off
/-- Writes a register of PF0 BAR0. -/
def State.setRg (s : State) (off : Nat) (w : Word) : State := { s with reg := tblSet resetPf0 s.reg off w }
/-- Register of PF1 BAR0 at an offset. -/
def State.sg (s : State) (off : Nat) : Word := tblGet resetPf1 s.sec off
/-- Writes a register of PF1 BAR0. -/
def State.setSg (s : State) (off : Nat) (w : Word) : State := { s with sec := tblSet resetPf1 s.sec off w }
/-- Register of the service window. -/
def State.wg (s : State) (off : Nat) : Word := tblGet resetWin s.win off
/-- Writes a register of the service window. -/
def State.setWg (s : State) (off : Nat) (w : Word) : State := { s with win := tblSet resetWin s.win off w }
/-- Applied value of a setting in the steep in progress (R49, R50). -/
def State.ap (s : State) (off : Nat) : Word := tblGet resetPf0 s.app off
/-- Writes the applied value of a setting. -/
def State.setAp (s : State) (off : Nat) (w : Word) : State := { s with app := tblSet resetPf0 s.app off w }

/-- A field of a PF0 register. -/
def State.rf (s : State) (off lo len : Nat) : Nat := fld (s.rg off) lo len
/-- A flag of a PF0 register. -/
def State.rb (s : State) (off i : Nat) : Bool := flag (s.rg off) i
/-- Notes a change of a PF0 register by the part in the marks of the present CCLK (R4). -/
def markNote (old : Word) (off : Nat) (f : Word → Word) : List Mark → List Mark
  | [] => [{ off := off, was := old, new := f 0 }]
  | m :: t => if m.off = off then { m with new := f m.new } :: t else m :: markNote old off f t
/-- The part changes a PF0 register, and a clear by software in the same CCLK leaves what it sets (R4). -/
def State.change (s : State) (off : Nat) (f : Word → Word) : State :=
  { s.setRg off (f (s.rg off)) with marks := markNote (s.rg off) off f s.marks }
/-- The part changes a register of PF1 BAR0; its marks carry the offset plus 0x8000000 (R4). -/
def State.changeSg (s : State) (off : Nat) (f : Word → Word) : State :=
  { s.setSg off (f (s.sg off)) with marks := markNote (s.sg off) (off + 0x8000000) f s.marks }
/-- The part changes a register of the service window; its marks carry the address plus 0x10000000 (R4). -/
def State.changeWg (s : State) (off : Nat) (f : Word → Word) : State :=
  { s.setWg off (f (s.wg off)) with marks := markNote (s.wg off) (off + 0x10000000) f s.marks }
/-- Bits of a PF0 register that the part set in the present CCLK. -/
def State.setNow (s : State) (off : Nat) : Word := ((s.marks.find? fun m => m.off = off).map (·.new)).getD 0
/-- Writes a field of a PF0 register. -/
def State.setRf (s : State) (off lo len v : Nat) : State := s.change off fun w => setFld w lo len v
/-- Writes a flag of a PF0 register. -/
def State.setRb (s : State) (off i : Nat) (b : Bool) : State := s.change off fun w => setFlag w i b
/-- Keeps what a register holds before a write that takes effect in the next CCLK: of the site map, for SITE_CLMASK and
SITE_CNT (R14), and of an event channel (R351, R358). -/
def State.regNote (s : State) (off : Nat) : State :=
  if s.regOld.any fun e => e.1 = off then s else { s with regOld := s.regOld ++ [(off, s.rg off)] }
/-- The site map and the event channels as they stood before the present CCLK. -/
def State.regBack (s : State) : State := s.regOld.foldl (fun s e => s.setRg e.1 e.2) s
/-- Adds to a counter of a PF0 register, saturating. -/
def State.count (s : State) (off lo len n : Nat) : State := s.change off fun w => satAdd w lo len n
/-- A field of a PF1 register. -/
def State.sf (s : State) (off lo len : Nat) : Nat := fld (s.sg off) lo len
/-- A field of an applied setting. -/
def State.af (s : State) (off lo len : Nat) : Nat := fld (s.ap off) lo len

/-! ### Units -/

/-- Sequencer `x`. -/
def State.sq (s : State) (x : Nat) : SeqSt := Tbl.get SeqSt.reset s.seq x
/-- Writes sequencer `x`. -/
def State.setSq (s : State) (x : Nat) (v : SeqSt) : State := { s with seq := Tbl.set SeqSt.reset s.seq x v }
/-- Cluster `c`. -/
def State.cl (s : State) (c : Nat) : CluSt := Tbl.get CluSt.reset s.clu c
/-- Writes cluster `c`. -/
def State.setCl (s : State) (c : Nat) (v : CluSt) : State := { s with clu := Tbl.set CluSt.reset s.clu c v }
/-- Channel `n`. -/
def State.ch (s : State) (n : Nat) : ChanSt := Tbl.get ChanSt.reset s.chan n
/-- Writes channel `n`. -/
def State.setCh (s : State) (n : Nat) (v : ChanSt) : State := { s with chan := Tbl.set ChanSt.reset s.chan n v }
/-- Site `k`. -/
def State.st (s : State) (k : Nat) : SiteSt := Tbl.get SiteSt.reset s.site k
/-- Writes site `k`. -/
def State.setSt (s : State) (k : Nat) (v : SiteSt) : State := { s with site := Tbl.set SiteSt.reset s.site k v }
/-- Rail `r`. -/
def State.rl (s : State) (r : Nat) : RailSt := Tbl.get RailSt.reset s.rail r
/-- Writes rail `r`. -/
def State.setRl (s : State) (r : Nat) (v : RailSt) : State := { s with rail := Tbl.set RailSt.reset s.rail r v }
/-- Kettle zone `q`. -/
def State.kz (s : State) (q : Nat) : ZoneSt := Tbl.get ZoneSt.reset s.zone q
/-- Writes kettle zone `q`. -/
def State.setKz (s : State) (q : Nat) (v : ZoneSt) : State := { s with zone := Tbl.set ZoneSt.reset s.zone q v }
/-- TIU `t`. -/
def State.tu (s : State) (t : Nat) : TiuSt := Tbl.get TiuSt.reset s.tiu t
/-- Writes TIU `t`. -/
def State.setTu (s : State) (t : Nat) (v : TiuSt) : State := { s with tiu := Tbl.set TiuSt.reset s.tiu t v }
/-- Waveform engine `w`. -/
def State.wv (s : State) (w : Nat) : WeSt := Tbl.get WeSt.reset s.we w
/-- Writes waveform engine `w`. -/
def State.setWv (s : State) (w : Nat) (v : WeSt) : State := { s with we := Tbl.set WeSt.reset s.we w v }

/-- Applies `f` at each index, in order. -/
def State.each (s : State) (l : List Nat) (f : Nat → State → State) : State := l.foldl (fun s i => f i s) s

/-- The commands of the present CCLK that have not acted: those that wait for others stand first. -/
def State.waiting (s : State) : List Instr := s.behind ++ s.pending
/-- Puts a command behind the others of the present CCLK. -/
def State.putBehind (s : State) (c : Instr) : State := { s with behind := s.behind ++ [c] }

/-- Takes the next number for a free value. -/
def State.fresh (s : State) : State := { s with freeCtr := s.freeCtr + 1 }

/-! ### Topology (R7, R8) -/

/-- Cluster of a channel. -/
def clusterOf (n : Nat) : Nat := n / 32
/-- Site of channel `n`, where it is assigned (R15). -/
def State.chSite (s : State) (n : Nat) : Option Nat :=
  if s.rb (Off.chsite n) 31 then some (s.rf (Off.chsite n) 0 7) else none
/-- Site of rail `r`, where it is assigned (R16). -/
def State.railSite (s : State) (r : Nat) : Option Nat :=
  if s.rb (Off.railsite r) 31 then some (s.rf (Off.railsite r) 0 7) else none
/-- Site of aux output `a`, where it is assigned; AUX0 to AUX3 are none's (R9, R17). -/
def State.auxSite (s : State) (a : Nat) : Option Nat :=
  if 4 ≤ a ∧ s.rb (Off.auxsite a) 31 then some (s.rf (Off.auxsite a) 0 7) else none
/-- Channels whose map entry is enabled: listed offsets of the image, so that an empty map costs nothing. -/
def State.mapped (s : State) : List Nat :=
  (s.reg.filter fun e => decide (0x1000000 ≤ e.1 ∧ e.1 < 0x1000800) && flag e.2 31).map fun e => (e.1 - 0x1000000) / 4
/-- Channels of site `k`. -/
def State.siteChans (s : State) (k : Nat) : List Nat := s.mapped.filter fun n => s.chSite n = some k
/-- Rails of site `k`. -/
def State.siteRails (s : State) (k : Nat) : List Nat :=
  ((s.reg.filter fun e => decide (0x1000800 ≤ e.1 ∧ e.1 < 0x1000900) && flag e.2 31).map fun e =>
    (e.1 - 0x1000800) / 4).filter fun r => s.railSite r = some k
/-- Aux outputs of site `k`. -/
def State.siteAux (s : State) (k : Nat) : List Nat := idxs 16 fun a => s.auxSite a = some k
/-- Site `k` has a channel in cluster `c` (SITE_CLMASK, R21). -/
def State.siteIn (s : State) (k c : Nat) : Bool := (s.siteChans k).any fun n => clusterOf n = c
/-- Sites with a channel in cluster `c`, rising. -/
def State.clSites (s : State) (c : Nat) : List Nat := idxs 128 fun k => s.siteIn k c
/-- Site `k` is fenced (R20). -/
def State.fenced (s : State) (k : Nat) : Bool := s.rb (Off.siteStat k) 31
/-- Site `k` is enabled (R19). -/
def State.enabled (s : State) (k : Nat) : Bool := s.rb (Off.siteCtl k) 31
/-- Site `k` is POWERED (R12). -/
def State.powered (s : State) (k : Nat) : Bool := s.rb (Off.siteStat k) 28
/-- Channel `n` is in its park state (R152). -/
def State.parkedCh (s : State) (n : Nat) : Bool := flag (s.rg (Off.chStat (n / 32) (n % 32))) 31
/-- Cluster `c` has PARK = 1. -/
def State.parkReq (s : State) (c : Nat) : Bool := s.rb (Off.clPark c) 0
/-- CL_PARK.PARKED of cluster `c`. -/
def State.clParked (s : State) (c : Nat) : Bool := s.rb (Off.clPark c) 31
/-- The part is in F4 or F5. -/
def State.safe (s : State) : Bool := s.fault.f4 || s.fault.f5

/-- The part runs on the bypass clock (CLK_STAT.BYP, R412, R413). -/
def State.bypass (s : State) : Bool := s.rb Off.clkStat 30

/-- A checker of a memory of cluster or sequencer `x` has failed its self-test: out of service until a full reset (R348). -/
def State.bistDead (s : State) (x : Nat) : Bool :=
  (if x < 16 then [x, 16 + x, 32 + x, 48 + x, 64 + x, 84 + x] else [80, 100]).any fun m => s.rb (Off.miStat m) 31

/-- Continuous read ends before a transfer to code 0 that is not an execute-in-place read (R435). -/
def State.contEnd (s : State) : State := s.setRb Off.cpStat 30 false

/-! ### Time -/

/-- A CCLK in half picoseconds. -/
def hps : Nat := 2500
/-- A TCLK in half picoseconds (312.5 ps). -/
def tclkHps : Nat := 625
/-- The present in half picoseconds. -/
def State.nowH (s : State) : Nat := s.now * hps

/-! ### Messages to the host -/

/-- The part can issue requests on the link (R249). -/
def State.linkOk (s : State) : Bool := s.qm.link && s.qm.bme

/-- Signals an MSI-X vector of PF0 or PF1; one message per vector and cycle (R250), pending while the link is down
(R249): the messages of one vector from several cycles then all stay pending (DESIGN CHOICE, log 88: R249 does not say). -/
def State.msix (s : State) (pf1 : Bool) (v : BitVec 11) : State :=
  if s.qm.sentNow.contains (pf1, v) then s
  else
    let q := { s.qm with sentNow := s.qm.sentNow ++ [(pf1, v)] }
    if s.linkOk then { s with qm := { q with msix := q.msix ++ [(pf1, v)] } }
    else { s with qm := { q with msixPend := q.msixPend ++ [(pf1, v)] } }

/-- Interrupt source `k` of PF0 through IRQMAP (R250). -/
def State.irq (s : State) (k : Nat) : State :=
  let m := s.rg (Off.irqmap k)
  if flag m 31 then s.msix false (BitVec.ofNat 11 (fld m 0 11)) else s

/-- Interrupt source `k` of PF1 through PIRQMAP (R338). -/
def State.pirq (s : State) (k : Nat) : State :=
  let m := s.sg (Off.pirqmap k)
  if flag m 31 then s.msix true (BitVec.ofNat 11 (fld m 0 11)) else s

/-! ### The event fabric's sources (R350 to R353) -/

/-- Quadrant of a comparator source. -/
def srcQuad (src : Nat) : Option Nat := if src < 0x800 then some (src / 512) else none

/-- Producers of event channels that name a source, as (channel, producer): read from the listed EC_PROD registers. -/
def State.producers (s : State) (src : Nat) : List (Nat × Nat) :=
  s.reg.flatMap fun e =>
    if decide (0x20000 ≤ e.1 ∧ e.1 < 0x28000 ∧ 4 ≤ e.1 % 0x20 ∧ e.1 % 0x20 < 0x14) then
      let k := (e.1 - 0x20000) / 0x20
      let j := (e.1 % 0x20 - 4) / 4
      (if flag e.2 15 && fld e.2 0 12 = src then [(k, 2 * j)] else []) ++
      (if flag e.2 31 && fld e.2 16 12 = src then [(k, 2 * j + 1)] else [])
    else []

/-- A pulse of source `src` with hop count `hc` enters every channel that names it and that `near` selects, where EN is 1. Both are
judged in the cycle of arrival, under the configuration before the writes of that cycle (R351). -/
def State.inject (s : State) (src hc : Nat) (near : Nat → Bool) : State :=
  let b := s.regBack
  let on := (b.producers src).filter fun p => near p.1 && b.rb (Off.ecCfg p.1) 31
  { s with pulses := s.pulses ++ on.map fun p =>
      { ch := p.1, prod := p.2, at_ := s.now, hc := hc, cfg := b.rg (Off.ecCfg p.1) } }

/-- A pulse of source `src` with hop count `hc` enters its channels (R351), at once or 2 CCLK later where a comparator's pulse crosses
into another section (R353). -/
def State.pulse (s : State) (src hc : Nat) : State :=
  match srcQuad src with
  | none => s.inject src hc fun _ => true
  | some q =>
    let s := s.inject src hc fun k => decide (k / 256 = q)
    { s with transit := s.transit ++ [{ src := src, hc := hc, at_ := s.now + 2, quad := some q }] }

/-- The pulses whose CCLK of arrival has come enter their channels. -/
def State.enter (s : State) : State :=
  let due := s.transit.filter fun t => decide (t.at_ ≤ s.now)
  due.foldl (fun s t => s.inject t.src t.hc fun k => decide (t.quad ≠ some (k / 256)))
    { s with transit := s.transit.filter fun t => decide (s.now < t.at_) }

/-- A source fires: its pulse carries hop count 0 into the first channel (R357). -/
def State.fire (s : State) (src : Nat) : State := s.pulse src 0

/-- Source numbers of R350. -/
def evCmp (n k : Nat) : Nat := 4 * n + k
def evTick : Nat := 0x888
def evPourDone : Nat := 0x889
def evContactRise : Nat := 0x88A
def evContactFall : Nat := 0x88B
def evSettledRise : Nat := 0x88C
def evSettledFall : Nat := 0x88D
def evLiftOkRise : Nat := 0x88E
def evLiftOkFall : Nat := 0x88F
def evUnexplift : Nat := 0x890
def evCluster (c k : Nat) : Nat := 0x900 + 8 * c + k
def evPot (p k : Nat) : Nat := 0x980 + 2 * p + k
def evTiu (t k : Nat) : Nat := 0xA00 + 2 * t + k
def evWe (w k : Nat) : Nat := 0xA10 + 2 * w + k
def evTrip (r : Nat) : Nat := 0xA40 + r
def evPowered (k : Nat) : Nat := 0xA80 + k
def evFenced (k : Nat) : Nat := 0xB00 + k

/-! ### The history queue (R331 to R333) -/

/-- A fault event: class, source, cause, offset, site, and whether the warden detected it. -/
structure Ev where
  cls   : Nat
  src   : Nat
  cause : Nat
  off   : Nat
  site  : Option Nat
  wd    : Bool
  deriving DecidableEq, Repr

/-- Class of an entry. -/
def Hist.cls (h : Hist) : Nat := fld h.w2 29 3

/-- The words of an entry (R332). -/
def Ev.words (e : Ev) (ts : BitVec 64) (frz : Bool) : Hist :=
  { ts := ts
    w2 := setFlag (setFlag (setFld (setFld (setFlag (setFld 0 29 3 e.cls) 26 e.wd) 16 7 (e.site.getD 0)) 0 16 e.src)
      23 e.site.isSome) 27 frz
    w3 := setFld (setFld 0 26 6 e.cause) 0 26 e.off }

/-- Entry of the queue that a new entry of class `cls` replaces: the oldest whose class is at most its own. -/
def State.victim (s : State) (cls : Nat) : Option Nat :=
  s.fault.order.find? fun k => decide ((Tbl.get { ts := 0, w2 := 0, w3 := 0 } s.fault.hist k).cls ≤ cls)

/-- Writes an entry, in a free slot or over the oldest of at most its class; else counts it in LOSTCNT. A new entry
signals source 209 of PF0 (R250), or source 0 of PF1 (R338) and SP_IRQ.HIST. After a freeze only entries of the freezing CCLK
are written (R331). `frz` marks and freezes. -/
def State.hist (s : State) (e : Ev) (frz : Bool) : State :=
  let lost := s.count Off.fuHstat 0 8 1
  let openQ := match s.fault.frozen with
    | none => true
    | some t => decide (t = s.now)
  if !openQ then lost
  else
    let free := (idxs 16 fun k => !s.fault.order.contains k).head?
    let slot := match free with
      | some k => some k
      | none => s.victim e.cls
    match slot with
    | none => lost
    | some k =>
      let s := { s with fault := { s.fault with
        hist := Tbl.set { ts := 0, w2 := 0, w3 := 0 } s.fault.hist k (e.words s.tstamp frz)
        order := (s.fault.order.filter (· ≠ k)) ++ [k]
        frozen := if frz && s.fault.frozen.isNone then some s.now else s.fault.frozen } }
      if e.cls ≤ 1 then s.irq 209
      else (s.changeWg Off.spIrq fun w => setFlag w 2 true).pirq 0

/-- A class F0 notice: history entry, FU_STAT.F0 and F0CNT (R319). -/
def State.notice (s : State) (src cause off : Nat) (site : Option Nat := none) : State :=
  ((s.hist { cls := 0, src := src, cause := cause, off := off, site := site, wd := false } false).setRb Off.fuStat 0
    true).count Off.fuCnt 0 12 1

/-- A class F1 fault. -/
def State.correctable (s : State) (src cause off : Nat) : State :=
  ((s.hist { cls := 1, src := src, cause := cause, off := off, site := none, wd := false } false).setRb Off.fuStat 1
    true).count Off.fuCnt 12 12 1

/-- Source of a register block (R333, R485): 0xF000 + OFFSET bits [25:16]. -/
def blockSrc (off : Nat) : Nat := 0xF000 + off / 0x10000

/-- A notice of a register block, which names no other unit (R485). -/
def State.noticeAt (s : State) (off : Nat) (site : Option Nat := none) : State := s.notice (blockSrc off) 0 off site

/-- A notice that arises in cluster `c` (R485). -/
def State.noticeCl (s : State) (c off : Nat) (site : Option Nat := none) : State := s.notice c 0 off site

/-- SRC of a queue and the bits its number adds to CAUSE and OFFSET (R333). -/
def queueSrc (qid : Nat) : Nat := 0x7000 + qid % 0x1000

/-- CAUSE field of a queue's entry: word 3 bits [31:24] hold QID[19:12] (R333), so CAUSE[5:0] is QID[19:14]. -/
def queueCause (qid : Nat) : Nat := qid / 0x4000 % 64

/-- OFFSET field of a queue's entry: QID[13:12] in OFFSET[25:24], over the offset's low bits. -/
def queueOff (qid off : Nat) : Nat := off % 0x1000000 + qid / 0x1000 % 4 * 0x1000000

end Sys2Proof.Machine
end

