-- ==== Sys2Proof/Machine/Memory.lean ====
section
/-!
DEFINITION. Vector memory (R126, R146 to R149, R341 to R343): bytes, rows, poisoned rows, the init bitmap with its
implicit-fill slots, the fill engine, and the leaky buckets of all memories (R346).
-/
namespace Sys2Proof.Machine

open Sys2Proof

/-- Region (1 MiB) of a byte address. -/
def regionOf (a : Nat) : Nat := a / 0x100000
/-- Region of a row. -/
def rowRegion (r : Nat) : Nat := r / 0x20000
/-- Line (64 B) of a row within its region. -/
def rowLine (r : Nat) : Nat := r % 0x20000 / 8
/-- Rows of vector memory. -/
def rowCount : Nat := 0x100000000
/-- First row of the queue descriptor region (R230). -/
def descRow : Nat := 0xFFC00000
/-- A row lies in the queue descriptor region. -/
def inDesc (r : Nat) : Bool := decide (descRow ≤ r)

/-- Byte `i` of a row, little-endian (R5). -/
def rowByte (w : Row) (i : Nat) : Byte := BitVec.ofNat 8 (w.toNat >>> (8 * i))

/-- Line (64 B) of a byte address within its region. -/
def lineOf (a : Nat) : Nat := a % 0x100000 / 64

/-- The explicit fill has passed byte `a` of the region it works on (R148). -/
def MemSt.passed (m : MemSt) (a : Nat) : Bool := match m.cur with
  | some (g, true) => decide (regionOf a = g ∧ lineOf a < m.pos)
  | _ => false

/-- What an unlisted byte of vector memory reads as: the pattern that the running fill has written, else its region's, 0 before
any explicit fill. -/
def MemSt.dflt (m : MemSt) (a : Nat) : Byte :=
  rowByte (if m.passed a then m.curPat else Tbl.get 0 m.pat (regionOf a)) (a % 8)

/-- The canonical form of the bytes: addresses rise strictly and no entry equals what an unlisted byte reads as. -/
def MemSt.wf (m : MemSt) : Bool := tblWf m.dflt m.cells

/-- Byte at an address. -/
def MemSt.byte (m : MemSt) (a : Nat) : Byte := tblGet m.dflt m.cells a
/-- Writes a byte. -/
def MemSt.setByte (m : MemSt) (a : Nat) (b : Byte) : MemSt := { m with cells := tblSet m.dflt m.cells a b }
/-- Row `r`: bytes 8r to 8r + 7, little-endian (R5, R126). -/
def MemSt.row (m : MemSt) (r : Nat) : Row :=
  BitVec.ofNat 64 ((List.range 8).foldl (fun acc i => acc + (m.byte (8 * r + i)).toNat <<< (8 * i)) 0)
/-- Writes the bytes of a row whose enable bit is 1. -/
def MemSt.putRow (m : MemSt) (r : Nat) (w : Row) (be : BitVec 8) : MemSt :=
  (List.range 8).foldl (fun m i => if be.getLsbD i then m.setByte (8 * r + i) (rowByte w i) else m) m

/-- A word of instruction or register data in a row: low or high half. -/
def rowHalf (w : Row) (hi : Bool) : Word := BitVec.ofNat 32 (if hi then w.toNat >>> 32 else w.toNat)

/-- The engine has filled line `l` of region `g` for the slot that holds it (R147). -/
def MemSt.zeroed (m : MemSt) (g l : Nat) : Bool := decide (m.cur = some (g, false)) && decide (l < m.pos)

/-- The line of a row holds data: its region is initialised, or a slot has marked the line or the engine has filled it for the
slot (R147). -/
def State.lineLive (s : State) (r : Nat) : Bool :=
  s.mem.init.contains (rowRegion r) ||
    s.mem.slots.any fun f => decide (f.region = rowRegion r) &&
      (f.lines.contains (rowLine r) || s.mem.zeroed (rowRegion r) (rowLine r))

/-! ### Buckets and error counters (R341, R346) -/

/-- A corrected error of memory `m` at word `i` (R341, R346). -/
def State.corrected (s : State) (m i : Nat) : State :=
  let o := Off.miStat m
  let s := (s.setRg (Off.miAddr m) (BitVec.ofNat 32 i)).count o 0 8 1
  let lv := s.rf o 16 8
  let lv' := min 255 (lv + 1)
  let s := s.setRf o 16 8 lv'
  let thr := max 1 (s.af (Off.miCfg m) 16 8)
  if lv ≤ thr ∧ thr < lv' ∧ !s.rb o 30 then
    let s := s.setRb o 30 true
    if s.disarmed.contains m then s
    else { s.correctable (0x8000 + m) 1 o with disarmed := s.disarmed ++ [m] }
  else s

/-- An uncorrectable error of memory `m` at word `i` (R341). -/
def State.uncorrected (s : State) (m i : Nat) : State :=
  (s.setRg (Off.miAddr m) (BitVec.ofNat 32 i)).count (Off.miStat m) 8 8 1

/-- Number of vector memory (R339). -/
def memVm : Nat := 82

/-- Row `r` is marked as poisoned (R342). -/
def State.poison (s : State) (r : Nat) : State :=
  { s with mem := { s.mem with bad := insN r s.mem.bad } }

/-- What a read of a row gives: data, NOTINIT status, uncorrectable. -/
structure RowRead where
  data    : Row
  notInit : Bool
  ue      : Bool
  deriving DecidableEq, Repr

/-- What a read of row `r` gives when the checker reports `ecc` (R146, R341, R342). -/
def State.rowRead (s : State) (r : Nat) (ecc : Ecc) : RowRead :=
  if s.lineLive r then
    { data := s.mem.row r, notInit := false, ue := s.mem.bad.contains r || decide (ecc = .uncorrectable) }
  else { data := 0, notInit := true, ue := false }

/-- What the checker reports for a read that no command reports (R341). -/
def State.rowEcc (s : State) : Ecc := match (Config.rowMeet s.freeCtr).val with
  | 0 => .ok
  | 1 => .corrected
  | _ => .uncorrectable

/-- What the read leaves: VM_NOTINIT (R146), the bucket (R341), UECNT and the poisoned row (R342). A read is that of one row: a
sequencer's VEC, VECR or MLOOP counts each row that it issues, not each line fetched (DESIGN CHOICE, log 79). -/
def State.rowSeen (s : State) (r : Nat) (ecc : Ecc) : State :=
  let x := s.rowRead r ecc
  if x.notInit then s.count Off.vmNotinit 0 32 1
  else if x.ue then (s.uncorrected memVm r).poison r
  else if ecc = .corrected then s.corrected memVm r
  else s

/-- Rows with what the checker reports of each, the first reports first; `ok` where none is reported. -/
def withEcc (rows : List Nat) (l : List Ecc) : List (Nat × Ecc) := rows.zipIdx.map fun e => (e.1, l.getD e.2 .ok)
/-- The first of some rows whose read gives an uncorrectable error. -/
def State.firstBad (s : State) (l : List (Nat × Ecc)) : Option Nat := (l.find? fun e => (s.rowRead e.1 e.2).ue).map (·.1)
/-- What the reads of some rows leave. -/
def State.rowsSeen (s : State) (l : List (Nat × Ecc)) : State := l.foldl (fun s e => s.rowSeen e.1 e.2) s
/-- What the checker reports for the `n`-th read from here on that no command reports (R341). -/
def State.rowEccAt (s : State) (n : Nat) : Ecc := State.rowEcc { s with freeCtr := s.freeCtr + n }
/-- Free values have been taken for `n` reads. -/
def State.freshBy (s : State) (n : Nat) : State := { s with freeCtr := s.freeCtr + n }

/-! ### Implicit fills and the fill engine (R147, R148) -/

/-- The pattern of VM_FILL_PAT. -/
def State.fillPat (s : State) : Row :=
  BitVec.ofNat 64 ((s.rg Off.vmFillPatLo).toNat + (s.rg Off.vmFillPatHi).toNat <<< 32)

/-- The engine, which rests, begins region `g`; an explicit fill takes the pattern as it stands then (DESIGN CHOICE, log 82). -/
def State.fillBegin (s : State) (g : Nat) (explicit : Bool) : State :=
  { s with mem := { s.mem with cur := some (g, explicit), pos := 0, curPat := s.fillPat } }

/-- The engine takes its next region if it rests: the oldest waiting implicit-fill region, else the explicit fill's next, which
VM_FILL_STAT.CUR then shows (DESIGN CHOICE, log 79: CUR does not follow implicit fills). -/
def State.fillNext (s : State) : State :=
  if s.mem.cur.isSome then s
  else match s.mem.slots, s.mem.fill with
    | f :: _, _ => s.fillBegin f.region false
    | [], some (n, _) => (s.setRf Off.vmFillStat 0 15 n).fillBegin n true
    | [], none => s

/-- Region `g` is written in full: its bit is set, its slot freed, and the engine rests. -/
def MemSt.initRegion (m : MemSt) (g : Nat) : MemSt :=
  { m with init := insN g m.init
           slots := m.slots.filter fun f => f.region ≠ g }

/-- Byte `a` lies in region `g`, from the engine's position on and before line `l`. -/
def MemSt.ahead (m : MemSt) (g l a : Nat) : Bool := decide (regionOf a = g ∧ m.pos ≤ lineOf a ∧ lineOf a < l)

/-- The explicit fill of region `g` goes on to line `l`: it overwrites every line it passes and removes poison; what is
stored behind it stands (R149, R342). -/
def MemSt.fillTo (m : MemSt) (g l : Nat) : MemSt :=
  { m with cells := m.cells.filter fun c => !m.ahead g l c.1
           bad := m.bad.filter fun r => !m.ahead g l (8 * r)
           pos := max m.pos l }

/-- The explicit fill has passed every line of region `g`. -/
def MemSt.fillRegion (m : MemSt) (g : Nat) : MemSt :=
  let m := m.fillTo g 16384
  { m with pat := Tbl.set 0 m.pat g m.curPat, cur := none }

/-- The engine goes on in the present CCLK by a number of lines that the spec leaves open under load. -/
def State.fillTick (s : State) : State :=
  match s.mem.cur with
  | none => s
  | some (g, explicit) =>
    let l := min 16384 (s.mem.pos + (Config.fillLines s.freeCtr).val)
    State.fresh { s with mem := if explicit then s.mem.fillTo g l else { s.mem with pos := l } }

/-- The engine completes the region it works on and takes the next (R147, R148). A slot that a write takes in the region an explicit fill
works on is freed with that region, without an implicit fill of its own (DESIGN CHOICE, log 88: R148 does not say when). -/
def State.fillDone (s : State) : State :=
  match s.mem.cur with
  | none => s
  | some (g, false) => State.fillNext { s with mem := { s.mem.initRegion g with cur := none } }
  | some (g, true) =>
    let m := (s.mem.fillRegion g).initRegion g
    match s.mem.fill with
    | some (n, last) =>
      if n < last then State.fillNext { s with mem := { m with fill := some (n + 1, last) } }
      else
        State.fillNext (State.setRf { s with mem := { m with fill := none } } Off.vmFillStat 30 2 1)
    | none => State.fillNext { s with mem := m }

/-- A write of row `r` can be stored at once: its region is initialised, holds a slot, or a slot is free (R147). -/
def State.slotFree (s : State) (r : Nat) : Bool :=
  s.mem.init.contains (rowRegion r) || s.mem.slots.any (fun f => f.region = rowRegion r) || decide (s.mem.slots.length < 16)

/-- The write marks its line and takes a slot where its region is not initialised (R147). -/
def State.markLine (s : State) (r : Nat) : State :=
  let g := rowRegion r
  if s.mem.init.contains g then s
  else if s.mem.slots.any (fun f => f.region = g) then
    { s with mem := { s.mem with slots := s.mem.slots.map fun f =>
        if f.region = g && !f.lines.contains (rowLine r) then { f with lines := f.lines ++ [rowLine r] } else f } }
  else State.fillNext { s with mem := { s.mem with slots := s.mem.slots ++ [{ region := g, lines := [rowLine r] }] } }

/-- Regions of rows that are neither initialised nor held by a slot. -/
def State.newRegions (s : State) (rows : List Nat) : List Nat :=
  rows.foldl (fun l r =>
    let g := rowRegion r
    if s.mem.init.contains g || s.mem.slots.any (fun f => f.region = g) || l.contains g then l else g :: l) []
/-- Every row of a write can be stored at once: a slot is free for each region it begins (R147). -/
def State.slotsFor (s : State) (rows : List Nat) : Bool := decide (s.mem.slots.length + (s.newRegions rows).length ≤ 16)

/-- Stores a whole row, which removes poison (R342); the line is marked where its region is not initialised. A writer asks
first whether a slot is free. -/
def State.storeRow (s : State) (r : Nat) (w : Row) : State :=
  let s := s.markLine r
  { s with mem := { s.mem.putRow r w 0xFF with bad := s.mem.bad.filter (· ≠ r) } }

/-- Stores bytes from a byte address on, as whole rows: the address and the length are multiples of 8. -/
def State.storeBytes (s : State) (a : Nat) : List Byte → State
  | b0 :: b1 :: b2 :: b3 :: b4 :: b5 :: b6 :: b7 :: t =>
    (s.storeRow (a / 8) (b7 ++ b6 ++ b5 ++ b4 ++ b3 ++ b2 ++ b1 ++ b0)).storeBytes (a + 8) t
  | _ => s

/-- How a partial or whole write of a row ends (R343): stored, rejected for a poisoned word, or waiting for a slot. -/
inductive WriteEnd where
  | stored | rejected | waits
  deriving DecidableEq, Repr

/-- The end of a write of row `r` with byte enables `be` (R147, R343). -/
def State.writeEnd (s : State) (r : Nat) (be : BitVec 8) (ecc : Ecc) : WriteEnd :=
  if !s.slotFree r then .waits
  else if decide (be = 0xFF) then .stored
  else if s.lineLive r && (s.mem.bad.contains r || decide (ecc = .uncorrectable)) then .rejected
  else .stored

/-- What the write leaves (R147, R342, R343): a rejected one counts in MI_PWSTAT.REJCNT and UECNT, a merge with a
corrected word in MERGECNT and the bucket. -/
def State.writeRow (s : State) (r : Nat) (w : Row) (be : BitVec 8) (ecc : Ecc) : State :=
  match s.writeEnd r be ecc with
  | .waits => s
  | .rejected => ((s.uncorrected memVm r).poison r).count Off.miPwstat 16 16 1
  | .stored =>
    let whole := decide (be = 0xFF)
    let s := if !whole && s.lineLive r && decide (ecc = .corrected)
      then (s.corrected memVm r).count Off.miPwstat 0 16 1 else s
    let s := s.markLine r
    let m := s.mem.putRow r w be
    { s with mem := if whole then { m with bad := m.bad.filter (· ≠ r) } else m }

end Sys2Proof.Machine
end

