-- ==== Sys2Proof/Machine/Writes.lean ====
section
/-!
DEFINITION. The register that a command writes (R2, R33).
-/
namespace Sys2Proof.Machine

open Sys2Proof

/-- Offset of the configuration register `k` of a TIU: CFG, START, STOP, N, WIN, ROUTE. -/
def tiuCfgOff (t k : Nat) : Nat := match k with
  | 0 => Off.tiuCfg t | 1 => Off.tiuStart t | 2 => Off.tiuStop t | 3 => Off.tiuN t | 4 => Off.tiuWin t
  | _ => Off.tiuRoute t

/-- The register that a command writes: party, space, offset and value. -/
def writeOf (c : Instr) : Option (Party × Space × Nat × Word) :=
  let pf0 (p : Party) (off : Nat) (v : Word) := some (p, Space.pf0, off, v)
  match c with
  | .registerWrite p sp off .dword v => some (p, sp, off.toNat, v)
  | .chsiteWrite p n v => pf0 p (Off.chsite n) v
  | .railsiteWrite p r v => pf0 p (Off.railsite r) v
  | .auxsiteWrite p a v => pf0 p (Off.auxsite a) v
  | .siteEnable p k v => pf0 p (Off.siteCtl k) v
  | .siteDisable p k v => pf0 p (Off.siteCtl k) v
  | .siteUnfence p k v => pf0 p (Off.siteStat k) v
  | .clusterPark p c v => pf0 p (Off.clPark c) v
  | .clusterUnpark p c v => pf0 p (Off.clPark c) v
  | .seqRun p c v => pf0 p (Off.seqCtl c) v
  | .seqStop p c v => pf0 p (Off.seqCtl c) v
  | .seqRegWrite p x k v => pf0 p (if k.val < 16 then Off.seqG x k else Off.seqLc x (k - 16)) v
  | .idmaGo p c v => pf0 p (Off.idmaCtl c) v
  | .potCfgWrite p k v => pf0 p (Off.potCfg k) v
  | .potWrWrite p k v => pf0 p (Off.potWr k) v
  | .fillGo p v => pf0 p Off.vmFillCtl v
  | .tsEdataWrite p c v => pf0 p (Off.tsEdata c) v
  | .caplConfigWrite p c l k v => pf0 p (Off.caplCfg c l + 4 * k) v
  | .capGovWrite p c v => pf0 p (Off.capGov c) v
  | .qdWrite p k v => pf0 p (Off.qdW k) v
  | .qheadAdv p v => pf0 p Off.qheadAdv v
  | .qmHoldWrite p len v => pf0 p (if len then Off.qmHoldLen else Off.qmHoldBase) v
  | .tiuGo p t v => pf0 p (Off.tiuCmd t) v
  | .tiuAbort p t v => pf0 p (Off.tiuCmd t) v
  | .tiuConfigWrite p t k v => pf0 p (tiuCfgOff t k) v
  | .tiuCalGo p t v => pf0 p (Off.tiuCalctl t) v
  | .weGo p w v => pf0 p (Off.weCtl w) v
  | .weStop p w v => pf0 p (Off.weCtl w) v
  | .weConfigWrite p w k v => pf0 p (Off.weCfg w + 4 * k) v
  | .syncSend p v => pf0 p Off.syncCmd v
  | .syncArm p v => pf0 p Off.syncCmd v
  | .railVsetWrite p r v => pf0 p (Off.railVset r) v
  | .railVmaxWrite p r v => pf0 p (Off.railVmax r) v
  | .railCfgWrite p r v => pf0 p (Off.railCfg r) v
  | .sitePowerRequest p k v => pf0 p (Off.sitePwr k) v
  | .sitePowerRelease p k v => pf0 p (Off.sitePwr k) v
  | .auxCfgWrite p a v => pf0 p (Off.auxCfg a) v
  | .auxCodeWrite p a v => pf0 p (Off.auxCode a) v
  | .kzEnable p q v => pf0 p (Off.kzCtl q) v
  | .kzDisable p q v => pf0 p (Off.kzCtl q) v
  | .kzThWrite p q v => pf0 p (Off.kzTh q) v
  | .safeRequest p v => pf0 p Off.fuSafereq v
  | .f2Clear p v => pf0 p Off.fuF2clr v
  | .historyClear p v => pf0 p Off.fuHclr v
  | .wardenLimitWrite p off v => some (p, .pf1, off.toNat, v)
  | .wlTbndWrite p v => some (p, .pf1, Off.wlTbnd, v)
  | .ecConfigWrite p k j v => pf0 p (Off.ecCfg k + 4 * j) v
  | .evSwPulse p v => pf0 p Off.evSw v
  | .calUdataWrite p v => pf0 p Off.calUdata v
  | .calSave p v => pf0 p Off.calSave v
  | .patchLoad p v _ => some (p, .pf1, Off.mcpCtl, v)
  | .patchClear p v => some (p, .pf1, Off.mcpCtl, v)
  | .clkOutWrite p k v => pf0 p (Off.clkOut k) v
  | .rstRequest p v => some (p, .pf1, Off.rstReq, v)
  | .seqhRun p v => pf0 p Off.seqhCtl v
  | .seqhStop p v => pf0 p Off.seqhCtl v
  | .spCmdSafe v => some (.sp, .win, Off.spCmd, v)
  | .spCmdRst v => some (.sp, .win, Off.spCmd, v)
  | .spPtrWrite v => some (.sp, .win, Off.spPtr, v)
  | .spDataWrite v => some (.sp, .win, Off.spData, v)
  | .p1wDataWrite v => some (.pf1, .pf1, Off.p1wData, v)
  | _ => none

/-- The party whose register or vector memory access a command is: its accesses take effect in the order of their receipt
(R463). -/
def accessParty (c : Instr) : Option Party :=
  match writeOf c with
  | some e => some e.1
  | none => match c with
    | .registerWrite p .. => some p
    | .lowWordRead p .. => some p
    | .readClear p .. => some p
    | .tsEdataRead p _ => some p
    | .calUdataRead p => some p
    | .calFdataRead p => some p
    | .p1wDataRead => some .pf1
    | .spDataRead => some .sp
    | .spAccessDone => some .sp
    | .bar2Read .. => some .pf0
    | .bar2Write .. => some .pf0
    | .regAccessDone => some .seqh
    | _ => none

end Sys2Proof.Machine
end

