-- ==== Sys2Proof/Machine/Access.lean ====
section
/-!
DEFINITION. The gate every register write passes (R2, R33, R34, R324, R422, R457, R459): reach, unmapped offsets, writes
discarded in safe state, and same-cycle arbitration.
-/
namespace Sys2Proof.Machine

open Sys2Proof

/-- Place in the party order (R33). -/
def rankOf : Party → Nat
  | .warden => 0 | .pf1 => 1 | .sp => 2 | .pf0 => 3 | .seqh => 4

/-- Number of a party. -/
def spaceNum : Space → Nat
  | .pf0 => 0 | .pf1 => 1 | .win => 2 | .msix0 => 3 | .msix1 => 4

/-- Key of a register for the arbitration of one CCLK. -/
def regKey (sp : Space) (off : Nat) : Nat := off + spaceNum sp * 0x8000000

/-- Which spaces a party reaches (R459); PF1 reaches PF0 BAR0 only through its window, P1W_DATA. -/
def reaches (p : Party) (sp : Space) : Bool := match sp, p with
  | .pf0, .pf1 => false
  | .pf0, _ => true
  | .pf1, .pf1 => true
  | .pf1, .sp => true
  | .win, .sp => true
  | .msix0, .pf0 => true
  | .msix1, .pf1 => true
  | _, _ => false

/-- Register of a space; the tables of MSI-X stand behind the service window. -/
def State.regAt (s : State) (sp : Space) (off : Nat) : Word := match sp with
  | .pf0 => s.rg off
  | .pf1 => s.sg off
  | .win => s.wg off
  | .msix0 => s.wg (0x10000 + off)
  | .msix1 => s.wg (0x20000 + off)
/-- Writes it. -/
def State.setRegAt (s : State) (sp : Space) (off : Nat) (w : Word) : State := match sp with
  | .pf0 => s.setRg off w
  | .pf1 => s.setSg off w
  | .win => s.setWg off w
  | .msix0 => s.setWg (0x10000 + off) w
  | .msix1 => s.setWg (0x20000 + off) w

/-- Counts a lost write of a party in WRLOST_A (R34); the service port also learns of it (R443). -/
def State.lostWrite (s : State) (rank : Nat) : State :=
  if rank = 1 then s.count Off.wrlostA 24 8 1
  else if rank = 2 then
    let s := s.count Off.wrlostA 16 8 1
    s.changeWg Off.spStat fun w => setFlag w 27 true
  else if rank = 3 then s.count Off.wrlostA 8 8 1
  else if rank = 4 then s.count Off.wrlostA 0 8 1
  else s

/-- What the part set in the present CCLK in a register of a space (R4). -/
def State.setNowAt (s : State) (sp : Space) (off : Nat) : Word := s.setNow (regKey sp off)
/-- The W1C bits of a write: those that carry 1 clear, but for those that the part set in the same CCLK (R2, R4). -/
def State.clearing (s : State) (sp : Space) (off mask : Nat) (v : Word) : Word :=
  v &&& BitVec.ofNat 32 mask &&& ~~~s.setNowAt sp off
/-- Clears the W1C bits that `v` carries (R2). -/
def State.w1c (s : State) (sp : Space) (off mask : Nat) (v : Word) : State :=
  if mask = 0 then s else s.setRegAt sp off (s.regAt sp off &&& ~~~s.clearing sp off mask v)

/-- An access that falls under R457: one of PF0 or PF1 counts, one of the service port is refused with SP_STAT.ERR. -/
def State.unmapped (s : State) (p : Party) (sp : Space) : State :=
  if p = .pf0 ∨ p = .pf1 then s.count Off.regErr 24 8 1
  else if p = .sp ∧ sp ≠ .win then s.changeWg Off.spStat fun w => setFlag w 29 true
  else s

/-- A write that R324 discards in F4 and F5. -/
def State.discarded (s : State) (p : Party) : State :=
  let s := s.count Off.fuCnt 24 8 1
  if p = .sp then s.changeWg Off.spStat (fun w => setFlag w 29 true) else s

/-- The block keeps accepting writes in F4 and F5: the fault unit, PF1 and the service window (R324). -/
def openInSafe (sp : Space) (off : Nat) : Bool := sp ≠ .pf0 || decide (0x30000 ≤ off ∧ off < 0x40000)

/-- The registers whose writes never lose: QHEAD_ADV and FU_SAFEREQ (R34). -/
def neverLoses (sp : Space) (off : Nat) : Bool := sp = .pf0 && (off = Off.qheadAdv || off = Off.fuSafereq)
/-- A write of register `r` at index `i` carries an RW or WO field (R34): the fields of AUXSITE[0–3], AUX_CFG[0–3] and
AUX_CODE[0–3] are RO or reserved. -/
def mortalRow (r : RegRow) (i : Nat) : Bool :=
  decide (r.rw + r.wo ≠ 0) && !(decide (i < 4) && (r.id = .auxsite || r.id = .auxCfg || r.id = .auxCode))

/-- A party's accesses wait behind its access that has no implicit-fill slot, or waits for vector memory (R147, R416, R463). -/
def State.partyHeld (s : State) (p : Party) : Bool := s.held.any fun c => decide (accessParty c = some p)
/-- An access of the party waits for others of the CCLK; its later accesses act after it (R463). -/
def State.partyBehind (s : State) (p : Party) : Bool := s.behind.any fun c => decide (accessParty c = some p)
/-- The command with which a write is tried again: PF1 reaches PF0 BAR0 through its window. -/
def requeue (p : Party) (sp : Space) (off : Nat) (v : Word) : Instr :=
  if p = .pf1 ∧ sp = .pf0 then .p1wDataWrite v else .registerWrite p sp (BitVec.ofNat 26 off) .dword v
/-- Puts a command behind the accesses held. -/
def State.hold (s : State) (c : Instr) : State := { s with held := s.held ++ [c] }
/-- A write that finds no implicit-fill slot waits for one, and VM_TRK counts it once (R147). -/
def State.slotHold (s : State) (c : Instr) : State :=
  if s.retried.contains c then { s.hold c with retried := s.retried.erase c } else (s.hold c).count Off.vmTrk 0 16 1

/-- A write of party `p` to the register with key `key` loses to an earlier one of the present CCLK (R33, R34). -/
def State.loses (s : State) (p : Party) (key : Nat) : Bool :=
  s.wrote.any fun e => decide (e.2 = key) && decide (e.1 < rankOf p)

/-- Offset that a value of P1W_PTR addresses. -/
def p1wOff (w : Word) : Nat := 4 * fld w 2 24
/-- Offset that P1W_PTR addresses. -/
def State.p1wTarget (s : State) : Nat := p1wOff (s.sg Off.p1wPtr)
/-- P1W_PTR after an access of P1W_DATA (R460). -/
def p1wStep (w : Word) : Word := if flag w 31 then setFld w 2 24 (fld w 2 24 + 1) else w
/-- P1W_PTR after a command of the queue, from the value `w` on. -/
def ptrAfter (w : Word) (c : Instr) : Word := match writeOf c with
  | some (p, .pf1, off, v) =>
    if !reaches p .pf1 then w else if off = Off.p1wPtr then v else if off = Off.p1wData then p1wStep w else w
  | some _ => w
  | none => match c with
    | .p1wDataRead => p1wStep w
    | .lowWordRead p .pf1 off .dword => if reaches p .pf1 ∧ off.toNat = Off.p1wData then p1wStep w else w
    | .readClear p .pf1 off .dword => if reaches p .pf1 ∧ off.toNat = Off.p1wData then p1wStep w else w
    | _ => w
/-- A write of a party, and the one that it makes through P1W_DATA where P1W_PTR holds `w`. -/
def writeAt (w : Word) (p : Party) (sp : Space) (off : Nat) (v : Word) : List (Party × Space × Nat × Word) :=
  if !reaches p sp then []
  else (p, sp, off, v) :: (if sp = .pf1 ∧ off = Off.p1wData then [(.pf1, .pf0, p1wOff w, v)] else [])
/-- The register writes that a command of the queue makes: the window, the service port and SEQH name theirs elsewhere. -/
def State.writesOf (s : State) (w : Word) (c : Instr) : List (Party × Space × Nat × Word) :=
  match writeOf c with
  | some (p, sp, off, v) => writeAt w p sp off v
  | none => match c with
    | .registerWrite p sp off (.dwords hi) v =>
      if off.toNat % 8 = 0 then writeAt w p sp off.toNat v ++ writeAt w p sp (off.toNat + 4) hi else []
    | .spAccessDone => match s.spp.busy with
      | some (true, sec, off, v) => writeAt w .sp (if sec then .pf1 else .pf0) off v
      | _ => []
    | .regAccessDone => match (s.sq 16).wait with
      | .regWrite off v => if (s.sq 16).readyAt ≤ s.now then [(.seqh, .pf0, off, v)] else []
      | _ => []
    | _ => []
/-- The register writes that the commands of a list make, P1W_PTR holding `w` before them. -/
def State.writesIn (s : State) (w : Word) : List Instr → List (Party × Space × Nat × Word)
  | [] => []
  | c :: l => s.writesOf w c ++ s.writesIn (ptrAfter w c) l
/-- The register writes of the present CCLK that have not acted and are not held. -/
def State.coming (s : State) : List (Party × Space × Nat × Word) :=
  (s.writesIn (s.sg Off.p1wPtr) s.waiting).filter fun e => !s.partyHeld e.1
/-- An offset of SITE_PWR. -/
def isSitePwr (off : Nat) : Bool := decide (Off.sitePwr 0 ≤ off ∧ off < Off.sitePwr 128)
/-- A write of the same register by an earlier party waits in the queue of the present CCLK (R33); of SITE_PWR, a write for
any site, since the power requests are decided in the party order (R374). -/
def State.outranked (s : State) (p : Party) (sp : Space) (off : Nat) : Bool :=
  s.coming.any fun e =>
    decide (e.2.1 = sp) && (decide (e.2.2.1 = off) || decide (sp = .pf0) && isSitePwr off && isSitePwr e.2.2.1) &&
      decide (rankOf e.1 < rankOf p)

/-- Vector memory recalibrates for the DCLK that PLLA carries again: requests to it wait (R416). -/
def State.vmWait (s : State) : Bool := s.clk.relockAt.isSome

/-- Writes a party's read answer. -/
def State.answer (s : State) (p : Party) (r : ReadOut) : State := { s with rdata := Tbl.set .none s.rdata (rankOf p) r }

/-- A cold reset is asserted: the service window answers from the end of step 1 on (R425, R444). -/
def State.coldHeld (s : State) : Bool := s.rst.held && s.rst.cold

/-- Takes a read through the gate: `cmd` is the command itself, and `act` answers the party (R422, R459, R463). -/
def State.gateRead (s : State) (p : Party) (sp : Space) (cmd : Instr) (act : State → State) : State :=
  if s.partyHeld p then s.hold cmd
  else if s.partyBehind p then s.putBehind cmd
  else if sp ≠ .win ∧ !s.rst.ready then s.answer p .unsupported
  else if !reaches p sp then s
  else if sp = .win ∧ s.coldHeld then s.answer p (.data 0)
  else act s

/-- Takes a write through the gate; `act` is what the register does with the value, `lose` what a write that loses still does,
and `drop` what one does that safe state discards. A write that an earlier party's write of the same CCLK will beat waits
behind it (R33). `via` marks a write of PF1's window to PF0 BAR0. -/
def State.gateWrite (s : State) (p : Party) (sp : Space) (off : Nat) (v : Word) (act : State → State) (via : Bool := false)
    (lose drop : State → State := id) : State :=
  if s.partyHeld p then s.hold (.registerWrite p sp (BitVec.ofNat 26 off) .dword v)
  else if s.partyBehind p then s.putBehind (.registerWrite p sp (BitVec.ofNat 26 off) .dword v)
  else if sp ≠ .win ∧ !s.rst.ready then s.answer p .unsupported
  else if !(via || reaches p sp) ∨ (sp = .win ∧ s.coldHeld) then s
  else match findReg (Space.rows sp) off with
    | none => if Space.mapped sp off then s else s.unmapped p sp
    | some (r, ix) =>
      if s.safe ∧ !openInSafe sp off then drop (s.discarded p)
      else
        let key := regKey sp off
        let ranked := mortalRow r (ix.getD 0 0)
        let mortal := ranked && !neverLoses sp off
        if ranked && s.outranked p sp off then s.putBehind (requeue p sp off v)
        else if mortal && s.loses p key then lose ((s.lostWrite (rankOf p)).w1c sp off r.w1c v)
        else
          let late := (s.wrote.filter fun e => e.2 = key && decide (rankOf p < e.1)).map (·.1)
          let s := if mortal then late.foldl State.lostWrite s else s
          act { s with wrote := (s.wrote.filter fun e => e.2 ≠ key) ++ [(rankOf p, key)] }

end Sys2Proof.Machine
end

