-- ==== Sys2Proof/Machine/CalItem.lean ====
section
/-!
DEFINITION. Calibration items (R375 to R383): their place in a table image, factory and user values, interpolation at the
temperature sampled at the last tick, and the correction of a code.
-/
namespace Sys2Proof.Machine

open Sys2Proof

/-- Halfword of item `i` of point `p` of channel `n` in the payload (R376). -/
def itemCh (n i p : Nat) : Nat := 40 * n + 8 * p + i
/-- Halfword of item `i` of point `p` of ADC `a`. -/
def itemAdc (a i p : Nat) : Nat := 20480 + 10 * a + 2 * p + i
/-- Halfword of bin `b` of point `p` of TIU `t`. -/
def itemTiu (t b p : Nat) : Nat := 21120 + 1280 * t + 256 * p + b
/-- Halfword of item `i` of point `p` of rail `r`. -/
def itemRail (r i p : Nat) : Nat := 31360 + 20 * r + 4 * p + i
/-- Halfwords of a payload. -/
def itemCount : Nat := 32640

/-- Bin of a halfword of the TIU section. -/
def binOf (h : Nat) : Option Nat := if 21120 ≤ h ∧ h < 31360 then some ((h - 21120) % 256) else none
/-- Nominal value of an item (R378). -/
def itemNominal (h : Nat) : Int := match binOf h with
  | some 255 => 1145
  | some _ => 1221
  | none => 0

/-- The factory item at halfword `h`: nominal where its header or its OTP word is lost (R377, R378). -/
def State.factoryItem (s : State) (h : Nat) : Int :=
  if s.rb Off.calStat 29 || s.cal.nomF.contains ((16 + h) / 2) then itemNominal h
  else if (binOf h).isSome then (Config.factoryItem h).toNat
  else (Config.factoryItem h).toInt

/-- Halfword read from the factory image. -/
def State.factoryHalf (s : State) (h : Nat) : BitVec 16 := BitVec.ofInt 16 (s.factoryItem h)

/-- Bounds of an effective item (R381). -/
def itemSat (h : Nat) (v : Int) : Int := if (binOf h).isSome then clampI 0 65535 v else clampI (-32768) 32767 v
/-- E[p] = F[p] + U[p], from the user table `u`. -/
def State.effItem (s : State) (u : Tbl (BitVec 16)) (h : Nat) : Int := itemSat h (s.factoryItem h + (Tbl.get 0 u h).toInt)

/-- Temperature of a table point in 1/16 °C. -/
def calPoint (p : Nat) : Int := match p with
  | 0 => 400 | 1 => 800 | 2 => 1200 | 3 => 1600 | _ => 1840
/-- Band in force in quadrant `q` (THM_QSTAT.BAND). -/
def State.band (s : State) (q : Nat) : Nat := s.rf (Off.thmQstat q) 28 3
/-- Lower point of the band's pair (R368). -/
def calLow (band : Nat) : Nat := if band ≤ 2 then band else 3

/-- The item at the halfwords `h p` of points `p`, interpolated at the temperature `t` along the pair of a band (R382). -/
def State.itemAt (s : State) (u : Tbl (BitVec 16)) (band : Nat) (t : Int) (h : Nat → Nat) : Int :=
  let a := calLow band
  let ta := calPoint a
  let d := (calPoint (a + 1) - ta).toNat
  let tc := clampI 400 1840 t
  let ea := s.effItem u (h a)
  let eb := s.effItem u (h (a + 1))
  itemSat (h a) (roundDiv (ea * d + (eb - ea) * (tc - ta)) d)
/-- The interpolated item of quadrant `q` in the steep in progress. -/
def State.calItem (s : State) (q : Nat) (h : Nat → Nat) : Int :=
  s.itemAt s.cal.utabA (s.band q) (Tbl.get 0 s.cal.tg q) h
/-- The interpolated item of quadrant `q` as steep `m` has it: the steep in progress, else the one before (R49). -/
def State.calItemAt (s : State) (m : BitVec 64) (q : Nat) (h : Nat → Nat) : Int :=
  if m = s.steep.num then s.calItem q h
  else s.itemAt s.cal.utabP (fld (tblGet resetPf0 s.appPrev (Off.thmQstat q)) 28 3) (Tbl.get 0 s.cal.tgP q) h

/-- A corrected code before saturation (R383). -/
def calCode (code gain ofs : Int) : Int := roundDiv (code * (2 ^ 18 + gain)) (2 ^ 18) + ofs

/-- A converted code of ADC `a` (R383, R179). -/
def State.adcCode (s : State) (a : Nat) (code : Int) : Int :=
  clampI (-131072) 131071 (calCode code (s.calItem (a / 16) (itemAdc a 1)) (s.calItem (a / 16) (itemAdc a 0)))
/-- The code at the setpoint DAC of rail `r`, under VGAIN and VOFS (R375, R383: which of its items act on the setpoint is not said;
DESIGN CHOICE, log 88). -/
def State.railDac (s : State) (r : Nat) (code : Int) : Int :=
  clampI 0 96000 (calCode code (s.calItem (r / 16) (itemRail r 1)) (s.calItem (r / 16) (itemRail r 0)))
/-- A measured voltage code of rail `r`. -/
def State.railVCode (s : State) (r : Nat) (code : Int) : Int :=
  calCode code (s.calItem (r / 16) (itemRail r 1)) (s.calItem (r / 16) (itemRail r 0))
/-- A measured current code of rail `r`. -/
def State.railICode (s : State) (r : Nat) (code : Int) : Int :=
  calCode code (s.calItem (r / 16) (itemRail r 3)) (s.calItem (r / 16) (itemRail r 2))

/-- Taps of channel `n` for the vectors of steep `m`: drive, strobe, CH and CL (R49, R384). -/
def State.tapsFor (s : State) (n : Nat) (m : BitVec 64) : Int × Int × Int × Int :=
  let u := s.ch n
  if m = s.steep.num then (u.tapDrv, u.tapStb, u.tapCh, u.tapCl) else u.tapOld

/-- The bin table applied at TIU `t` (R270). -/
def State.tiuTab (s : State) (t : Nat) : Tbl Nat :=
  let u := s.tu t
  if u.tabSrc then u.tab
  else (List.range 256).map fun b => (b, (s.calItem (t / 2) (itemTiu t b)).toNat)

end Sys2Proof.Machine
end

