-- ==== Sys2Proof/Machine/Record.lean ====
section
/-!
DEFINITION. Result records and queues (spec 08 R225 to R227, spec 09): queue descriptors in vector memory, the bytes of a
record, its flags up to the commit, placement in a ring and the commit.
-/
namespace Sys2Proof.Machine

open Sys2Proof

/-! ### Descriptors (R230, R232) -/

/-- Word `k` of the descriptor of queue `q`; a never-written one reads 0. -/
def State.qWord (s : State) (q k : Nat) : Word :=
  let r := descRow + 4 * q + k / 2
  if s.lineLive r then rowHalf (s.mem.row r) (k % 2 = 1) else 0

/-- Row of word `k` of the descriptor of queue `q`. -/
def descWordRow (q k : Nat) : Nat := descRow + 4 * q + k / 2
/-- Writes word `k` of the descriptor of queue `q`. A writer of a never-written descriptor asks first whether a slot is free. -/
def State.setQWord (s : State) (q k : Nat) (w : Word) : State :=
  let r := descRow + 4 * q + k / 2
  let s := s.markLine r
  { s with mem := s.mem.putRow r (w ++ w) (if k % 2 = 1 then 0xF0 else 0x0F) }

/-- The queue is enabled. -/
def State.qEn (s : State) (q : Nat) : Bool := flag (s.qWord q 0) 31
/-- PLACE = HOST. -/
def State.qHost (s : State) (q : Nat) : Bool := flag (s.qWord q 0) 30
/-- FULLPOL = DROP. -/
def State.qDrop (s : State) (q : Nat) : Bool := flag (s.qWord q 0) 29
/-- IEN. -/
def State.qIen (s : State) (q : Nat) : Bool := flag (s.qWord q 0) 28
/-- DMA engine. -/
def State.qDmae (s : State) (q : Nat) : Nat := fld (s.qWord q 0) 22 6
/-- Units of 32 B in the ring. -/
def State.qSize (s : State) (q : Nat) : Nat := 2 ^ fld (s.qWord q 0) 17 5
/-- Watermark. -/
def State.qWm (s : State) (q : Nat) : Nat := fld (s.qWord q 0) 11 6
/-- MSI-X vector. -/
def State.qMsix (s : State) (q : Nat) : BitVec 11 := BitVec.ofNat 11 (fld (s.qWord q 0) 0 11)
/-- First byte of the ring in vector memory. -/
def State.qBase (s : State) (q : Nat) : Nat := fld (s.qWord q 1) 0 23 * 4096
/-- First byte of the ring in host memory. -/
def State.qHostBase (s : State) (q : Nat) : Nat := (fld (s.qWord q 3) 0 20 * 2 ^ 32 + (s.qWord q 2).toNat) * 4096
/-- HEAD, CTAIL, FILL and COPY: words 4 to 7. -/
def State.qIdx (s : State) (q k : Nat) : Nat := fld (s.qWord q k) 0 24
/-- Writes an index, modulo 2^24. -/
def State.setQIdx (s : State) (q k v : Nat) : State := s.setQWord q k (BitVec.ofNat 32 (v % 2 ^ 24))
/-- Distance between two indexes, modulo 2^24. -/
def idxDiff (a b : Nat) : Nat := (a + 2 ^ 24 - b) % 2 ^ 24
/-- Level L = (FILL − HEAD) mod 2^24. -/
def State.qLevel (s : State) (q : Nat) : Nat := idxDiff (s.qIdx q 6) (s.qIdx q 4)
/-- The queue is above its watermark (R232). -/
def State.qAbove (s : State) (q : Nat) : Bool := decide (s.qWm q ≠ 0 ∧ s.qWm q * s.qSize q < 64 * s.qLevel q)
/-- An uncorrectable error in the descriptor (R234). -/
def State.qBad (s : State) (q : Nat) : Bool :=
  (List.range 4).any fun i => s.mem.bad.contains (descRow + 4 * q + i)
/-- Engine `e` is halted (R244). -/
def State.dmaHalted (s : State) (e : Nat) : Bool := s.rb (Off.dmaStat e) 31
/-- The bound engine is halted (DHALT). -/
def State.qHalted (s : State) (q : Nat) : Bool := s.qHost q && s.dmaHalted (s.qDmae q)
/-- A record of `units` units finds room in the ring (R236). -/
def State.qRoom (s : State) (q units : Nat) : Bool := decide (s.qLevel q + units ≤ s.qSize q)

/-- Counts in QM_STAT or QM_STAT2 and signals source 210 (R250). -/
def State.qmCount (s : State) (off lo len : Nat) : State := (s.count off lo len 1).irq 210

/-! ### Record bytes (R225) -/

/-- Little-endian bytes of a word. -/
def wordBytes (w : Word) : List Byte := (List.range 4).map fun i => BitVec.ofNat 8 (w.toNat >>> (8 * i))
/-- Little-endian bytes of a 64-bit value. -/
def longBytes (w : BitVec 64) : List Byte := (List.range 8).map fun i => BitVec.ofNat 8 (w.toNat >>> (8 * i))
/-- Pads with zeros to a multiple of 32 B. -/
def padUnit (l : List Byte) : List Byte := l ++ List.replicate (roundUp 32 l.length - l.length) 0
/-- Length of a record in units of 32 B. -/
def Rec.units (r : Rec) : Nat := roundUp 32 (32 + r.body.length) / 32
/-- Header word 7: FLAGS and STHR. -/
def Rec.word7 (r : Rec) : Word := r.flags ++ r.sthr
/-- The record as bytes. -/
def Rec.bytes (r : Rec) : List Byte :=
  padUnit (longBytes r.tsStart ++ longBytes r.tsEnd ++
    wordBytes (BitVec.ofNat 32 ((r.units - 1) * 0x1000000 + r.dead.toNat)) ++
    wordBytes (BitVec.ofNat 32 (r.site.toNat * 0x100000 + r.segnum.toNat)) ++
    wordBytes (BitVec.ofNat 32 (r.src.toNat * 0x1000000 + r.decexp.toNat * 0x100000 + r.qid.toNat)) ++
    wordBytes r.word7 ++ r.body)

/-! ### Flags (R227) -/

/-- Bits of FLAGS, from bit 16 of word 7. -/
def fSlip : BitVec 16 := 0x001
def fUnderrun : BitVec 16 := 0x002
def fClkloss : BitVec 16 := 0x004
def fNotinit : BitVec 16 := 0x008
def fClamp : BitVec 16 := 0x020
def fFence : BitVec 16 := 0x040
def fPoison : BitVec 16 := 0x080
def fFold : BitVec 16 := 0x100
def fTrunc : BitVec 16 := 0x200

/-- Cluster whose flags a record carries: SRC names its engine, its sequencer's QPUSH or its MEAS. -/
def srcCluster (src : BitVec 8) : Option Nat :=
  let v := src.toNat
  if v < 0x20 ∨ (0x30 ≤ v ∧ v < 0x40) then some (v % 16) else none

/-- Adds a flag to every record of cluster `c` in steep `n` (R212). -/
def State.flagCl (s : State) (c : Nat) (n : BitVec 64) (f : BitVec 16) : State :=
  let u := s.cl c
  s.setCl c { u with flags := u.flags ++ [(n, f)] }
/-- Adds a flag to every record of site `k` in steep `n`. -/
def State.flagSite (s : State) (k : Nat) (n : BitVec 64) (f : BitVec 16) : State :=
  { s with qm := { s.qm with siteFlags := s.qm.siteFlags ++ [(n, k, f)] } }
/-- Adds a flag to every record of steep `n`. -/
def State.flagAll (s : State) (n : BitVec 64) (f : BitVec 16) : State :=
  { s with qm := { s.qm with allFlags := s.qm.allFlags ++ [(n, f)] } }

/-- The flags of a record as they stand (R212, R227). -/
def State.recFlags (s : State) (r : Rec) : BitVec 16 :=
  let c := match srcCluster r.src with
    | some c => (s.cl c).flags
    | none => []
  let f0 := c.foldl (fun a e => if e.1 = r.steep then a ||| e.2 else a) r.flags
  let f1 := s.qm.siteFlags.foldl (fun a e => if e.1 = r.steep ∧ e.2.1 = r.site.toNat then a ||| e.2.2 else a) f0
  s.qm.allFlags.foldl (fun a e => if e.1 = r.steep then a ||| e.2 else a) f1

/-- The record with its flags as they stand. -/
def State.flagged (s : State) (r : Rec) : Rec := { r with flags := s.recFlags r }

/-- A record of site `k` carries FENCE. -/
def Rec.fence (k : Nat) (r : Rec) : Rec := if r.site.toNat = k then { r with flags := r.flags ||| fFence } else r

/-- The record of site `k` that `e` places carries FENCE. -/
def Staged.fence (k : Nat) (e : Staged) : Staged := { e with rcd := e.rcd.fence k }
/-- The record of site `k` that `h` holds carries FENCE. -/
def Held.fence (k : Nat) (h : Held) : Held := { h with rcd := h.rcd.fence k }

/-- Every record of site `k` that has not committed carries FENCE (R25): placed, in the holdover area, or waiting for
acceptance with a MEAS, a QPUSH or a TIU. -/
def State.fenceRecs (s : State) (k : Nat) : State :=
  let s := { s with qm := { s.qm with
    staged := s.qm.staged.map (Staged.fence k)
    hold := s.qm.hold.map (Held.fence k) } }
  let s := s.each (List.range 16) fun c s => s.setCl c { s.cl c with out := (s.cl c).out.map (Rec.fence k) }
  let s := s.each (List.range 8) fun t s =>
    if s.rf (Off.tiuStat t) 30 2 = 2 ∧ s.rf (Off.tiuRoute t) 20 7 = k then s.setTu t { s.tu t with fenced := true } else s
  s.each (List.range 17) fun x s => match (s.sq x).wait with
    | .qpush r => s.setSq x { s.sq x with wait := .qpush (r.fence k) }
    | _ => s

/-! ### Placement and commit (R237, R238) -/

/-- The steep `n` has committed: it is neither in progress nor among those that ended. -/
def State.committed (s : State) (n : BitVec 64) : Bool :=
  decide (n ≠ s.steep.num) && s.steep.ended.all fun e => decide (e.1 ≠ n)

/-- Vector-memory byte of unit `i` of the ring of queue `q`. -/
def State.unitAddr (s : State) (q i : Nat) : Nat := s.qBase q + i % s.qSize q * 32

/-- Rows at which the units of a record of `n` units would begin in the ring of queue `q`. -/
def State.ringPlan (s : State) (q n : Nat) : List Nat := (List.range n).map fun j => s.unitAddr q (s.qIdx q 6 + j) / 8

/-- Writes bytes in units of 32 B from ring index `i` on, wrapping at the end of the ring. -/
def State.ringWrite (s : State) (q i : Nat) (bytes : List Byte) : State :=
  (List.range ((bytes.length + 31) / 32)).foldl
    (fun s j => s.storeBytes (s.unitAddr q (i + j)) ((bytes.drop (32 * j)).take 32)) s

/-- The bytes of a record with the flags and STHR that it has now: bytes 28 to 31 (R212). -/
def Rec.seal (r : Rec) (l : List Byte) : List Byte := l.take 28 ++ wordBytes r.word7 ++ l.drop 32

/-- Places a record, as the bytes `l`, in its ring at FILL, and FILL advances. -/
def State.place (s : State) (q : Nat) (r : Rec) (l : List Byte) : State :=
  let r := s.flagged r
  let i := s.qIdx q 6
  let s := (s.ringWrite q i (r.seal l)).setQIdx q 6 (i + r.units)
  { s with qm := { s.qm with staged := s.qm.staged ++ [{ qid := q, idx := i, rcd := r }] } }

/-- Puts a queue at the end of its engine's order, unless it waits there (R241). -/
def State.dmaQueue (s : State) (q : Nat) : State :=
  let e := s.qDmae q
  let l := Tbl.get [] s.qm.order e
  if l.contains q then s else { s with qm := { s.qm with order := Tbl.set [] s.qm.order e (l ++ [q]) } }

/-- The final flags of a staged record go into its header (R212): bytes 28 to 31 of its first unit. -/
def State.sealRec (s : State) (e : Staged) : State :=
  let r := s.flagged e.rcd
  let row := (s.unitAddr e.qid e.idx) / 8 + 3
  { s with mem := s.mem.putRow row (r.word7 ++ r.word7) 0xF0 }

/-- CTAIL of queue `q` becomes FILL; its staged records become final, and the host or the engine is told (R238). -/
def State.commitQueue (s : State) (q : Nat) : State :=
  let s := (s.qm.staged.filter fun e => e.qid = q).foldl State.sealRec s
  let s := { s with qm := { s.qm with staged := s.qm.staged.filter fun e => e.qid ≠ q } }
  let f := s.qIdx q 6
  let moved := decide (s.qIdx q 5 ≠ f)
  let s := s.setQIdx q 5 f
  if !moved then s
  else if s.qHost q then s.dmaQueue q
  else if s.qIen q then s.msix false (s.qMsix q) else s

/-- Every queue with staged records, lower numbers first. -/
def State.stagedQueues (s : State) : List Nat :=
  ((s.qm.staged.map (·.qid)).foldl (fun l q => if l.contains q then l else l ++ [q]) []).mergeSort (· ≤ ·)

/-- Sets CTAIL to FILL in every queue at once (R238). -/
def State.commitAll (s : State) : State := s.each s.stagedQueues fun q s => s.commitQueue q

/-- The largest stretch code that any cluster applied in the present steep (R225). -/
def State.maxStretch (s : State) : BitVec 16 :=
  BitVec.ofNat 16 ((List.range 16).foldl (fun m c => max m (s.af (Off.clStretch c) 0 16)) 0)

/-- Stretch code of cluster `c` in steep `n`, which is in progress or the one before (R51). -/
def State.stretchOf (s : State) (c : Nat) (n : BitVec 64) : BitVec 16 :=
  BitVec.ofNat 16 (fld (if n = s.steep.num then s.ap (Off.clStretch c)
    else tblGet resetPf0 s.appPrev (Off.clStretch c)) 0 16)

/-- Takes the next number of the production order of cluster `c` (R30). -/
def State.produce (s : State) (c : Nat) : State := s.setCl c { s.cl c with made := (s.cl c).made + 1 }

/-! ### The holdover area (R237, R251) -/

/-- Bytes that the holdover area holds. -/
def State.holdBytes (s : State) : Nat := s.qm.hold.foldl (fun n h => n + 32 * h.rcd.units) 0
/-- Byte address of unit `u` of the area. -/
def State.holdAddr (s : State) (u : Nat) : Nat := s.rf Off.qmHoldBase 0 15 * 0x100000 + 32 * u
/-- The lowest `n` units that no record holds. The spec gives no layout of the area (DESIGN CHOICE, log 53). -/
def State.holdFree (s : State) (n : Nat) : List Nat :=
  let used := s.qm.hold.flatMap (·.units)
  ((List.range (used.length + n)).filter fun u => !used.contains u).take n
/-- Writes a record into the area. -/
def State.holdPut (s : State) (r : Rec) : State :=
  let us := s.holdFree r.units
  let l := r.bytes
  let s := us.zipIdx.foldl (fun s e => s.storeBytes (s.holdAddr e.1) ((l.drop (32 * e.2)).take 32)) s
  { s with qm := { s.qm with hold := s.qm.hold ++ [{ rcd := r, units := us }] } }
/-- Rows that a record of `n` units would take in the area. -/
def State.holdPlan (s : State) (n : Nat) : List Nat := (s.holdFree n).map fun u => s.holdAddr u / 8
/-- Rows of a record in the area. -/
def State.holdRows (s : State) (h : Held) : List Nat :=
  h.units.flatMap fun u => (List.range 4).map fun j => s.holdAddr u / 8 + j
/-- The rows of a held record with what the checker reports of each, which no command does (R341). -/
def State.holdEcc (s : State) (h : Held) : List (Nat × Ecc) :=
  let rows := s.holdRows h
  withEcc rows ((List.range rows.length).map s.rowEccAt)
/-- The record that a move reads: rows that answer NOTINIT read 0 and set the flag (R245). The spec gives the move no answer to an
uncorrectable error: the word that is placed is a free value, and the record carries no flag for it (log 90). -/
def State.holdRead (s : State) (h : Held) : Rec × List Byte :=
  let rows := s.holdRows h
  let lost := rows.any fun r => !s.lineLive r
  let head := rows.take 4 |>.all fun r => s.lineLive r
  let r := if !lost then h.rcd
    else if head then { h.rcd with flags := h.rcd.flags ||| fNotinit } else { h.rcd with flags := fNotinit, sthr := 0 }
  (r, (s.holdEcc h).zipIdx.flatMap fun e =>
    let d := s.rowRead e.1.1 e.1.2
    longBytes (if d.ue then Config.lostRow (s.freeCtr + e.2) else d.data))
/-- The holdover area has room for a record of `units` units. -/
def State.holdRoom (s : State) (units : Nat) : Bool :=
  decide (s.holdBytes + 32 * units ≤ s.rf Off.qmHoldLen 0 15 * 0x100000)
/-- Updates QM_HOLD_STAT: occupancy in KiB, rounded up. -/
def State.holdStat (s : State) : State :=
  (s.setRf Off.qmHoldStat 0 21 ((s.holdBytes + 1023) / 1024)).setRb Off.qmHoldStat 31 s.qm.moving

end Sys2Proof.Machine
end

