-- ==== Sys2Proof/Machine/Capture.lean ====
section
/-!
DEFINITION. The capture engine (spec 08): pieces and segments, the records a piece gives, the buffer's fill and pressure,
triggers, and the disarm by the part.
-/
namespace Sys2Proof.Machine

open Sys2Proof

/-- TSTAMP of the TCLK cycle that holds an instant. -/
def State.tsAt (s : State) (t : Nat) : BitVec 64 := s.tstamp + BitVec.ofInt 64 ((t / tclkHps : Nat) - (4 * s.now : Nat))

/-- List states of CAPL_STAT.STATE (R200). -/
def capIdle : Nat := 0
def capArmed : Nat := 1
def capOpen : Nat := 2
def capRearm : Nat := 3

/-- State of list `l` of cluster `c`. -/
def State.capState (s : State) (c l : Nat) : Nat := s.rf (Off.caplStat c l) 30 2
/-- Writes it. -/
def State.setCapState (s : State) (c l v : Nat) : State := s.setRf (Off.caplStat c l) 30 2 v
/-- Capture engine of cluster `c`. -/
def State.cap (s : State) (c : Nat) : CapSt := (s.cl c).cap
/-- Writes it. -/
def State.setCap (s : State) (c : Nat) (v : CapSt) : State := s.setCl c { s.cl c with cap := v }

/-! ### Records of a piece (R211, R213 to R216, R228) -/

/-- Channels of site `k` among those of `mask` in cluster `c`. -/
def State.recMask (s : State) (c k : Nat) (mask : Word) : Word :=
  maskOf 32 (idxs 32 fun i => mask.getLsbD i && decide (s.chSite (32 * c + i) = some k))

/-- Sites with a channel of `mask` in cluster `c`, rising. -/
def State.maskSites (s : State) (c : Nat) (mask : Word) : List Nat :=
  (((idxs 32 fun i => mask.getLsbD i).filterMap fun i => s.chSite (32 * c + i)).foldl
    (fun l k => if l.contains k then l else l ++ [k]) []).mergeSort (· ≤ ·)

/-- Splits a list into groups of `n`, the last one short; `fuel` bounds their number. -/
def groupsOf {α : Type} (n : Nat) : Nat → List α → List (List α)
  | 0, _ => []
  | fuel + 1, l => if l.isEmpty then [] else l.take n :: groupsOf n fuel (l.drop n)

/-- Bytes of a bit stream, each filled from its least significant bit (R214). -/
def bitBytes (l : List Bool) : List Byte :=
  (groupsOf 8 l.length l).map fun g =>
    BitVec.ofNat 8 (g.foldr (fun b n => 2 * n + (if b then 1 else 0)) 0)

/-- Entries of the piece that belong to the record of site `k`: those before its fence (R211). -/
def Piece.entriesOf (p : Piece) (k : Nat) : List CapEntry :=
  match p.fenced.find? fun e => e.1 = k with
  | some e => p.entries.take e.2
  | none => p.entries

/-- Entries stored under the exponent (R223): PF ORs each group, RAW and PMU keep its first. -/
def Piece.stored (p : Piece) (k : Nat) : List CapEntry :=
  let l := p.entriesOf k
  if p.mode = 3 then l
  else (groupsOf (2 ^ p.d) l.length l).filterMap fun g =>
    match g with
    | [] => none
    | e :: t => some (if p.mode = 0 then { e with fail := t.foldl (fun f x => f ||| x.fail) e.fail } else e)

/-- Summary of channel `i` over the entries (R216). -/
def fsumOf (l : List CapEntry) (i : Nat) : List Byte :=
  let fails := (l.zipIdx.filter fun e => e.1.fail.getLsbD i)
  wordBytes (BitVec.ofNat 32 ((fails.head?.map (·.2)).getD 0xFFFFFF)) ++
    wordBytes (BitVec.ofNat 32 (min 0xFFFFFFFF fails.length))

/-- Stored samples of the record's channels. -/
def samplesIn (l : List CapEntry) (mask : Word) : List Word :=
  l.filterMap fun e => match e.sample with
    | some (i, w) => if mask.getLsbD i then some w else none
    | none => none

/-- Data of the record of site `k` with channels `mask`. -/
def Piece.data (p : Piece) (k : Nat) (mask : Word) : List Byte :=
  let l := p.stored k
  let chs := idxs 32 fun i => mask.getLsbD i
  if p.mode = 0 then bitBytes (l.flatMap fun e => chs.map fun i => e.fail.getLsbD i)
  else if p.mode = 1 then
    bitBytes (l.flatMap fun e => chs.flatMap fun i => (List.range 4).map fun b => e.raw.getLsbD (4 * i + b))
  else if p.mode = 2 then (samplesIn l mask).flatMap wordBytes
  else chs.flatMap fun i => fsumOf l i

/-- Number of bits set. -/
def popcount (w : Word) : Nat := (idxs 32 fun i => w.getLsbD i).length

/-- Channels of the piece that belong to site `k`, as at its opening. -/
def Piece.chans (p : Piece) (k : Nat) : Word := ((p.sites.find? fun e => e.1 = k).map (·.2)).getD 0

/-- Size in bytes of the record of site `k` (R213, R223). -/
def Piece.sizeFor (p : Piece) (k : Nat) : Nat :=
  let m := popcount (p.chans k)
  let g := ((p.entriesOf k).length + 2 ^ p.d - 1) / 2 ^ p.d
  roundUp 32 (64 + (if p.mode = 0 then (g * m + 7) / 8 else if p.mode = 1 then (4 * g * m + 7) / 8
    else if p.mode = 2 then 4 * (samplesIn (p.stored k) (p.chans k)).length else 8 * m))

/-- Sites to which the piece owes a record. -/
def Piece.owed (p : Piece) : List Nat :=
  (p.sites.map (·.1)).filter fun k => !p.filed.contains k && !(p.cut.any fun e => e.1 = k)

/-- Bytes the piece holds in the buffer. -/
def Piece.bytes (p : Piece) : Nat := p.owed.foldl (fun n k => n + p.sizeFor k) 0

/-- The piece with one more entry, which starts at `ts` in vector `v`. -/
def Piece.add (p : Piece) (ts : BitVec 64) (v : Nat) (x : CapEntry) : Piece :=
  { p with entries := p.entries ++ [x], tsEnd := x.tsEnd,
           tsStart := if p.entries.isEmpty then ts else p.tsStart
           vstart := if p.entries.isEmpty then v else p.vstart }

/-- The piece takes one more entry without a record above 4,096 B (R208). -/
def Piece.fits (p : Piece) (x : CapEntry) : Bool :=
  let p := p.add 0 0 x
  p.owed.all fun k => decide (p.sizeFor k ≤ 4096)

/-- Destination queue of a record of site `k` (R235), by CAPL_ROUTE as it stands when the record is accepted (DESIGN CHOICE, log
79: the spec does not say at which moment it is read). -/
def State.capQid (s : State) (c : Nat) (p : Piece) (k : Nat) : Nat :=
  let r := Off.caplRoute c p.list
  (s.rf r 0 20 + k * 2 ^ s.rf r 28 4 + p.step.toNat) % 0x100000

/-- TSTAMP end of the record of site `k` (R211, R217). -/
def Piece.endOf (p : Piece) (k : Nat) : BitVec 64 :=
  match p.fenced.find? fun e => e.1 = k with
  | some _ => ((p.entriesOf k).getLast?.map (·.tsEnd)).getD p.tsStart
  | none => p.tsEnd

/-- The record of site `k` (R225, R228). PIECE holds the number modulo 65,536 (DESIGN CHOICE, log 88: a segment may have more). -/
def State.pieceRec (s : State) (c : Nat) (p : Piece) (k : Nat) : Rec :=
  let mask := p.chans k
  let isF := p.fenced.any fun e => e.1 = k
  let n := if p.mode = 2 then (samplesIn (p.stored k) mask).length else (p.stored k).length
  let cause := if isF then 6 else p.cause
  let low := ((List.range 8).find? fun i => p.trig.getLsbD i).getD 0
  { tsStart := p.tsStart, tsEnd := p.endOf k,
    dead := BitVec.ofNat 24 (min 0xFFFFFF (p.dead + p.gap)), site := BitVec.ofNat 7 k,
    segnum := BitVec.ofNat 20 p.seg, src := BitVec.ofNat 8 c,
    decexp := if p.mode = 3 then 0 else BitVec.ofNat 4 p.d, qid := BitVec.ofNat 20 (s.capQid c p k),
    flags := (if isF || p.marked.contains k then fFence else 0) ||| (if p.fold then fFold else 0) ||| (if p.trunc then fTrunc else 0),
    sthr := p.sthr, made := p.made,
    body :=
      wordBytes (BitVec.ofNat 32 (cause * 0x1000000 + p.list * 0x10000 + p.mode.toNat * 0x1000 +
        (if p.cont then 0x800 else low * 0x100 + p.trig.toNat))) ++
      wordBytes (BitVec.ofNat 32 (p.num * 0x10000 + p.step.toNat)) ++
      wordBytes (p.steep.setWidth 32) ++ wordBytes mask ++
      wordBytes (BitVec.ofNat 32 (if p.mode = 2 then 0 else p.vstart)) ++ wordBytes (BitVec.ofNat 32 n) ++
      wordBytes (BitVec.ofNat 32 (min 0xFFFFFFFF p.gap)) ++ wordBytes 0 ++ p.data k mask,
    steep := p.steep, closing := p.closing }

/-! ### Buffer and pressure (R219, R221, R224) -/

/-- Bytes in the capture buffer of cluster `c`: records not yet filed and the open pieces. Data counts at the padded size of
its records, until they are accepted (DESIGN CHOICE, log 79: the spec does not say how data occupies the buffer). -/
def State.capFill (s : State) (c : Nat) : Nat :=
  let e := s.cap c
  min 131072 ((e.closed ++ e.old.toList ++ e.piece.toList).foldl (fun n p => n + p.bytes) 0)

/-- A queue that a record of an open piece is routed to is above its watermark. -/
def State.capAbove (s : State) (c : Nat) : Bool :=
  let e := s.cap c
  (e.old.toList ++ e.piece.toList).any fun p => p.owed.any fun k => s.qAbove (s.capQid c p k)

/-- Pressure (R219): the fill has reached HIGH, or a destination queue of the open piece is above its watermark. -/
def State.pressed (s : State) (c : Nat) : Bool :=
  decide (s.rf (Off.capGov c) 8 8 * 512 ≤ (s.cap c).fill) || s.capAbove c

/-- Exponent D and fold state. -/
def State.capD (s : State) (c : Nat) : Nat := s.rf (Off.capGovstat c) 28 4
def State.capFolded (s : State) (c : Nat) : Bool := s.rb (Off.capGovstat c) 27

/-- The next entry of each open piece begins a piece under the governor's present exponent and fold (R208). -/
def State.govSplit (s : State) (c : Nat) : State :=
  let e := s.cap c
  let mark (p : Piece) : Piece := { p with split := true }
  s.setCap c { e with piece := e.piece.map mark, old := e.old.map mark, oldD := (s.capD c, s.capFolded c) }

/-- A rise under pressure (R220): D rises by one up to the active list's MAXEXP, and beyond it a RAW list with FOLD
folds. -/
def State.govRise (s : State) (c : Nat) : State :=
  let o := Off.capGovstat c
  let s := s.setCap c { s.cap c with pressAt := some s.now }
  match (s.cap c).act with
  | none => s
  | some l =>
    let cfg := s.rg (Off.caplCfg c l)
    let done (s : State) : State := ((s.count o 0 16 1).govSplit c).fire (evCluster c 5)
    if s.capD c < fld cfg 24 4 then done (s.setRf o 28 4 (s.capD c + 1))
    else if s.capD c = fld cfg 24 4 ∧ fld cfg 28 2 = 1 ∧ flag cfg 30 ∧ !s.capFolded c then done (s.setRb o 27 true)
    else s

/-- Brings the fill, its peak and the pressure up to date; pressure that begins raises D at once (R220). -/
def State.capTouch (s : State) (c : Nat) : State :=
  let f := s.capFill c
  let e := s.cap c
  let u := f / 32
  let b := Off.capBuf c
  let s := s.setCap c { e with
    fill := f
    lowOk := e.lowOk && decide (f ≤ s.rf (Off.capGov c) 0 8 * 512) && !s.capAbove c
    dropping := e.dropping && decide (s.rf (Off.capGov c) 8 8 * 512 ≤ f) }
  let s := (s.setRf b 0 13 u).change b fun w => setFld w 16 13 (max (fld w 16 13) u)
  let pr := s.pressed c
  let s := s.setRb (Off.capGovstat c) 26 pr
  let e := s.cap c
  if !pr then s.setCap c { e with pressAt := none }
  else if e.pressAt.isNone then s.govRise c
  else s

/-! ### Pieces and segments (R207 to R211, R217, R218) -/

/-- Opens a piece of the open segment of list `l`. A fold stands until the governor undoes it, whichever list is active
(DEDUCED, log 83). A site that is fenced or disabled gets no record from it (R25, R211). -/
def State.openPiece (s : State) (c l : Nat) (cont : Bool) (steep : BitVec 64) (trig : BitVec 8) (dead vstart : Nat)
    (ts : BitVec 64) : State :=
  let e := s.cap c
  match e.seg with
  | none => s
  | some g =>
    let mode := BitVec.ofNat 2 (s.rf (Off.caplCfg c l) 28 2)
    let g0 := if steep = s.steep.num then (s.capD c, s.capFolded c) else e.oldD
    let fold := g0.2 && decide (mode = 1)
    let mask := s.rg (Off.caplChmask c l)
    let p : Piece :=
      { list := l, step := e.step, seg := g.num, num := g.pieces, cont := cont,
        mode := if fold then 3 else mode, d := g0.1, fold := fold, steep := steep, trig := trig, dead := dead,
        gap := 0, vstart := vstart, mask := mask, sites := (s.maskSites c mask).map fun k => (k, s.recMask c k mask),
        sthr := s.stretchOf c steep, made := 0, entries := [], tsStart := ts, tsEnd := ts, cause := 0, trunc := false,
        fenced := [], marked := [], filed := (s.maskSites c mask).filter fun k => s.fenced k || !s.enabled k, cut := [],
        closing := false, split := false }
    s.setCap c { e with piece := some p, seg := some { g with pieces := g.pieces + 1 } }

/-- The part of a gap from `a` to `e` that lies inside a piece (R218): from its opening on. -/
def Piece.gapPart (p : Piece) (a e : BitVec 64) : Nat :=
  let b := if a < p.tsStart then p.tsStart else a
  if b < e then (e - b).toNat else 0

/-- Adds an underrun gap from `a` to `e` to the open pieces (R218). -/
def State.pieceGap (s : State) (c : Nat) (a e : BitVec 64) : State :=
  let k := s.cap c
  let add (p : Piece) : Piece := { p with gap := p.gap + p.gapPart a e }
  s.setCap c { k with piece := k.piece.map add, old := k.old.map add }

/-- An underrun gap ends at instant `t`: with the first edge of the next vector (R141, R142), or with a park, a fence or a loss of
clocks that discards the vectors to come (DESIGN CHOICE, log 88: the spec gives no end of such a gap). -/
def State.gapEnd (s : State) (c t : Nat) : State :=
  let u := s.cl c
  match u.gapAt with
  | none => s
  | some a =>
    let s := s.setCl c { u with gapAt := none }
    (s.count (Off.clUnderrunGap c) 0 32 (t / hps - a)).pieceGap c (s.tsAt (a * hps)) (s.tsAt t)

/-- Ends the open piece with a cause; an empty one carries the TSTAMP of its close (R217). -/
def State.closePiece (s : State) (c cause : Nat) (trunc closing : Bool) : State :=
  let e := s.cap c
  match e.piece with
  | none => s
  | some p =>
    let gap := match (s.cl c).gapAt with
      | some a => p.gap + p.gapPart (s.tsAt (a * hps)) s.tstamp
      | none => p.gap
    let p := if p.entries.isEmpty then { p with tsStart := s.tstamp, tsEnd := s.tstamp } else p
    let p := { p with cause := cause, trunc := trunc, closing := closing, gap := gap, made := (s.cl c).made }
    State.capTouch ((s.produce c).setCap c { e with piece := none, closed := e.closed ++ [p] }) c

/-- Exchanges the two open pieces. -/
def State.capSwap (s : State) (c : Nat) : State :=
  let e := s.cap c
  s.setCap c { e with piece := e.old, old := e.piece }
/-- Ends the open piece of the steep before. -/
def State.closeOld (s : State) (c cause : Nat) (closing : Bool) : State :=
  if (s.cap c).old.isSome then ((s.capSwap c).closePiece c cause false closing).capSwap c else s

/-- Ends the open segment: its piece closes, SEGCLOSE is signalled, and the list re-arms or, after the last segment of
the ARM, completes (R202). With `idle` a list that has segments left does not re-arm. -/
def State.closeSegment (s : State) (c cause : Nat) (idle closing : Bool) : State :=
  let e := s.cap c
  match e.act, e.seg with
  | some l, some g =>
    let s := ((s.closeOld c cause closing).closePiece c cause false closing).fire (evCluster c 3)
    let e := { s.cap c with seg := none, closedAt := s.tstamp, truncAt := [] }
    if g.num ≥ s.rf (Off.caplCfg c l) 0 20 then
      (((s.setCap c { e with act := none, fired := [] }).setCapState c l capIdle).setRb (Off.caplStat c l) 29 true).fire
        (evCluster c 4)
    else if idle then s.setCap c e
    else
      ((s.setCap c e).setCapState c l capRearm).setRf (Off.caplStat c l) 0 20 (g.num + 1)
  | _, _ => s

/-- SEGNUM shows the last segment once the list is IDLE: it held the next one in ARMED and REARM. -/
def State.segLast (s : State) (c l : Nat) : State :=
  if s.capState c l = capArmed ∨ s.capState c l = capRearm
  then s.setRf (Off.caplStat c l) 0 20 (s.rf (Off.caplStat c l) 0 20 - 1) else s

/-- Closes an open segment and sends the active list to IDLE (R201, R203). -/
def State.capDisarm (s : State) (c cause : Nat) (closing : Bool) : State :=
  let s := s.closeSegment c cause true closing
  let e := s.cap c
  match e.act with
  | some l =>
    ((s.setCap c { e with act := none, fired := [], piece := none, old := none, seg := none }).segLast c l).setCapState c l capIdle
  | none => s

/-- A site fenced while pieces of cluster `c` are unfiled: the open piece keeps the entries so far, and closed ones
carry FENCE in full (R25, R211). -/
def State.fencePieces (s : State) (c k : Nat) : State :=
  let e := s.cap c
  let mark (p : Piece) : Piece :=
    if p.filed.contains k ∨ p.fenced.any (fun x => x.1 = k) then p
    else { p with fenced := p.fenced ++ [(k, p.entries.length)] }
  let late (p : Piece) : Piece := if p.marked.contains k then p else { p with marked := p.marked ++ [k] }
  s.setCap c { e with piece := e.piece.map mark, old := e.old.map mark, closed := e.closed.map late }

/-- Changes every piece that cluster `c` holds. -/
def State.mapPieces (s : State) (c : Nat) (f : Piece → Piece) : State :=
  let e := s.cap c
  s.setCap c { e with piece := e.piece.map f, old := e.old.map f, closed := e.closed.map f }

/-- A site disabled: none of its unfiled records is produced (R28). -/
def State.dropPieces (s : State) (c k : Nat) : State :=
  (s.mapPieces c fun p => { p with cut := p.cut ++ [(k, s.now)] }).capTouch c
/-- A disable of site `k` in the CCLK of its fence is not applied (R31). -/
def State.uncutPieces (s : State) (c k : Nat) : State :=
  (s.mapPieces c fun p => { p with cut := p.cut.filter fun e => !(decide (e.1 = k) && decide (e.2 = s.now)) }).capTouch c

/-! ### Triggers (R205, R206) -/

/-- TYPE, SEL and EN of slot `k`. -/
def State.trgOn (s : State) (c l k ty : Nat) : Bool :=
  s.rb (Off.caplTrg c l k) 31 && decide (s.rf (Off.caplTrg c l k) 28 3 = ty)

/-- The active list of cluster `c` is in PMU mode. -/
def State.capPmu (s : State) (c : Nat) : Bool :=
  match (s.cap c).act with
  | some l => decide (s.rf (Off.caplCfg c l) 28 2 = 2)
  | none => false

/-- A condition reaches the slots of type `ty` that `sel` selects: acted on in ARMED, counted in OPEN and REARM, without
effect in IDLE (R206). `due` is the point from which a vector may open the segment (R205); in PMU mode it is an instant. -/
def State.capTrigger (s : State) (c ty due : Nat) (sel : Nat → Bool) : State :=
  match (s.cap c).act with
  | none => s
  | some l =>
    let due := if s.capPmu c && (ty = 0 || ty = 4 || ty = 5) then s.nowH else due
    (idxs 8 fun k => s.trgOn c l k ty && sel (s.rf (Off.caplTrg c l k) 0 10)).foldl
      (fun s k =>
        if s.capState c l = capArmed then
          let e := s.cap c
          if e.fired.any (fun f => f.1 = k) then s else s.setCap c { e with fired := e.fired ++ [(k, due)] }
        else s.count (Off.caplCnt c l) 16 16 1) s

/-- The list enters ARMED: in PMU mode an IMMED slot waits for a sample whose tracking starts from here on (R205). -/
def State.capArmedNow (s : State) (c l : Nat) : State :=
  let s := s.setCapState c l capArmed
  if s.capPmu c then s.capTrigger c 6 s.nowH fun _ => true else s

/-- Point 5 ns after the present (R205). -/
def State.trigDue (s : State) : Nat := s.nowH + 16 * tclkHps

/-- A condition that reaches every engine. -/
def State.capTriggerAll (s : State) (ty due : Nat) (sel : Nat → Bool) : State :=
  s.each (List.range 16) fun c s => s.capTrigger c ty due sel

/-! ### The steep split (R209) -/

/-- Entries of steep `n` that may still come to the open piece of cluster `c`: samples in PMU mode, else vectors. -/
def State.entriesLeft (s : State) (c : Nat) (n : BitVec 64) (pmu : Bool) : Bool :=
  let u := s.cl c
  if pmu then
    (u.fifo.any fun e => match e.kind with
      | .meas m => decide (m.steep = n)
      | _ => false) || u.settling.any (fun m => m.steep = n) || u.adc.any fun e => e.2.any fun m => m.steep = n
  else
    (u.fifo.any fun e => match e.kind with
      | .vec v => decide (v.steep = n)
      | _ => false) || (match u.cur with
      | some (v, _, _) => decide (v.steep = n)
      | none => false)

/-- An open piece of an ended steep has no entry of its steep left. -/
def State.pieceOver (s : State) (c : Nat) : Option Piece → Bool
  | some p => decide (p.steep ≠ s.steep.num) && !s.entriesLeft c p.steep (s.rf (Off.caplCfg c p.list) 28 2 = 2)
  | none => false

/-- The piece of an ended steep closes once no entry of its steep is left. -/
def State.capSteepEnd (s : State) (c : Nat) : State :=
  let s := if s.pieceOver c (s.cap c).old then s.closeOld c 2 false else s
  if s.pieceOver c (s.cap c).piece then s.closePiece c 2 false false else s

end Sys2Proof.Machine
end

