-- ==== Sys2Proof/Machine/Operands.lean ====
section
/-!
DEFINITION. Operand forms of Ronrax (R64, R65, R72, R77, R78, R80, R82, R84, R88 to R90, R93, R94, R100, R101, R108 to
R110, R113, R122, R123): fields of an instruction word, the opcodes a sequencer may execute, reserved bits and values, the
registers an instruction reads or writes, and the operands of registers and quads.
-/
namespace Sys2Proof.Machine

open Sys2Proof

/-! ### Fields (R64) -/

/-- Bits [lo+len-1:lo] of an instruction. -/
def ifld (w : BitVec 56) (lo len : Nat) : Nat := (w.toNat >>> lo) % 2 ^ len
/-- The 64-bit instruction of an opcode and its other bits. -/
def instrRow (op : Nat) (w : BitVec 56) : Row := BitVec.ofNat 64 (op * 2 ^ 56 + w.toNat)
/-- Opcode of a 64-bit instruction. -/
def rowOp (r : Row) : Nat := r.toNat / 2 ^ 56
/-- Its other bits. -/
def rowRest (r : Row) : BitVec 56 := r.setWidth 56

/-- First register field, [55:52]: RD, GA, GB, GM, GS, GT. -/
def fD (w : BitVec 56) : Nat := ifld w 52 4
/-- Second register field, [51:48]: RA, GQ. -/
def fA (w : BitVec 56) : Nat := ifld w 48 4
/-- Third register field, [47:44]: RB. -/
def fB (w : BitVec 56) : Nat := ifld w 44 4
/-- Immediate, [31:0]. -/
def fImm (w : BitVec 56) : Word := BitVec.ofNat 32 w.toNat

/-- Lowest offending bit: a 1 in a reserved range, given as (lowest bit, length), or the lowest bit of a field that holds
a reserved value (R120). -/
def offBit (w : BitVec 56) (rng : List (Nat × Nat)) (vals : List Nat) : Option Nat :=
  (List.range 56).find? fun i =>
    vals.contains i || (w.getLsbD i && rng.any fun r => decide (r.1 ≤ i ∧ i < r.1 + r.2))

/-! ### Opcodes (R65, R88, R122) -/

/-- Opcodes that some sequencer executes. -/
def definedOps : List Nat :=
  [0x01, 0x02, 0x03, 0x04, 0x05, 0x10, 0x11, 0x12, 0x18] ++
  [0x20, 0x21, 0x22, 0x23, 0x24, 0x25, 0x26, 0x27, 0x28, 0x29] ++
  [0x30, 0x31, 0x32, 0x33, 0x34, 0x35, 0x36, 0x37, 0x38] ++
  [0x40, 0x41, 0x42, 0x43, 0x44, 0x48, 0x49, 0x4C, 0x4D] ++
  [0x50, 0x51, 0x52, 0x54, 0x55, 0x58, 0x59, 0x5A, 0x60, 0x61, 0x62, 0x68, 0x70, 0x71, 0x78, 0x79] ++
  [0xC0, 0xC1, 0xC2, 0xC3]

/-- Opcodes that only a cluster sequencer executes. -/
def clusterOps : List Nat := [0x10, 0x11, 0x12, 0x18, 0x5A, 0x51, 0x60, 0x61, 0x62, 0x68, 0x79, 0x4C, 0x4D]

/-- The opcode is legal in sequencer `x` (R64, R122). -/
def opLegal (x op : Nat) : Bool :=
  definedOps.contains op && (if x < 16 then decide (op < 0xC0) else !clusterOps.contains op)

/-! ### Registers of an instruction (R107) -/

/-- The four registers of quad `q` (R78). -/
def quadRegs (q : Nat) : List Nat := [4 * q, 4 * q + 1, 4 * q + 2, 4 * q + 3]

/-- General registers that an instruction reads or writes. -/
def regsOf (op : Nat) (w : BitVec 56) : List Nat :=
  let b (i : Nat) : Bool := w.getLsbD i
  if op = 0x10 ∨ op = 0x11 then
    if ifld w 48 2 = 2 then (if op = 0x11 then [fD w, fD w + 1] else []) else if b 51 then [fD w] else []
  else if op = 0x12 then (if b 51 then [fD w] else [])
  else if op = 0x18 ∨ op = 0x79 then (if fA w = 0 then quadRegs (ifld w 0 2) else [])
  else if op = 0x28 then [fA w, fB w]
  else if 0x20 ≤ op ∧ op ≤ 0x29 then [fD w, fA w, fB w]
  else if op = 0x38 ∨ op = 0x42 then [fA w]
  else if 0x30 ≤ op ∧ op ≤ 0x37 then [fD w, fA w]
  else if op = 0x40 ∨ op = 0x43 ∨ op = 0x44 ∨ op = 0x4C ∨ op = 0x60 then [fD w]
  else if op = 0x41 ∨ op = 0x48 ∨ op = 0x49 ∨ op = 0xC0 ∨ op = 0xC1 then [fD w, fA w]
  else if op = 0x50 ∨ op = 0x54 then (if b 47 then [fD w] else [])
  else if op = 0x51 then (if b 50 then [fD w] else [])
  else if op = 0x58 ∨ op = 0x71 ∨ op = 0xC2 then (if b 51 then [fD w] else [])
  else if op = 0x5A then fB w :: (if b 51 then [fD w] else [])
  else if op = 0x61 then fD w :: (if b 51 then [ifld w 47 4] else [])
  else if op = 0x62 then fD w :: (if b 47 then [fA w] else [])
  else if op = 0x78 then fA w :: (List.range (fB w + 1)).map (· + fD w)
  else if op = 0xC3 then [fA w]
  else []

/-! ### Register values -/

/-- General register `k`. -/
def SeqSt.gr (q : SeqSt) (k : Nat) : Word := Tbl.get 0 q.g k
/-- Writes it. -/
def SeqSt.setG (q : SeqSt) (k : Nat) (v : Word) : SeqSt := { q with g := Tbl.set 0 q.g k v }
/-- Loop counter `k`. -/
def SeqSt.lcr (q : SeqSt) (k : Nat) : Word := Tbl.get 0 q.lc k
/-- Writes it. -/
def SeqSt.setLc (q : SeqSt) (k : Nat) (v : Word) : SeqSt := { q with lc := Tbl.set 0 q.lc k v }

/-- The 128-bit value of quad `q`: G(4q) holds sites 0 to 31 (R78). -/
def SeqSt.quad (q : SeqSt) (k : Nat) : BitVec 128 :=
  q.gr (4 * k + 3) ++ q.gr (4 * k + 2) ++ q.gr (4 * k + 1) ++ q.gr (4 * k)

/-- Branch target of JMP and CALL (R89, R90). -/
def branchTarget (x : Nat) (w : BitVec 56) (q : SeqSt) : Nat :=
  if w.getLsbD 47 then (if x < 16 then (q.gr (fD w)).toNat % 2 ^ 15 else (q.gr (fD w)).toNat % 2 ^ 24)
  else ifld w 0 24

/-- Reserved bits of a target field in a cluster sequencer (R89). -/
def targetRsv (x lo : Nat) : List (Nat × Nat) := if x < 16 then [(lo + 15, 9)] else []

end Sys2Proof.Machine
end

