-- ==== Sys2Proof/Machine/Channel.lean ====
section
/-!
DEFINITION. The channel (spec 06) and the channels of a cluster: park causes, entry into and exit from the park state,
the warden's gates of a channel (R313), the FIFO's discard and the cluster's park (R155).
-/
namespace Sys2Proof.Machine

open Sys2Proof

/-- Offset of a register of channel `n` given the map's function of cluster and channel. -/
def chOff (f : Nat → Nat → Nat) (n : Nat) : Nat := f (n / 32) (n % 32)

/-- A level, threshold or limit that is applied (R49), as a signed code. -/
def State.code (s : State) (f : Nat → Nat → Nat) (n : Nat) : Int := signed 18 (s.af (chOff f n) 0 18)

/-! ### Comparators (R164) -/

/-- State code of a comparator in CH_CMPSTAT. -/
def cmpCode : Cmp → Nat
  | .low => 0 | .high => 1 | .unk => 2 | .off => 3

/-- State of comparator `k` of channel `n`: CH, CL, MH, ML for 0 to 3. -/
def State.cmp (s : State) (n k : Nat) : Cmp :=
  match s.rf (chOff Off.chCmpstat n) (2 * k) 2 with
  | 0 => .low | 1 => .high | 2 => .unk | _ => .off

/-- The states that changes end are kept: those of the present CCLK, and all while strobes of channel `n` wait (R165, R214, R252). -/
def State.cmpNote (s : State) (n k : Nat) : State :=
  let u := s.ch n
  let busy := (s.cl (n / 32)).strobes.any fun x => x.ch = n
  s.setCh n { u with cmpLog := (if busy then u.cmpLog else u.cmpLog.filter fun e => e.1 = s.now) ++
    [(s.now, k, s.rf (chOff Off.chCmpstat n) (2 * k) 2)] }
/-- Writes it. -/
def State.setCmp (s : State) (n k : Nat) (v : Cmp) : State :=
  (s.cmpNote n k).setRf (chOff Off.chCmpstat n) (2 * k) 2 (cmpCode v)
/-- State code of comparator `k` of channel `n` in CCLK `t`, from what the log keeps. -/
def State.cmpWas (s : State) (n k t : Nat) : Nat :=
  match (s.ch n).cmpLog.find? fun e => decide (e.2.1 = k) && decide (t < e.1) with
  | some e => e.2.2
  | none => s.rf (chOff Off.chCmpstat n) (2 * k) 2
/-- Comparator `k` of channel `n` is in the state with code `v` at some point from CCLK `a` to CCLK `b`. -/
def State.cmpIn (s : State) (n k v a b : Nat) : Bool :=
  decide (s.cmpWas n k a = v) || decide (s.cmpWas n k b = v) ||
    (s.ch n).cmpLog.any fun e => decide (e.2.1 = k) && decide (e.2.2 = v) && decide (a < e.1 ∧ e.1 ≤ b)

/-- Applied configuration byte of a comparator: EN, HYST, CLRMODE, EDGE, MODE. -/
def State.cmpCfg (s : State) (n k : Nat) : Nat := s.af (chOff Off.chCmpcfg n) (8 * k) 8
/-- EN of an applied configuration. -/
def State.cmpEn (s : State) (n k : Nat) : Bool := nbit (s.cmpCfg n k) 7
/-- MODE of an applied configuration; M0 of MH and ML is applied as M1 (R166). -/
def State.cmpMode (s : State) (n k : Nat) : Nat :=
  let m := s.cmpCfg n k % 4
  if 2 ≤ k ∧ m = 0 then 1 else m

/-- A compare state: L, H or M. -/
def isCmpState (st : BitVec 3) : Bool := decide (4 ≤ st.toNat ∧ st.toNat ≤ 6)

/-! ### PMU (R150, R173, R175, R176) -/

/-- Applied mode: 0 FN, 1 FV, 2 FI. -/
def State.pmuMode (s : State) (n : Nat) : Nat := s.rf (chOff Off.chPmustat n) 30 2
/-- Applied range. -/
def State.pmuIr (s : State) (n : Nat) : Nat := s.rf (chOff Off.chPmustat n) 27 3
/-- Applied force code. -/
def State.pmuCode (s : State) (n : Nat) : Int := signed 18 (s.rf (chOff Off.chPmustat n) 0 18)
/-- Sets mode, range and code. -/
def State.setPmu (s : State) (n mode ir : Nat) (code : Int) : State :=
  s.setRg (chOff Off.chPmustat n) (setFld (setFld (setFld 0 30 2 mode) 27 3 ir) 0 18 (unsigned 18 code))
/-- Sets the code. -/
def State.setPmuCode (s : State) (n : Nat) (code : Int) : State :=
  s.setRf (chOff Off.chPmustat n) 0 18 (unsigned 18 code)

/-- Sets a flag of CH_STAT. -/
def State.chFlag (s : State) (n bit : Nat) : State := s.setRb (chOff Off.chStat n) bit true

/-! ### Park (R152 to R154) -/

/-- A cause of R153 holds for channel `n`. -/
def State.parkCause (s : State) (n : Nat) : Bool :=
  s.safe || s.parkReq (n / 32) ||
    (match s.chSite n with
    | none => true
    | some k => s.fenced k || !s.enabled k)

/-- A MEAS of cluster `c` ends with the result `v` in its register (R106, R107). -/
def State.measResult (s : State) (c : Nat) (m : Meas) (v : Word) : State :=
  let q := s.sq c
  if m.lost then s else s.setSq c { q with g := Tbl.set 0 q.g m.rd v, pend := q.pend.erase m.rd }

/-- The conversions that ADC `k` of cluster `c` holds. -/
def State.adcList (s : State) (c k : Nat) : List Meas := Tbl.get [] (s.cl c).adc k
/-- Writes them. -/
def State.setAdc (s : State) (c k : Nat) (l : List Meas) : State :=
  s.setCl c { s.cl c with adc := Tbl.set [] (s.cl c).adc k l }

/-- Result of a MEAS whose channel is parked (R106). -/
def measParked : Word := 0x80000000

/-- ADC `k` is free: the next MEAS in issue order starts, and one whose channel is parked ends without a sample
(R106); `fuel` bounds their number. -/
def State.adcStart (s : State) (c k : Nat) : Nat → State
  | 0 => s
  | fuel + 1 =>
    match s.adcList c k with
    | [] => s
    | m :: rest =>
      if s.parkedCh (32 * c + m.ch) then ((s.setAdc c k rest).measResult c m measParked).adcStart c k fuel
      else s.setAdc c k ({ m with started := s.now } :: rest)

/-- Channel `n` parks before the last sample of the MEAS in conversion on it: the MEAS ends (R106). -/
def State.adcPark (s : State) (n : Nat) : State :=
  let c := n / 32
  let k := n % 32 / 8
  match s.adcList c k with
  | m :: rest =>
    if m.ch = n % 32 then (((s.setAdc c k rest).measResult c m measParked).adcStart c k (rest.length + 1)).capSteepEnd c else s
  | [] => s

/-- A background measurement of channel `n` is abandoned (R386). -/
def State.bgPark (s : State) (n : Nat) : State :=
  let u := s.cl (n / 32)
  if (u.bg.map (·.1)) = some (n % 32) then s.setCl (n / 32) { u with bg := none } else s

/-- CH_DRVCFG as it acts on the needle: as the last vector left it, which stands while the pins idle, or the present one where none
has run since the channel left park (R452). -/
def State.pinCfg (s : State) (n : Nat) : Word := (s.ch n).cfg.getD (s.ap (chOff Off.chDrvcfg n))
/-- The active load of channel `n` is connected while its driver is at level `l` (R163, R449). -/
def State.loadOn (s : State) (n : Nat) (l : Option Nat) : Bool :=
  !s.parkedCh n && decide (s.pmuMode n = 0) && l.isNone && flag (s.pinCfg n) 30 && isCmpState (s.ch n).prev

/-- What the watch of CH and CL begins with as channel `n` parks (R157, R167): a comparator in M2 or M3 goes on in its state; one in M0
or M1 changes to M2, on the side of its input or in UNK. -/
def State.watchStart (s : State) (n : Nat) : Tbl Cmp :=
  (List.range 2).foldl (fun t k =>
    let held := decide (2 ≤ s.cmpMode n k) && decide (s.cmp n k = .low ∨ s.cmp n k = .high)
    if held then Tbl.set .unk t k (s.cmp n k) else t) (s.ch n).sides

/-- Channel `n` enters its park state (R152, R153): driver, load and force path off, switch open, comparators OFF. -/
def State.parkChan (s : State) (n : Nat) : State :=
  if s.parkedCh n then s
  else
    let u := s.ch n
    let s := s.setCh n { u with prev := 0b010, base := 0b010, baseLvl := none, baseSteps := [], lvl := none, steps := [],
                                cfg := none, transAt := none,
                                unkAt := (none, none), moveEnd := s.now, watch := s.watchStart n }
    let s := (s.setRb (chOff Off.chStat n) 31 true).setRb (chOff Off.chStat n) 30 true
    let s := ((s.setPmu n 0 3 0).setRf (chOff Off.chCmpstat n) 0 8 0xFF).adcPark n
    let s := s.bgPark n
    s.setRb (Off.clClamp (n / 32)) (n % 32) false

/-- Side of the HYST band on which the input of comparator `k` was last reported; UNK inside the band (R167; DEDUCED, log 83). -/
def State.side (s : State) (n k : Nat) : Cmp := Tbl.get .unk (s.ch n).sides k
/-- Notes where the input of a comparator lies. -/
def State.setSide (s : State) (n k : Nat) (v : Cmp) : State :=
  s.setCh n { s.ch n with sides := Tbl.set .unk (s.ch n).sides k v }
/-- What the watch of a WAKE channel last found (R157). -/
def State.watchOf (s : State) (n k : Nat) : Cmp := Tbl.get .unk (s.ch n).watch k
/-- Writes it. -/
def State.setWatch (s : State) (n k : Nat) (v : Cmp) : State :=
  s.setCh n { s.ch n with watch := Tbl.set .unk (s.ch n).watch k v }

/-- The start of UNK of MH (`k` = 2) or ML (3), or no UNK (R168). -/
def State.setUnkAt (s : State) (n k : Nat) (t : Option Nat) : State :=
  let u := s.ch n
  if k = 2 then s.setCh n { u with unkAt := (t, u.unkAt.2) }
  else if k = 3 then s.setCh n { u with unkAt := (u.unkAt.1, t) }
  else s

/-- A comparator becomes enabled, changes mode or leaves park: with its input inside the HYST band it begins in UNK, which
its next transition resolves, and otherwise on the input's side (R154, R167); a disabled one is OFF. -/
def State.cmpBegin (s : State) (n k : Nat) : State :=
  if s.cmpEn n k then
    let v := s.side n k
    (s.setCmp n k v).setUnkAt n k (if v = .unk then some s.now else none)
  else s.setCmp n k .off

/-! ### The warden's gates (R313) -/

/-- The warden's own copy of a channel's site. -/
def State.wardSite (s : State) (n : Nat) : Option Nat :=
  let w := Tbl.get 0 s.ward.chCopy n
  if flag w 31 then some (fld w 0 7) else none

/-- Rails of a site in the warden's copy. -/
def State.wardRails (s : State) (k : Nat) : List Nat :=
  (s.ward.railCopy.filter fun e => flag e.2 31 && decide (fld e.2 0 7 = k)).map (·.1)

/-- Conditions on READY, CONTACT, ESTOP_N and heartbeat (R311, R312); a latched F5 withholds every permit (R326). -/
def State.wardOk (s : State) : Bool :=
  s.ward.granting && flag (s.sg Off.wdStat) 24 && !flag (s.sg Off.wdStat) 25 && flag (s.sg Off.wdStat) 26 &&
    !s.ward.safeAct && !flag (s.sg Off.wdF5) 31

/-- Place of slice `q`'s second copy of a limit: every slice holds its own of WL_SITE (R330). -/
def lim2Key (q off : Nat) : Nat := if 0x800 ≤ off then 0x10000 * q + off else off

/-- The more conservative of the two copies of a limit, field by field; of WL_SITE, over the copies of every slice (R330). -/
def State.limit (s : State) (off : Nat) : Word :=
  let q := if off < 0x400 then off / 8 / 16 else if off < 0x800 then off % 0x400 / 4 else 0
  let a := s.sg off
  if 0x800 ≤ off then
    (List.range 4).foldl (fun w q =>
      let b := Tbl.get 0 s.ward.lim2 (lim2Key q off)
      w &&& match s.ward.err1.getLsbD q, s.ward.err2.getLsbD q with
        | true, true => 0
        | true, false => b
        | false, true => a
        | false, false => a &&& b) (BitVec.allOnes 32)
  else
    let b := Tbl.get 0 s.ward.lim2 off
    let e1 := s.ward.err1.getLsbD q
    let e2 := s.ward.err2.getLsbD q
    if e1 && e2 then 0 else if e1 then b else if e2 then a
    else if off < 0x400 then (if a ≤ b then a else b) else (if a ≤ b then b else a)

/-- The slice grants gate `hv` (else I32) of channel `n`. -/
def State.gate (s : State) (n : Nat) (hv : Bool) : Bool :=
  s.wardOk && !s.safe &&
    (match s.wardSite n with
    | none => false
    | some k =>
      flag (s.limit (Off.wlSite k)) (if hv then 1 else 0) && !(s.wardRails k).isEmpty &&
        (s.wardRails k).all fun r => decide (8000 < Tbl.get 0 s.ward.railV r))

/-- Levels under which VIH, VIL or VTT exceeds +3.6 V or the swing exceeds 3.6 V (R161): 57,600 codes. -/
def hvLevels (vih vil vtt : Int) (term : Bool) : Bool :=
  let hi := max (max vih vil) (if term then vtt else max vih vil)
  let lo := min (min vih vil) (if term then vtt else min vih vil)
  decide (57600 < vih) || decide (57600 < vil) || decide (57600 < vtt) || decide (57600 < hi - lo)

/-- The gate of channel `n` is in use (R313). -/
def State.gateUsed (s : State) (n : Nat) (hv : Bool) : Bool :=
  if hv then hvLevels (s.code Off.chVih n) (s.code Off.chVil n) (s.code Off.chVtt n) (flag (s.ap (chOff Off.chDrvcfg n)) 31)
  else decide (s.pmuIr n = 4) && decide (s.pmuMode n ≠ 0)

/-! ### The sequencer's halt and the FIFO's discard (R98, R107, R155) -/

/-- Pending MEAS results of sequencer `c` are discarded (R107): the entries issued go on, and their results go nowhere. -/
def State.dropMeas (s : State) (c : Nat) : State :=
  let s := s.setSq c { s.sq c with pend := [] }
  let u := s.cl c
  let lose (m : Meas) : Meas := { m with lost := true }
  s.setCl c { u with
    settling := u.settling.map lose
    adc := u.adc.map fun e => (e.1, e.2.map lose)
    fifo := u.fifo.map fun e => match e.kind with
      | .meas m => { e with kind := .meas (lose m) }
      | _ => e }

/-- The result of an MLOOP that ends without a pass that matched (R94): G[GT] keeps its value until then (R63). -/
def SeqSt.mlZero (q : SeqSt) : SeqSt := match q.wait with
  | .issue j => match j.ml with
    | some m => if q.mtch then q else q.setG m.gt 0
    | none => q
  | _ => q

/-- Sequencer `x` halts: nothing waits any more (R107, R131). -/
def State.haltSeq (s : State) (x : Nat) : State :=
  let q := (s.sq x).mlZero
  let s := s.setSq x { q with
    mode := .halted, wait := .none, pend := [], stopReq := false, loops := [], locked := [], lockRows := [] }
  if x < 16 then
    let s := s.setRb (Off.clVcstat x) 31 false
    (s.setRf (Off.clVcstat x) 16 10 0).dropMeas x
  else s

/-- Discards the vectors and entries in the FIFO; the vector at the pins ends at its boundary (R155). -/
def State.dropFifo (s : State) (c : Nat) : State :=
  let s := s.gapEnd c (s.now * hps)
  s.setCl c { s.cl c with fifo := [], idle := true, bg := none }

/-- Steps 2 to 4 of R155: the FIFO is discarded, an open segment closes with `cause` and the channels enter the park state.
PARK_COMPLETE sets PARKED. A held unpark (ENPEND) stays until the next unpark tick, also where a fence or a loss of clocks parks
the cluster (DESIGN CHOICE, log 88: R156 does not say). -/
def State.parkRest (s : State) (c cause : Nat) : State :=
  let s := (s.dropFifo c).capDisarm c cause true
  let s := s.setRb (Off.clPark c) 0 true
  let s := (List.range 32).foldl (fun s i => s.parkChan (32 * c + i)) s
  s.setCl c { s.cl c with parking := true, strobes := [] }

/-- Cluster `c` parks with its fence or a loss of clocks (R26): its sequencer halts at once. -/
def State.parkCluster (s : State) (c cause : Nat) : State := (s.haltSeq c).parkRest c cause

/-- Step 1 of R155: the sequencer halts at the next instruction boundary, as on STOP. A run of vectors ends at its next
vector boundary, and with it its instruction; an instruction that stalls on a pending register has not begun, and the entry that
would end its stall is discarded, so that it ends there (DEDUCED, log 25). The halt clears what is pending (R107). -/
def State.parkStop (s : State) (c : Nat) : State :=
  let q := s.sq c
  match q.mode with
  | .halted => s
  | .running =>
    match q.wait with
    | .issue _ => (s.setSq c { q with pc := q.pc + 1 }).haltSeq c
    | .access .. | .ovl .. | .qpush _ | .cpx _ => s.setSq c { q with stopReq := true }
    | _ => s.haltSeq c
  | _ => s.haltSeq c

end Sys2Proof.Machine
end

