-- ==== Sys2Proof/Machine/Power.lean ====
section
/-!
DEFINITION. Plant outputs (spec 12): rails and their states and ramps, a site's power sequence up and down, LIFT_OK, aux
outputs, the start and stop of kettle zones; and force codes of the PMU with their saturation (R150, R151) and roles
(R12).
-/
namespace Sys2Proof.Machine

open Sys2Proof

/-! ### Roles and force codes (R12, R13, R150, R151) -/

/-- ROLE of channel `n`. -/
def State.role (s : State) (n : Nat) : Nat := s.rf (Off.chsite n) 8 2
/-- The site of channel `n` is POWERED. -/
def State.chPowered (s : State) (n : Nat) : Bool :=
  match s.chSite n with
  | some k => s.powered k
  | none => false
/-- The role allows driving. -/
def State.roleDrive (s : State) (n : Nat) : Bool :=
  decide (s.role n = 3) || (decide (s.role n = 0) && s.chPowered n)
/-- The role allows forcing. -/
def State.roleForce (s : State) (n : Nat) : Bool :=
  decide (s.role n = 3) || (decide (s.role n ≠ 1) && s.chPowered n)

/-- Valid force codes of a mode: FV as a voltage, FI as a current. -/
def forceClamp (mode : Nat) (code : Int) : Int :=
  if mode = 1 then clampI (-32000) 104000 code else clampI (-100000) 100000 code

/-- Writes a force code to channel `n`, saturated against the mode in force (R151); in FN it has no effect (R173). -/
def State.forceCode (s : State) (n : Nat) (code : Int) : State :=
  let m := s.pmuMode n
  if m = 0 then s
  else
    let v := forceClamp m code
    let s := if v = code then s
      else (s.chFlag n 6).noticeCl (n / 32) (chOff Off.chStat n) (s.chSite n)
    s.setPmuCode n v

/-! ### Rails (R287 to R289) -/

/-- States of RAIL_STAT.STATE. -/
def railOffSt : Nat := 0
def railEnSt : Nat := 1
def railUpRamp : Nat := 2
def railUpSt : Nat := 3
def railDnRamp : Nat := 4
def railDischSt : Nat := 5

/-- State of rail `r`. -/
def State.railState (s : State) (r : Nat) : Nat := s.rf (Off.railStat r) 29 3
/-- Every rail is OFF. -/
def State.allRailsOff (s : State) : Bool := (List.range 64).all fun r => decide (s.railState r = 0)
/-- Setpoint × 800 now: it moves toward the target by UP or DN per CCLK (R288). -/
def State.railAcc (s : State) (r : Nat) : Nat :=
  let u := s.rl r
  let dt := s.now - u.accAt
  let st := s.railState r
  let up := max 1 (s.rf (Off.railRamp r) 0 16)
  let dn := max 1 (s.rf (Off.railRamp r) 16 16)
  if st = railUpRamp ∨ st = railUpSt then
    let t := u.target * 800
    if u.acc ≤ t then min t (u.acc + up * dt) else max t (u.acc - up * dt)
  else if st = railDnRamp then u.acc - dn * dt
  else 0
/-- Present setpoint code. -/
def State.railSetpt (s : State) (r : Nat) : Nat := s.railAcc r / 800
/-- Takes the present setpoint as the start of a new move. -/
def State.railHold (s : State) (r : Nat) : State := s.setRl r { s.rl r with acc := s.railAcc r, accAt := s.now }

/-- Brings RAIL_EN_B and its grant down (R312). -/
def State.dropB (s : State) (r : Nat) : State :=
  let u := s.rl r
  (s.setRl r { u with bgrant := false, bLowAt := if u.bgrant then some s.now else u.bLowAt }).setRb (Off.railStat r) 27 false

/-- V below 0.2 V and |I| below IDONE in the last measurement (R287, R288). -/
def State.railLow (s : State) (r : Nat) : Bool :=
  decide (signed 18 (s.rf (Off.railV r) 0 18) < 3200) &&
    decide ((signed 18 (s.rf (Off.railI r) 0 18)).natAbs < s.rf (Off.railCfg r) 0 14 / 5)

/-- The rail enters DISCH: RAIL_EN_A low, RAIL_DIS high, request withdrawn (R288). -/
def State.railDisch (s : State) (r : Nat) : State :=
  let s := (s.railHold r).dropB r
  let s := s.setRl r { s.rl r with acc := 0, since := s.now, aLowAt := some s.now, breq := false, tolAt := none,
                                   ilimAt := none, dtmo := false,
                                   lowAt := if s.railLow r then some s.now else none }
  (((s.setRf (Off.railStat r) 29 3 railDischSt).setRb (Off.railStat r) 28 false).setRb (Off.railStat r) 26 true).setRb
    (Off.railStat r) 25 false

/-- The rail leaves OFF for ENABLE: RAIL_EN_A high, request to the warden, and RAIL_DIS low unless the warden holds a
safe action. -/
def State.railEnable (s : State) (r : Nat) : State :=
  let u := s.rl r
  let wdis := u.wdis && (s.safe || s.ward.safeAct || flag (s.sg Off.wdF5) 31)
  let s := s.setRl r { u with wdis := wdis, since := s.now, acc := 0, accAt := s.now, aLowAt := none, breq := true, viol := false,
                              reqSafe := s.safe, tolAt := none, ilimAt := none, ovNow := false, ocDone := false,
                              lowAt := none }
  ((s.setRf (Off.railStat r) 29 3 railEnSt).setRb (Off.railStat r) 28 true).setRb (Off.railStat r) 26 wdis

/-- A rail's ramp-down begins (R295): from ENABLE straight to DISCH, from RAMPUP and UP to RAMPDN. -/
def State.railDown (s : State) (r : Nat) : State :=
  let st := s.railState r
  if st = railEnSt then s.railDisch r
  else if st = railUpRamp ∨ st = railUpSt then
    let s := s.railHold r
    (s.setRl r { s.rl r with since := s.now, tolAt := none }).setRf (Off.railStat r) 29 3 railDnRamp
  else s

/-! ### Aux outputs (R297, R298) -/

/-- Valid codes of aux output `a`. -/
def auxClamp (a : Nat) (code : Int) : Int :=
  if a < 4 then clampI 0 100000 code else clampI (-100000) 100000 code
/-- Output `a` is held at code 0 by its site. -/
def State.auxBlocked (s : State) (a : Nat) : Bool :=
  match s.auxSite a with
  | some k => s.fenced k || !s.enabled k
  | none => false
/-- Output `a` is held at code 0: by its site, or by LIFT_REQ where it is assigned to a site (R298, R307). -/
def State.auxHeld (s : State) (a : Nat) : Bool := s.auxBlocked a || (s.auxSite a).isSome && s.rb Off.tdStat 29
/-- The code in force at output `a`. -/
def State.setAuxOut (s : State) (a : Nat) (code : Int) : State :=
  { s with auxOut := Tbl.set 0 s.auxOut a (BitVec.ofNat 18 (unsigned 18 code)) }
/-- Puts a code out where the output is connected and its site does not hold it. -/
def State.auxDrive (s : State) (a : Nat) (code : Int) : State :=
  let v := auxClamp a code
  let s := if v = code then s else s.setRb (Off.auxStat a) 29 true
  if !s.rb (Off.auxCfg a) 31 || s.auxHeld a then s.setAuxOut a 0 else s.setAuxOut a v
/-- BLOCKED and the hold at code 0 follow the site of output `a`. -/
def State.auxHoldSite (s : State) (a : Nat) : State :=
  let b := s.auxBlocked a
  let s := s.setRb (Off.auxStat a) 31 b
  if b then s.setAuxOut a 0 else s
/-- The outputs of site `k` follow its state. -/
def State.auxSiteHold (s : State) (k : Nat) : State := s.each (s.siteAux k) fun a s => s.auxHoldSite a
/-- The output of a site that is free again takes AUX_CODE. -/
def State.auxSiteFree (s : State) (k : Nat) : State :=
  s.each (s.siteAux k) fun a s =>
    let s := s.setRb (Off.auxStat a) 31 (s.auxBlocked a)
    s.auxDrive a (signed 18 (s.rf (Off.auxCode a) 0 18))

/-! ### A site's power (R293 to R295, R32) -/

/-- SEQPOS of rail `r`. -/
def State.seqpos (s : State) (r : Nat) : Nat := s.rf (Off.railsite r) 8 3
/-- Rails of site `k` at a position. -/
def State.group (s : State) (k p : Nat) : List Nat := (s.siteRails k).filter fun r => s.seqpos r = p
/-- Every rail of site `k` is OFF. -/
def State.siteOff (s : State) (k : Nat) : Bool := (s.siteRails k).all fun r => decide (s.railState r = 0)
/-- Writes SITE_PWR.PST. -/
def State.setPst (s : State) (k v : Nat) : State := s.setRf (Off.sitePwr k) 0 2 v
/-- SITE_STAT.ENPEND shows any held request (R20). -/
def State.enpend (s : State) (k : Nat) : State :=
  let u := s.st k
  s.setRb (Off.siteStat k) 30 (u.heldEn || u.heldUnf || u.heldPwr)

/-- The next group of site `k` goes on in the next CCLK. -/
def State.siteNext (s : State) (k : Nat) : State := s.setSt k { s.st k with stepAt := some (s.now + 1) }
/-- A rail of the list entered state `st` in the present CCLK. -/
def State.justIn (s : State) (l : List Nat) (st : Nat) : Bool :=
  l.any fun r => decide (s.railState r = st) && decide ((s.rl r).since = s.now)

/-- The groups of a running ramp-down: in descending SEQPOS, a group goes down in the CCLK after every rail above it has
entered DISCH (R295). -/
def State.downGroups (s : State) (k : Nat) : State :=
  (List.range 8).foldl
    (fun s j =>
      let p := 7 - j
      let above := (s.siteRails k).filter fun r => p < s.seqpos r
      let due := (s.group k p).filter fun r =>
        decide (s.railState r ≠ railOffSt ∧ s.railState r ≠ railDnRamp ∧ s.railState r ≠ railDischSt)
      if due.isEmpty || !(above.all fun r => decide (s.railState r = railDischSt ∨ s.railState r = railOffSt)) then s
      else if s.justIn above railDischSt then s.siteNext k
      else s.each due fun r s => s.railDown r) s

/-- The lowest group that is not UP enters ENABLE in the CCLK after every rail below it has reached UP (R294). -/
def State.upGroups (s : State) (k : Nat) : State :=
  let rails := s.siteRails k
  match (List.range 8).find? fun p => (s.group k p).any fun r => decide (s.railState r ≠ railUpSt) with
  | some p =>
    let due := (s.group k p).filter fun r => decide (s.railState r = railOffSt)
    if due.isEmpty then s
    else if s.justIn (rails.filter fun r => s.seqpos r < p) railUpSt then s.siteNext k
    else s.each due fun r s => s.railEnable r
  | none =>
    if rails.isEmpty || s.powered k then s
    else ((s.setPst k 2).setRb (Off.siteStat k) 28 true).fire (evPowered k)

/-- LIFT_OK rises from the first CCLK in which every rail is OFF and LIFT_REQ is high or the part is in F4 or F5
(R307, R309). -/
def State.liftOk (s : State) : State :=
  if s.allRailsOff && (s.rb Off.tdStat 29 || s.safe) && s.rst.ready && !s.rb Off.tdStat 28
  then (s.setRb Off.tdStat 28 true).fire evLiftOkRise else s

/-- The shutdown of site `k` is complete: what R32 held is applied from the unpowered state, and a held power request
starts the ramp-up (R293). In the CCLK of a fence the enable is not applied (R31). -/
def State.siteDown (s : State) (k : Nat) : State :=
  let u := s.st k
  let s := (s.setSt k { u with heldEn := false, heldUnf := false, heldPwr := false, down := false }).enpend k
  let s := s.setPst k 0
  let s := if u.heldUnf then s.setRb (Off.siteStat k) 31 false else s
  let en := u.heldEn && decide (u.fencedAt ≠ some s.now)
  let s := if en then (s.setRb (Off.siteCtl k) 31 true).setSt k { s.st k with enAt := some (s.now, false) } else s
  let s := if u.heldUnf || en then s.auxSiteFree k else s
  if u.heldPwr && s.rb (Off.sitePwr k) 31 then (s.setPst k 1).upGroups k else s

/-- After any change of a rail of site `k`: groups go on, and a finished shutdown completes. -/
def State.siteStep (s : State) (k : Nat) : State :=
  let s := if (s.st k).down then s.downGroups k else s
  let s := if (s.st k).down && s.siteOff k then s.siteDown k else s
  s.liftOk

/-- The CCLK has come in which the next group of site `k` goes on. -/
def State.siteGo (s : State) (k : Nat) : State :=
  let s := s.setSt k { s.st k with stepAt := none }
  if (s.st k).down then s.siteStep k
  else if s.rb (Off.sitePwr k) 31 && !s.fenced k then s.upGroups k else s

/-- Groups that are due in the present CCLK. -/
def State.sitesGo (s : State) : State :=
  s.each ((s.site.filter fun e => match e.2.stepAt with
    | some t => decide (t ≤ s.now)
    | none => false).map (·.1)) fun k s => s.siteGo k

/-- Channel `n` whose role no longer allows what its driver or force path does: the driver goes to Z, the force path to FN
at code 0 (R12, R13, R104). -/
def State.roleEnd (s : State) (n : Nat) : State :=
  let u := s.ch n
  let s := if s.roleDrive n then s
    else s.setCh n { u with
      lvl := none, baseLvl := none, steps := [], baseSteps := []
      prev := if u.prev.toNat < 2 then 0b010 else u.prev
      base := if u.base.toNat < 2 then 0b010 else u.base }
  if s.roleForce n || decide (s.pmuMode n = 0) then s else s.setPmu n 0 (s.pmuIr n) 0
/-- POWERED of site `k` ends, and with it the drive and force that it allows (R12). -/
def State.powerEnd (s : State) (k : Nat) : State :=
  if s.powered k then (s.setRb (Off.siteStat k) 28 false).each (s.siteChans k) fun n s => s.roleEnd n else s

/-- A refused power request (R293). -/
def State.powerRefuse (s : State) (k cause : Nat) : State :=
  let o := Off.sitePwr k
  ((s.setRb o 11 true).setRf o 8 3 cause).notice (blockSrc o) cause o (some k)

/-- A power request accepted in the present CCLK is refused after all: the rails that it began are OFF, REQ is 0 (R31,
R296). -/
def State.powerUndo (s : State) (k cause : Nat) : State :=
  if (s.st k).pwrAt = some s.now ∧ (s.st k).heldPwr then
    let s := ((s.setSt k { s.st k with pwrAt := none, heldPwr := false }).setRb (Off.sitePwr k) 31 false).enpend k
    s.powerRefuse k cause
  else if (s.st k).pwrAt = some s.now then
    let s := s.each ((s.siteRails k).filter fun r =>
        decide (s.railState r = railEnSt) && decide ((s.rl r).since = s.now)) fun r s =>
      (((s.setRl r { s.rl r with breq := false }).setRf (Off.railStat r) 29 3 railOffSt).setRb (Off.railStat r) 28 false).setRb
        (Off.railStat r) 26 true
    let s := ((s.setSt k { s.st k with pwrAt := none, stepAt := none }).setRb (Off.sitePwr k) 31 false).setPst k 0
    s.powerRefuse k cause
  else s

/-- A ramp-down of site `k` begins (R295); POWERED ends with it (R12). `clear` also clears REQ and a held request. -/
def State.rampDown (s : State) (k : Nat) (clear : Bool) : State :=
  let s := s.powerEnd k
  let s := if clear then
      ((s.setRb (Off.sitePwr k) 31 false).setSt k { s.st k with heldPwr := false }).enpend k
    else s
  let s := s.setSt k { s.st k with down := true }
  let s := if s.siteOff k then s else s.setPst k 3
  s.siteStep k

/-! ### Kettle zones (R303) -/

/-- State of zone `q`: 0 OFF, 1 STARTING, 2 RUN, 3 STOPPING. -/
def State.kzState (s : State) (q : Nat) : Nat := s.rf (Off.kzStat q) 30 2
/-- Writes it. -/
def State.setKzState (s : State) (q v : Nat) : State := s.setRf (Off.kzStat q) 30 2 v
/-- Writes u, which AUXq carries (R298, R302). -/
def State.setKzU (s : State) (q u : Nat) : State :=
  let s := (s.setRf (Off.kzU q) 0 17 u).setRf (Off.auxCode q) 0 18 u
  let s := if 100000 < u then s.setRb (Off.auxStat q) 29 true else s
  s.setAuxOut q (auxClamp q u)
/-- KEN_A is driven low, and the warden's KEN_B falls with the request (R312). -/
def State.kenLow (s : State) (q : Nat) : State :=
  let u := s.kz q
  let s := s.setKz q { u with ena := false, stopAt := none, aLowAt := some s.now, bgrant := false,
                              bLowAt := if u.bgrant then some s.now else u.bLowAt }
  (s.setRb (Off.kzStat q) 28 false).setRb (Off.kzStat q) 27 false
/-- The zone stops: u is 0 at once, and KEN_A falls 1 ms later (R303). -/
def State.kzStop (s : State) (q : Nat) : State :=
  let st := s.kzState q
  if st = 1 ∨ st = 2 then
    let s := ((s.setRb (Off.kzCtl q) 31 false).setKzU q 0).setKzState q 3
    s.setKz q { s.kz q with since := s.now, stopAt := some (s.now + 800000), i := 0 }
  else s.setRb (Off.kzCtl q) 31 false
/-- Safe state sets u to 0 and drives KEN_A low at once (R324). -/
def State.kzKill (s : State) (q : Nat) : State :=
  if s.kzState q = 0 then s.setRb (Off.kzStat q) 29 false
  else
    let s := s.kzStop q
    let s := s.setRb (Off.kzStat q) 29 false
    if (s.kz q).ena then s.kenLow q else s
/-- The zone starts from OFF (R303). -/
def State.kzStart (s : State) (q : Nat) : State :=
  let s := s.setKz q { s.kz q with i := 0, since := s.now, ena := true, aLowAt := none, viol := false, reqSafe := s.safe,
                                   stopAt := none }
  (((s.setRb (Off.kzCtl q) 31 true).setRb (Off.kzStat q) 28 true).setKzU q 0).setKzState q 1

end Sys2Proof.Machine
end

