-- ==== Sys2Proof/Machine/Tiu.lean ====
section
/-!
DEFINITION. Time-interval units (spec 10): edges, shots, statistics, the end of a run and its record, interpolator
calibration.
-/
namespace Sys2Proof.Machine

open Sys2Proof

/-! ### State and long registers -/

/-- State of TIU `t`: 0 IDLE, 1 RUNNING, 2 FILING, 3 CAL. -/
def State.tiuState (s : State) (t : Nat) : Nat := s.rf (Off.tiuStat t) 30 2
/-- Writes it. -/
def State.setTiuState (s : State) (t v : Nat) : State := s.setRf (Off.tiuStat t) 30 2 v
/-- Sets a flag of TIU_STAT. -/
def State.tiuFlag (s : State) (t bit : Nat) : State := s.setRb (Off.tiuStat t) bit true
/-- Writes a signed 64-bit value to a pair of registers. -/
def State.setLong (s : State) (lo hi : Nat) (v : Int) : State :=
  let n := unsigned 64 v
  (s.setRg lo (BitVec.ofNat 32 n)).setRg hi (BitVec.ofNat 32 (n / 2 ^ 32))
/-- Reads it. -/
def State.getLong (s : State) (lo hi : Nat) : Int := signed 64 ((s.rg lo).toNat + (s.rg hi).toNat * 2 ^ 32)

/-- Floor of the square root of a number below 2^164, bit by bit. -/
def isqrt (n : Nat) : Nat :=
  (List.range 82).foldl (fun r j => let t := r + 2 ^ (81 - j); if t * t ≤ n then t else r) 0

/-! ### Paths (R252, R253) -/

/-- Configuration of a path: TIU_STOP, or TIU_START. -/
def State.tiuPath (s : State) (t : Nat) (stop : Bool) : Word := s.rg (if stop then Off.tiuStop t else Off.tiuStart t)
/-- Channel of a comparator path. -/
def tiuChan (t : Nat) (w : Word) : Nat := 128 * (t / 2) + fld w 0 7
/-- Both paths select the same input (R254). -/
def State.tiuSame (s : State) (t : Nat) : Bool :=
  let a := s.tiuPath t false
  let b := s.tiuPath t true
  let k := fld a 12 3
  decide (k = fld b 12 3) &&
    (if k = 0 then decide (fld a 0 9 = fld b 0 9) else if k = 1 then decide (fld a 0 10 = fld b 0 10) else true)
/-- A comparator goes from LOW to HIGH, or back, in the present CCLK. In UNK or OFF, or on a parked channel, it produces no edge
(R152, R167, R252). -/
def State.cmpFlips (s : State) (n k : Nat) (rising : Bool) : Bool :=
  let b := if rising then 1 else 0
  !s.parkedCh n && s.cmpIn n k (1 - b) (s.now - 1) s.now && s.cmpIn n k b s.now s.now
/-- An edge of the input of a path qualifies: EDGE selects its direction, and the input can produce it. Event channels come
through the event fabric (R252). -/
def State.tiuQual (s : State) (t : Nat) (stop rising : Bool) : Bool :=
  let w := s.tiuPath t stop
  flag w (if rising then 10 else 11) &&
    (match fld w 12 3 with
    | 0 => s.cmpFlips (tiuChan t w) (fld w 7 2) rising
    | 1 => false
    | k => decide (k < 5))
/-- A transition of the comparator of a path in the present CCLK has not acted. -/
def State.tiuMoves (s : State) (t : Nat) (stop : Bool) : Bool :=
  let w := s.tiuPath t stop
  decide (fld w 12 3 = 0) && s.waiting.any fun c => match c with
    | .comparatorTransition n k _ => decide (n.val = tiuChan t w ∧ k.val = fld w 7 2)
    | _ => false
/-- A path's comparator runs in M2 or M3 (R253). -/
def State.slowPath (s : State) (t : Nat) (stop : Bool) : Bool :=
  let w := s.tiuPath t stop
  decide (fld w 12 3 = 0) && decide (2 ≤ s.cmpMode (tiuChan t w) (fld w 7 2))
/-- Path delay in fs that the part subtracts from an edge of a comparator in M0 or M1 (R253). The spec names no item of the
calibration for it: a free value (log 80). -/
def State.pathDelay (s : State) (t : Nat) (stop : Bool) : Int :=
  let w := s.tiuPath t stop
  if fld w 12 3 = 0 ∧ !s.slowPath t stop then Config.cmpDelay (tiuChan t w) (fld w 7 2) else 0
/-- An edge of a path as it is timed: the mode of its comparator is the one it has now (R253). -/
def State.tiuTime (s : State) (t : Nat) (stop : Bool) (tclk : Nat) (bin : BitVec 8) : TiuTime :=
  { tclk := tclk, bin := bin, delay := s.pathDelay t stop, slow := s.slowPath t stop }
/-- TCLK cycle and bin of an edge. -/
def TiuTime.spot (e : TiuTime) : Nat × BitVec 8 := (e.tclk, e.bin)
/-- An edge reaches the TIU before another. -/
def TiuTime.before (e f : TiuTime) : Bool := decide (e.tclk < f.tclk ∨ (e.tclk = f.tclk ∧ e.bin < f.bin))
/-- An edge joins others, the newest first. -/
def TiuTime.into (e : TiuTime) : List TiuTime → List TiuTime
  | [] => [e]
  | f :: l => if e.before f then f :: e.into l else e :: f :: l

/-! ### Shots (R253 to R258, R262) -/

/-- Divisor of PRESC. -/
def prescOf (n : Nat) : Nat := match n with
  | 0 => 1 | 1 => 2 | 2 => 4 | 3 => 8 | 4 => 16 | _ => 64
/-- Width of bin `b` of a table. -/
def binW (t : Tbl Nat) (b : Nat) : Nat := Tbl.get 0 t b
/-- frac(b): the place of bin `b` within the TCLK cycle (R257). -/
def binFrac (t : Tbl Nat) (b : Nat) : Nat := ((List.range b).foldl (fun n i => n + binW t i) 0) + binW t b / 2
/-- frac of an edge on a path: 0 for an event channel (R257). -/
def State.edgeFrac (s : State) (t : Nat) (stop : Bool) (b : BitVec 8) : Nat :=
  if fld (s.tiuPath t stop) 12 3 = 1 then 0 else binFrac (s.tu t).runTab b.toNat
/-- Time of an edge in fs from TCLK cycle 0, at the ball of a comparator's channel. -/
def State.edgeFs (s : State) (t : Nat) (stop : Bool) (e : TiuTime) : Int :=
  (e.tclk : Int) * 312500 + s.edgeFrac t stop e.bin - e.delay
/-- TSTAMP of an edge in TCLK cycle `tclk` of the time base. A REF-class run counts cycles of PLLB: its edge takes the TSTAMP of the
CCLK in which it comes (R266, R267). -/
def State.edgeStamp (s : State) (t tclk : Nat) : BitVec 64 :=
  if s.rb (Off.tiuCfg t) 31 then s.tstamp else s.tstamp + BitVec.ofInt 64 ((tclk : Int) - 4 * s.now)

/-- The prescaled edge `e` of a path lies within 3 TCLK of the one before it (R255). -/
def State.tooFast (s : State) (t : Nat) (stop : Bool) (last : Option TiuTime) (e : TiuTime) : Bool :=
  match last with
  | some l => decide (s.edgeFs t stop e - s.edgeFs t stop l ≤ 937500)
  | none => false
/-- Sets FASTIN, in TIU_STAT and in the run's flags, where `f` holds (R255). -/
def State.tiuFastIn (s : State) (t : Nat) (f : Bool) : State :=
  if f then (s.setTu t { s.tu t with fastNow := true, fast := true }).tiuFlag t 23 else s

/-- A shot is counted with the value `x` and the stop edge `stop` (R258, R262); a shot with FASTIN has no defined value (R255). -/
def State.tiuCount (s : State) (t stop : Nat) (x : Int) (under : Bool) : State :=
  let u := s.tu t
  let x := if u.fastNow then Config.fastShot s.freeCtr else x
  let s := if u.fastNow then s.fresh else s
  let s := if under && !u.fastNow then s.count (Off.tiuUnder t) 0 25 1 else s
  let n := s.rf (Off.tiuCount t) 0 25 + 1
  let s := s.setRf (Off.tiuCount t) 0 25 n
  let s := s.setLong (Off.tiuLast t 0) (Off.tiuLast t 1) x
  let mn := s.getLong (Off.tiuMin t 0) (Off.tiuMin t 1)
  let mx := s.getLong (Off.tiuMax t 0) (Off.tiuMax t 1)
  let s := if n = 1 ∨ x < mn then s.setLong (Off.tiuMin t 0) (Off.tiuMin t 1) x else s
  let s := if n = 1 ∨ mx < x then s.setLong (Off.tiuMax t 0) (Off.tiuMax t 1) x else s
  let s := s.setTu t { u with
    sum := u.sum + x, sumsq := u.sumsq + x * x, armed := false, started := false, rearm := s.now + 16,
    tsLast := s.edgeStamp t stop, fastNow := false, latest := [], stops := 0, ending := none }
  (s.fire (evTiu t 0)).capTriggerAll 3 s.trigDue fun sel => decide (sel % 8 = t)
/-- A shot completes. The last one is counted, and ends its run, as its CCLK ends: an ABORT of that CCLK finds it completed (R264). -/
def State.tiuShot (s : State) (t stop : Nat) (x : Int) (under : Bool) : State :=
  if s.rf (Off.tiuN t) 0 24 ≤ s.rf (Off.tiuCount t) 0 25 then
    s.setTu t { s.tu t with armed := false, started := false, ending := some (stop, x, under) }
  else s.tiuCount t stop x under
/-- The last shot of a run is counted. -/
def State.tiuLastShot (s : State) (t : Nat) : State := match (s.tu t).ending with
  | some (stop, x, under) => s.tiuCount t stop x under
  | none => s

/-! ### The end of a run (R262 to R266) -/

/-- How a run ends (R263). -/
inductive TiuEnd where
  | done | ovr | tbloss | abort | safe
  deriving DecidableEq, Repr

/-- Mean and standard deviation over the counted shots (R262). -/
def State.tiuStats (s : State) (t : Nat) : State :=
  let u := s.tu t
  let n := s.rf (Off.tiuCount t) 0 25
  if n = 0 then s
  else
    let s := s.setLong (Off.tiuMean t 0) (Off.tiuMean t 1) (roundDiv u.sum n)
    if n = 1 then s.setRg (Off.tiuSdev t) 0
    else
      let a := ((n : Int) * u.sumsq - u.sum * u.sum).natAbs
      let sd := (isqrt (4 * a / (n * (n - 1))) + 1) / 2
      let over32 := decide (0xFFFFFFFF < sd)
      (s.setTu t { u with sdsat := u.sdsat || over32 }).setRg (Off.tiuSdev t) (BitVec.ofNat 32 (min 0xFFFFFFFF sd))

/-- Ends the run in progress. A run that ends with DONE, OVR or TBLOSS and has EN = 1 goes to FILING (R265). A last shot that has
completed in the CCLK is counted; with a loss of the time base it is the shot in progress that R263 discards (R264; DEDUCED, log
81). A run without a start edge shows in SLOWCMP the modes of its comparators as it ends (DESIGN CHOICE, log 88). -/
def State.tiuFinish (s : State) (t : Nat) (e : TiuEnd) : State :=
  if s.tiuState t ≠ 1 then s
  else
    let s := (if e = .tbloss then s else s.tiuLastShot t).tiuStats t
    let u := s.tu t
    let slow := u.slow || (u.tsFirst.isNone && (s.slowPath t false || s.slowPath t true))
    let s := s.setTu t { u with armed := false, started := false, rearm := 0, ending := none, slow := slow,
                                ovr := decide (e = .ovr), tbloss := decide (e = .tbloss) }
    let s := match e with
      | .ovr => s.tiuFlag t 24
      | .tbloss => s.tiuFlag t 25
      | _ => s
    let s := if e = .abort then s else s.tiuFlag t 29
    if e ≠ .abort ∧ e ≠ .safe ∧ s.rb (Off.tiuRoute t) 31
    then (s.setTiuState t 2).fire (evTiu t 1)
    else s.setTiuState t 0

/-- The CCLK ends: the runs whose last shot has completed in it end with DONE. -/
def State.tiuEnds (s : State) : State :=
  s.each ((s.tiu.filter fun e => e.2.ending.isSome).map (·.1)) fun t s => s.tiuFinish t .done

/-- A record that is discarded or dropped: a TIU's sets NOREC (R265). -/
def State.recLost (s : State) (r : Rec) : State :=
  let v := r.src.toNat
  if 0x40 ≤ v ∧ v < 0x48 then s.tiuFlag (v - 0x40) 26 else s

/-- The record of a run (R266), in the steep in which it is offered (R40); FENCE where its site was fenced meanwhile (R25). -/
def State.tiuRec (s : State) (t : Nat) : Rec :=
  let u := s.tu t
  let b (lo hi : Nat) : List Byte := wordBytes (s.rg lo) ++ wordBytes (s.rg hi)
  let cfg := s.rg (Off.tiuCfg t)
  { tsStart := u.tsFirst.getD 0, tsEnd := u.tsLast, dead := 0,
    site := BitVec.ofNat 7 (s.rf (Off.tiuRoute t) 20 7),
    segnum := BitVec.ofNat 20 (s.rf (Off.tiuStat t) 0 20), src := BitVec.ofNat 8 (0x40 + t), decexp := 0,
    qid := BitVec.ofNat 20 (s.rf (Off.tiuRoute t) 0 20), flags := if u.fenced then fFence else 0, sthr := s.maxStretch,
    body :=
      b (Off.tiuMean t 0) (Off.tiuMean t 1) ++ b (Off.tiuMin t 0) (Off.tiuMin t 1) ++
      b (Off.tiuMax t 0) (Off.tiuMax t 1) ++ wordBytes (s.rg (Off.tiuSdev t)) ++ wordBytes (s.rg (Off.tiuCount t)) ++
      wordBytes (s.rg (Off.tiuUnder t)) ++
      wordBytes (setFld (setFld (setFlag (setFlag (setFlag (setFlag (setFlag (setFlag (setFlag (setFlag 0
        31 (flag cfg 31)) 30 (flag cfg 30)) 29 u.ovr) 28 u.tbloss) 27 u.slow) 26 u.runSrc) 25 u.sdsat) 24 u.fast)
        16 3 (fld cfg 24 3)) 0 16 (fld cfg 0 16)) ++ List.replicate 24 0,
    steep := s.steep.num, made := 0, closing := false }

/-! ### Edges (R252 to R260) -/

/-- Arms the next shot: both prescalers reset (R254). -/
def State.tiuArm (s : State) (t : Nat) : State :=
  s.setTu t { s.tu t with armed := true, started := false, preA := 0, preB := 0, stops := 0, latest := [], lastA := none,
                          lastB := none, fastNow := false }

/-- An edge is timed: one of a comparator in M2 or M3 sets SLOWCMP in the run's flags (R253). -/
def State.tiuTimed (s : State) (t : Nat) (e : TiuTime) : State :=
  if e.slow then s.setTu t { s.tu t with slow := true } else s

/-- An edge on the armed stop path, after the start (R254, R258, R259). -/
def State.tiuStopped (s : State) (t : Nat) (e : TiuTime) : State :=
  let u := s.tu t
  let n := u.preB + 1
  if n < prescOf (s.rf (Off.tiuCfg t) 24 3) then s.setTu t { u with preB := n }
  else
    let s := s.tiuFastIn t (s.tooFast t true u.lastB e)
    let stops := u.stops + 1
    let s := s.setTu t { s.tu t with preB := 0, lastB := some e, stops := stops }
    if u.start.tclk + 2 ^ 40 ≤ e.tclk then s.tiuFinish t .ovr
    else if stops ≤ s.rf (Off.tiuCfg t) 0 16 then s
    else
      let x := s.edgeFs t true e - s.edgeFs t false u.start
      if 0 < x then s.tiuShot t e.tclk x false else s.tiuShot t e.tclk 0 true

/-- A stop edge before the start: signed mode keeps the latest (R260); outside it one in the bin of the start is met once the
start fires (R258), and any other has no effect (R254). -/
def State.tiuEarly (s : State) (t : Nat) (e : TiuTime) : State :=
  let signed := s.rb (Off.tiuCfg t) 30
  let s := if signed then s.tiuFastIn t (s.tooFast t true (s.tu t).lastB e) else s
  let u := s.tu t
  s.setTu t { u with latest := (e.into u.latest).take 2, lastB := if signed then some e else u.lastB }

/-- The latest stop edge before a start at `e`, which is not the edge that fires the start (R254). -/
def State.tiuLatest (s : State) (t : Nat) (e : TiuTime) : Option TiuTime :=
  ((s.tu t).latest.filter fun x => !(s.tiuSame t && decide (x.spot = e.spot))).head?

/-- The start has fired at `e`. -/
def State.tiuFired (s : State) (t : Nat) (e : TiuTime) : State :=
  match s.tiuLatest t e with
  | none => s
  | some l =>
    if s.rb (Off.tiuCfg t) 30 then
      if l.spot = e.spot then s.tiuShot t l.tclk 0 true
      else if s.edgeFs t false e - s.edgeFs t true l ≤ (s.rf (Off.tiuWin t) 0 16 : Int) * 312500 then
        s.tiuShot t l.tclk (s.edgeFs t true l - s.edgeFs t false e) false
      else s
    else if l.spot = e.spot then s.tiuStopped t l
    else s

/-- A qualifying edge on the stop path. One in the bin of the start ends a signed shot with 0, and one before the start counts as
such, whichever is reported first (R254, R260). -/
def State.tiuStop (s : State) (t : Nat) (e : TiuTime) : State :=
  let u := s.tu t
  let signed := s.rb (Off.tiuCfg t) 30
  if s.tiuState t ≠ 1 ∨ !u.armed then s
  else
    let s := s.tiuTimed t e
    if !u.started then s.tiuEarly t e
    else if u.start.spot = e.spot then
      if s.tiuSame t then s else if signed then s.tiuShot t e.tclk 0 true else s.tiuStopped t e
    else if e.before u.start then (if signed then (s.tiuEarly t e).tiuFired t u.start else s)
    else s.tiuStopped t e

/-- A qualifying edge on the start path. -/
def State.tiuStart (s : State) (t : Nat) (e : TiuTime) : State :=
  let u := s.tu t
  if s.tiuState t ≠ 1 ∨ !u.armed then s
  else
    let n := u.preA + 1
    let s := s.tiuTimed t e
    if n < prescOf (s.rf (Off.tiuCfg t) 24 3) then s.setTu t { s.tu t with preA := n }
    else
      let s := s.tiuFastIn t (s.tooFast t false u.lastA e)
      let v := { s.tu t with preA := 0, lastA := some e }
      if u.started then s.setTu t v
      else
        let s := s.setTu t { v with started := true, start := e, preB := 0, stops := 0,
                                    tsFirst := some (u.tsFirst.getD (s.edgeStamp t e.tclk)) }
        s.tiuFired t e

/-! ### Event channels as inputs (R252) -/

/-- The TIU path (start, or stop) of TIU `t` is the event channel `k` (R252). -/
def State.tiuBound (s : State) (k t : Nat) (stop : Bool) : Bool :=
  let w := s.tiuPath t stop
  decide (fld w 12 3 = 1) && decide (fld w 0 10 = k)

/-- An edge of the event channel of a path in the present CCLK, rising or falling, where EDGE selects it. -/
def State.tiuEvent (s : State) (t : Nat) (stop falling : Bool) : State :=
  if flag (s.tiuPath t stop) (if falling then 11 else 10) then
    let e := s.tiuTime t stop (4 * s.now) 0
    if stop then s.tiuStop t e else s.tiuStart t e
  else s

/-- The pulse of an event channel reaches TIU `t`: its signal rises, unless it is high from the CCLK before, and falls in
the next CCLK unless another pulse follows (DEDUCED, log 81). -/
def State.tiuPulse (s : State) (k t : Nat) : State :=
  let u := s.tu t
  let a := s.tiuBound k t false
  let b := s.tiuBound k t true
  let f (on : Bool) (old : Option Nat) : Option Nat := if on then some (s.now + 1) else old
  let s := if a || b then s.setTu t { u with fallA := f a u.fallA, fallB := f b u.fallB } else s
  let s := if a && u.fallA.isNone then s.tiuEvent t false false else s
  if b && u.fallB.isNone then s.tiuEvent t true false else s

/-- The signals of event channels without a pulse in the CCLK that begins have fallen. -/
def State.tiuFall (s : State) (t : Nat) : State :=
  let u := s.tu t
  let due (x : Option Nat) : Bool := x.any fun n => decide (n ≤ s.now)
  let a := due u.fallA
  let b := due u.fallB
  if a || b then
    let f (on : Bool) (old : Option Nat) : Option Nat := if on then none else old
    let s := s.setTu t { u with fallA := f a u.fallA, fallB := f b u.fallB }
    let s := if a then s.tiuEvent t false true else s
    if b then s.tiuEvent t true true else s
  else s
/-- The falling edges of every TIU. -/
def State.tiuFalls (s : State) : State := s.each (s.tiu.map (·.1)) fun t s => s.tiuFall t

/-! ### The commands -/

/-- The inputs of a path are valid (R252): SEL[9] of a comparator is 0. Whether a nonzero reserved part of SEL makes a configuration
invalid is not stated: that bit does, and SEL of TYPE 2 to 4 does not (DESIGN CHOICE, log 88). -/
def tiuPathOk (w : Word) : Bool :=
  decide (fld w 12 3 < 5) && decide (fld w 10 2 ≠ 0) && (decide (fld w 12 3 ≠ 0) || !flag w 9)

/-- The configuration admits a run (R260, R261); in bypass a PROD-class GO is rejected (R417). -/
def State.tiuGoOk (s : State) (t : Nat) : Bool :=
  let cfg := s.rg (Off.tiuCfg t)
  let a := s.rg (Off.tiuStart t)
  let b := s.rg (Off.tiuStop t)
  decide (s.tiuState t = 0) && tiuPathOk a && tiuPathOk b && decide (fld cfg 24 3 < 6) &&
    (!flag cfg 30 || (decide (fld cfg 24 3 = 0) && decide (fld cfg 0 16 = 0))) &&
    (if flag cfg 31 then s.rb Off.tiuTbstat 31 && decide (fld a 12 3 ≠ 1) && decide (fld b 12 3 ≠ 1)
     else !s.rb Off.clkStat 30)

/-- An accepted GO (R261). -/
def State.tiuBegin (s : State) (t : Nat) : State :=
  let s := s.setRf (Off.tiuStat t) 0 20 (s.rf (Off.tiuStat t) 0 20 + 1)
  let s := s.setRb (Off.tiuStat t) 29 false
  let z (s : State) (o : Nat) : State := s.setRg o 0
  let s := [Off.tiuCount t, Off.tiuUnder t, Off.tiuLast t 0, Off.tiuLast t 1, Off.tiuMean t 0, Off.tiuMean t 1,
    Off.tiuMin t 0, Off.tiuMin t 1, Off.tiuMax t 0, Off.tiuMax t 1, Off.tiuSdev t].foldl z s
  let u := s.tu t
  let s := s.setTu t { u with sum := 0, sumsq := 0, fast := false, slow := false, sdsat := false, ovr := false,
                              tbloss := false, tsFirst := none, tsLast := 0, rearm := 0, ending := none, fenced := false,
                              runTab := s.tiuTab t, runSrc := u.tabSrc }
  (s.setTiuState t 1).tiuArm t

/-- A rejected GO. -/
def State.tiuReject (s : State) (t : Nat) : State := (s.tiuFlag t 28).noticeAt (Off.tiuStat t)

/-- `c` may bring an edge to TIU `t`. -/
def State.tiuEdgeComes (s : State) (t : Nat) (c : Instr) : Bool := match c with
  | .tiuStartEdge u _ _ | .tiuStopEdge u _ _ => decide (u.val = t)
  | .eventPass k => s.tiuBound k t false || s.tiuBound k t true
  | _ => false

/-- A write of TIU_CMD by party `p`: ABORT acts first, and a GO beside it is rejected; an ABORT waits for the edges of its
CCLK (R264). -/
def State.tiuCmd (s : State) (p : Party) (t : Nat) (v : Word) : State :=
  if flag v 1 ∧ s.tiuState t = 1 ∧ s.waiting.any (s.tiuEdgeComes t) then s.putBehind (requeue p .pf0 (Off.tiuCmd t) v)
  else if flag v 1 then
    let s := s.tiuFinish t .abort
    if flag v 0 then s.tiuReject t else s
  else if flag v 0 then (if s.tiuGoOk t then s.tiuBegin t else s.tiuReject t)
  else s

/-- A write of a configuration register, `k` in the order CFG, START, STOP, N, WIN, ROUTE. -/
def State.tiuConfig (s : State) (t k : Nat) (v : Word) : State :=
  if s.tiuState t ≠ 0 then s.tiuFlag t 27
  else match k with
    | 0 => s.setRg (Off.tiuCfg t) (v &&& 0xC700FFFF)
    | 1 => s.setRg (Off.tiuStart t) (v &&& 0x7FFF)
    | 2 => s.setRg (Off.tiuStop t) (v &&& 0x7FFF)
    | 3 => s.setRg (Off.tiuN t) (v &&& 0xFFFFFF)
    | 4 => s.setRg (Off.tiuWin t) (v &&& 0xFFFF)
    | _ => s.setRg (Off.tiuRoute t) (v &&& 0x87FFFFFF)

/-- A write of TIU_CALCTL: SRC is stored, GO starts a code-density test on an IDLE TIU (R269). -/
def State.tiuCalctl (s : State) (t : Nat) (v : Word) : State :=
  let s := s.setRg (Off.tiuCalctl t) (v &&& 2)
  if flag v 0 then
    if s.tiuState t = 0 then (s.setTiuState t 3).setRb (Off.tiuCalstat t) 31 true
    else s.setRb (Off.tiuCalstat t) 28 true
  else s

/-- Width of a bin from its hits, rounded (R269). -/
def hitWidth (h : Nat) : Nat := min 65535 ((h * 312500 + 2 ^ 19) / 2 ^ 20)

/-- The code-density test ends (R269); `hits` are the hits of bins 0 to 255, 2^20 in all. -/
def State.tiuCalEnd (s : State) (t : Nat) (hits : List Nat) : State :=
  if s.tiuState t ≠ 3 then s
  else
    let ws := (List.range 256).map fun b => hitWidth (hits.getD b 0)
    let nz := (ws.filter (0 < ·)).length
    let mx := ws.foldl max 0
    let c := Off.tiuCalstat t
    let s := (s.setTiuState t 0).change c fun w => setFld (setFld (setFlag (setFlag w 31 false) 30 true) 16 9 nz) 0 16 mx
    if 160 ≤ nz ∧ mx ≤ 4000 then
      s.setTu t { s.tu t with cd := some ((ws.zipIdx.filter fun e => 0 < e.1).map fun e => (e.2, e.1)) }
    else (s.setRb c 29 true).noticeAt c

/-! ### Meanings -/

/-- TIU_GO (R261): a write of TIU_CMD. -/
def execTiuGo (p : Party) (t : Fin 8) (v : Word) (s : State) : Result :=
  .next (s.gateWrite p .pf0 (Off.tiuCmd t) v fun s => s.tiuCmd p t v)
/-- TIU_ABORT (R263, R264): a write of TIU_CMD. -/
def execTiuAbort (p : Party) (t : Fin 8) (v : Word) (s : State) : Result :=
  .next (s.gateWrite p .pf0 (Off.tiuCmd t) v fun s => s.tiuCmd p t v)
/-- TIU_CONFIG_WRITE (R261). -/
def execTiuConfigWrite (p : Party) (t : Fin 8) (k : Fin 6) (v : Word) (s : State) : Result :=
  .next (s.gateWrite p .pf0 (tiuCfgOff t k) v fun s => s.tiuConfig t k v)
/-- TIU_START_EDGE (R252, R254): an edge of the input that the start path selects. It waits for a transition of its comparator. -/
def execTiuStartEdge (t : Fin 8) (tclk : Nat) (e : TiuEdge) (s : State) : Result :=
  .next (if s.tiuQual t false e.rising then s.tiuStart t (s.tiuTime t false tclk e.bin)
    else if s.tiuMoves t false then s.putBehind (.tiuStartEdge t tclk e) else s)
/-- TIU_STOP_EDGE (R252, R257). -/
def execTiuStopEdge (t : Fin 8) (tclk : Nat) (e : TiuEdge) (s : State) : Result :=
  .next (if s.tiuQual t true e.rising then s.tiuStop t (s.tiuTime t true tclk e.bin)
    else if s.tiuMoves t true then s.putBehind (.tiuStopEdge t tclk e) else s)
/-- TIU_SHOT_ARM (R256): 16 CCLK after the stop. -/
def execTiuShotArm (t : Fin 8) (s : State) : Result :=
  let u := s.tu t
  .next (if s.tiuState t = 1 ∧ !u.armed ∧ u.rearm ≤ s.now then s.tiuArm t else s)
/-- TIU_OVERFLOW (R259): Nc reaches 2^40 in a shot whose start has fired. -/
def execTiuOverflow (t : Fin 8) (s : State) : Result :=
  .next (if (s.tu t).started then s.tiuFinish t .ovr else s)
/-- TIU_CAL_GO (R269): a write of TIU_CALCTL. -/
def execTiuCalGo (p : Party) (t : Fin 8) (v : Word) (s : State) : Result :=
  .next (s.gateWrite p .pf0 (Off.tiuCalctl t) v fun s => s.tiuCalctl t v)
/-- TIU_CAL_DONE (R269). -/
def execTiuCalDone (t : Fin 8) (hits : List Nat) (s : State) : Result := .next (s.tiuCalEnd t hits)

end Sys2Proof.Machine
end

