-- ==== Sys2Proof/Machine/Pot.lean ====
section
/-!
DEFINITION. Pots (R135 to R139): the ring's rows, level, the advance of RD and the low watermark.
-/
namespace Sys2Proof.Machine

open Sys2Proof

/-- The pot is enabled. -/
def State.potEn (s : State) (p : Nat) : Bool := s.rb (Off.potCfg p) 31
/-- Rows in the ring. -/
def State.potSize (s : State) (p : Nat) : Nat := 2 ^ s.rf (Off.potCfg p) 16 5
/-- Level (WR − RD) mod 2^32. -/
def State.potLevel (s : State) (p : Nat) : Nat := (s.rg (Off.potWr p) - s.rg (Off.potRd p)).toNat
/-- Row of the stream's next entry. -/
def State.potRow (s : State) (p : Nat) : Nat :=
  (s.rg (Off.potBase p)).toNat + (s.rg (Off.potRd p)).toNat % s.potSize p
/-- Owner: whether a waveform engine, and its number. -/
def State.potOwner (s : State) (p : Nat) : Bool × Nat := (s.rb (Off.potCfg p) 30, s.rf (Off.potCfg p) 24 4)

/-- Enabled pots, from the listed POT_CFG registers. -/
def State.potsOn (s : State) : List Nat :=
  (s.reg.filter fun e => decide (0xA2000 ≤ e.1 ∧ e.1 < 0xA2800 ∧ e.1 % 0x20 = 0) && flag e.2 31).map fun e =>
    (e.1 - 0xA2000) / 0x20

/-- Row `r` lies between RD and WR of pot `p`, within the 256 rows that the part may have prefetched (R138). -/
def State.potHolds (s : State) (p r : Nat) : Bool :=
  let base := (s.rg (Off.potBase p)).toNat
  let size := s.potSize p
  decide (base ≤ r ∧ r < base + size) &&
    decide ((r - base + size - (s.rg (Off.potRd p)).toNat % size) % size < min 256 (s.potLevel p))

/-- Software rewrites row `r`: where it is published, its old contents may still play (R138). -/
def State.potRewrite (s : State) (r : Nat) : State :=
  if (s.potsOn.any fun p => s.potHolds p r) && (Tbl.find s.potOld r).isNone
  then { s with potOld := tblPut r (s.mem.row r) s.potOld } else s

/-- The data of row `r` as a pot delivers it: of a rewritten row, which contents is not defined (R138). -/
def State.potData (s : State) (r : Nat) (new : Row) : Row := match Tbl.find s.potOld r with
  | some old => if Config.potOldRow s.freeCtr then old else new
  | none => new

/-- The row has been read. -/
def State.potSeen (s : State) (r : Nat) : State := match Tbl.find s.potOld r with
  | some _ => State.fresh { s with potOld := Tbl.drop s.potOld r }
  | none => s

/-- RD advances by one row, and LOW follows (R138, R139). -/
def State.potAdvance (s : State) (p : Nat) : State :=
  let l := s.potLevel p
  let wm := s.rf (Off.potWm p) 0 27
  let s := s.setRg (Off.potRd p) (s.rg (Off.potRd p) + 1)
  if wm ≤ l ∧ l - 1 < wm then ((s.setRb (Off.potStat p) 30 true).irq p).fire (evPot p 0) else s

/-- An underrun with pot `p` as source (R142, R279). -/
def State.potUnderrun (s : State) (p : Nat) : State :=
  (((s.setRb (Off.potStat p) 31 true).count (Off.potUcnt p) 0 16 1).irq (64 + p)).fire (evPot p 1)

/-- Whether the ring lies inside vector memory and outside the descriptor region (R136). -/
def ringOk (base size : Nat) : Bool := decide (base + size ≤ descRow)

/-- The ring of pot `p` ends: what its rows held before a rewrite is forgotten. -/
def State.potForget (s : State) (p : Nat) : State :=
  let base := (s.rg (Off.potBase p)).toNat
  { s with potOld := s.potOld.filter fun e => !decide (base ≤ e.1 ∧ e.1 < base + s.potSize p) }

/-- A write of POT_CFG (R136); one that clears EN waits for its owner to be halted. -/
def State.potCfgWrite (s : State) (p : Nat) (v : Word) (ownerHalted : Bool) : State :=
  let o := Off.potCfg p
  let cur := s.rg o
  let v := v &&& 0xCF1F0000
  let rej := s.setRb (Off.potStat p) 28 true
  if flag cur 31 then
    if flag v 31 then rej
    else if ownerHalted then (s.potForget p).setRg o v
    else rej
  else if flag v 31 then
    if 10 ≤ fld v 16 5 ∧ fld v 16 5 ≤ 26 ∧ ringOk (s.rg (Off.potBase p)).toNat (2 ^ fld v 16 5)
    then ((s.setRg o v).setRg (Off.potRd p) 0).setRg (Off.potWr p) 0
    else rej
  else if ownerHalted then s.setRg o v
  else rej

/-- A write of POT_BASE is ignored while EN is 1 (R136). -/
def State.potBaseWrite (s : State) (p : Nat) (v : Word) : State :=
  if s.potEn p then s else s.setRg (Off.potBase p) (v &&& 0xFFFFFFF8)

/-- A write of PF0 BAR2. -/
def isBar2Write : Instr → Bool
  | .bar2Write .. => true
  | _ => false
/-- A command that may advance RD of pot `p`: an update of its engine. -/
def State.advances (s : State) (p : Nat) : Instr → Bool
  | .weUpdate w _ => decide (s.potOwner p = (true, w.val))
  | _ => false
/-- A write of POT_WR by party `r` (R137): it waits for every BAR2 write that PF0 received before it, and for an advance of RD in its
CCLK. -/
def State.potWrWrite (s : State) (r : Party) (p : Nat) (v : Word) : State :=
  let old := s.potLevel p
  let new := (v - s.rg (Off.potRd p)).toNat
  if s.held.any isBar2Write then s.hold (requeue r .pf0 (Off.potWr p) v)
  else if s.behind.any isBar2Write || s.waiting.any (s.advances p) then s.putBehind (requeue r .pf0 (Off.potWr p) v)
  else if s.potEn p ∧ old ≤ new ∧ new ≤ s.potSize p then s.setRg (Off.potWr p) v
  else (s.setRb (Off.potStat p) 29 true).noticeAt (Off.potStat p)

/-- The owner of pot `p` is halted: a sequencer in HALTED, or an engine that is IDLE. -/
def State.potOwnerHalted (s : State) (p : Nat) : Bool :=
  match s.potOwner p with
  | (false, c) => decide ((s.sq c).mode = .halted)
  | (true, w) => decide (s.rf (Off.weStat w) 30 2 = 0)

/-- POT_CFG_WRITE (R136). -/
def execPotCfgWrite (p : Party) (k : Fin 64) (v : Word) (s : State) : Result :=
  .next (s.gateWrite p .pf0 (Off.potCfg k) v fun s => s.potCfgWrite k v (s.potOwnerHalted k))
/-- POT_WR_WRITE (R137). -/
def execPotWrWrite (p : Party) (k : Fin 64) (v : Word) (s : State) : Result :=
  .next (s.gateWrite p .pf0 (Off.potWr k) v fun s => s.potWrWrite p k v)

end Sys2Proof.Machine
end

