-- ==== Sys2Proof/Machine/Wave.lean ====
section
/-!
DEFINITION. Waveform engines (R271 to R280): targets, stored samples, updates, start, stop, jumps, stalls and ends.
-/
namespace Sys2Proof.Machine

open Sys2Proof

/-- State of engine `w`: 0 IDLE, 1 ARMED, 2 PLAYING, 3 STALLED. -/
def State.weState (s : State) (w : Nat) : Nat := s.rf (Off.weStat w) 30 2
/-- Writes it. -/
def State.setWeState (s : State) (w v : Nat) : State := s.setRf (Off.weStat w) 30 2 v
/-- Sets a flag of WE_STAT. -/
def State.weFlag (s : State) (w bit : Nat) : State := s.setRb (Off.weStat w) bit true
/-- Segment playing. -/
def State.weSeg (s : State) (w : Nat) : Nat := s.rf (Off.weStat w) 16 3
/-- The target is an aux output, by number; else none. -/
def State.weAux (s : State) (w : Nat) : Option Nat :=
  if s.rb (Off.weTgt w) 31 then none else some (s.rf (Off.weTgt w) 0 4)
/-- Target channels. -/
def State.weChans (s : State) (w : Nat) : List Nat :=
  if s.rb (Off.weTgt w) 31 then
    (idxs 32 fun i => flag (s.rg (Off.weChmask w)) i).map fun i => 32 * s.rf (Off.weTgt w) 0 4 + i
  else []
/-- Engines that are not IDLE and target channel `n`. -/
def State.weOn (s : State) (n : Nat) : List Nat :=
  idxs 16 fun w => decide (s.weState w ≠ 0) && (s.weChans w).contains n
/-- Engine `w` is ARMED or PLAYING: its target takes no other code (R272, R299). -/
def State.weHolds (s : State) (w : Nat) : Bool := decide (s.weState w = 1 ∨ s.weState w = 2)
/-- An ARMED or PLAYING engine targets channel `n` (R272). -/
def State.weHeld (s : State) (n : Nat) : Bool := (s.weOn n).any s.weHolds
/-- An ARMED or PLAYING engine targets aux output `a` (R299). -/
def State.weOnAux (s : State) (a : Nat) : Bool :=
  (List.range 16).any fun w => s.weHolds w && decide (s.weAux w = some a)
/-- An engine that is not IDLE targets aux output `a` (R277). -/
def State.weAuxBusy (s : State) (a : Nat) : Bool :=
  (List.range 16).any fun w => decide (s.weState w ≠ 0) && decide (s.weAux w = some a)
/-- WE_STAT.BLOCKED (R272): a target is parked, its role forbids force, or its site holds the aux output. -/
def State.weBlocked (s : State) (w : Nat) : Bool :=
  decide (s.weState w ≠ 0) && (match s.weAux w with
    | some a => s.auxBlocked a
    | none => (s.weChans w).any fun n => s.parkedCh n || !s.roleForce n)

/-- Writes a sample to the target (R271, R272); a RANGE that runs on a channel in the CCLK leaves its code 0 until the next update
(R455). -/
def State.weWrite (s : State) (w : Nat) (code : Int) : State :=
  match s.weAux w with
  | some a => s.auxDrive a code
  | none =>
    s.each (s.weChans w) fun n s =>
      if s.parkedCh n ∨ (s.ch n).moveEnd = s.now + 800 then s
      else if s.roleForce n then s.forceCode n code
      else if s.pmuMode n = 0 then s else s.setPmuCode n 0

/-- The engine ends (R278): with `zero` the target goes to mid-scale. -/
def State.weEnd (s : State) (w : Nat) (zero : Bool) : State :=
  if s.weState w = 0 then s
  else
    let s := if zero then s.weWrite w 0 else s
    let u := s.wv w
    let s := s.setWv w { u with jump := false, stop := false, start := none, potRow := [], memRow := none, hist := [] }
    ((s.setWeState w 0).weFlag w 29).fire (evWe w 0)

/-- ENDZ. -/
def State.weEndz (s : State) (w : Nat) : Bool := s.rb (Off.weCfg w) 30

/-! ### Stored samples (R275, R276, R279, R280) -/

/-- What the next stored sample is. -/
inductive WeNext where
  | sample | stall (pot : Option Nat) | fin
  deriving DecidableEq, Repr

/-- Place of a stored sample: segment, sample within the play, play. -/
structure WePlace where
  seg  : Nat
  idx  : Nat
  play : Nat
  deriving DecidableEq, Repr

/-- Place of the next stored sample: a jump first, unless no sample has played yet; else the next play or segment; none at the
end of the LAST segment (R275, R276). -/
def State.wePlace (s : State) (w : Nat) : Option WePlace :=
  let u := s.wv w
  let seg := s.weSeg w
  let b := s.rg (Off.weSegb w seg)
  if u.jump && !u.hist.isEmpty then some ⟨fld b 24 3, 0, 0⟩
  else if u.idx ≤ fld b 0 16 then some ⟨seg, u.idx, u.play⟩
  else if u.play < fld b 16 8 then some ⟨seg, 0, u.play + 1⟩
  else if flag b 30 then none
  else some ⟨fld b 27 3, 0, 0⟩

/-- Pot of segment `seg`, if it is a pot segment. -/
def State.wePot (s : State) (w seg : Nat) : Option Nat :=
  if s.rb (Off.weSegb w seg) 31 then some (s.rf (Off.weSega w seg) 0 6) else none

/-- Row of vector memory that holds a stored sample of a memory segment. -/
def State.weRow (s : State) (w : Nat) (p : WePlace) : Nat := ((s.rg (Off.weSega w p.seg)).toNat + p.idx / 2) % rowCount

/-- The stored sample at a place is available (R279): `arrived` says whether the next row of vector memory is. -/
def State.weHere (s : State) (w : Nat) (p : WePlace) (arrived : Bool) : Bool :=
  match s.wePot w p.seg with
  | some k => (Tbl.find (s.wv w).potRow k).isSome || decide (0 < s.potLevel k) && !s.vmWait
  | none => arrived || (match (s.wv w).memRow with
    | some (r, _, _) => decide (p.idx % 2 = 1) && decide (r = s.weRow w p)
    | none => false)

/-- Puts a stored sample into the history. -/
def State.wePush (s : State) (w : Nat) (v : BitVec 18) : State :=
  s.setWv w { s.wv w with hist := (v :: (s.wv w).hist).take 17 }

/-- Takes a half of a row, `bad` or not: in the place of a bad one the previous stored sample repeats (R280). With none before
it the spec states no value. -/
def State.weHalf (s : State) (w : Nat) (row : Row) (bad hi : Bool) : State :=
  if !bad then s.wePush w ((rowHalf row hi).setWidth 18)
  else match (s.wv w).hist with
    | v :: _ => s.wePush w v
    | [] => s.fresh.wePush w (Config.firstSample s.freeCtr)

/-- A row that was just read: POISON and a notice where it is bad (R280). -/
def State.weRead (s : State) (w : Nat) (bad : Bool) : State :=
  if bad then (s.weFlag w 25).noticeAt (Off.weStat w) else s

/-- Takes the stored sample of pot `k`: the second half of the row in progress, else the first half of the next row. -/
def State.wePotTake (s : State) (w k : Nat) (ecc : Ecc) : State :=
  match Tbl.find (s.wv w).potRow k with
  | some (row, bad) =>
    let s := s.setWv w { s.wv w with potRow := Tbl.drop (s.wv w).potRow k }
    s.weHalf w row bad true
  | none =>
    let r := s.potRow k
    let d := s.rowRead r ecc
    let row := s.potData r d.data
    let s := (((s.rowSeen r ecc).potSeen r).potAdvance k).weRead w d.ue
    (s.setWv w { s.wv w with potRow := tblPut k (row, d.ue) (s.wv w).potRow }).weHalf w row d.ue false

/-- Takes the stored sample at a place of a memory segment; a row read for its first half serves its second. -/
def State.weMemTake (s : State) (w : Nat) (p : WePlace) (ecc : Ecc) : State :=
  let r := s.weRow w p
  let hi := decide (p.idx % 2 = 1)
  let read (s : State) : State :=
    let d := s.rowRead r ecc
    let s := (s.rowSeen r ecc).weRead w d.ue
    (s.setWv w { s.wv w with memRow := some (r, d.data, d.ue) }).weHalf w d.data d.ue hi
  match (s.wv w).memRow with
  | some (q, row, bad) => if hi && decide (q = r) then s.weHalf w row bad true else read s
  | none => read s

/-- The sample at a place needs a row of vector memory that has not been read. -/
def State.weNeeds (s : State) (w : Nat) (p : WePlace) : Bool :=
  match s.wePot w p.seg with
  | some k => (Tbl.find (s.wv w).potRow k).isNone
  | none => !s.weHere w p false

/-- Takes the next stored sample, or finds that it is missing or that the last segment has ended: a jump is taken with its
sample (R276). `rows` are the checker's results of the rows that have arrived. -/
def State.weTake (s : State) (w : Nat) (rows : List Ecc) : State × WeNext × List Ecc :=
  match s.wePlace w with
  | none => (s, .fin, rows)
  | some p =>
    if !s.weHere w p (!rows.isEmpty) then (s, .stall (s.wePot w p.seg), rows)
    else
      let rest := if s.weNeeds w p then rows.tail else rows
      let u := s.wv w
      let s := (s.setWv w { u with jump := u.jump && u.hist.isEmpty, idx := p.idx + 1, play := p.play }).setRf
        (Off.weStat w) 16 3 p.seg
      let s := match s.wePot w p.seg with
        | some k => s.wePotTake w k (rows.headD .ok)
        | none => s.weMemTake w p (rows.headD .ok)
      (s, .sample, rest)

/-- Takes the samples that the phase accumulator asks for. -/
def State.weAdvance (s : State) (w : Nat) (rows : List Ecc) : Nat → State × WeNext
  | 0 => (s, .sample)
  | n + 1 =>
    let u := s.wv w
    if u.phase < 0x1000000 then (s, .sample)
    else match s.weTake w rows with
      | (s, .sample, rows) =>
        let u := s.wv w
        (s.setWv w { u with phase := u.phase - 0x1000000 }).weAdvance w rows n
      | (s, r, _) => (s, r)

/-- The engine stalls; with a pot this is an underrun, which UPOL may turn into the end (R279). -/
def State.weStall (s : State) (w : Nat) (pot : Option Nat) : State :=
  let s := s.setWeState w 3
  match pot with
  | none => s
  | some p =>
    let s := (((s.potUnderrun p).weFlag w 27).count (Off.weCnt w) 16 16 1).noticeAt (Off.weStat w)
    let s := s.fire (evWe w 1)
    if s.rb (Off.weCfg w) 29 then s.weEnd w (s.weEndz w) else s

/-- The output sample (R274): the stored sample, or under POLY the filter's output at one of 64 phases. -/
def State.weSample (s : State) (w : Nat) : BitVec 18 :=
  let u := s.wv w
  if s.rb (Off.weCfg w) 31 then
    Config.polyFilter u.hist (BitVec.ofNat 6 (u.phase / 0x40000)) (s.rg (Off.weStep w)) (BitVec.ofNat 20 (s.rf (Off.weRate w) 0 20))
  else (u.hist.head?).getD 0

/-- One update (R273, R274, R278). -/
def State.weUpdate (s : State) (w : Nat) (rows : List Ecc) : State :=
  let u := s.wv w
  let st := s.weState w
  if st < 2 ∨ s.now < u.nextAt then s
  else if u.stop then s.weEnd w (s.weEndz w)
  else
    let s := s.setWv w { u with nextAt := u.nextAt + s.rf (Off.weRate w) 0 20 }
    if st = 3 then s
    else match s.weAdvance w rows (u.phase / 0x1000000 + 1) with
      | (s, .fin) => s.weEnd w (s.weEndz w)
      | (s, .stall p) => s.weStall w p
      | (s, .sample) =>
        let v := s.weSample w
        let u := s.wv w
        let s := s.setWv w { u with out := v, phase := u.phase + (s.rg (Off.weStep w)).toNat }
        s.weWrite w v.toInt

/-! ### GO, STOP, start (R277, R278) -/

/-- Segments reachable from FIRSTSEG through NEXT or JSEG. -/
def State.weReach (s : State) (w : Nat) : List Nat :=
  (List.range 8).foldl
    (fun l _ => l.foldl
      (fun l k =>
        let b := s.rg (Off.weSegb w k)
        let l := if l.contains (fld b 27 3) then l else l ++ [fld b 27 3]
        if l.contains (fld b 24 3) then l else l ++ [fld b 24 3]) l)
    [s.rf (Off.weCfg w) 20 3]

/-- The conditions of GO; in bypass it is rejected (R417). -/
def State.weGoOk (s : State) (w : Nat) : Bool :=
  let q := w / 4
  let rate := s.rf (Off.weRate w) 0 20
  let fs := (s.rg (Off.weStep w)).toNat * 800000000
  let tgt := match s.weAux w with
    | some a => decide (4 + 3 * q ≤ a ∧ a ≤ 6 + 3 * q) && !s.weAuxBusy a
    | none =>
      decide (s.rf (Off.weTgt w) 0 4 / 4 = q) && decide (s.rg (Off.weChmask w) ≠ 0) &&
        (s.weChans w).all fun n => (s.weOn n).isEmpty
  let pots := (s.weReach w).all fun k =>
    !s.rb (Off.weSegb w k) 31 ||
      (let p := s.rf (Off.weSega w k) 0 6
       s.potEn p && decide (s.potOwner p = (true, w)))
  decide (s.weState w = 0) && tgt && decide (80 ≤ rate) && decide (1000 * rate * 0x1000000 ≤ fs) &&
    decide (fs ≤ 50000000 * rate * 0x1000000) && pots && decide (s.rf (Off.weCfg w) 27 2 ≠ 3) && !s.rb Off.clkStat 30

/-- A write of WE_CTL: STOP acts first, and a GO beside it is rejected (R278). -/
def State.weCtl (s : State) (w : Nat) (v : Word) : State :=
  let rej (s : State) : State := (s.weFlag w 28).noticeAt (Off.weStat w)
  if flag v 1 then
    let s := if s.weState w = 0 then s else s.setWv w { s.wv w with stop := true }
    if flag v 0 then rej s else s
  else if flag v 0 then
    if s.weGoOk w then
      let seg := s.rf (Off.weCfg w) 20 3
      let s := (s.setWeState w 1).setRf (Off.weStat w) 16 3 seg
      s.setWv w { s.wv w with phase := 0x1000000, idx := 0, play := 0, potRow := [], memRow := none, hist := [],
                              jump := false, stop := false,
                              out := 0, start := if s.rf (Off.weCfg w) 27 2 = 0 then some s.now else none }
    else rej s
  else s

/-- A start condition reaches an armed engine: TRIG 1 for its event channel, 2 for the tick. -/
def State.weTrigger (s : State) (w trig : Nat) : State :=
  if s.weState w = 1 ∧ s.rf (Off.weCfg w) 27 2 = trig ∧ (s.wv w).start.isNone
  then s.setWv w { s.wv w with start := some s.now } else s

/-- A firing of event channel `k` reaches the engines (R276, R277). -/
def State.weEvent (s : State) (k : Nat) : State :=
  s.each (List.range 16) fun w s =>
    let s := if s.rf (Off.weCfg w) 0 10 = k then s.weTrigger w 1 else s
    if s.rb (Off.weCfg w) 26 ∧ s.rf (Off.weCfg w) 10 10 = k ∧ 2 ≤ s.weState w
    then s.setWv w { s.wv w with jump := true } else s

/-- A write of the register at engine base + 4 × `k` other than WE_CTL (R277). -/
def State.weConfig (s : State) (w k : Nat) (v : Word) : State :=
  if 8 ≤ k ∧ k < 16 then s
  else if s.weState w ≠ 0 then s.weFlag w 23
  else match k with
    | 0 => s.setRg (Off.weCfg w) (v &&& 0xFC7FFFFF)
    | 1 => s.setRg (Off.weTgt w) (v &&& 0x8000000F)
    | 2 => s.setRg (Off.weChmask w) v
    | 3 => s.setRg (Off.weRate w) (v &&& 0xFFFFF)
    | 4 => s.setRg (Off.weStep w) v
    | 6 => s.w1c .pf0 (Off.weStat w) 0x3B800000 v
    | 7 => s
    | _ => s.setRg (Off.weCfg w + 4 * k) v

/-! ### Meanings -/

/-- WE_GO (R277): a write of WE_CTL. -/
def execWeGo (p : Party) (w : Fin 16) (v : Word) (s : State) : Result :=
  .next (s.gateWrite p .pf0 (Off.weCtl w) v fun s => s.weCtl w v)
/-- WE_STOP (R278): a write of WE_CTL. -/
def execWeStop (p : Party) (w : Fin 16) (v : Word) (s : State) : Result :=
  .next (s.gateWrite p .pf0 (Off.weCtl w) v fun s => s.weCtl w v)
/-- WE_CONFIG_WRITE (R277): the register at engine base + 4 × `k`. -/
def execWeConfigWrite (p : Party) (w : Fin 16) (k : Fin 32) (v : Word) (s : State) : Result :=
  .next (s.gateWrite p .pf0 (Off.weCfg w + 4 * k) v fun s => if k = 5 then s.weCtl w v else s.weConfig w k v)
/-- WE_START (R277): the first update falls 16 CCLK after the start. -/
def execWeStart (w : Fin 16) (s : State) : Result :=
  .next (match (s.wv w).start with
    | some t => if s.weState w = 1
      then (s.setWv w { s.wv w with start := none, nextAt := t + 16 }).setWeState w 2 else s
    | none => s)
/-- WE_UPDATE (R273): `rows` are the rows of vector memory that have arrived, by what the checker reports of each; none arrives while
vector memory recalibrates (R416). -/
def execWeUpdate (w : Fin 16) (rows : List Ecc) (s : State) : Result := .next (s.weUpdate w (if s.vmWait then [] else rows))
/-- WE_SAMPLE_ARRIVE (R279): play resumes at the next update with the sample that was missing. -/
def execWeSampleArrive (w : Fin 16) (s : State) : Result :=
  .next (if s.weState w = 3 ∧ (s.wePlace w).all fun p => s.weHere w p (!s.vmWait) then s.setWeState w 2 else s)

end Sys2Proof.Machine
end

