-- ==== Sys2Proof/Machine/Fence.lean ====
section
/-!
DEFINITION. Fault classes F2 to F5 (R24 to R26, R310 to R330): the F2 table, the fence of a site, the fence of a cluster,
the safe state, and what the warden does.
-/
namespace Sys2Proof.Machine

open Sys2Proof

/-! ### NOFAULT (R327) -/

/-- Sites that are fenced, from the listed SITE_STAT registers. -/
def State.fencedSites (s : State) : List Nat :=
  (s.reg.filter fun e => decide (0x1001000 ≤ e.1 ∧ e.1 < 0x1001800 ∧ e.1 % 16 = 4) && flag e.2 31).map fun e =>
    (e.1 - 0x1001000) / 16
/-- Level of the core die's NOFAULT switch. -/
def State.nofault (s : State) : Bool :=
  s.rst.ready && s.fault.f2.isEmpty && s.fencedSites.isEmpty && !s.safe
/-- Source 1 of PF1 where NOFAULT has fallen since `s0` (R338). -/
def State.noteFall (s0 s : State) : State := if s0.nofault && !s.nofault then s.pirq 1 else s

/-! ### The warden's permits (R311, R312, R316, R317) -/

/-- The warden removes RAIL_EN_B and asserts RAIL_DIS of rail `r`; the controller enters DISCH (R28, R316). -/
def State.wardenCut (s : State) (r : Nat) : State :=
  let s := s.dropB r
  let s := (s.setRl r { s.rl r with wdis := true }).setRb (Off.railStat r) 26 true
  let st := s.railState r
  if st = railOffSt ∨ st = railDischSt then s else s.railDisch r

/-- The warden removes KEN_B of zone `q`. -/
def State.wardenZoneCut (s : State) (q : Nat) : State :=
  let u := s.kz q
  (s.setKz q { u with bgrant := false, bLowAt := if u.bgrant then some s.now else u.bLowAt }).setRb (Off.kzStat q) 27 false

/-- Every slice removes every B permit and asserts every RAIL_DIS. -/
def State.wardenAll (s : State) : State :=
  let s := s.each (List.range 64) fun r s => s.wardenCut r
  s.each (List.range 4) fun q s => s.wardenZoneCut q

/-! ### Safe state (R323 to R326) -/

/-- FNOTE is requested in sequencer `x` (R112). -/
def State.fnote (s : State) (x k : Nat) : State :=
  let q := s.sq x
  let s' := s.setSq x { q with fnSite := if s.rb (Off.evLatch x) 8 then min q.fnSite k else k }
  s'.setRb (Off.evLatch x) 8 true

/-- The card flash is busy with a program or an erase (R436, R437), from the transfer that begins it on. -/
def State.flashBusy (s : State) : Bool :=
  s.cp.polls.any (fun p => decide (p.dev = 0)) ||
    match s.cp.xfer with
    | some x => x.write && decide (x.dev = 0)
    | none => false

/-- A save ends on entry to safe state (R390). -/
def State.saveAbort (s : State) : State :=
  if s.cal.save.isSome then
    State.setRb (State.setRb { s with cal := { s.cal with save := none } } Off.calStat 26 false) Off.calStat 23 true
  else s

/-! ### Microcode stores (R399, R400, R405) -/

/-- MC_ERR of sequencer `x` latches a machine check unless it holds one (R399). -/
def State.mcLatch (s : State) (x op cause uaddr : Nat) : State :=
  let o := Off.mcErr x
  if s.rb o 31 then s
  else (s.change o fun _ => setFld (setFld (setFlag 0 31 true) 28 3 cause) 0 14 uaddr).setRg (Off.mcErrpc x)
    (setFld (setFld 0 24 8 op) 0 24 (s.sq x).pc)

/-- OFFSET of the history entry of a machine check (R399). -/
def mcOff (x uaddr : Nat) : Nat := uaddr * 0x1000 + Off.mcErr x % 0x1000

/-- An enabled match register holds microaddress `a`. -/
def State.mcHeld (s : State) (a : Nat) : Bool :=
  (List.range 32).any fun k => s.rb (Off.mcMatch k) 31 && decide (s.rf (Off.mcMatch k) 0 14 = a)
/-- Lowest bad ROM word of sequencer `x` that no match register covers (R400). -/
def State.mcOpen (s : State) (x : Nat) : Option Nat :=
  (s.mc.romBad.filter fun e => decide (e.1 = x) && !s.mcHeld e.2).foldl
    (fun m e => match m with
      | none => some e.2
      | some b => some (min b e.2)) none
/-- MC_ROMBAD.COVERED follows the match registers. -/
def State.mcCover (s : State) : State :=
  s.each (List.range 17) fun x s =>
    s.setRb (Off.mcRombad x) 30 (s.rb (Off.mcRombad x) 31 && (s.mcOpen x).isNone)

/-- Every caddy is zero, every match register disabled, and no patch is loaded (R405). -/
def State.mcZero (s : State) : State :=
  let s := { s with mc := { s.mc with caddy := [], ue := [] } }
  let s := s.each (List.range 32) fun k s => s.setRg (Off.mcMatch k) 0
  let s := ((s.setRf Off.mcver 0 16 0).setRg Off.mccrc 0).setRf Off.mcLstat 16 6 0
  (s.setRf Off.mcLstat 0 10 0).mcCover

/-- A load that fails in pass 2, or that safe state ends, leaves no patch (R405). -/
def State.mcTorn (s : State) : State :=
  let s := State.mcZero { s with mc := { s.mc with load := none } }
  ((s.setRb Off.mcLstat 31 false).setRb Off.mcLstat 27 true).noticeAt Off.mcLstat

/-- Safe state ends a load; what R400 finds is recorded (R320). -/
def State.loadAbort (s : State) : State :=
  if s.mc.load.isNone then s
  else s.mcTorn.each (List.range 17) fun x s => match s.mcOpen x with
    | some a => (s.mcLatch x 0 5 a).hist
        { cls := 2, src := if x < 16 then x else 0x1000, cause := 5, off := mcOff x a, site := none, wd := false } false
    | none => s

/-- The actions of R324 at entry. -/
def State.safeActs (s : State) : State :=
  let s := s.each s.mapped fun n s => s.parkChan n
  let s := s.each (List.range 16) fun c s =>
    let s := ((s.haltSeq c).dropFifo c).capDisarm c 6 true
    s.setCl c { s.cl c with strobes := [] }
  let s := if s.flashBusy then s else s.haltSeq 16
  let s := s.each (List.range 128) fun k s => s.rampDown k true
  let s := s.each (List.range 4) fun q s => s.kzKill q
  let s := s.each (List.range 16) fun w s => s.weEnd w true
  let s := s.each (List.range 12) fun i s => (s.setRb (Off.auxCfg (4 + i)) 31 false).setAuxOut (4 + i) 0
  let s := s.each (List.range 8) fun t s => s.tiuFinish t .safe
  let s := s.each s.stagedQueues fun q s => s.setQIdx q 6 (s.qIdx q 5)
  let s := (s.qm.staged.map (·.rcd) ++ s.qm.hold.map (·.rcd)).foldl State.recLost s
  let s := { s with qm := { s.qm with staged := [], hold := [], moving := false } }
  let s := s.each (List.range 16) fun c s =>
    let s := s.setCl c { s.cl c with out := [] }
    (s.setCap c { s.cap c with closed := [] }).capTouch c
  let s := s.each (List.range 8) fun t s => if s.tiuState t = 2 then (s.tiuFlag t 26).setTiuState t 0 else s
  s.saveAbort.loadAbort.holdStat.liftOk

/-- Latches F5 in WD_F5, which keeps the first cause (R326). -/
def State.latchF5 (s : State) (cause src : Nat) : State :=
  if flag (s.sg Off.wdF5) 31 then s
  else (s.setSg Off.wdF5 (setFlag (setFld (setFld 0 28 3 cause) 0 16 src) 31 true)).pirq 3

/-- Books a violation: WD_VIOL and source 2 of PF1. -/
def State.violation (s : State) (src : Nat) : State :=
  (s.changeSg Off.wdViol fun w => setFld (satAdd w 24 8 1) 0 16 src).pirq 2

/-- The history entry of a violation: WD set, OFFSET of WD_VIOL in PF1 BAR0. -/
def wdEv (src : Nat) : Ev := { cls := 3, src := src, cause := 0, off := 0x1004, site := none, wd := true }

/-- Every gate opens on entry to F4 or F5 (R313): one in use by then is a violation, which safe state only records (R320). -/
def State.gatesOpen (s : State) : State :=
  let used := s.ward.gates.filter fun e => s.gateUsed e.1 e.2
  let s := { s with ward := { s.ward with gates := [] } }
  used.foldl (fun s e => (s.violation (0x3000 + e.1)).hist { wdEv (0x3000 + e.1) with site := s.chSite e.1 } false) s

/-- Entry to F4 (R323, R324): the entry freezes the history queue. F4 raised in F4 or F5 is recorded and changes
nothing (R320). -/
def State.enterF4 (s : State) (e : Ev) : State :=
  if s.safe then s.hist { e with cls := 4 } false
  else
    let s1 := s.hist { e with cls := 4 } true
    let s2 := { s1 with fault := { s1.fault with f4 := true, f4At := s.now, swept := false } }
    s.noteFall s2.safeActs.gatesOpen

/-- Entry to F5 (R326): as F4, and every slice removes its permits at once; `cause` as WD_F5 codes it. -/
def State.enterF5 (s : State) (e : Ev) (cause : Nat) : State :=
  let s := s.latchF5 cause e.src
  if s.fault.f5 then s.hist { e with cls := 5 } false
  else
    let s1 := s.hist { e with cls := 5 } true
    let s2 := { s1 with fault := { s1.fault with f5 := true, f4At := if s.fault.f4 then s1.fault.f4At else s.now } }
    let s3 := s2.wardenAll
    let s4 := if s.fault.f4 then s3 else s3.safeActs.gatesOpen
    s.noteFall s4

/-- A warden safe action (R317), held until a full reset; the fault unit then enters F4. -/
def State.wardenSafe (s : State) (e : Ev) : State :=
  let s1 := { s with ward := { s.ward with safeAct := true } }
  let s2 := (s1.setSg Off.wdStat (setFlag (s1.sg Off.wdStat) 23 true)).wardenAll
  s2.enterF4 e

/-! ### F2 (R320, R321) -/

/-- Entry of an uncleared F2 from a source. -/
def State.f2Find (s : State) (src : Nat) : Option Nat :=
  (s.fault.f2.find? fun e => e.2.src.toNat = src).map (·.1)

/-- Default of the F2 table. -/
def F2.none : F2 := { src := 0, done := false, rep := 0 }

/-- Writes an entry of the F2 table. -/
def State.f2Put (s : State) (k : Nat) (v : F2) : State :=
  { s with fault := { s.fault with f2 := tblPut k v s.fault.f2 } }

/-- The fence of a source has taken full effect. -/
def State.f2Done (s : State) (src : Nat) (done : Bool) : State :=
  match s.f2Find src with
  | some k => s.f2Put k { Tbl.get F2.none s.fault.f2 k with done := done }
  | none => s

/-- Books an F2, whose action has taken full effect where `done` holds: history and table, or F4 where the table is full
(R321). A repeat that adds to the isolation clears DONE. In F4 and F5 it is only recorded. -/
def State.f2 (s : State) (e : Ev) (done : Bool) : State :=
  if s.safe then s.hist e false
  else match s.f2Find e.src with
  | some k =>
    let x := Tbl.get F2.none s.fault.f2 k
    (s.hist e false).f2Put k { x with done := x.done && done, rep := if x.rep = 255 then 255 else x.rep + 1 }
  | none =>
    match (idxs 64 fun k => !(s.fault.f2.any fun x => x.1 = k)).head? with
    | some k => s.noteFall ((s.hist e false).f2Put k { src := BitVec.ofNat 16 e.src, done := done, rep := 0 })
    | none =>
      let f4 : Ev := { cls := 4, src := 0xF003, cause := 1, off := Off.fuStat, site := none, wd := false }
      let s1 := (s.hist f4 true).hist e false
      let s2 := { s1 with fault := { s1.fault with f4 := true, f4At := s.now, swept := false } }
      s.noteFall s2.safeActs.gatesOpen

/-! ### F3: a site's fence (R24, R25, R31, R32) -/

/-- An enable, a disable, a power request or a change of MASK applied in the CCLK of a fence is not applied (R31). -/
def State.undoEnable (s : State) (k : Nat) : State :=
  let s := (s.setSt k { s.st k with fencedAt := some s.now }).powerUndo k 1
  let s := match (s.st k).enAt with
    | some (t, was) =>
      if t = s.now then
        let s := (s.setRb (Off.siteCtl k) 31 was).setSt k { s.st k with enAt := none }
        if was then s.each (List.range 16) fun c s => s.uncutPieces c k else s
      else s
    | none => s
  match (s.st k).maskAt with
  | some (t, old) =>
    if t = s.now then (s.setRb (Off.siteStat k) 29 old.isSome).setSt k { s.st k with maskSteep := old, maskAt := none }
    else s
  | none => s

/-- Bit `k` of a mask as another mask has it. -/
def bitFrom (k : Nat) (m old : BitVec 128) : BitVec 128 := (m &&& ~~~maskOf 128 [k]) ||| (old &&& maskOf 128 [k])

/-- Masks that took effect in the CCLK of a fence take no effect for its site (R31, R48). -/
def State.undoUse (s : State) (k : Nat) : State :=
  s.each (List.range 16) fun x s =>
    let q := s.sq x
    match q.useAt with
    | some (t, v, c) => if t = s.now then s.setSq x { q with vUse := bitFrom k q.vUse v, cUse := bitFrom k q.cUse c } else s
    | none => s

/-- A change of the MASK fail action in CCLK `now`, with what stood before that CCLK (R31). -/
def SiteSt.maskChange (u : SiteSt) (now : Nat) (m : Option (BitVec 64)) : SiteSt :=
  let old := match u.maskAt with
    | some (t, o) => if t = now then o else u.maskSteep
    | none => u.maskSteep
  { u with maskSteep := m, maskAt := some (now, old) }
/-- The compares of a site resolve as X under a MASK fail action set before CCLK `now` (R23). -/
def SiteSt.masked (u : SiteSt) (now : Nat) : Bool := match u.maskAt with
  | some (t, o) => if t = now then o.isSome else u.maskSteep.isSome
  | none => u.maskSteep.isSome

/-- Sites of a list that were fenced in this CCLK. -/
def State.fencedNow (s : State) : List Nat := idxs 128 fun k => (s.st k).fencedAt = some s.now

/-- The masks `v` and `c` take effect for the vectors issued from now on, but for sites fenced in this CCLK (R31, R47,
R48). -/
def State.useMasks (s : State) (q : SeqSt) (v c : BitVec 128) : SeqSt :=
  let old := match q.useAt with
    | some (t, m) => if t = s.now then m else (q.vUse, q.cUse)
    | none => (q.vUse, q.cUse)
  { q with
    vUse := s.fencedNow.foldl (fun m k => bitFrom k m q.vUse) v
    cUse := s.fencedNow.foldl (fun m k => bitFrom k m q.cUse) c
    useAt := some (s.now, old) }

/-- The fence of site `k` without its history entry. A site that is already fenced loses what R32 still holds. -/
def State.fenceOnly (s : State) (k : Nat) : State :=
  let s := (s.undoEnable k).undoUse k
  if s.fenced k then
    let s := (s.setSt k { s.st k with heldUnf := false, heldPwr := false }).enpend k
    s.setRb (Off.sitePwr k) 31 false
  else
    let s1 := s.setRb (Off.siteStat k) 31 true
    let chans := s1.siteChans k
    let s1 := s1.setSt k { s1.st k with heldUnf := false }
    let s1 := s1.fenceRecs k
    let s1 := s1.each (List.range 16) fun c s => s.fencePieces c k
    let s1 := s1.each chans fun n s => (s.parkChan n).bgPark n
    let s1 := s1.each ((List.range 16).filter fun c => chans.any fun n => n / 32 = c) fun c s => s.fnote c k
    let s1 := s1.fnote 16 k
    let s1 := (s1.rampDown k true).auxSiteHold k
    s.noteFall (s1.fire (evFenced k))

/-- A fault of class F3 on site `k`; in F4 and F5 it is only recorded (R320). -/
def State.fenceSite (s : State) (k : Nat) (e : Ev) : State :=
  let s := s.hist { e with cls := 3, site := some k } false
  if s.safe then s else s.fenceOnly k

/-! ### F2 of a cluster (R26) -/

/-- The fence of cluster `c`, with one entry per cause (R54, R118) and one per site. -/
def State.fenceCluster (s : State) (c : Nat) (causes : List (Nat × Nat)) : State :=
  let ev (x : Nat × Nat) : Ev := { cls := 2, src := c, cause := x.1, off := x.2, site := none, wd := false }
  match causes with
  | [] => s
  | x :: rest =>
    let s := s.f2 (ev x) (s.clParked c)
    let s := rest.foldl (fun s x => s.hist (ev x) false) s
    if s.safe then s
    else
      let sites := s.clSites c
      let s := s.each sites fun k s => s.fenceSite k (ev x)
      s.parkCluster c 6

/-! ### Warden violations (R315, R316) -/

/-- A violation on rail `r`. -/
def State.violRail (s : State) (r : Nat) : State :=
  let s := s.violation (0x4000 + r)
  let s := (s.setRl r { s.rl r with viol := true }).wardenCut r
  match s.railSite r with
  | some k => (s.fenceSite k (wdEv (0x4000 + r))).siteStep k
  | none => s.hist (wdEv (0x4000 + r)) false

/-- A violation on zone `q`: KEN_B falls, and the zone stops with an F2 naming it. -/
def State.violZone (s : State) (q : Nat) : State :=
  let s := s.violation (0x5000 + q)
  let s := (s.setKz q { s.kz q with viol := true }).wardenZoneCut q
  let s := s.f2 { wdEv (0x5000 + q) with cls := 2 } (decide (s.kzState q = 0))
  if s.safe then s else s.kzStop q

/-- A violation on a gate of channel `n`: the gate opens, and the channel's site is fenced. -/
def State.violGate (s : State) (n : Nat) : State :=
  let s := s.violation (0x3000 + n)
  match s.chSite n with
  | some k => s.fenceSite k (wdEv (0x3000 + n))
  | none => s.hist (wdEv (0x3000 + n)) false

/-- The gates of channel `n` that are granted and in use. -/
def State.gatesOf (s : State) (n : Nat) : List (Nat × Bool) :=
  [(n, false), (n, true)].filter fun e => s.gateUsed n e.2 && s.gate n e.2
/-- Brings the list of gates in use up to date for channel `n`. -/
def State.gateNote (s : State) (n : Nat) : State :=
  { s with ward := { s.ward with gates := (s.ward.gates.filter fun e => e.1 ≠ n) ++ s.gatesOf n } }

/-- Opens every gate whose conditions have lapsed: one in use is a violation (R313, R315). A gate whose conditions hold again
is granted again. -/
def State.gatesCheck (s : State) : State :=
  let lapsed := s.ward.gates.filter fun e => s.gateUsed e.1 e.2 && !s.gate e.1 e.2
  let s := { s with ward := { s.ward with gates := s.mapped.flatMap s.gatesOf } }
  lapsed.foldl (fun s e => s.violGate e.1) s

/-! ### Trips (R172, R290) -/

/-- A safety monitor of channel `n` trips. -/
def State.monTrip (s : State) (n : Nat) : State :=
  let s := s.chFlag n 1
  match s.chSite n with
  | some k => s.fenceSite k
      { cls := 3, src := 0x3000 + n, cause := 0, off := chOff Off.chStat n, site := some k, wd := false }
  | none => s

/-- An applied bit of CH_MONCFG: 31 SAFE, 30 WAKE. -/
def State.monCfg (s : State) (n bit : Nat) : Bool := flag (s.ap (chOff Off.chMoncfg n)) bit

/-- A transition to HIGH of a safety monitor is a trip (R172). -/
def State.tripCheck (s : State) (n k : Nat) (new : Cmp) : State :=
  if decide (2 ≤ k) && decide (new = .high) && s.monCfg n 31 then s.monTrip n else s

/-- Comparator `k` of channel `n`, which is not parked, begins; a safety monitor that begins in HIGH trips (R167, R172). -/
def State.cmpStart (s : State) (n k : Nat) : State :=
  if s.parkedCh n then s
  else
    let s := s.cmpBegin n k
    s.tripCheck n k (s.cmp n k)

/-- Channel `n` leaves its park state (R154). -/
def State.unparkChan (s : State) (n : Nat) : State :=
  let s := (s.setRb (chOff Off.chStat n) 31 false).setRb (chOff Off.chStat n) 30 false
  let s := s.setCh n { s.ch n with prev := 0b010 }
  (List.range 4).foldl (fun s k => s.cmpStart n k) s

/-- Rail `r` trips with a cause. -/
def State.railTrip (s : State) (r cause : Nat) : State :=
  let o := Off.railStat r
  let s := ((s.setRb o 24 true).setRf o 21 3 cause).fire (evTrip r)
  match s.railSite r with
  | some k => s.fenceSite k { cls := 3, src := 0x4000 + r, cause := cause, off := o, site := some k, wd := false }
  | none => s.railDown r

/-- A zone fault (R304): EN clears, the zone stops, FAULT and FCAUSE set, F2 names the zone. -/
def State.zoneFault (s : State) (q cause : Nat) : State :=
  let o := Off.kzStat q
  let s := ((s.setRb o 26 true).setRf o 23 3 cause).kzStop q
  s.f2 { cls := 2, src := 0x5000 + q, cause := cause, off := o, site := none, wd := false } (decide (s.kzState q = 0))

end Sys2Proof.Machine
end

