-- ==== Sys2Proof/Machine/Flags.lean ====
section
/-!
DEFINITION. Results and flags of the ALU (R81): each function gives the result, ZERO and CARRY; the flags as MFS and
TRAP_STAT.SFLAGS show them (R57, R83, R114).
-/
namespace Sys2Proof.Machine

open Sys2Proof

/-- What an ALU instruction computes. -/
structure AluOut where
  res   : Word
  zero  : Bool
  carry : Bool
  deriving DecidableEq, Repr

/-- A result whose ZERO says that it is 0. -/
def AluOut.mk0 (r : Word) (c : Bool) : AluOut := { res := r, zero := decide (r = 0), carry := c }

/-- ADD: CARRY is the carry out of bit 31. -/
def aluAdd (a b : Word) : AluOut := .mk0 (a + b) (decide (2 ^ 32 ≤ a.toNat + b.toNat))
/-- SUB: CARRY is 1 where a < b unsigned. -/
def aluSub (a b : Word) : AluOut := .mk0 (a - b) (decide (a.toNat < b.toNat))
/-- AND. -/
def aluAnd (a b : Word) : AluOut := .mk0 (a &&& b) false
/-- OR. -/
def aluOr (a b : Word) : AluOut := .mk0 (a ||| b) false
/-- XOR. -/
def aluXor (a b : Word) : AluOut := .mk0 (a ^^^ b) false
/-- Shift amount: bits [4:0] of the operand. -/
def shAmt (b : Word) : Nat := b.toNat % 32
/-- SHL: CARRY is the last bit shifted out, 0 for amount 0. -/
def aluShl (a b : Word) : AluOut :=
  .mk0 (a <<< shAmt b) (decide (shAmt b ≠ 0) && a.getLsbD (32 - shAmt b))
/-- SHR, logical. -/
def aluShr (a b : Word) : AluOut :=
  .mk0 (a >>> shAmt b) (decide (shAmt b ≠ 0) && a.getLsbD (shAmt b - 1))
/-- SAR, arithmetic. -/
def aluSar (a b : Word) : AluOut :=
  .mk0 (a.sshiftRight (shAmt b)) (decide (shAmt b ≠ 0) && a.getLsbD (shAmt b - 1))
/-- CMP: ZERO where a = b, CARRY where a < b unsigned; no result. -/
def aluCmp (a b : Word) : AluOut := { res := 0, zero := decide (a = b), carry := decide (a.toNat < b.toNat) }
/-- MUL: low half of the unsigned product; CARRY where the high half is not 0. -/
def aluMul (a b : Word) : AluOut := .mk0 (a * b) (decide (2 ^ 32 ≤ a.toNat * b.toNat))

/-- FAIL is the OR of SITEFAIL (R99). -/
def SeqSt.failed (q : SeqSt) : Bool := decide (q.siteFail ≠ 0)

/-- Flags as MFS source 16 reads them. -/
def SeqSt.flagsWord (q : SeqSt) : Word :=
  let b (v : Bool) (i : Nat) : Nat := if v then 2 ^ i else 0
  BitVec.ofNat 32 (b q.failed 0 + b q.mtch 1 + b q.zero 2 + b q.carry 3 + b q.evt 4)

/-- ZERO, CARRY, MATCH and EVT as SFLAGS saves them, ZERO in bit 0. -/
def SeqSt.saved (q : SeqSt) : Nat :=
  let b (v : Bool) (i : Nat) : Nat := if v then 2 ^ i else 0
  b q.zero 0 + b q.carry 1 + b q.mtch 2 + b q.evt 3

/-- The four flags come back from SFLAGS (R117). -/
def SeqSt.restore (q : SeqSt) (v : Nat) : SeqSt :=
  { q with zero := nbit v 0, carry := nbit v 1, mtch := nbit v 2, evt := nbit v 3 }

end Sys2Proof.Machine
end

