-- ==== Sys2Proof/Machine/Idma.lean ====
section
/-!
DEFINITION. The copy of instructions from vector memory into instruction SRAM (R58 to R61): one word per CCLK after a
latency of 80 CCLK.
-/
namespace Sys2Proof.Machine

open Sys2Proof

/-- Default of a word of instruction SRAM: zeroed at reset (R58). -/
def sramZero : SramWord := { w := 0, bad := false }

/-- A copy starts in cluster `c`: IDMA_STAT.BUSY sets. -/
def State.copyStart (s : State) (c row dst len : Nat) : State :=
  let s := s.setSq c { s.sq c with copy := some { row := row, dst := dst, len := len, wait := 79, done := 0 } }
  s.setRb (Off.idmaStat c) 31 true

/-- Writes the next word: a poisoned row gives a word whose fetch fails, a never-written one zeros (R60). What the checker
reports is a free value (R341); row 0 follows the last row (DESIGN CHOICE, log 79: the spec gives IDMA_SRC no wrap). -/
def State.copyWord (s : State) (c : Nat) : State :=
  match (s.sq c).copy with
  | none => s
  | some p =>
    let row := (p.row + p.done) % rowCount
    let ecc := s.rowEcc
    let r := s.rowRead row ecc
    let s := (s.rowSeen row ecc).fresh
    let q := s.sq c
    let s := s.setSq c { q with
      copy := some { p with done := p.done + 1 }
      sram := Tbl.set sramZero q.sram (p.dst + p.done) { w := r.data, bad := r.ue } }
    if r.ue then (s.setRb (Off.idmaStat c) 30 true).count (Off.idmaStat c) 0 16 1 else s

/-- The copy of cluster `c` in the present CCLK: one word after the latency. Its requests wait while vector memory
recalibrates (R416), so that CCLK counts for nothing. -/
def State.copyTick (s : State) (c : Nat) : State :=
  match (s.sq c).copy with
  | none => s
  | some p =>
    if s.clk.relockAt.isSome || decide (p.len ≤ p.done) then s
    else if p.wait = 0 then s.copyWord c
    else s.setSq c { s.sq c with copy := some { p with wait := p.wait - 1 } }

/-- Index `pc` waits for the copy that runs (R61). -/
def SeqSt.copyHolds (q : SeqSt) (pc : Nat) : Bool := match q.copy with
  | some p => decide (p.dst + p.done ≤ pc ∧ pc < p.dst + p.len)
  | none => false

end Sys2Proof.Machine
end

