-- ==== Sys2Proof/Machine/Image.lean ====
section
/-!
DEFINITION. Images in the card flash and in vector memory: CRC-32 of IEEE 802.3, the card flash image header (R432), patch
images (R392, R393, R401, R402) and calibration copies (R376, R379).
-/
namespace Sys2Proof.Machine

open Sys2Proof

/-- One bit of the CRC-32 of IEEE 802.3. -/
def crcBit (c : Word) : Word := if c.getLsbD 0 then (c >>> 1) ^^^ 0xEDB88320#32 else c >>> 1
/-- One byte. -/
def crcByte (c : Word) (b : Byte) : Word := (List.range 8).foldl (fun c _ => crcBit c) (c ^^^ b.setWidth 32)
/-- CRC-32 of a string of bytes. -/
def crc32 (l : List Byte) : Word := ~~~(l.foldl crcByte 0xFFFFFFFF#32)

/-- The little-endian words of a string of bytes. -/
def leWords : List Byte → List Word
  | b0 :: b1 :: b2 :: b3 :: t => (b3 ++ b2 ++ b1 ++ b0) :: leWords t
  | _ => []
/-- The little-endian halfwords of a string of bytes. -/
def leHalves : List Byte → List (BitVec 16)
  | b0 :: b1 :: t => (b1 ++ b0) :: leHalves t
  | _ => []

/-! ### The card flash image header (R432) -/

/-- Bytes of the image in a calibration copy. -/
def copyBytes : Nat := 65312

/-- Bytes of card flash that a copy occupies. -/
def copyRoom : Nat := 65536

/-- Two regions, as first byte and length, do not overlap. -/
def apart (a b : Nat × Nat) : Bool := decide (a.1 + a.2 ≤ b.1) || decide (b.1 + b.2 ≤ a.1)
/-- No two regions of a list overlap. -/
def allApart : List (Nat × Nat) → Bool
  | [] => true
  | a :: t => t.all (apart a) && allApart t

/-- The header, with FASTDEV and FASTXIP, where the bytes read hold a valid one. -/
def readHdr (f : FlashRead) : Option (Hdr × Word × Word) :=
  let w := leWords f.bytes
  let g (i : Nat) : Word := w.getD i 0
  let n (i : Nat) : Nat := (g i).toNat
  let h : Hdr := { entry := n 2, cstart := n 3, cend := n 4, crcbase := n 5, calA := n 6, calB := n 7, patch := n 8 }
  let lines := (h.cend - h.cstart + 31) / 32
  let ok := !f.err && decide (w.length = 16) && decide (g 0 = 0x5120F1A5) && decide (g 1 = 1) &&
    (List.range 4).all (fun i => decide (g (11 + i) = 0)) && decide (crc32 (f.bytes.take 60) = g 15) &&
    decide (h.cstart % 32 = 0 ∧ 32 ≤ h.cstart) && decide (h.cstart ≤ h.entry ∧ h.entry < h.cend ∧ h.cend ≤ 16777216) &&
    decide (h.calA ≠ h.calB ∧ h.calA ≠ 0 ∧ h.calB ≠ 0 ∧ h.calA % 65536 = 0 ∧ h.calB % 65536 = 0) &&
    allApart [(0, 64), (8 * h.cstart, 8 * (h.cend - h.cstart)), (h.crcbase, 4 * lines), (h.calA, copyRoom),
      (h.calB, copyRoom)]
  if ok then some (h, g 9, g 10) else none

/-! ### Calibration copies (R376, R379) -/

/-- A valid copy: its sequence number and the items of its payload. -/
def readCopy (f : FlashRead) : Option (Word × List (BitVec 16)) :=
  let w := leWords (f.bytes.take 32)
  let g (i : Nat) : Word := w.getD i 0
  let pay := f.bytes.drop 32
  if !f.err && decide (f.bytes.length = copyBytes) && decide (g 0 = 0x5120CA1B) && decide (g 2 = 65280) &&
      decide (g 3 = 1) && decide (crc32 (f.bytes.take 28 ++ pay) = g 7)
  then some (g 1, leHalves pay) else none

/-- A table of items, in canonical form. -/
def itemTable (l : List (BitVec 16)) : Tbl (BitVec 16) :=
  ((List.range l.length).zip l).filter fun e => decide (e.2 ≠ 0)

/-! ### Patch images (R393, R401, R402) -/

/-- Microword from its five words. -/
def microOf (l : List Word) : BitVec 136 :=
  let g (i : Nat) : Word := l.getD i 0
  (g 4).setWidth 8 ++ g 3 ++ g 2 ++ g 1 ++ g 0
/-- Every group of 16 function bits holds with its parity bit an odd number of ones (R393). -/
def microParity (m : BitVec 136) : Bool :=
  (List.range 8).all fun k =>
    let ones := (List.range 16).foldl (fun n i => n + if m.getLsbD (16 * k + i) then 1 else 0) 0
    decide ((ones + if m.getLsbD (128 + k) then 1 else 0) % 2 = 1)

/-- A patch image taken apart. -/
structure Patch where
  ver     : Nat
  crc     : Word
  entries : List Word
  micro   : List (List Word)
  deriving DecidableEq, Repr

/-- Groups of `n` words. -/
def wordGroups (n : Nat) : Nat → List Word → List (List Word)
  | 0, _ => []
  | k + 1, l => l.take n :: wordGroups n k (l.drop n)

/-- Length of the image that a header announces. -/
def patchLen (w : List Word) : Nat := 32 + 4 * (w.getD 3 0).toNat + 20 * (w.getD 2 0).toNat
/-- NMATCH and NWORDS are within their bounds. -/
def patchCounts (w : List Word) : Bool := decide ((w.getD 3 0).toNat ≤ 32 ∧ (w.getD 2 0).toNat ≤ 512)

/-- Checks an image under R402: the patch, or ICAUSE. A read error comes first, then the causes in their order. -/
def readPatch (romver : Nat) (f : FlashRead) : Patch ⊕ Nat :=
  let h := leWords (f.bytes.take 32)
  let g (i : Nat) : Word := h.getD i 0
  let nm := if patchCounts h then (g 3).toNat else 0
  let nw := if patchCounts h then (g 2).toNat else 0
  let body := (f.bytes.take (patchLen h)).drop 32
  let ents := (leWords body).take nm
  let mws := wordGroups 5 nw ((leWords body).drop nm)
  let maddrs := ents.map fun e => fld e 0 14
  if f.err || decide (f.bytes.length < 32) || (patchCounts h && decide (f.bytes.length < patchLen h)) then .inr 6
  else if g 0 ≠ 0x5120CADD ∨ fld (g 1) 0 16 = 0 ∨ g 4 ≠ 0 ∨ g 5 ≠ 0 ∨ g 6 ≠ 0 ∨
      ents.any (fun e => !flag e 31 || decide (fld e 25 6 ≠ 0) || decide (fld e 14 2 ≠ 0)) ∨
      mws.any (fun m => decide (fld (m.getD 4 0) 8 24 ≠ 0)) then .inr 1
  else if fld (g 1) 16 16 ≠ romver then .inr 2
  else if patchCounts h && decide (crc32 (f.bytes.take 28 ++ body) ≠ g 7) then .inr 3
  else if !patchCounts h || maddrs.any (fun a => decide (0x3000 ≤ a)) ||
      ents.any (fun e => decide (nw ≤ fld e 16 9)) || !decide (maddrs.Nodup) then .inr 4
  else if mws.any fun m => !microParity (microOf m) then .inr 5
  else .inl { ver := fld (g 1) 0 16, crc := g 7, entries := ents, micro := mws }

end Sys2Proof.Machine
end

