-- ==== Sys2Proof/Machine/Seq.lean ====
section
/-!
DEFINITION. Sequencers (spec 03, 04, 18): start and stop, the fetch, the run of one instruction, exceptions, interrupts,
trap entry and return (R114 to R120), machine checks (R398, R399) and the instruction copy's registers (R59).
-/
namespace Sys2Proof.Machine

open Sys2Proof

/-! ### Trap registers (R114, R118, R119) -/

/-- TRAP_STAT.TRAPACT of sequencer `x`. -/
def State.trapAct (s : State) (x : Nat) : Bool := s.rb (Off.trapStat x) 31
/-- TRAP_CTL.EN of sequencer `x`. -/
def State.trapEn (s : State) (x : Nat) : Bool := s.rb (Off.trapCtl x) 31
/-- The handler's index. -/
def State.trapVec (s : State) (x : Nat) : Nat := s.rf (Off.trapCtl x) 0 24

/-- Unit number of sequencer `x` in the history queue (R333). -/
def seqSrc (x : Nat) : Nat := if x < 16 then x else 0x1000

/-- Cause, TRAP_PC and TRAP_INFO. Of the index of a PCEND in SEQH, 2^24, TRAP_PC keeps the low 24 bits, 0 (DESIGN CHOICE, log 79). -/
def State.trapNote (s : State) (x cause info pc : Nat) : State :=
  ((s.setRf (Off.trapStat x) 0 8 cause).setRg (Off.trapPc x) (BitVec.ofNat 32 (pc % 2 ^ 24))).setRg (Off.trapInfo x)
    (BitVec.ofNat 32 info)

/-- The locks of the vector cache end (R131). -/
def State.unlockLines (s : State) (x : Nat) : State :=
  let s := s.setSq x { s.sq x with loops := [], locked := [], lockRows := [] }
  if x < 16 then (s.setRb (Off.clVcstat x) 31 false).setRf (Off.clVcstat x) 16 10 0 else s

/-- FETCHUE (R120). -/
def causeFetchue : Nat := 0x09

/-- A fence of the unit of sequencer `x` under class F2, with one entry per cause: its cluster, or SEQH alone (R124). -/
def State.fenceSeq (s : State) (x : Nat) (causes : List (Nat × Nat)) : State :=
  if x < 16 then s.fenceCluster x causes
  else match causes with
    | [] => s
    | c :: rest =>
      let ev (c : Nat × Nat) : Ev := { cls := 2, src := 0x1000, cause := c.1, off := c.2, site := none, wd := false }
      rest.foldl (fun s c => s.hist (ev c) false) (s.f2 (ev c) true)

/-! ### Machine checks (R398, R399) -/

/-- A machine check: MC_ERR latches the first, the sequencer halts, and its cluster, or SEQH, is fenced. -/
def State.machineCheck (s : State) (x op : Nat) (cause uaddr : Nat) : State :=
  let s := s.mcLatch x op cause uaddr
  let s := if cause = 3 then
      let idx := (uaddr - 0x3000) * 136 / 32
      State.uncorrected { s with mc := { s.mc with
        ue := if s.mc.ue.contains (512 * x + (uaddr - 0x3000)) then s.mc.ue else s.mc.ue ++ [512 * x + (uaddr - 0x3000)] } }
        (64 + x) idx
    else s
  (s.haltSeq x).fenceSeq x [(cause, mcOff x uaddr)]

/-- R400 at the end of a load: a bad ROM word that is not covered is a machine check. -/
def State.mcSweep (s : State) : State :=
  s.each (List.range 17) fun x s => match s.mcOpen x with
    | some a => s.machineCheck x 0 5 a
    | none => s

/-! ### Fetch (R58, R61, R434) -/

/-- Prefetch line of SEQH that holds index `pc`. -/
def State.seqhLine (s : State) (pc : Nat) : Option (List Row) := Tbl.find s.cp.lines (pc / 32)

/-- Index `pc` lies in the SEQH code region and its line is not bad (R434). -/
def State.seqhReach (s : State) (pc : Nat) : Bool :=
  (match s.cp.hdr with
    | some h => decide (h.cstart ≤ pc ∧ pc < h.cend)
    | none => false) && !s.cp.bad.contains (pc / 32)

/-- The instruction at index `pc` of sequencer `x`, where the fetch neither stalls nor fails. -/
def State.fetch (s : State) (x pc : Nat) : Option Row :=
  if x < 16 then
    let q := s.sq x
    let m := Tbl.get sramZero q.sram pc
    if pc < 32768 ∧ !q.copyHolds pc ∧ !m.bad then some m.w else none
  else if s.seqhReach pc then (s.seqhLine pc).map fun l => l.getD (pc % 32) 0
  else none

/-- A fetch makes its prefetch line the most recently used (R434). -/
def State.seqhTouch (s : State) (x : Nat) : State :=
  if x < 16 then s
  else
    let k := (s.sq x).pc / 32
    { s with cp := { s.cp with lines := (s.cp.lines.filter fun e => e.1 = k) ++ s.cp.lines.filter fun e => e.1 ≠ k } }

/-- The instruction that sequencer `x` is at: its opcode, 0 where none is fetched. -/
def State.opAt (s : State) (x : Nat) : Nat := match s.fetch x (s.sq x).pc with
  | some r => rowOp r
  | none => 0

/-! ### Microwords (R391 to R398) -/

/-- Where a microword is fetched: ROM, or the caddy. -/
inductive MicroPc where
  | rom (a : Fin 12288)
  | caddy (i : Nat)
  deriving DecidableEq, Repr

/-- Its microaddress (R391). -/
def MicroPc.addr : MicroPc → Nat
  | .rom a => a
  | .caddy i => 0x3000 + i

/-- The place of a microaddress: none of 0x3200 to 0x3FFF. -/
def microPc (a : Nat) : Option MicroPc :=
  if h : a < 12288 then some (.rom ⟨a, h⟩) else if a < 0x3200 then some (.caddy (a - 0x3000)) else none

/-- Where a microword sends the sequencer at the end of its last cycle. -/
inductive MicroGo where
  | word (a : Nat) (stack : List (BitVec 14))
  | done
  | error
  deriving DecidableEq, Repr

/-- NSEL of the microword `m` at microaddress `a` (R394). -/
def microGo (m : BitVec 136) (cond : Bool) (a : Nat) (stack : List (BitVec 14)) : MicroGo :=
  let next := m.toNat / 2 ^ 11 % 2 ^ 14
  match m.toNat / 4 % 8 with
  | 0 => .word (a + 1) stack
  | 1 => .word next stack
  | 2 => .word (if cond then next else a + 1) stack
  | 3 => if 4 ≤ stack.length then .error else .word next (BitVec.ofNat 14 (a + 1) :: stack)
  | 4 => match stack with
    | r :: t => .word r.toNat t
    | [] => .error
  | 5 => .word (if cond then a + 1 else a) stack
  | 6 => .done
  | _ => .error

/-- The place that a fetch reaches: of a ROM word through an enabled match register that holds it, the caddy word it names (R397). -/
def State.microAt (s : State) : MicroPc → MicroPc
  | .caddy i => .caddy i
  | .rom a =>
    match (List.range 32).find? fun k => s.rb (Off.mcMatch k) 31 && decide (s.rf (Off.mcMatch k) 0 14 = a) with
    | some k => .caddy (s.rf (Off.mcMatch k) 16 9)
    | none => .rom a

/-- What the microwords of a routine have come to: the next microaddress and the micro-stack, the words that have driven
their resources, their CCLK, whether the caddy had a part, corrected caddy words, whether END was reached, and a machine check. -/
structure MicroEnd where
  at_   : MicroPc
  stack : List (BitVec 14)
  drove : Nat
  cclk  : Nat
  caddy : Bool
  fixed : List Nat
  done  : Bool
  check : Option (Nat × Nat)
  deriving DecidableEq, Repr

/-- The microword at a place, or the cause of a machine check (R398). -/
def State.microWord (s : State) (x : Nat) (f : MicroFetch) : MicroPc → BitVec 136 ⊕ Nat
  | .caddy i =>
    let m := Tbl.get 0 s.mc.caddy (512 * x + i)
    if s.mc.ue.contains (512 * x + i) || decide (f.ecc = Ecc.uncorrectable) then .inr 3
    else if microParity m then .inl m else .inr 2
  | .rom a => if f.bad || s.mc.romBad.any (fun e => decide (e.1 = x) && decide (e.2 = a)) then .inr 1 else .inl (Config.rom x a)

/-- Runs at most `n` microwords from the place that `e` has reached: what the fetches in `l` report, then fetches without a report;
`again` says that a waiting word is repeated, which takes 1 CCLK. -/
def State.microRun (s : State) (x : Nat) : Nat → Bool → List MicroFetch → MicroEnd → MicroEnd
  | 0, _, _, e => e
  | n + 1, again, l, e =>
    let f := l.headD { cond := Config.microCond s.freeCtr n, bad := false, ecc := .ok }
    let p := s.microAt e.at_
    match s.microWord x f p with
    | .inr c => { e with check := some (c, p.addr) }
    | .inl m =>
      let k := match p with
        | .caddy i => some i
        | .rom _ => none
      let e := { e with
        drove := e.drove + 1, cclk := e.cclk + (if again then 1 else m.toNat % 4 + 1), caddy := e.caddy || k.isSome
        fixed := if f.ecc = Ecc.corrected then e.fixed ++ k.toList else e.fixed }
      match microGo m f.cond p.addr e.stack with
      | .word a st => match microPc a with
        | some q => s.microRun x n (decide (q = p) && decide (m.toNat / 4 % 8 = 5)) l.tail { e with at_ := q, stack := st }
        | none => { e with check := some (4, p.addr) }
      | .done => { e with stack := [], done := true }
      | .error => { e with check := some (4, p.addr) }

/-- Every fetch of sequencer `x` meets the ROM as it was made: no enabled match register, no bad word. -/
def State.plainRom (s : State) (x : Nat) : Bool :=
  (List.range 32).all (fun k => !s.rb (Off.mcMatch k) 31) && s.mc.romBad.all fun e => decide (e.1 ≠ x)

/-- Microwords after which a routine that has not ended is taken to stay in its loop. -/
def microFuel : Nat := 2 ^ 24

/-- A routine of sequencer `x` from ROM microaddress `a` on. From the plain ROM, and without a report of its fetches, it does what the
spec says of its instruction, in the CCLK of R85 and R121 (R396). -/
def State.routine (s : State) (x : Nat) (a : Fin 12288) (mc : Option Micro) : MicroEnd :=
  let e : MicroEnd :=
    { at_ := .rom a, stack := [], drove := 0, cclk := 0, caddy := false, fixed := [], done := false, check := none }
  match mc with
  | some m => s.microRun x microFuel false m.words e
  | none => if s.plainRom x then { e with done := true } else s.microRun x microFuel false [] e

/-- The routine of the instruction that sequencer `x` is at, from its dispatch entry on (R395). -/
def State.micro (s : State) (x : Nat) (mc : Option Micro) : MicroEnd := s.routine x (Config.microEntry (s.opAt x)) mc

/-- Leaves the micro-PC and the micro-stack as `e` has them, and counts the corrected caddy words (R341). -/
def State.microSet (s : State) (x : Nat) (e : MicroEnd) : State :=
  if e.drove = 0 ∧ e.check = none then s
  else e.fixed.foldl (fun s i => s.corrected (64 + x) (i * 136 / 32))
    (State.fresh (s.setSq x { s.sq x with upc := BitVec.ofNat 14 e.at_.addr, ustack := e.stack }))

/-! ### Taking a trap (R114, R118, R119) -/

/-- Taking an exception, an interrupt or FNOTE (R114): TRAP_PC, the cause and TRAP_INFO are set, the flags go to SFLAGS,
TRAPACT sets, and the sequencer goes on at the handler after `cost` CCLK. -/
def State.trapTake (s : State) (x cause info pc cost : Nat) : State :=
  let s := s.trapNote x cause info pc
  let s := (s.setRf (Off.trapStat x) 16 4 (s.sq x).saved).setRb (Off.trapStat x) 31 true
  let s := s.unlockLines x
  let q := s.sq x
  let s := s.setSq x { q with pc := s.trapVec x, wait := .none, readyAt := s.now + cost, floor := 0 }
  if q.stopReq then s.haltSeq x else s

/-- The trap entry routine (R121, R394): 4 CCLK, or those of its patched microwords (R396); a machine check in it, or no END. -/
def State.trapEnter (s : State) (x cause info pc : Nat) (mc : Option Micro := none) : State :=
  let e := s.routine x Config.trapRoutine mc
  let s := s.microSet x e
  match e.check with
  | some c => s.machineCheck x (s.opAt x) c.1 c.2
  | none =>
    if e.done then s.trapTake x cause info pc (if e.caddy then e.cclk else 4)
    else s.setSq x { s.sq x with wait := .micro }

/-- An exception (R114, R118, R119). Of the two history entries of one inside a handler, the new cause stands first (DESIGN
CHOICE, log 79: R118 gives no order). -/
def State.exception (s : State) (x cause info pc : Nat) (mc : Option Micro := none) : State :=
  let s := s.count (Off.trapCnt x) 16 16 1
  if s.trapEn x && !s.trapAct x then s.trapEnter x cause info pc mc
  else
    let prev := s.rf (Off.trapStat x) 0 8
    let s := (s.trapNote x cause info pc).haltSeq x
    if s.trapAct x then s.fenceSeq x [(cause, Off.trapStat x), (prev, Off.trapStat x)]
    else if cause = causeFetchue then s.fenceSeq x [(cause, Off.trapStat x)]
    else s.notice (seqSrc x) cause (Off.trapStat x)

/-! ### One instruction -/

/-- How a micro-routine ends: at the next index, at another index, in an exception, or waiting. -/
inductive Flow where
  | next (s : State) (cost : Nat)
  | jump (s : State) (pc cost : Nat)
  | trap (cause info : Nat)
  | hold (s : State)

/-- Sequencer `x` is at an instruction boundary: RUNNING, nothing in progress. -/
def State.atBoundary (s : State) (x : Nat) : Bool :=
  let q := s.sq x
  decide (q.mode = .running) && decide (q.wait = .none ∨ q.wait = .pend) && decide (q.readyAt ≤ s.now)

/-- The instruction of sequencer `x` is opcode `op` with bits `w`, and may begin. -/
def State.canRun (s : State) (x op : Nat) (w : BitVec 56) : Bool :=
  s.atBoundary x && decide (s.fetch x (s.sq x).pc = some (instrRow op w))

/-- The instruction in progress retires: the next one is at `pc`, `cost` CCLK from now; a STOP acts here. -/
def State.retire (s : State) (x pc cost : Nat) : State :=
  let q := s.sq x
  let s := s.setSq x { q with pc := pc, wait := .none, readyAt := max (s.now + cost) q.floor, floor := 0 }
  if q.stopReq then s.haltSeq x else s

/-- Ends a micro-routine of sequencer `x` that began at `s`. -/
def State.flow (s : State) (x : Nat) : Flow → State
  | .next t cost => t.retire x ((s.sq x).pc + 1) cost
  | .jump t pc cost => t.retire x pc cost
  | .trap cause info => s.exception x cause info (s.sq x).pc
  | .hold t => t

/-- The state that a micro-routine of sequencer `x` that began at `s` reaches with its effects. -/
def Flow.reached (s : State) : Flow → State
  | .next t _ => t
  | .jump t _ _ => t
  | .hold t => t
  | .trap _ _ => s

/-- A patched routine of sequencer `x` takes the CCLK of its own microwords (R396); a wait or a trap in it ends no earlier. -/
def Flow.timed (x : Nat) (e : MicroEnd) : Flow → Flow
  | .next t cost => .next t (if e.caddy then e.cclk else cost)
  | .jump t pc cost => .jump t pc (if e.caddy then e.cclk else cost)
  | .hold t => .hold (if e.caddy then t.setSq x { t.sq x with floor := t.now + e.cclk } else t)
  | .trap cause info => .trap cause info

/-- A patched routine that traps has taken its own CCLK before the trap entry (R396). -/
def State.trapLate (s : State) (x : Nat) (e : MicroEnd) : Flow → State
  | .trap _ _ => if e.caddy then s.setSq x { s.sq x with readyAt := (s.sq x).readyAt + e.cclk } else s
  | _ => s

/-- The routine ends before END: what its microwords have done stands (R398), and which effect belongs to which microword depends on
the ROM, so after a first word whether they have occurred is free. -/
def State.cutShort (s : State) (e : MicroEnd) (fl : Flow) : State :=
  if e.drove = 0 then s else State.fresh (if Config.microDone s.freeCtr then fl.reached s else s)

/-- A machine check in a micro-routine: the failing word drives nothing, and effects of earlier microwords stand (R398). -/
def State.microFail (s : State) (x op : Nat) (e : MicroEnd) (c : Nat × Nat) (fl : Flow) : State :=
  (s.cutShort e fl).machineCheck x op c.1 c.2

/-- The microwords of a routine do not reach END: the sequencer stays in it. -/
def State.microStay (s : State) (x : Nat) (e : MicroEnd) (fl : Flow) : State :=
  let s := s.cutShort e fl
  s.setSq x { s.sq x with wait := .micro }

/-- Runs one instruction: fetch and dispatch (R395), machine checks (R398), registers that are pending (R107), reserved
fields (R64), then the micro-routine `act`, which ends at its END. Where the sequencer is not about to run it, nothing happens. -/
def State.instr (s : State) (x op : Nat) (w : BitVec 56) (mc : Option Micro) (rng : List (Nat × Nat)) (vals : List Nat)
    (act : State → Flow) : State :=
  if !s.canRun x op w then s
  else
    let s := s.seqhTouch x
    if !opLegal x op then s.exception x 0x01 op (s.sq x).pc
    else if (regsOf op w).any fun k => (s.sq x).pend.contains k then s.setSq x { s.sq x with wait := .pend }
    else
      let e := s.micro x mc
      let s := s.microSet x e
      let fl := match offBit w rng vals with
        | some i => .trap 0x02 i
        | none => act s
      match e.check with
      | some c => s.microFail x op e c fl
      | none => if e.done then (s.flow x (fl.timed x e)).trapLate x e fl else s.microStay x e fl

/-! ### Start and stop (R56, R62, R125) -/

/-- The state of R56 at index `pc`; G and LC are kept. TRAPACT ends (R118), and K starts from Z (R70). -/
def State.seqBegin (s : State) (x pc : Nat) : State :=
  let q := s.sq x
  let s := s.setSq x { SeqSt.reset with
    mode := .running, pc := pc, g := q.g, lc := q.lc, readyAt := s.now + 1, copy := q.copy, sram := q.sram,
    fnSite := q.fnSite }
  let s := if x < 16 then s.dropMeas x else s
  let s := s.setRb (Off.trapStat x) 31 false
  if x < 16 then
    s.each (s.mapped.filter fun n => n / 32 = x) fun n s => s.setCh n { s.ch n with prev := 0b010 }
  else s

/-- The instruction in progress is an interruptible wait (R115). -/
def Wait.interruptible : Wait → Bool
  | .evw .. => true
  | .pour => true
  | .ovlw => true
  | .jfw .. => true
  | .waitc .. => true
  | _ => false

/-- STOP: the sequencer halts at the next instruction boundary; an interruptible wait, STARTPEND and YIELDED are
boundaries. -/
def State.stopSeq (s : State) (x : Nat) : State :=
  let q := s.sq x
  match q.mode with
  | .halted => s
  | .running =>
    if q.wait = .none ∨ q.wait.interruptible then s.haltSeq x else s.setSq x { q with stopReq := true }
  | _ => s.haltSeq x

/-- A patch load or clear runs (MC_LSTAT.BUSY, R404). -/
def State.mcBusy (s : State) : Bool := s.rb Off.mcLstat 31

/-- A write of SEQ_CTL (R62, R404). -/
def State.seqCtl (s : State) (c : Nat) (v : Word) : State :=
  let s := if flag v 1 then s.stopSeq c else s
  if !flag v 0 then s
  else if flag v 1 || (s.sq c).mode ≠ .halted || s.parkReq c || s.clParked c || (s.cl c).parking || s.mcBusy then
    s.count (Off.seqStat c) 20 4 1
  else s.setSq c { s.sq c with mode := .startPend }

/-- A write of SEQH_CTL (R125, R322, R404). -/
def State.seqhCtl (s : State) (v : Word) : State :=
  let s := if flag v 1 then s.stopSeq 16 else s
  if !flag v 0 then s
  else if flag v 1 || (s.sq 16).mode ≠ .halted || s.mcBusy || (s.f2Find 0x1000).isSome || s.bistDead 16 then
    s.count Off.seqhStat 28 2 1
  else s.seqBegin 16 (s.rf Off.seqhStart 0 24)

/-- A write of G (`k` below 16) or LC is stored only in HALTED (R63). -/
def State.seqRegWrite (s : State) (x k : Nat) (v : Word) : State :=
  let q := s.sq x
  if q.mode = .halted then s.setSq x (if k < 16 then q.setG k v else q.setLc (k - 16) v)
  else if x < 16 then s.count (Off.seqStat x) 16 4 1 else s

/-- A write of IDMA_CTL (R59). -/
def State.idmaCtl (s : State) (c : Nat) (v : Word) : State :=
  if !flag v 0 then s
  else
    let dst := s.rf (Off.idmaDst c) 0 15
    let len := s.rf (Off.idmaLen c) 0 15 + 1
    let q := s.sq c
    if q.mode ≠ .halted || q.copy.isSome || decide (32767 < dst + (len - 1)) then s.setRb (Off.idmaStat c) 29 true
    else s.copyStart c (s.rg (Off.idmaSrc c)).toNat dst len

/-- The copy of cluster `c` has written its last word (R61). -/
def State.copyDone (s : State) (c : Nat) : State :=
  let q := s.sq c
  match q.copy with
  | none => s
  | some p =>
    if p.done < p.len then s
    else
      let s := (s.setSq c { q with copy := none }).setRb (Off.idmaStat c) 31 false
      match q.wait with
      | .ovl row dst len => (s.copyStart c row dst len).retire c (q.pc + 1) 2
      | .ovlw => s.retire c (q.pc + 1) 1
      | _ => s

/-! ### Interrupts (R112, R115, R116) -/

/-- Slots that an EVW of sequencer `x` waits on. -/
def SeqSt.evwSlots (q : SeqSt) : BitVec 8 := match q.wait with
  | .evw slots _ _ _ _ => slots
  | _ => 0

/-- The request that is taken next: FNOTE, then EVINT0 to EVINT7, as cause and TRAP_INFO. -/
def State.irqNext (s : State) (x : Nat) : Option (Nat × Nat) :=
  let q := s.sq x
  let latch := s.rg (Off.evLatch x)
  let ctl := s.rg (Off.intCtl x)
  if flag latch 8 && flag ctl 8 then some (0x28, q.fnSite)
  else ((List.range 8).find? fun k => flag latch k && flag ctl k && !q.evwSlots.getLsbD k).map fun k =>
    (0x20 + k, s.rf (Off.evSel x k) 0 10)

/-- Takes a pending request at a boundary, or abandons an interruptible wait. -/
def State.interrupt (s : State) (x : Nat) : State :=
  let q := s.sq x
  let open_ := decide (q.mode = .running) && decide (q.readyAt ≤ s.now) &&
    (decide (q.wait = .none) || q.wait.interruptible) && s.trapEn x && !s.trapAct x
  match open_, s.irqNext x with
  | true, some (cause, info) => (s.count (Off.trapCnt x) 0 16 1).trapEnter x cause info q.pc
  | _, _ => s

/-! ### Fetch exceptions (R58, R64, R118 to R120, R124) -/

/-- The exception of the fetch at the sequencer's index: cause and TRAP_INFO. `ue` says that the checker finds an
uncorrectable error now. -/
def State.fetchFault (s : State) (x : Nat) (ue : Bool) : Option (Nat × Nat) :=
  let q := s.sq x
  if x < 16 then
    if 32768 ≤ q.pc then some (0x03, 0)
    else if q.copyHolds q.pc then none
    else
      let m := Tbl.get sramZero q.sram q.pc
      if m.bad || ue then some (causeFetchue, q.pc)
      else if opLegal x (rowOp m.w) then none else some (0x01, rowOp m.w)
  else if 2 ^ 24 ≤ q.pc then some (0x03, 0)
  else if !s.seqhReach q.pc then some (causeFetchue, q.pc)
  else match s.seqhLine q.pc with
    | none => none
    | some l =>
      let r := l.getD (q.pc % 32) 0
      if opLegal x (rowOp r) then none else some (0x01, rowOp r)

/-- A fetch from instruction SRAM whose word the checker corrects goes on with it (R341). -/
def State.fetchFixed (s : State) (x : Nat) : State :=
  let q := s.sq x
  if x < 16 ∧ q.pc < 32768 ∧ !q.copyHolds q.pc then s.corrected x (2 * q.pc) else s

/-- What a fetch that fails does. -/
def State.fetchExc (s : State) (x : Nat) (ecc : Ecc) (mc : Option Micro) : State :=
  if !s.atBoundary x then s
  else
  let s := if ecc = .corrected then s.fetchFixed x else s
  match s.fetchFault x (decide (ecc = .uncorrectable)) with
    | none => s
    | some (cause, info) =>
      let pc := (s.sq x).pc
      let s := s.seqhTouch x
      let s := if x < 16 ∧ cause = causeFetchue then
          let q := s.sq x
          let m := Tbl.get sramZero q.sram pc
          (s.setSq x { q with sram := Tbl.set sramZero q.sram pc { m with bad := true } }).uncorrected x (2 * pc)
        else s
      s.exception x cause info pc mc

/-! ### Meanings -/

/-- SEQ_RUN (R62): a write of SEQ_CTL. -/
def execSeqRun (p : Party) (c : Cl) (v : Word) (s : State) : Result :=
  .next (s.gateWrite p .pf0 (Off.seqCtl c) v fun s => s.seqCtl c v)
/-- SEQ_STOP (R62): a write of SEQ_CTL. -/
def execSeqStop (p : Party) (c : Cl) (v : Word) (s : State) : Result :=
  .next (s.gateWrite p .pf0 (Off.seqCtl c) v fun s => s.seqCtl c v)
/-- SEQ_REG_WRITE (R63): a write of SEQ_G, or of SEQ_LC for `k` from 16 on. -/
def execSeqRegWrite (p : Party) (x : Sq) (k : Fin 24) (v : Word) (s : State) : Result :=
  .next (s.gateWrite p .pf0 (if k.val < 16 then Off.seqG x k else Off.seqLc x (k - 16)) v fun s => s.seqRegWrite x k v)
/-- IDMA_GO (R59): a write of IDMA_CTL. -/
def execIdmaGo (p : Party) (c : Cl) (v : Word) (s : State) : Result :=
  .next (s.gateWrite p .pf0 (Off.idmaCtl c) v fun s => s.idmaCtl c v)
/-- IDMA_COMPLETE (R61). -/
def execIdmaComplete (c : Cl) (s : State) : Result := .next (s.copyDone c)
/-- INTERRUPT_ENTRY (R116). -/
def execInterruptEntry (x : Sq) (s : State) : Result := .next (s.interrupt x)
/-- FETCH_EXCEPTION (R64); without a fault and an uncorrectable error the fetch only counts what the checker corrects (R341). -/
def execFetchException (x : Sq) (ecc : Ecc) (mc : Option Micro) (s : State) : Result := .next (s.fetchExc x ecc mc)
/-- SEQH_RUN (R125): a write of SEQH_CTL. -/
def execSeqhRun (p : Party) (v : Word) (s : State) : Result :=
  .next (s.gateWrite p .pf0 Off.seqhCtl v fun s => s.seqhCtl v)
/-- SEQH_STOP (R125): a write of SEQH_CTL. -/
def execSeqhStop (p : Party) (v : Word) (s : State) : Result :=
  .next (s.gateWrite p .pf0 Off.seqhCtl v fun s => s.seqhCtl v)

end Sys2Proof.Machine
end

