-- ==== Sys2Proof/Machine/Alu.lean ====
section
/-!
DEFINITION. The ALU and the moves between registers (R80 to R83, NOP of R65) with their costs (R85).
-/
namespace Sys2Proof.Machine

open Sys2Proof

/-! ### Shared forms -/

/-- Puts an ALU result into G[RD] and the flags. -/
def SeqSt.aluPut (q : SeqSt) (rd : Nat) (o : AluOut) : SeqSt := { q.setG rd o.res with zero := o.zero, carry := o.carry }
/-- Register form (R80): operands G[RA] and G[RB]. -/
def aluReg (f : Word → Word → AluOut) (x : Nat) (w : BitVec 56) (cost : Nat) (s : State) : Flow :=
  let q := s.sq x
  .next (s.setSq x (q.aluPut (fD w) (f (q.gr (fA w)) (q.gr (fB w))))) cost
/-- Immediate form (R80): operands G[RA] and IMM. -/
def aluImm (f : Word → Word → AluOut) (x : Nat) (w : BitVec 56) (s : State) : Flow :=
  let q := s.sq x
  .next (s.setSq x (q.aluPut (fD w) (f (q.gr (fA w)) (fImm w)))) 1
/-- A compare of two operands: the flags only. -/
def aluTest (a b : Word) (x : Nat) (s : State) : Flow :=
  let o := aluCmp a b
  .next (s.setSq x { s.sq x with zero := o.zero, carry := o.carry }) 1

/-- Reserved bits of the register form. -/
def rsvReg : List (Nat × Nat) := [(0, 44)]
/-- Reserved bits of the immediate form. -/
def rsvImm : List (Nat × Nat) := [(32, 16)]
/-- Reserved bits of an immediate shift: IMM[31:5] as well. -/
def rsvShift : List (Nat × Nat) := [(5, 27), (32, 16)]

/-! ### ALU (R81) -/

/-- ADD (R81). -/
def execAdd (x : Sq) (w : BitVec 56) (mc : Option Micro) (s : State) : Result :=
  .next (s.instr x 0x20 w mc rsvReg [] (aluReg aluAdd x w 1))
/-- SUB (R81). -/
def execSub (x : Sq) (w : BitVec 56) (mc : Option Micro) (s : State) : Result :=
  .next (s.instr x 0x21 w mc rsvReg [] (aluReg aluSub x w 1))
/-- AND (R81). -/
def execAnd (x : Sq) (w : BitVec 56) (mc : Option Micro) (s : State) : Result :=
  .next (s.instr x 0x22 w mc rsvReg [] (aluReg aluAnd x w 1))
/-- OR (R81). -/
def execOr (x : Sq) (w : BitVec 56) (mc : Option Micro) (s : State) : Result :=
  .next (s.instr x 0x23 w mc rsvReg [] (aluReg aluOr x w 1))
/-- XOR (R81). -/
def execXor (x : Sq) (w : BitVec 56) (mc : Option Micro) (s : State) : Result :=
  .next (s.instr x 0x24 w mc rsvReg [] (aluReg aluXor x w 1))
/-- SHL (R81). -/
def execShl (x : Sq) (w : BitVec 56) (mc : Option Micro) (s : State) : Result :=
  .next (s.instr x 0x25 w mc rsvReg [] (aluReg aluShl x w 1))
/-- SHR (R81). -/
def execShr (x : Sq) (w : BitVec 56) (mc : Option Micro) (s : State) : Result :=
  .next (s.instr x 0x26 w mc rsvReg [] (aluReg aluShr x w 1))
/-- SAR (R81). -/
def execSar (x : Sq) (w : BitVec 56) (mc : Option Micro) (s : State) : Result :=
  .next (s.instr x 0x27 w mc rsvReg [] (aluReg aluSar x w 1))
/-- CMP (R81): RD is reserved. -/
def execCmp (x : Sq) (w : BitVec 56) (mc : Option Micro) (s : State) : Result :=
  .next (s.instr x 0x28 w mc [(0, 44), (52, 4)] [] fun s => aluTest ((s.sq x).gr (fA w)) ((s.sq x).gr (fB w)) x s)
/-- MUL (R81): 3 CCLK. -/
def execMul (x : Sq) (w : BitVec 56) (mc : Option Micro) (s : State) : Result :=
  .next (s.instr x 0x29 w mc rsvReg [] (aluReg aluMul x w 3))
/-- ADDI (R81). -/
def execAddi (x : Sq) (w : BitVec 56) (mc : Option Micro) (s : State) : Result :=
  .next (s.instr x 0x30 w mc rsvImm [] (aluImm aluAdd x w))
/-- SUBI (R81). -/
def execSubi (x : Sq) (w : BitVec 56) (mc : Option Micro) (s : State) : Result :=
  .next (s.instr x 0x31 w mc rsvImm [] (aluImm aluSub x w))
/-- ANDI (R81). -/
def execAndi (x : Sq) (w : BitVec 56) (mc : Option Micro) (s : State) : Result :=
  .next (s.instr x 0x32 w mc rsvImm [] (aluImm aluAnd x w))
/-- ORI (R81). -/
def execOri (x : Sq) (w : BitVec 56) (mc : Option Micro) (s : State) : Result :=
  .next (s.instr x 0x33 w mc rsvImm [] (aluImm aluOr x w))
/-- XORI (R81). -/
def execXori (x : Sq) (w : BitVec 56) (mc : Option Micro) (s : State) : Result :=
  .next (s.instr x 0x34 w mc rsvImm [] (aluImm aluXor x w))
/-- SHLI (R81). -/
def execShli (x : Sq) (w : BitVec 56) (mc : Option Micro) (s : State) : Result :=
  .next (s.instr x 0x35 w mc rsvShift [] (aluImm aluShl x w))
/-- SHRI (R81). -/
def execShri (x : Sq) (w : BitVec 56) (mc : Option Micro) (s : State) : Result :=
  .next (s.instr x 0x36 w mc rsvShift [] (aluImm aluShr x w))
/-- SARI (R81). -/
def execSari (x : Sq) (w : BitVec 56) (mc : Option Micro) (s : State) : Result :=
  .next (s.instr x 0x37 w mc rsvShift [] (aluImm aluSar x w))
/-- CMPI (R81): RD is reserved. -/
def execCmpi (x : Sq) (w : BitVec 56) (mc : Option Micro) (s : State) : Result :=
  .next (s.instr x 0x38 w mc [(32, 16), (52, 4)] [] fun s => aluTest ((s.sq x).gr (fA w)) (fImm w) x s)

/-! ### Moves (R82) and NOP (R65) -/

/-- NOP. -/
def execNop (x : Sq) (w : BitVec 56) (mc : Option Micro) (s : State) : Result :=
  .next (s.instr x 0x01 w mc [(0, 56)] [] fun s => .next s 1)
/-- MOVI: RA is reserved. -/
def execMovi (x : Sq) (w : BitVec 56) (mc : Option Micro) (s : State) : Result :=
  .next (s.instr x 0x40 w mc [(32, 20)] [] fun s => .next (s.setSq x ((s.sq x).setG (fD w) (fImm w))) 1)
/-- MOV. -/
def execMov (x : Sq) (w : BitVec 56) (mc : Option Micro) (s : State) : Result :=
  .next (s.instr x 0x41 w mc [(0, 48)] [] fun s =>
    .next (s.setSq x ((s.sq x).setG (fD w) ((s.sq x).gr (fA w)))) 1)
/-- MTLC: RD[3] is reserved. -/
def execMtlc (x : Sq) (w : BitVec 56) (mc : Option Micro) (s : State) : Result :=
  .next (s.instr x 0x42 w mc [(0, 48), (55, 1)] [] fun s =>
    .next (s.setSq x ((s.sq x).setLc (fD w) ((s.sq x).gr (fA w)))) 1)
/-- MFLC: RA[3] is reserved. -/
def execMflc (x : Sq) (w : BitVec 56) (mc : Option Micro) (s : State) : Result :=
  .next (s.instr x 0x43 w mc [(0, 48), (51, 1)] [] fun s =>
    .next (s.setSq x ((s.sq x).setG (fD w) ((s.sq x).lcr (fA w)))) 1)

/-- Word `i` of a 128-bit mask. -/
def maskWord (m : BitVec 128) (i : Nat) : Word := (m >>> (32 * i)).setWidth 32

/-- Special register `k` of sequencer `x` (R83, R122). -/
def State.special (s : State) (x k : Nat) : Word :=
  let q := s.sq x
  match k with
  | 0 => s.steep.num.setWidth 32
  | 1 => q.snapS
  | 2 => s.tstamp.setWidth 32
  | 3 => q.snapT
  | 16 => q.flagsWord
  | 17 => BitVec.ofNat 32 q.pc
  | 18 => BitVec.ofNat 32 x
  | 19 => if x < 16 then q.vcnt else 0
  | _ =>
    if 16 ≤ x then 0
    else if k < 8 then maskWord q.siteFail (k - 4)
    else if k < 12 then maskWord q.vmask (k - 8)
    else maskWord q.cmask (k - 12)

/-- The sequencer `q` after it has read special register `k`: sources 0 and 2 snapshot their high words. -/
def State.specialSeen (s : State) (q : SeqSt) (k : Nat) : SeqSt :=
  { q with
    snapS := if k = 0 then (s.steep.num >>> 32).setWidth 32 else q.snapS
    snapT := if k = 2 then (s.tstamp >>> 32).setWidth 32 else q.snapT }

/-- MFS (R83): sources from 20 on are reserved. -/
def execMfs (x : Sq) (w : BitVec 56) (mc : Option Micro) (s : State) : Result :=
  .next (s.instr x 0x44 w mc [(32, 20), (8, 24)] (if 20 ≤ ifld w 0 8 then [0] else []) fun s =>
    let k := ifld w 0 8
    .next (s.setSq x ((s.specialSeen (s.sq x) k).setG (fD w) (s.special x k))) 2)

end Sys2Proof.Machine
end

