-- ==== Sys2Proof/Machine/CardPort.lean ====
section
/-!
DEFINITION. The card port (R427 to R439): CPX and its descriptor, the prefetch lines of SEQH, polls of the card flash, and
the writes of its registers. A command carries the bytes of a transfer; Machine/Wires.lean says how they stand on the wires.
-/
namespace Sys2Proof.Machine

open Sys2Proof

/-- BUSY follows the port: a transfer or a poll runs. -/
def State.cpBusy (s : State) : State := s.setRb Off.cpStat 31 (s.cp.xfer.isSome || !s.cp.polls.isEmpty)

/-- CCLK of a poll interval, 10 µs. -/
def pollStep : Nat := 8000
/-- CCLK until a poll times out, 5 ms. -/
def pollLimit : Nat := 4000000

/-- A read of code 0 waits while the card flash is busy with another program or erase (R436). -/
def State.xferWaits (s : State) (x : Xfer) : Bool :=
  decide (x.dev = 0) && !x.write && s.cp.polls.any fun p => decide (p.dev = 0) && decide (p.what ≠ .cpx)

/-- The device code of the CPX transfer that has the port: it neither waits nor is it polled after its last clock. -/
def State.cpSending (s : State) : Option Nat := match s.cp.xfer with
  | some x =>
    if s.xferWaits x || x.ended || s.cp.polls.any (fun p => decide (p.what = .cpx) && p.limit.isSome) then none
    else some x.dev
  | none => none

/-- A read of code 0 can run: no transfer, no program or erase, and no safe state. -/
def State.cpFree (s : State) : Bool := !s.safe && s.cpSending.isNone && !s.flashBusy

/-! ### CPX (R438, R439) -/

/-- ERR that a descriptor earns before anything is sent (R439): 1 where it is invalid, 2 where it would program or erase the
card flash without FLWEN. -/
def descErr (w0 w2 : Word) (flwen : Bool) : Nat :=
  if fld w0 28 4 = 15 ∨ 4 < fld w0 15 3 ∨ 4096 < fld w2 0 13 ∨ flag w0 8 ∨ fld w2 13 19 ≠ 0 ∨
      (flag w0 14 ∧ fld w0 28 4 = 0) then 1
  else if fld w0 28 4 = 0 ∧ (flag w0 27 ∨ flag w0 26) ∧ !flwen then 2
  else 0

/-- Reads `n` rows from row `r` on, as often as a row is met: the state after, and the first row that is uncorrectable or
NOTINIT. -/
def State.cpRows (s : State) (r : Nat) (ecc : List Ecc) : Nat → State × Option Nat
  | 0 => (s, none)
  | n + 1 =>
    let a := r % rowCount
    let e := ecc.headD .ok
    let x := s.rowRead a e
    let s := s.rowSeen a e
    if x.ue || x.notInit then (s, some a) else s.cpRows (r + 1) ecc.tail n

/-- Writes W4: DONE, ERR and COUNT. -/
def State.writeW4 (s : State) (row err count : Nat) : State :=
  let a := (row + 2) % rowCount
  let w := setFld (setFld (setFlag 0 31 true) 28 3 err) 0 13 count
  s.writeRow a (0#32 ++ w) 0x0F .ok

/-- CPX begins: VUE on the descriptor's rows; an error ends it at once; else the transfer starts. In safe state the port
starts nothing (R325); a request to vector memory waits while it recalibrates (R416). -/
def cpxBegin (w : BitVec 56) (ecc : List Ecc) (s : State) : Flow :=
  let q := s.sq 16
  let row := (q.gr (fA w)).toNat
  if s.safe then .hold (s.setSq 16 { q with wait := .cpx row })
  else if s.cp.xfer.isSome || s.vmWait then .hold (s.setSq 16 { q with wait := .pend })
  else match s.cpRows row ecc 3 with
    | (s, some bad) => .hold (s.exception 16 0x06 bad q.pc)
    | (s, none) =>
      let w0 := rowHalf (s.mem.row (row % rowCount)) false
      let mid := s.mem.row ((row + 1) % rowCount)
      let w2 := rowHalf mid false
      let err := descErr w0 w2 (flag (s.sg Off.cpCfg) 0)
      let x : Xfer :=
        { row := row, dev := fld w0 28 4, write := flag w0 27, poll := flag w0 26, tmo := false, ended := false, len := fld w2 0 13,
          buf := (rowHalf mid true).toNat, w0 := w0 }
      if err ≠ 0 then .next (s.writeW4 row err 0) 1
      else
        match (if x.write then s.cpRows x.buf (ecc.drop 3) ((x.len + 7) / 8) else (s, none)) with
        | (s, some _) => .next (s.writeW4 row 4 0) 1
        | (s, none) =>
          let poll : Poll := { dev := x.dev, what := .cpx, limit := none, next := s.now + pollStep }
          let s := if x.dev = 0 then s.contEnd else s
          let s := State.cpBusy { s with cp := { s.cp with
            xfer := some x, polls := s.cp.polls ++ if x.poll then [poll] else [] } }
          .hold (s.setSq 16 { s.sq 16 with wait := .cpx row })

/-- CPX (R438). -/
def execCpx (w : BitVec 56) (mc : Option Micro) (ecc : List Ecc) (s : State) : Result :=
  .next (s.instr 16 0xC3 w mc [(52, 4), (0, 48)] [] (cpxBegin w ecc))

/-- Bytes as whole rows, the last one padded with zeros (R439). -/
def padRows (l : List Byte) : List Byte := l ++ List.replicate (roundUp 8 l.length - l.length) 0

/-- Stores read data from a buffer row on, one row after another. -/
def State.cpStore (s : State) (r : Nat) : List Byte → State
  | b0 :: b1 :: b2 :: b3 :: b4 :: b5 :: b6 :: b7 :: t =>
    (s.storeRow (r % rowCount) (b7 ++ b6 ++ b5 ++ b4 ++ b3 ++ b2 ++ b1 ++ b0)).cpStore (r + 1) t
  | _ => s

/-- The end of a transfer with its poll: read data is stored, W4 written, and a write to code 0 empties the prefetch buffer
(R434). A program or erase without POLL is polled after CPX has retired (R437). -/
def State.cpDone (s : State) (x : Xfer) (data : List Byte) (tmo : Bool) : State :=
  let s := if x.write then s
    else s.cpStore x.buf (padRows ((data ++ List.replicate (x.len - data.length) 0).take x.len))
  let s := s.writeW4 x.row (if tmo then 3 else 0) x.len
  let s := if x.write ∧ x.dev = 0 then { s with cp := { s.cp with lines := [], retry := [], want := none } } else s
  let s := if tmo ∧ !x.tmo then s.setRb Off.cpStat 28 true else s
  let past : List Poll := if x.write && !x.poll && decide (x.dev = 0)
    then [{ dev := 0, what := .past, limit := some (s.now + pollLimit), next := s.now + pollStep }] else []
  let polls := s.cp.polls.filter (fun p => decide (p.what ≠ .cpx)) ++ past
  let s := State.cpBusy { s with cp := { s.cp with xfer := none, polls := polls } }
  let q := s.sq 16
  let s := match q.wait with
    | .cpx row => if row = x.row then s.retire 16 (q.pc + 1) 1 else s
    | _ => s
  if s.safe && !s.flashBusy then s.haltSeq 16 else s

/-- The poll of the CPX that runs has taken 5 ms. -/
def State.cpxLate (s : State) : Bool := s.cp.polls.any fun p => decide (p.what = .cpx) && match p.limit with
  | some t => decide (t ≤ s.now)
  | none => false

/-- CP_TRANSFER_DONE (R439); `data` is what a read brought, and `pollTimeout` says that its poll found the device busy after 5 ms
(R437); before, no poll ends so. A read of code 0 waits while the card flash is busy (R436). -/
def execCpTransferDone (data : List Byte) (pollTimeout : Bool) (s : State) : Result :=
  .next (match s.cp.xfer with
    | some x =>
      if s.xferWaits x then s
      else if x.poll && !x.ended && pollTimeout && !s.cpxLate then s
      else if s.vmWait ||
          (!x.write && !s.slotsFor ((List.range ((x.len + 7) / 8)).map fun i => (x.buf + i) % rowCount)) then
        s.slotHold (.cpTransferDone data pollTimeout)
      else s.cpDone x data (x.tmo || (x.poll && !x.ended && pollTimeout))
    | none => s)

/-! ### Execution in place (R434 to R436) -/

/-- Index `32 × k` or a later one of line `k` lies in the code region, and the line is neither bad nor present. -/
def State.lineWanted (s : State) (k : Nat) : Bool :=
  (match s.cp.hdr with
    | some h => decide (h.cstart ≤ 32 * k + 31 ∧ 32 * k < h.cend)
    | none => false) && !s.cp.bad.contains k && (Tbl.find s.cp.lines k).isNone

/-- The CRC of a line (R432): over its 256 bytes. -/
def lineCrc (data : List Row) : Word :=
  crc32 (((data ++ List.replicate 32 0).take 32).flatMap fun w => (List.range 8).map (rowByte w))

/-- A fill of line `k` has been read, with its CRC entry, under the CP_XIP and CP_DEV[0] of the first read where the flash is in
continuous read: it is stored as the most recently used, or it is read once more, or it is bad. -/
def State.lineFill (s : State) (k : Nat) (data : List Row) (crc : Word) : State :=
  let s := if s.rb Off.cpStat 30 then s else { s with cp := { s.cp with xip := (s.rg Off.cpXip, s.rg (Off.cpDev 0)) } }
  let s := if flag s.cp.xip.1 15 then s.setRb Off.cpStat 30 true else s
  if lineCrc data = crc then
    let line := (data ++ List.replicate 32 0).take 32
    let s := { s with cp := { s.cp with
      lines := ((k, line) :: s.cp.lines.filter fun e => e.1 ≠ k).take 16
      retry := s.cp.retry.filter fun l => l ≠ k } }
    { s with cp := { s.cp with want := if s.lineWanted (k + 1) then some (k + 1) else none } }
  else
    let s := s.count Off.cpStat 0 8 1
    if s.cp.retry.contains k then
      State.setRb { s with cp := { s.cp with bad := insN k s.cp.bad, retry := s.cp.retry.filter (fun l => l ≠ k),
                                             want := if s.cp.want = some k then none else s.cp.want } } Off.cpStat 27 true
    else { s with cp := { s.cp with retry := k :: s.cp.retry } }

/-- SEQH stalls on a line that is absent: its fill waits for the port. -/
def State.fillWaits (s : State) : Bool :=
  s.atBoundary 16 && s.seqhReach (s.sq 16).pc && s.lineWanted ((s.sq 16).pc / 32)

/-- SEQH_LINE_FILL (R434). -/
def execSeqhLineFill (data : List Row) (crc : Word) (s : State) : Result :=
  .next (if s.cpFree && s.fillWaits then s.lineFill ((s.sq 16).pc / 32) data crc else s)

/-- A patch load may read the card flash (R436): no line fill goes before it. -/
def State.loadPort (s : State) : Bool := s.cpFree && !s.fillWaits
/-- A patch load reads the card flash. -/
def State.loadReads (s : State) : Bool := match s.mc.load with
  | some l => !l.mem
  | none => false
/-- A save may use the port (R436): no line fill and no patch load goes before it. -/
def State.savePort (s : State) : Bool := s.loadPort && !s.loadReads

/-- LINE_PREFETCH (R434): every other request goes before it (R436). -/
def execLinePrefetch (data : List Row) (crc : Word) (s : State) : Result :=
  .next (match s.cp.want with
    | some k => if s.savePort && s.cal.save.isNone && s.lineWanted k then s.lineFill k data crc else s
    | none => s)

/-! ### Saves and polls (R389, R437) -/

/-- The next erase or page program of a save begins when the port is its own; continuous read ends before it (R435). -/
def State.saveGo (s : State) : State := match s.cal.save with
  | some v =>
    if 0 < v.left ∧ !v.busy ∧ s.savePort then
      let s := { s.contEnd with cal := { s.cal with save := some { v with busy := true } } }
      State.cpBusy { s with cp := { s.cp with
        polls := s.cp.polls ++ [{ dev := 0, what := .save, limit := none, next := s.now + pollStep }] } }
    else s
  | none => s

/-- A save ends without success (R389): SFAIL and an F0 notice. -/
def State.saveFail (s : State) : State :=
  let s := State.setRb { s with cal := { s.cal with save := none } } Off.calStat 26 false
  (s.setRb Off.calStat 24 true).noticeAt Off.calStat

/-- A poll ends: the operation of its transfer or save is over. In safe state SEQH then halts (R325). -/
def State.pollEnd (s : State) (p : Poll) : State :=
  let s := State.cpBusy { s with cp := { s.cp with
    polls := s.cp.polls.erase p
    xfer := if p.what = .cpx then s.cp.xfer.map fun x => { x with ended := true } else s.cp.xfer } }
  let s := if p.what = .save then { s with cal := { s.cal with
      save := s.cal.save.map fun v => { v with left := v.left - 1, busy := false } } } else s
  if s.safe && !s.flashBusy then s.haltSeq 16 else s

/-- A poll ends without the device being ready: the operation has failed. -/
def State.pollTimeout (s : State) (p : Poll) : State :=
  let s := s.setRb Off.cpStat 28 true
  let s := if p.what = .cpx then { s with cp := { s.cp with xfer := s.cp.xfer.map fun x => { x with tmo := true } } } else s
  let s := s.pollEnd p
  if p.what = .save && s.cal.save.isSome then s.saveFail else s

/-- The poll that runs next: the one that has been due longest. -/
def State.pollDue (s : State) : Option Poll :=
  (s.cp.polls.filter fun p => decide (p.next ≤ s.now)).foldl
    (fun m p => match m with
      | some q => if p.next < q.next then some p else some q
      | none => some p) none

/-- FLASH_POLL (R437): a poll, every 10 µs, finds the device busy or ready. The first poll comes one interval after the operation
began. -/
def execFlashPoll (busy : Bool) (s : State) : Result :=
  .next (match s.pollDue with
    | some p =>
      let limit := p.limit.getD (s.now - pollStep + pollLimit)
      if !busy then s.pollEnd p
      else if limit ≤ s.now then s.pollTimeout p
      else { s with cp := { s.cp with polls := s.cp.polls.map fun q =>
        if q = p then { p with limit := some limit, next := s.now + pollStep } else q } }
    | none => s)

/-! ### Registers -/

/-- Parties that may write CP_DEV[0], CP_XIP and CP_FLASH (R459). -/
def cpWriter (p : Party) : Bool := decide (p = .pf1) || decide (p = .sp)
/-- A discarded write. -/
def State.cpReject (s : State) : State := s.setRb Off.cpStat 26 true

/-- A write of CP_DEV[d] (R428): DIV below 39 is stored as 39. -/
def State.cpDevWrite (s : State) (p : Party) (d : Nat) (v : Word) : State :=
  if d = 0 ∧ !cpWriter p then s.cpReject
  else s.setRg (Off.cpDev d) (setFld (setFld 0 16 10 (max 39 (fld v 16 10))) 8 4 (fld v 8 4))
/-- A write of CP_XIP (R435): with CONT, DMY holds at least the 8 bits of the mode byte. -/
def State.cpXipWrite (s : State) (p : Party) (v : Word) : State :=
  if !cpWriter p ∨ (flag v 15 ∧ fld v 0 5 < 8 / 2 ^ fld v 8 2) then s.cpReject
  else s.setRg Off.cpXip (v &&& 0xFFFFFFDF)
/-- A write of CP_FLASH. -/
def State.cpFlashWrite (s : State) (p : Party) (v : Word) : State :=
  if cpWriter p then s.setRg Off.cpFlash v else s.cpReject

end Sys2Proof.Machine
end

