-- ==== Sys2Proof/Machine/Issue.lean ====
section
/-!
DEFINITION. The issue of vectors into the FIFO (R72 to R75, R77 to R79, R94, R130 to R134, R140 to R145): VEC, VECR and
MLOOP as jobs that issue up to four vectors per CCLK, the vector cache's locks, poisoned and never-written rows, stalls
and underruns; TSET and SITEM.
-/
namespace Sys2Proof.Machine

open Sys2Proof

/-! ### Settings of a steep and pin time (R49, R193, R194) -/

/-- A setting as steep `n` has it: the steep in progress, else the one before (R49). -/
def State.apAt (s : State) (n : BitVec 64) (off : Nat) : Word :=
  if n = s.steep.num then s.ap off else tblGet resetPf0 s.appPrev off

/-- A value stretched by a code (R193). -/
def stretched (v code : Nat) : Nat := v * (1024 + code) / 1024

/-- Stretch code of cluster `c` in steep `n`. -/
def State.codeAt (s : State) (c : Nat) (n : BitVec 64) : Nat := fld (s.apAt n (Off.clStretch c)) 0 16

/-- Period in half picoseconds of timing set `t` of cluster `c` in steep `n`, before the limit of R194. -/
def State.periodRaw (s : State) (c t : Nat) (n : BitVec 64) : Nat :=
  let w := s.apAt n (Off.tsPeriod c t)
  stretched (2 * fld w 0 24 + (if flag w 31 then 1 else 0)) (s.codeAt c n)

/-- Longest period, 16,777,215.5 ps. -/
def periodMax : Nat := 33554431

/-- P' in half picoseconds (R193, R194). -/
def State.period (s : State) (c t : Nat) (n : BitVec 64) : Nat := min periodMax (s.periodRaw c t n)

/-- Pin time of the vectors queued in the FIFO of cluster `c`, with the rest of the one in progress (R44). -/
def State.queuedH (s : State) (c : Nat) : Nat :=
  let u := s.cl c
  u.fifo.foldl (fun n e => match e.kind with
    | .vec v => n + s.period c v.tset.toNat v.steep
    | _ => n)
    (match u.cur with
      | some (_, _, e) => e - s.nowH
      | none => 0)

/-- The FIFO of cluster `c` holds no vector, at the pins or before them (R75). -/
def State.fifoEmpty (s : State) (c : Nat) : Bool :=
  let u := s.cl c
  !(u.fifo.any fun e => match e.kind with
    | .vec _ => true
    | _ => false) &&
    (match u.cur with
    | some (_, _, e) => decide (e < (s.now + 1) * hps)
    | none => true)

/-- Puts an entry that takes no pin time into the FIFO (R96); the instruction's last cycle is `cost` − 1 CCLK from now. -/
def State.pushEntry (s : State) (c : Nat) (k : EKind) (cost : Nat) : State :=
  let u := s.cl c
  s.setCl c { u with fifo := u.fifo ++
    [{ kind := k, steep := s.steep.num, issued := s.now + cost - 1 }] }

/-! ### The vector cache's locks (R131) -/

/-- The loop for which a line read now is locked: the outermost loop in its first pass, else an MLOOP in its first. -/
def SeqSt.lockOwner (q : SeqSt) : Option Nat :=
  match (q.loops.filter (· < 8)).getLast? with
  | some k => some k
  | none => match q.wait with
    | .issue j => match j.ml with
      | some m => if m.pass = 1 then some 8 else none
      | none => none
    | _ => none

/-- Shows the locked lines in CL_VCSTAT. -/
def State.showLocks (s : State) (c : Nat) : State := s.setRf (Off.clVcstat c) 16 10 (s.sq c).locked.length

/-- The line of row `r` is locked. -/
def SeqSt.lineLocked (q : SeqSt) (r : Nat) : Bool := q.locked.any fun e => e.1 = r / 8

/-- Locks the line of row `r`, up to 512 lines, with the row just read, which was poisoned or not. -/
def State.lockLine (s : State) (c r : Nat) (bad : Bool) : State :=
  let q := s.sq c
  let rows := tblPut r bad q.lockRows
  if q.lineLocked r then s.setSq c { q with lockRows := rows }
  else match q.lockOwner with
  | none => s
  | some o =>
    if q.locked.length < 512 then
      (s.setSq c { q with locked := q.locked ++ [(r / 8, o)], lockRows := rows }).showLocks c
    else s.setRb (Off.clVcstat c) 31 true

/-- Loop `o` exits: its lines are released, and with the last loop the overflow ends. -/
def State.unlockLoop (s : State) (c o : Nat) : State :=
  let q := s.sq c
  let loops := q.loops.filter fun k => k % 8 ≠ o
  let locked := q.locked.filter fun e => e.2 ≠ o
  let rows := q.lockRows.filter fun e => locked.any fun l => l.1 = e.1 / 8
  let s := (s.setSq c { q with loops := loops, locked := locked, lockRows := rows }).showLocks c
  if loops.isEmpty then s.setRb (Off.clVcstat c) 31 false else s

/-! ### Rows (R73, R74, R133, R134, R140) -/

/-- What stands in the next row: its data, whether it is poisoned, whether it was never written. -/
structure Fetch where
  row   : Row
  hold  : Bool
  zeros : Bool
  deriving DecidableEq, Repr

/-- A job that has read its one row (R74). -/
def Job.read (j : Job) (f : Fetch) : Job :=
  if j.once then { j with src := .one f.row, hold := f.hold, zeros := f.zeros } else j

/-- A read of the vector cache or streaming buffer of cluster `c`, of which the checker reports `e` (R130, R341), and whether its
line is refetched: an uncorrectable error now, or a word that the strainer has found bad. -/
def State.cacheRead (s : State) (c : Nat) (e : Ecc) : State × Bool :=
  let u := s.cl c
  let i := (Config.cacheWord s.freeCtr).val
  let again (s : State) (i : Nat) : State × Bool := (State.fresh ((s.uncorrected (16 + c) i).count (Off.clVcstat c) 0 16 1), true)
  match u.vcLost with
  | w :: t =>
    if Config.cacheMeet s.freeCtr then again (s.setCl c { u with vcLost := t }) w
    else if e = .uncorrectable then again s i
    else if e = .corrected then ((s.corrected (16 + c) i).fresh, false)
    else (s.fresh, false)
  | [] =>
    if e = .uncorrectable then again s i
    else if e = .corrected then ((s.corrected (16 + c) i).fresh, false)
    else (s, false)

/-- The next row of a job, or none where it has not arrived; each row takes the next report of the checkers. A row that a locked
line holds is not read again (R131), though a write updates it (R132), but where an error makes the part refetch its line
(R130). A pot's row must be published and have arrived (R140). -/
def State.nextRow (s : State) (c : Nat) (j : Job) : State × Option (Fetch × Job) :=
  match j.src with
  | .one row => (s, some ({ row := row, hold := j.hold, zeros := j.zeros }, j))
  | .mem base stride =>
    let r := (base + j.k * stride) % rowCount
    let a := j.avail.headD ⟨.ok, .ok⟩
    match Tbl.find (s.sq c).lockRows r with
    | some bad =>
      let (s, again) := s.cacheRead c a.cache
      let d := s.rowRead r (if again then a.mem else .ok)
      let s := if again then (s.rowSeen r a.mem).setSq c { s.sq c with lockRows := tblPut r d.ue (s.sq c).lockRows } else s
      let f : Fetch := { row := d.data, hold := d.ue && (bad || again), zeros := d.notInit }
      (s, some (f, Job.read { j with avail := j.avail.tail } f))
    | none =>
      if !(s.sq c).lineLocked r && j.avail.isEmpty then (s, none)
      else
        let d := s.rowRead r a.mem
        let f : Fetch := { row := d.data, hold := d.ue, zeros := d.notInit }
        let s := ((s.rowSeen r a.mem).cacheRead c a.cache).1
        (s.lockLine c r d.ue, some (f, Job.read { j with avail := j.avail.tail } f))
  | .pot p =>
    if s.potLevel p = 0 ∨ j.avail.isEmpty then (s, none)
    else
      let a := j.avail.headD ⟨.ok, .ok⟩
      let r := s.potRow p
      let d := s.rowRead r a.mem
      let f : Fetch := { row := s.potData r d.data, hold := d.ue, zeros := d.notInit }
      let s := ((s.rowSeen r a.mem).cacheRead c a.cache).1
      ((s.potSeen r).potAdvance p, some (f, Job.read { j with avail := j.avail.tail } f))

/-- A background measurement of the cluster is abandoned: the switch of a channel that is not parked closes (R386). -/
def State.bgAbandon (s : State) (c : Nat) : State :=
  let u := s.cl c
  match u.bg with
  | none => s
  | some (i, _, _) =>
    let s := s.setCl c { u with bg := none }
    if s.parkedCh (32 * c + i) then s else s.setRb (Off.chStat c i) 30 false

/-- A hold vector goes in the place of a poisoned row (R133). -/
def State.poisonNote (s : State) (c : Nat) (num : Nat) : State :=
  let o := Off.clPoison c
  let s := if s.rf o 24 8 = 0 then s.setRf o 0 24 num else s
  ((s.count o 24 8 1).flagCl c s.steep.num fPoison).noticeCl c o

/-- Puts a vector into the FIFO with what it carries (R73, R75), and counts it in SEQ_VCNT. -/
def State.pushVec (s : State) (c : Nat) (f : Fetch) (pass : Nat) (last : Bool) : State :=
  let s := s.bgAbandon c
  let q := s.sq c
  let s := if f.hold then s.poisonNote c q.vcnt.toNat else s
  let s := if f.zeros then s.flagCl c s.steep.num fNotinit else s
  let v : Vec :=
    { row := f.row, hold := f.hold, tset := q.tset, steep := s.steep.num, num := q.vcnt.toNat, vmask := q.vUse,
      cmask := q.cUse, masked := 0, issued := s.now, pass := pass, last := last }
  let s := s.pushEntry c (.vec v) 1
  (s.setCl c { s.cl c with idle := false }).setSq c
    { s.sq c with vcnt := if q.vcnt = BitVec.allOnes 32 then q.vcnt else q.vcnt + 1 }

/-! ### Match loops (R94) -/

/-- The pass number of vectors whose MLOOP has ended: their compares are ignored. -/
def passDead : Nat := 0x100000000

/-- The vectors of an MLOOP that has ended, still on their way, count for nothing. -/
def State.passKill (s : State) (c : Nat) : State :=
  let u := s.cl c
  let dead (v : Vec) : Vec := if v.pass = 0 then v else { v with pass := passDead, last := false }
  s.setCl c { u with
    fifo := u.fifo.map fun e => match e.kind with
      | .vec v => { e with kind := .vec (dead v) }
      | _ => e
    cur := u.cur.map fun x => (dead x.1, x.2)
    strobes := u.strobes.map fun x => if x.pass = 0 then x else { x with pass := passDead } }

/-- MLOOP ends: its locks end and the next instruction follows. -/
def State.mlEnd (s : State) (c : Nat) : State :=
  let s := s.passKill c
  let s := s.setSq c (s.sq c).mlZero
  (s.unlockLoop c 8).retire c ((s.sq c).pc + 1) 1

/-- Writes the job of sequencer `c`. -/
def State.setJob (s : State) (c : Nat) (j : Job) : State := s.setSq c { s.sq c with wait := .issue j }

/-- The next pass begins once the pass before the last has resolved. -/
def State.passTick (s : State) (c : Nat) : State :=
  match (s.sq c).wait with
  | .issue j =>
    match j.ml with
    | some m =>
      if j.left = 0 ∧ !m.hit ∧ m.pass < m.limit ∧ m.pass ≤ m.done + 1
      then s.setJob c { j with k := 0, left := m.cnt, ml := some { m with pass := m.pass + 1 } }
      else s
    | none => s
  | _ => s

/-! ### Issue (R75, R85, R121) -/

/-- The last vector of a run or pass has entered the FIFO. -/
def State.jobLast (s : State) (c : Nat) (j : Job) : State :=
  match j.ml with
  | none => s.retire c ((s.sq c).pc + 1) 2
  | some m =>
    if m.hit then s.mlEnd c else s.setSq c { s.sq c with wait := .issue j, readyAt := s.now + 2 }

/-- Issues one vector, or stalls for want of its row (R140). -/
def State.issueOne (s : State) (c : Nat) (j : Job) : State :=
  match s.nextRow c j with
  | (s, none) => s.setJob c { j with stalled := true }
  | (s, some (f, j)) =>
    let pass := (j.ml.map (·.pass)).getD 0
    let s := s.pushVec c f pass (j.ml.isSome && decide (j.left = 1))
    let j := { j with k := j.k + 1, left := j.left - 1 }
    if j.left = 0 then s.jobLast c j else s.setJob c j

/-- Issues up to `n` vectors under the run-ahead limit (R44). -/
def State.issueLoop (s : State) (c : Nat) : Nat → State
  | 0 => s
  | n + 1 =>
    match (s.sq c).wait with
    | .issue j =>
      if j.left = 0 ∨ j.stalled ∨ s.rf Off.steepStat 0 14 * hps < s.queuedH c then s
      else (s.issueOne c j).issueLoop c n
    | _ => s

/-- The issue of sequencer `c` in the present CCLK: up to four vectors (R75). -/
def State.issueTick (s : State) (c : Nat) : State :=
  let q := s.sq c
  if q.mode = .running ∧ q.readyAt ≤ s.now then (s.passTick c).issueLoop c 4 else s

/-! ### VEC and VECR (R72 to R74) -/

/-- First row of the descriptor region among `n` rows from `base` in steps of `step`, in issue order. -/
def firstDesc (base step n : Nat) : Option Nat :=
  if inDesc base then some base
  else
    let k := (descRow - base + (step - 1)) / step
    let r := base + k * step
    if k < n ∧ r < rowCount then some r else none

/-- Pot `p` is configured for cluster `c`. -/
def State.potFor (s : State) (c p : Nat) : Bool :=
  decide (p < 64) && s.potEn p && decide (s.potOwner p = (false, c))

/-- A VSRC condition (R72). -/
def State.vsrcBad (s : State) (c : Nat) (w : BitVec 56) (single : Bool) : Bool :=
  let src := ifld w 48 2
  decide (src = 3) || (decide (src = 2) && (!single || decide (fD w % 2 = 1))) ||
    (decide (src = 1) && !s.potFor c (ifld w 0 8))

/-- Reserved bits by SRC (R72, R74). -/
def vecRsv (w : BitVec 56) (single : Bool) : List (Nat × Nat) :=
  match ifld w 48 2 with
  | 1 => [(50, 2), (8, 24)]
  | 2 => [(50, 2), (0, 32)]
  | _ => if single then [(50, 1)] else []

/-- First row of a run from vector memory. -/
def State.runBase (s : State) (c : Nat) (w : BitVec 56) : Nat :=
  (if w.getLsbD 51 then fImm w + (s.sq c).gr (fD w) else fImm w).toNat

/-- VEC and VECR begin: VSRC, then reserved fields, then VPROT; else the job waits for its setup to end. TRAP_INFO of a VSRC whose SRC
names no pot has 0 in [15:8] (DESIGN CHOICE, log 88: R120 does not say). -/
def vecBegin (single : Bool) (c : Nat) (w : BitVec 56) (avail : List Arrive) (s : State) : Flow :=
  let src := ifld w 48 2
  let n := ifld w 32 16 + 1
  let q := s.sq c
  let job (v : VSrc) : Job :=
    { src := v, k := 0, left := n, hold := false, zeros := false, avail := avail, stalled := false, once := single,
      ml := none }
  let start (v : VSrc) (setup : Nat) : Flow :=
    .hold (s.setSq c { q with wait := .issue (job v), readyAt := s.now + setup })
  if s.vsrcBad c w single then .trap 0x04 (if src = 1 then 1 + 256 * ifld w 0 8 else src)
  else match offBit w (vecRsv w single) [] with
    | some i => .trap 0x02 i
    | none =>
      if src = 0 then
        let base := s.runBase c w
        let step := if w.getLsbD 50 then 16 else 1
        match firstDesc base step (if single then 1 else n) with
        | some r => .trap 0x05 r
        | none => start (.mem base step) 2
      else if src = 1 then start (.pot (ifld w 0 8)) 2
      else start (.one (q.gr (fD w + 1) ++ q.gr (fD w))) 1

/-- VEC (R73). -/
def execVec (x : Sq) (w : BitVec 56) (mc : Option Micro) (avail : List Arrive) (s : State) : Result :=
  .next (s.instr x 0x10 w mc [] [] (vecBegin false x w avail))
/-- VECR (R74). -/
def execVecr (x : Sq) (w : BitVec 56) (mc : Option Micro) (avail : List Arrive) (s : State) : Result :=
  .next (s.instr x 0x11 w mc [] [] (vecBegin true x w avail))

/-! ### MLOOP -/

/-- MLOOP begins (R94): VPROT for a row of its block, else the first pass. -/
def mloopBegin (c : Nat) (w : BitVec 56) (avail : List Arrive) (s : State) : Flow :=
  let q := s.sq c
  let gt := fB w
  let limit := (q.gr gt).toNat
  let n := ifld w 32 12 + 1
  let base := s.runBase c w
  match firstDesc base 1 n with
  | some r => .trap 0x05 r
  | none =>
    let q := { q with mtch := false }
    if limit = 0 then .next (s.setSq c q) 3
    else
      let m : MLoop :=
        { gt := gt, limit := limit, base := base, cnt := n, pass := 1, done := 0, failed := [], ended := [], hit := false }
      .hold (s.setSq c { q with
        wait := .issue { src := .mem base 1, k := 0, left := n, hold := false, zeros := false, avail := avail,
                         stalled := false, once := false, ml := some m }
        readyAt := s.now + 2 })

/-- MLOOP (R94). -/
def execMloop (x : Sq) (w : BitVec 56) (mc : Option Micro) (avail : List Arrive) (s : State) : Result :=
  .next (s.instr x 0x5A w mc [(48, 3)] [] (mloopBegin x w avail))

/-- The oldest unresolved pass resolves, 64 CCLK after its last vector left the pins. -/
def State.passResolve (s : State) (c : Nat) (avail : List Arrive) : State :=
  let q := s.sq c
  match q.wait with
  | .issue j =>
    match j.ml with
    | some m =>
      match m.ended with
      | e :: rest =>
        if s.now < e + 64 then s
        else
          let p := m.done + 1
          let m := { m with done := p, ended := rest }
          if m.failed.contains p then
            if p = m.limit then s.mlEnd c else s.setJob c { j with avail := avail, ml := some m }
          else
            let s := s.setSq c { q.setG m.gt (BitVec.ofNat 32 p) with mtch := true }
            if j.left = 0 ∨ j.k = 0 then s.mlEnd c else s.setJob c { j with ml := some { m with hit := true } }
      | [] => s
    | none => s
  | _ => s

/-- MLOOP_PASS_RESOLVE (R94). -/
def execMloopPassResolve (c : Cl) (avail : List Arrive) (s : State) : Result := .next (s.passResolve c avail)

/-! ### Stall and underrun (R140 to R143) -/

/-- A stall ends: its row has arrived. -/
def State.stallEnd (s : State) (c : Nat) (avail : List Arrive) : State :=
  match (s.sq c).wait with
  | .issue j =>
    let here := !avail.isEmpty && match j.src with
      | .pot p => decide (0 < s.potLevel p)
      | _ => true
    if j.stalled && here then s.setJob c { j with stalled := false, avail := avail } else s
  | _ => s

/-- An underrun begins (R142): counters, flags, the notice and the event. -/
def State.underrunNote (s : State) (c : Nat) (pot : Option Nat) : State :=
  let o := Off.clUnderrunStat c
  let s := if s.rf o 24 8 = 0 then s.setRf o 0 24 (s.sq c).vcnt.toNat else s
  let s := s.count o 24 8 1
  let s := match pot with
    | some p => s.potUnderrun p
    | none => s
  ((s.flagCl c s.steep.num fUnderrun).noticeCl c o).fire (evCluster c 0)

/-- Under ABORT the instruction ends and the sequencer yields; the gap lasts one CCLK (R143). -/
def State.underrunAbort (s : State) (c : Nat) : State :=
  let q := s.sq c
  let s := (s.passKill c).setSq c { q.mlZero with wait := .none, mode := .yielded, abort := true }
  let s := s.unlockLoop c 8
  let s := (s.count (Off.clUnderrunGap c) 0 32 1).pieceGap c s.tstamp (s.tstamp + 4)
  if q.stopReq then s.haltSeq c else s

/-- The start of an underrun: the pins are idle and the sequencer stalls. -/
def State.underrun (s : State) (c : Nat) : State :=
  match (s.sq c).wait with
  | .issue j =>
    let u := s.cl c
    if j.stalled && u.idle && u.gapAt.isNone then
      let s := s.underrunNote c (match j.src with
        | .pot p => some p
        | _ => none)
      if flag (s.ap (Off.clUnderrunCtl c)) 16 then s.underrunAbort c
      else s.setCl c { s.cl c with gapAt := some s.now }
    else s
  | _ => s

/-- VECTOR_STALL_END (R140). -/
def execVectorStallEnd (c : Cl) (avail : List Arrive) (s : State) : Result := .next (s.stallEnd c avail)
/-- UNDERRUN_START (R141). -/
def execUnderrunStart (c : Cl) (s : State) : Result := .next (s.underrun c)

/-! ### TSET and SITEM (R77 to R79) -/

/-- TSET (R77). -/
def execTset (x : Sq) (w : BitVec 56) (mc : Option Micro) (s : State) : Result :=
  .next (s.instr x 0x12 w mc ((8, 43) :: if w.getLsbD 51 then [(0, 8)] else []) [] fun s =>
    let q := s.sq x
    .next (s.setSq x { q with
      tset := if w.getLsbD 51 then (q.gr (fD w)).setWidth 8 else BitVec.ofNat 8 (ifld w 0 8) }) 1)

/-- Operand of SITEM. -/
def SeqSt.siteOperand (q : SeqSt) (w : BitVec 56) : BitVec 128 :=
  match fA w with
  | 0 => q.quad (ifld w 0 2)
  | 1 => q.siteFail
  | 2 => maskOf 128 [ifld w 0 7]
  | _ => BitVec.allOnes 128

/-- A mask after the operation MOP. -/
def maskOp (mop : Nat) (m v : BitVec 128) : BitVec 128 :=
  match mop with
  | 0 => v
  | 1 => m ||| v
  | 2 => m &&& v
  | _ => m &&& ~~~v

/-- Reserved bits of SITEM by OSRC (R78). -/
def sitemRsv (w : BitVec 56) : List (Nat × Nat) :=
  (8, 40) :: (match fA w with
    | 0 => [(2, 6)]
    | 2 => [(7, 1)]
    | _ => [(0, 8)])

/-- Reserved values of SITEM: MSEL 0b00, OSRC from 4 on. -/
def sitemVals (w : BitVec 56) : List Nat :=
  (if ifld w 54 2 = 0 then [54] else []) ++ if 4 ≤ fA w then [48] else []

/-- The effect of SITEM: the masks, ZERO and CARRY, and the point from which vectors carry them (R47, R79). -/
def State.sitem (s : State) (x : Nat) (w : BitVec 56) : State :=
  let q := s.sq x
  let v := q.siteOperand w
  let mop := ifld w 52 2
  let vm := if w.getLsbD 54 then maskOp mop q.vmask v else q.vmask
  let cm := if w.getLsbD 55 then maskOp mop q.cmask v else q.cmask
  let here := maskOf 128 (s.clSites x)
  let zero := (!w.getLsbD 54 || decide (vm &&& here = 0)) && (!w.getLsbD 55 || decide (cm &&& here = 0))
  let q := { q with vmask := vm, cmask := cm, zero := zero, carry := false }
  s.setSq x (match s.steep.ended.getLast? with
    | none => s.useMasks q vm cm
    | some (n, _) => { q with due := q.due ++ [(n, vm, cm)] })

/-- SITEM (R78). -/
def execSitem (x : Sq) (w : BitVec 56) (mc : Option Micro) (s : State) : Result :=
  .next (s.instr x 0x18 w mc (sitemRsv w) (sitemVals w) fun s => .next (s.sitem x w) 2)

end Sys2Proof.Machine
end

