-- ==== Sys2Proof/Machine/Site.lean ====
section
/-!
DEFINITION. The site domain table and cluster park (R14 to R22, R28, R32, R155, R156): the site map, a site's enable,
disable and unfence, and the park and unpark of a cluster.
-/
namespace Sys2Proof.Machine

open Sys2Proof

/-- A rejected site map write (R14, R18). -/
def State.mapReject (s : State) : State := (s.count Off.mapStat 0 16 1).noticeAt Off.mapStat

/-- The cluster holds an uncleared F2, or is out of service (R26, R322). -/
def State.clF2 (s : State) (c : Nat) : Bool := (s.f2Find c).isSome || s.bistDead c

/-- POWERED follows a change of the supply group of site `k` (R12): the site gains an OFF rail, or loses its last one. -/
def State.powerCheck (s : State) (k : Nat) : State :=
  let rails := s.siteRails k
  let up := !rails.isEmpty && rails.all fun r => decide (s.railState r = railUpSt)
  if up && !s.powered k then ((s.setPst k 2).setRb (Off.siteStat k) 28 true).fire (evPowered k)
  else if !up && s.powered k then (s.setPst k (if rails.isEmpty then 0 else 1)).powerEnd k
  else s

/-- A write of CHSITE[n] (R14, R15): the warden's copy follows an accepted one (R313). -/
def State.chsiteWrite (s : State) (n : Nat) (v : Word) : State :=
  let c := clusterOf n
  if s.parkReq c && s.clParked c && !s.clF2 c then
    let w := v &&& 0x8000037F
    let s := (s.regNote (Off.chsite n)).setRg (Off.chsite n) w
    State.gatesCheck { s with ward := { s.ward with chCopy := Tbl.set 0 s.ward.chCopy n w } }
  else s.mapReject

/-- A write of RAILSITE[r] (R14, R16). -/
def State.railsiteWrite (s : State) (r : Nat) (v : Word) : State :=
  if s.railState r = railOffSt then
    let w := v &&& 0x8000077F
    let old := s.railSite r
    let s := (s.regNote (Off.railsite r)).setRg (Off.railsite r) w
    let s := { s with ward := { s.ward with railCopy := Tbl.set 0 s.ward.railCopy r w } }
    let s := match old with
      | some k => s.powerCheck k
      | none => s
    let s := match s.railSite r with
      | some k => s.powerCheck k
      | none => s
    s.gatesCheck
  else s.mapReject

/-- A write of AUXSITE[a] (R14, R17): the whole register is reserved for AUX0 to AUX3. -/
def State.auxsiteWrite (s : State) (a : Nat) (v : Word) : State :=
  if a < 4 then s
  else if !s.rb (Off.auxCfg a) 31 && decide (Tbl.get 0 s.auxOut a = 0) then
    ((s.regNote (Off.auxsite a)).setRg (Off.auxsite a) (v &&& 0x8000007F)).auxHoldSite a
  else s.mapReject

/-- The shutdown of site `k` runs: its rail discharge has not completed (R32). -/
def State.siteFalling (s : State) (k : Nat) : Bool := (s.st k).down

/-- EN of site `k` from 0 to 1 (R19, R31, R32). -/
def State.siteEnable (s : State) (k : Nat) : State :=
  let u := s.st k
  if s.siteFalling k then (s.setSt k { u with heldEn := true }).enpend k
  else if s.enabled k ∨ u.fencedAt = some s.now then s
  else ((s.setRb (Off.siteCtl k) 31 true).setSt k { u with enAt := some (s.now, false) }).auxSiteFree k

/-- EN of site `k` from 1 to 0 (R19, R28, R295): channels parked, no records, normal ramp-down, aux outputs at mid-scale. It
is not applied in the CCLK of the site's fence (R31). -/
def State.siteDisable (s : State) (k : Nat) : State :=
  let s := (s.setSt k { s.st k with heldEn := false }).enpend k
  if s.enabled k ∧ (s.st k).fencedAt ≠ some s.now then
    let s := (s.setRb (Off.siteCtl k) 31 false).setSt k { s.st k with enAt := some (s.now, true) }
    let s := s.each (List.range 16) fun c s => s.dropPieces c k
    let s := s.each (s.siteChans k) fun n s => s.parkChan n
    (s.rampDown k true).auxSiteHold k
  else s

/-- A write of SITE_CTL[k] (R19): FAILACT 0b11 is stored as 0b10. -/
def State.siteCtlWrite (s : State) (k : Nat) (v : Word) : State :=
  let s := s.setRf (Off.siteCtl k) 0 2 (if fld v 0 2 = 3 then 2 else fld v 0 2)
  if flag v 31 then s.siteEnable k else s.siteDisable k

/-- A write of SITE_STAT[k]: a 1 to FENCED requests the unfence (R20, R32). The fence of the same CCLK prevails (R31). -/
def State.siteStatWrite (s : State) (k : Nat) (v : Word) : State :=
  if !flag v 31 ∨ !s.fenced k ∨ (s.st k).fencedAt = some s.now then s
  else if s.siteFalling k then (s.setSt k { s.st k with heldUnf := true }).enpend k
  else (s.setRb (Off.siteStat k) 31 false).auxSiteFree k

/-- CHSITE_WRITE (R14). -/
def execChsiteWrite (p : Party) (n : Chan) (v : Word) (s : State) : Result :=
  .next (s.gateWrite p .pf0 (Off.chsite n) v fun s => s.chsiteWrite n v)
/-- RAILSITE_WRITE (R14). -/
def execRailsiteWrite (p : Party) (r : Rail) (v : Word) (s : State) : Result :=
  .next (s.gateWrite p .pf0 (Off.railsite r) v fun s => s.railsiteWrite r v)
/-- AUXSITE_WRITE (R14). -/
def execAuxsiteWrite (p : Party) (a : Fin 16) (v : Word) (s : State) : Result :=
  .next (s.gateWrite p .pf0 (Off.auxsite a) v fun s => s.auxsiteWrite a v)
/-- SITE_ENABLE (R32): a write of SITE_CTL[k]. -/
def execSiteEnable (p : Party) (k : Site) (v : Word) (s : State) : Result :=
  .next (s.gateWrite p .pf0 (Off.siteCtl k) v fun s => s.siteCtlWrite k v)
/-- SITE_DISABLE (R19): a write of SITE_CTL[k]. -/
def execSiteDisable (p : Party) (k : Site) (v : Word) (s : State) : Result :=
  .next (s.gateWrite p .pf0 (Off.siteCtl k) v fun s => s.siteCtlWrite k v)
/-- SITE_UNFENCE (R32): a write of SITE_STAT[k]. -/
def execSiteUnfence (p : Party) (k : Site) (v : Word) (s : State) : Result :=
  .next (s.gateWrite p .pf0 (Off.siteStat k) v fun s => s.siteStatWrite k v)

/-! ### Cluster park (R155, R156) -/

/-- A write of 1 to PARK. -/
def State.clPark (s : State) (c : Nat) : State :=
  if s.parkReq c then s
  else
    let s := s.setRb (Off.clPark c) 30 false
    if s.clParked c ∨ (s.cl c).parking then s.setRb (Off.clPark c) 0 true else (s.parkStop c).parkRest c 6

/-- A write of 0 to PARK: discarded under an uncleared F2; ENPEND while parking runs. TICK unparks. -/
def State.clUnpark (s : State) (c : Nat) : State :=
  if s.clF2 c ∨ !s.parkReq c then s
  else
    let s := s.setRb (Off.clPark c) 0 false
    if s.clParked c then s else s.setRb (Off.clPark c) 30 true

/-- A write of CL_PARK (R155 to R157). -/
def State.clParkWrite (s : State) (c : Nat) (v : Word) : State :=
  let s := s.w1c .pf0 (Off.clPark c) 0x4 v
  let s := s.setRb (Off.clPark c) 1 (flag v 1)
  if flag v 0 then s.clPark c else s.clUnpark c

/-- Every channel of the cluster has parked: PARKED sets, and the fence of an F2 on the cluster is complete. -/
def State.parkComplete (s : State) (c : Nat) : State :=
  if (s.cl c).parking then
    let s := ((s.setCl c { s.cl c with parking := false }).setRb (Off.clPark c) 31 true).f2Done c true
    [c, 16 + c, 32 + c, 48 + c, 64 + c, 84 + c].foldl (fun s m => s.f2Done (0x8000 + m) true) s
  else s

/-- CLUSTER_PARK (R155). -/
def execClusterPark (p : Party) (c : Cl) (v : Word) (s : State) : Result :=
  .next (s.gateWrite p .pf0 (Off.clPark c) v fun s => s.clParkWrite c v)
/-- CLUSTER_UNPARK (R156). -/
def execClusterUnpark (p : Party) (c : Cl) (v : Word) (s : State) : Result :=
  .next (s.gateWrite p .pf0 (Off.clPark c) v fun s => s.clParkWrite c v)
/-- PARK_COMPLETE (R155). -/
def execParkComplete (c : Cl) (s : State) : Result := .next (s.parkComplete c)

end Sys2Proof.Machine
end

