-- ==== Sys2Proof/Machine/Vector.lean ====
section
/-!
DEFINITION. Vectors at the pins (R66 to R71, R75, R99, R158 to R166, R188 to R194, R198, R205 to R217, R224, R362, R447,
R448): start times, applied states, the driver's steps, strobes and fail actions, and the capture of vectors.
-/
namespace Sys2Proof.Machine

open Sys2Proof

/-! ### Time at the pins (R75, R188, R189) -/

/-- Start of the vector at the head of the FIFO, and whether it begins a chain. -/
def State.vecStart (s : State) (c : Nat) (v : Vec) : Nat × Bool :=
  let last := (s.cl c).lastEnd
  let due := (v.issued + 48) * hps
  if due ≤ last then (last, false) else (max due (roundUp tclkHps last), true)

/-! ### The end of the vector in progress -/

/-- The last vector of an MLOOP pass has left the pins. -/
def State.passEnd (s : State) (c e : Nat) : State :=
  match (s.sq c).wait with
  | .issue j =>
    match j.ml with
    | some m => s.setJob c { j with ml := some { m with ended := m.ended ++ [e / hps] } }
    | none => s
  | _ => s

/-- The segment closes at the end of its last entry (R207). -/
def State.capLenEnd (s : State) (c : Nat) (ts : BitVec 64) : State :=
  let k := s.cap c
  match k.act, k.seg with
  | some l, some g =>
    if s.rf (Off.caplLen c l) 0 24 + 1 ≤ g.count then
      let s := s.closeSegment c 0 false false
      s.setCap c { s.cap c with closedAt := ts }
    else s
  | _, _ => s

/-- The period of the vector in progress has ended: its pass, its segment and the piece of an ended steep. -/
def State.endCur (s : State) (c : Nat) : State :=
  let u := s.cl c
  match u.cur with
  | none => s
  | some (v, _, e) =>
    if (s.now + 1) * hps ≤ e then s
    else
      let s := s.setCl c { u with cur := none }
      let s := if v.last then s.passEnd c e else s
      let s := if s.capPmu c then s else s.capLenEnd c (s.tsAt e)
      s.capSteepEnd c

/-- VECTOR_PERIOD_END (R75): without a vector behind it, the FIFO is empty and the pins idle. -/
def execVectorPeriodEnd (c : Cl) (s : State) : Result :=
  let s := s.endCur c
  .next (if s.fifoEmpty c ∧ (s.cl c).cur.isNone then s.setCl c { s.cl c with idle := true } else s)

/-! ### Capture of an entry (R205 to R208, R217, R224) -/

/-- Slots that fire on a vector of steep `n`, issued in CCLK `iss`, that starts at `t`. -/
def State.firedBy (s : State) (c l : Nat) (n : BitVec 64) (iss t : Nat) : List Nat :=
  ((s.cap c).fired.filter fun f =>
    let ty := s.rf (Off.caplTrg c l f.1) 28 3
    if ty = 4 then decide (f.2 ≤ n.toNat) else if ty = 5 then decide (f.2 < iss) else decide (f.2 ≤ t)).map (·.1) ++
    idxs 8 fun k => s.trgOn c l k 6

/-- A segment opens on the slots listed; what else had fired acts on nothing (R206). -/
def State.openSegment (s : State) (c l : Nat) (slots : List Nat) (n : BitVec 64) (vstart : Nat) (ts : BitVec 64) : State :=
  let e := s.cap c
  let miss := (e.fired.filter fun f => !slots.contains f.1).length
  let s := s.setCap c { e with seg := some { num := s.rf (Off.caplStat c l) 0 20, count := 0, pieces := 0 }, fired := [],
                               dead := 0 }
  let s := (s.setCapState c l capOpen).count (Off.caplCnt c l) 16 16 miss
  s.openPiece c l false n (maskOf 8 slots) e.dead vstart ts

/-- Closes the open piece where the entry `x` of steep `n` cannot join it: another steep, a governor split, or size
(R208). In PMU mode a piece whose steep still has samples stays open beside the new one (R209). -/
def State.splitPiece (s : State) (c : Nat) (n : BitVec 64) (x : CapEntry) : State :=
  let e := s.cap c
  match e.piece with
  | none => s
  | some p =>
    if p.steep ≠ n then
      if s.capPmu c && e.old.isNone && s.entriesLeft c p.steep true then s.capSwap c else s.closePiece c 2 false false
    else if p.split then s.closePiece c 4 false false
    else if !p.fits x then s.closePiece c 3 false false
    else s

/-- The truncated piece that a new piece of steep `n` continues: that of its steep, else the latest (R224). -/
def CapSt.truncOf (e : CapSt) (n : BitVec 64) : Option (BitVec 64 × BitVec 64) :=
  match e.truncAt.find? fun x => x.1 = n with
  | some x => some x
  | none => e.truncAt.getLast?

/-- Opens the piece that continues the segment. With `cut` no piece of its steep was open, and after a truncation it carries the
time since the close (R224). -/
def State.contPiece (s : State) (c l : Nat) (n : BitVec 64) (vstart : Nat) (ts : BitVec 64) (cut : Bool) : State :=
  let e := s.cap c
  if e.piece.isSome || e.dropping then s
  else match (if cut then e.truncOf n else none) with
    | some x =>
      (s.setCap c { e with truncAt := e.truncAt.erase x }).openPiece c l true n 0 (if x.2 ≤ ts then (ts - x.2).toNat else 0)
        vstart ts
    | none => s.openPiece c l true n 0 0 vstart ts

/-- Bytes that the buffer would hold with `p` as its open piece. -/
def State.bufNeed (s : State) (c : Nat) (p : Piece) : Nat :=
  ((s.cap c).closed ++ (s.cap c).old.toList ++ [p]).foldl (fun n q => n + q.bytes) 0

/-- An entry of steep `n` is dropped for want of room: its piece ends with TRUNC (R224). -/
def State.truncate (s : State) (c l : Nat) (n : BitVec 64) : State :=
  let o := Off.caplCnt c l
  let s := ((s.closePiece c 5 true false).count o 0 16 1).noticeCl c o
  let s := s.fire (evCluster c 6)
  let e := s.cap c
  s.setCap c { e with dropping := true, truncAt := e.truncAt.filter (fun x => x.1 ≠ n) ++ [(n, s.tstamp)] }

/-- Stores an entry in the open piece, or truncates: where it finds no room, and where entries are being dropped while a second
piece is open. Without an open piece a dropped entry goes nowhere (R224). -/
def State.storeEntry (s : State) (c l vstart : Nat) (ts : BitVec 64) (x : CapEntry) : State :=
  let e := s.cap c
  match e.piece with
  | none => s
  | some p =>
    let p' := p.add ts vstart x
    if e.dropping ∨ 131072 < s.bufNeed c p' then s.truncate c l p.steep
    else (s.setCap c { e with piece := some p' }).capTouch c

/-- One entry of the open segment, in steep `n`, counted before decimation (R207). -/
def State.capEntry (s : State) (c l : Nat) (n : BitVec 64) (vstart : Nat) (ts : BitVec 64) (x : CapEntry) : State :=
  let older := match (s.cap c).piece with
    | some p => s.capPmu c && decide (n ≠ s.steep.num) && decide (p.steep = s.steep.num)
    | none => false
  let s := if older then s.capSwap c else s
  let cut := match (s.cap c).piece with
    | some p => decide (p.steep ≠ n)
    | none => true
  let s := ((s.splitPiece c n x).contPiece c l n vstart ts cut).storeEntry c l vstart ts x
  let s := if older then s.capSwap c else s
  let e := s.cap c
  s.setCap c { e with seg := e.seg.map fun g => { g with count := g.count + 1 } }

/-- A vector that starts at `t` and ends at `e` reaches the capture engine. -/
def State.capVector (s : State) (c : Nat) (v : Vec) (t e vid : Nat) : State :=
  match (s.cap c).act with
  | none => s
  | some l =>
    if s.capPmu c then s
    else
      let slots := if s.capState c l = capArmed then s.firedBy c l v.steep v.issued t else []
      let s := if slots.isEmpty then s else s.openSegment c l slots v.steep v.num (s.tsAt t)
      if s.capState c l = capOpen then
        s.capEntry c l v.steep v.num (s.tsAt t) { vid := vid, fail := 0, raw := 0, sample := none, tsEnd := s.tsAt e }
      else s

/-! ### Applied states (R66 to R70, R13, R362) -/

/-- A drive state: 0, 1 or Z. -/
def isDrvState (st : BitVec 3) : Bool := decide (st.toNat ≤ 2)

/-- The state that the map of a timing set gives to a code (R68). -/
def mapState (smap : Word) (selB : Bool) (code : Nat) : BitVec 3 :=
  BitVec.ofNat 3 (fld smap (3 * code + (if selB then 12 else 0)) 3)

/-- Compares of site `k` are masked for the vector by a MASK fail action (R23). -/
def State.vecMasked (s : State) (v : Vec) (k : Nat) : Bool := v.masked.getLsbD k || (s.st k).masked s.now

/-- The state of a vector on channel `i`, before overrides and role gating (R69, R133). -/
def State.vecState (s : State) (c i k : Nat) (v : Vec) : BitVec 3 :=
  let prev := (s.ch (32 * c + i)).prev
  if v.hold then (if isDrvState prev then prev else 0b111)
  else
    let m := mapState (s.apAt v.steep (Off.tsSmap c v.tset.toNat)) (flag (s.apAt v.steep (Off.clMapsel c)) i)
      (v.row.toNat >>> (2 * i) % 4)
    let m :=
      if !v.vmask.getLsbD k then (if m.toNat < 4 then 0b011 else 0b111)
      else if (!v.cmask.getLsbD k || s.vecMasked v k) && isCmpState m then 0b111 else m
    if m = 0b011 then prev else m

/-- Channel of pin-action slot `k`. -/
def State.paChan (s : State) (k : Nat) : Nat := 128 * (k / 16) + s.af (Off.evpaCfg k) 0 7

/-- Actions whose holds run on channel `n`: 0 OFF, 1 LOW, 2 HIGH. -/
def State.paActs (s : State) (n : Nat) : List Nat :=
  (s.holds.filter fun h => h.on && decide (s.paChan h.slot = n)).map fun h => s.af (Off.evpaCfg h.slot) 29 2

/-- The override of pin actions: OFF above LOW above HIGH (R362). -/
def paState (acts : List Nat) (st : BitVec 3) : BitVec 3 :=
  if acts.contains 0 then (if st = 0b000 ∨ st = 0b001 then 0b010 else st)
  else if acts.contains 1 then 0b000
  else if acts.contains 2 then 0b001
  else st

/-- Role gating (R13). -/
def State.gateState (s : State) (n : Nat) (st : BitVec 3) : BitVec 3 :=
  if isDrvState st && !s.roleDrive n then 0b010 else st

/-! ### The driver (R158 to R160, R191, R193, R447, R448) -/

/-- Stretched edge `k` of a timing set on channel `i` of cluster `c` in steep `n`, in whole picoseconds. -/
def State.edgePs (s : State) (c t i k : Nat) (n : BitVec 64) : Nat :=
  let at_ := 65536 * c + 256 * t + 8 * i + k
  let w := if n = s.steep.num then Tbl.get 0 s.edgeApp at_ else Tbl.get 0 s.edgePrev at_
  let e := stretched (fld w 0 24) (s.codeAt c n)
  if periodMax < s.periodRaw c t n then min 16777215 e else e

/-- Driver mode of the timing set on channel `i`. -/
def State.dmode (s : State) (c t i : Nat) (n : BitVec 64) : Nat :=
  let at_ := 65536 * c + 256 * t + 8 * i + 6
  fld (if n = s.steep.num then Tbl.get 0 s.edgeApp at_ else Tbl.get 0 s.edgePrev at_) 0 3

/-- The driver's level after a step. -/
def DrvStep.next (d : DrvStep) (l : Option Nat) : Option Nat :=
  if d.on then some (d.lvl.getD (l.getD 2))
  else match d.lvl with
    | some x => l.map fun _ => x
    | none => none

/-- Steps of a vector of steep `n` with state `st` under a mode, from the instants of E0 to E3 (R158, R159). -/
def driveSteps (mode : Nat) (st : BitVec 3) (n : BitVec 64) (e : Nat → Int) : List DrvStep :=
  if st = 0b000 ∨ st = 0b001 then
    let d := st.toNat
    let pulse (rest : Nat) : List DrvStep := [⟨e 0, true, some rest, n⟩, ⟨e 1, false, some d, n⟩, ⟨e 2, false, some rest, n⟩]
    match mode with
    | 1 => pulse 0
    | 2 => pulse 1
    | 3 => pulse (1 - d)
    | 4 => [⟨e 0, true, none, n⟩, ⟨e 1, false, some d, n⟩, ⟨e 3, false, none, n⟩]
    | _ => [⟨e 0, true, none, n⟩, ⟨e 1, false, some d, n⟩]
  else [⟨e 3, false, none, n⟩]

/-- A step joins those to come, in the order of their instants. -/
def DrvStep.into (d : DrvStep) : List DrvStep → List DrvStep
  | [] => [d]
  | x :: l => if d.at_ < x.at_ then d :: x :: l else x :: d.into l

/-- Minimum transition interval of channel `n` under the levels of steep `m`, in half picoseconds (R160). -/
def State.minInterval (s : State) (n : Nat) (m : BitVec 64) : Nat :=
  let code (f : Nat → Nat → Nat) : Int := signed 18 (fld (s.apAt m (chOff f n)) 0 18)
  let h := code Off.chVih
  let l := code Off.chVil
  let t := code Off.chVtt
  let term := flag (s.apAt m (chOff Off.chDrvcfg n)) 31
  let swing := (if term then max (max h l) t else max h l) - (if term then min (min h l) t else min h l)
  if swing ≤ 19200 then 625 else if swing ≤ 52800 then 1250 else 5000

/-- The driver takes the level `l` with the step `d`; two level transitions closer than the interval set RATEVIOL (R160). -/
def State.drvSet (s : State) (n : Nat) (d : DrvStep) (l : Option Nat) : State :=
  let u := s.ch n
  let moved := decide (l.getD 2 ≠ u.lvl.getD 2) && decide (l.getD 2 ≠ 2)
  let t := d.at_.toNat
  let close := moved && (match u.transAt with
    | some p => decide (t < p + s.minInterval n d.steep)
    | none => false)
  let s := s.setCh n { u with lvl := l, transAt := if moved then some t else u.transAt }
  if close then (s.chFlag n 5).noticeCl (n / 32) (chOff Off.chStat n) (s.chSite n) else s

/-- Steps whose instants have passed act from the level `l` on; those of one instant act as one. -/
def State.drvRun (s : State) (n : Nat) : List DrvStep → Option Nat → State
  | [], _ => s
  | [d], l => s.drvSet n d (d.next l)
  | d :: e :: rest, l =>
    if d.at_ = e.at_ then s.drvRun n (e :: rest) (d.next l) else (s.drvSet n d (d.next l)).drvRun n (e :: rest) (d.next l)

/-- The driver of channel `n` takes the steps of the CCLKs before the present one. While the PMU holds the pin they have no effect
(R448). -/
def State.drvGo (s : State) (n : Nat) : State :=
  let u := s.ch n
  let due (d : DrvStep) : Bool := decide (d.at_ < s.nowH)
  let s := s.setCh n { u with
    steps := u.steps.filter fun d => !due d
    baseSteps := u.baseSteps.filter fun d => !due d
    baseLvl := if s.pmuMode n ≠ 0 then none else (u.baseSteps.filter due).foldl (fun l d => d.next l) u.baseLvl }
  if s.pmuMode n ≠ 0 then s else s.drvRun n (u.steps.filter due) u.lvl

/-- Every driver that has steps to come goes on. -/
def State.drivers (s : State) : State :=
  s.each ((s.chan.filter fun e => !e.2.steps.isEmpty || !e.2.baseSteps.isEmpty).map (·.1)) fun n s => s.drvGo n

/-- The driver's level at an instant of the present CCLK, or a later one as far as its steps are known. -/
def ChanSt.lvlAt (u : ChanSt) (t : Int) : Option Nat := (u.steps.filter fun d => decide (d.at_ ≤ t)).foldl (fun l d => d.next l) u.lvl

/-- Coarse count and fine tap of an instant from the chain's start (R191). -/
def edgeSplit (t : Int) (chain : Nat) : Int × Int :=
  let d := t - chain
  (d / 625, (d - d / 625 * 625) / 2)

/-- An edge or strobe instant of a vector of steep `n` (R41). -/
def CluSt.place (u : CluSt) (n : BitVec 64) (t : Nat) : CluSt :=
  { u with placed := if u.placed.any fun e => e.1 = n then
        u.placed.map fun e => if e.1 = n then (n, max e.2 t) else e
      else u.placed ++ [(n, t)] }

/-- The driver of channel `i` follows a vector that starts at `t` with state `st`; without pin actions its state is `base`. -/
def State.driveVec (s : State) (c i : Nat) (v : Vec) (t : Nat) (st : BitVec 3) : State :=
  let n := 32 * c + i
  let u := s.ch n
  let at_ (k : Nat) : Int :=
    t + 2 * (s.edgePs c v.tset.toNat i k v.steep : Nat) + 2 * (if k < 4 then (s.tapsFor n v.steep).1 else (s.tapsFor n v.steep).2.1)
  let steps (st : BitVec 3) : List DrvStep := driveSteps (s.dmode c v.tset.toNat i v.steep) st v.steep at_
  let s := s.setCh n { u with
    edges := (List.range 6).map fun k => edgeSplit (at_ k) (s.cl c).chain
    cfg := some (s.apAt v.steep (chOff Off.chDrvcfg n))
    steps := (steps st).foldl (fun l d => d.into l) u.steps
    baseSteps := (steps u.base).foldl (fun l d => d.into l) u.baseSteps }
  s.setCl c ((s.cl c).place v.steep ((List.range 6).foldl (fun m k => max m (at_ k).toNat) 0))

/-! ### Strobes (R99, R165, R192, R214) -/

/-- Guard of the temperature band in half picoseconds (R192). -/
def guardHps (band : Nat) : Nat := match band with
  | 0 => 0 | 1 => 4 | 2 => 8 | 3 => 12 | _ => 20

/-- CH and CL are enabled in M0 or M1 under the configuration of steep `m` (R49, R166). -/
def State.canCompare (s : State) (n : Nat) (m : BitVec 64) : Bool :=
  let w := s.apAt m (chOff Off.chCmpcfg n)
  (List.range 2).all fun k => flag w (8 * k + 7) && decide (fld w (8 * k) 2 ≤ 1)

/-- RAW bits of channel `i` are captured. -/
def State.rawWanted (s : State) (c i : Nat) : Bool :=
  match (s.cap c).piece with
  | some p => decide (p.mode = 1) && p.mask.getLsbD i
  | none => false

/-- Instant of edge `k` (E4 or E5) of a vector on channel `i`, `g` half picoseconds late. -/
def State.strobeAt (s : State) (c i k g : Nat) (v : Vec) (t : Nat) : Nat :=
  let at_ : Int := t + 2 * (s.edgePs c v.tset.toNat i k v.steep : Nat) + (g : Nat) + 2 * (s.tapsFor (32 * c + i) v.steep).2.1
  at_.toNat

/-- CCLK in which a compare resolves: the 16th after the one that holds its instant. -/
def State.strobeDue (s : State) (c i : Nat) (v : Vec) (t : Nat) (window : Bool) : Nat :=
  let g := if window then guardHps (fld (s.apAt v.steep (Off.thmQstat (c / 4))) 28 3) else 0
  s.strobeAt c i (if window then 5 else 4) g v t / hps + 16

/-- Sets up the strobes of a vector on channel `i` of site `k`, whose state takes effect as `eff`: that of its compare, and that of
its RAW bits. They are one where the compare resolves after both E4 and E5 have passed (R99, R214). -/
def State.addStrobe (s : State) (c i k : Nat) (v : Vec) (t vid : Nat) (eff : BitVec 3) : State :=
  let cmp := isCmpState eff
  let raw := s.rawWanted c i
  let window := flag (s.apAt v.steep (Off.tsCtl c v.tset.toNat)) 0
  let at4 := s.strobeAt c i 4 0 v t / hps
  let at5 := s.strobeAt c i 5 0 v t / hps
  let x : Strobe :=
    { vid := vid, ch := 32 * c + i, st := eff, steep := v.steep, pass := v.pass,
      counts := cmp && v.vmask.getLsbD k && v.cmask.getLsbD k && !s.vecMasked v k, site := k, window := window,
      due := s.strobeDue c i v t window, at4 := at4, at5 := at5, raw := raw }
  let r := { x with st := 0b111, counts := false, due := max at4 at5 + 16 }
  let u := s.cl c
  s.setCl c { u with strobes := u.strobes ++
    if cmp && raw && decide (x.due < r.due) then [{ x with raw := false }, r]
    else if cmp then [x]
    else if raw then [r] else [] }

/-- A vector reaches channel `i`. -/
def State.chanApply (s : State) (c i : Nat) (v : Vec) (t vid : Nat) : State :=
  let n := 32 * c + i
  match s.chSite n with
  | none => s
  | some k =>
    if s.parkedCh n then s
    else
      let m := s.vecState c i k v
      let base := s.gateState n m
      let st := s.gateState n (paState (s.paActs n) m)
      let s := s.setCh n { s.ch n with prev := st, base := base }
      let lame := isCmpState st && !s.canCompare n v.steep
      let eff := if lame then 0b111 else st
      let s := if lame then s.chFlag n 4 else s
      (s.driveVec c i v t st).addStrobe c i k v t vid eff

/-- A word of the applied copy of timing set `ts` as steep `n` has it is lost, or is met with an uncorrectable error now (R198). -/
def State.edgeFault (s : State) (c ts : Nat) (n : BitVec 64) (ue : List Nat) : Option Nat :=
  ((if n = s.steep.num then s.edgeLost else s.edgeGone) ++ ue).find? fun i => i / 256 = 256 * c + ts

/-- Words of the applied copy as steep `n` has it stay lost until a take-up replaces them (R198). -/
def State.edgeKeep (s : State) (n : BitVec 64) (ue : List Nat) : State :=
  if n = s.steep.num then { s with edgeLost := s.edgeLost ++ ue.filter fun i => !s.edgeLost.contains i }
  else { s with edgeGone := s.edgeGone ++ ue.filter fun i => !s.edgeGone.contains i }

/-- The vector at the head of the FIFO starts at the pins. STROVF sets here: the spec names no moment (DESIGN CHOICE, log 79).
Words `ue` of the applied copy meet an uncorrectable error now. A vector that meets one fences its cluster as it starts: none of
its edges is placed, it makes no strobe and no capture entry (DESIGN CHOICE, log 88: R198 places no edge of it). -/
def State.vectorApply (s : State) (c : Nat) (ue : List Nat) : State :=
  match (s.cl c).fifo with
  | { kind := .vec v, .. } :: rest =>
    let (t, fresh) := s.vecStart c v
    if (s.now + 1) * hps ≤ t then s
    else
      let s := s.endCur c
      let u := s.cl c
      let ts := v.tset.toNat
      let e := t + s.period c ts v.steep
      let s := s.setCl c { u with fifo := rest, cur := some (v, t, e), lastEnd := e, idle := false, vids := u.vids + 1,
                                  chain := if fresh then t else u.chain }
      let s := s.gapEnd c t
      let s := if periodMax < s.periodRaw c ts v.steep then s.setRb (Off.tsErr c) 29 true else s
      match s.edgeFault c ts v.steep ue with
      | some i => ((s.edgeKeep v.steep ue).uncorrected (48 + c) (i % 65536)).fenceCluster c [(0, Off.miStat (48 + c))]
      | none =>
        let s := s.capVector c v t e u.vids
        s.each (List.range 32) fun i s => s.chanApply c i v t u.vids
  | _ => s

/-- The vector at the front of the FIFO starts in the present CCLK at the latest. -/
def State.vecGoes (s : State) (c : Nat) : Bool := match (s.cl c).fifo with
  | { kind := .vec v, .. } :: _ => decide ((s.vecStart c v).1 < (s.now + 1) * hps)
  | _ => false

/-- VECTOR_APPLY (R69). -/
def execVectorApply (c : VecStart) (s : State) : Result :=
  let t := s.vectorApply c.cl c.ue
  .next (if s.vecGoes c.cl then c.fixed.foldl (fun s i => s.corrected (48 + c.cl.val) (i % 65536)) t else t)

/-! ### A strobe resolves (R23, R99, R165) -/

/-- Writes the bits of an entry. -/
def CapEntry.strobe (x : CapEntry) (vid i : Nat) (fail : Bool) (raw : Nat) : CapEntry :=
  if x.vid = vid ∧ x.sample.isNone then
    { x with fail := if fail then x.fail ||| maskOf 32 [i] else x.fail
             raw := x.raw ||| (BitVec.ofNat 128 raw <<< (4 * i)) }
  else x

/-- A vector's fail and raw bits go into the pieces that hold it. -/
def State.strobeBits (s : State) (c vid i : Nat) (fail : Bool) (raw : Nat) : State :=
  let e := s.cap c
  let put (p : Piece) : Piece := { p with entries := p.entries.map fun x => x.strobe vid i fail raw }
  s.setCap c { e with piece := e.piece.map put, old := e.old.map put, closed := e.closed.map put }

/-- A fail of CCLK `now` sets bits of SITEFAIL (R99); a clear of the same CCLK leaves them (R4). -/
def SeqSt.failNote (q : SeqSt) (now : Nat) (m : BitVec 128) : SeqSt :=
  { q with siteFail := q.siteFail ||| m, failNow := (now, if q.failNow.1 = now then q.failNow.2 ||| m else m) }

/-- The fail action of site `k` for a fail of steep `n` (R23): the mask ends with the POUR_DONE of the latest steep that set
it. -/
def State.failAction (s : State) (k : Nat) (n : BitVec 64) : State :=
  match s.rf (Off.siteCtl k) 0 2 with
  | 1 =>
    if s.fenced k || (s.st k).fencedAt = some s.now then s
    else
      let last := match (s.st k).maskSteep with
        | some m => if n < m then m else n
        | none => n
      (s.setSt k ((s.st k).maskChange s.now (some last))).setRb (Off.siteStat k) 29 true
  | 2 => s.fenceSite k
      { cls := 3, src := 0x2000 + k, cause := 0, off := Off.siteStat k, site := some k, wd := false }
  | _ => s

/-- A counted compare fails: SITEFAIL and the fail action, or its MLOOP pass (R94, R99). -/
def State.countedFail (s : State) (c : Nat) (x : Strobe) : State :=
  if x.pass = 0 then
    (s.setSq c ((s.sq c).failNote s.now (maskOf 128 [x.site]))).failAction x.site x.steep
  else
    match (s.sq c).wait with
    | .issue j =>
      match j.ml with
      | some m => if x.pass = passDead then s
        else s.setJob c { j with ml := some { m with failed := m.failed ++ [x.pass] } }
      | none => s
    | _ => s

/-- The condition of a compare state at the strobe. -/
def strobePass (x : Strobe) (obs : StrobeObs) : Bool :=
  if x.window then obs.held
  else match x.st.toNat with
    | 4 => obs.cl4
    | 5 => obs.ch4
    | _ => !obs.ch4 && !obs.cl4

/-- RAW bits of an observation: a comparator in UNK or OFF at the sampling edge gives 0 (R214). -/
def State.rawBits (s : State) (x : Strobe) (obs : StrobeObs) : Nat :=
  let live (k t : Nat) : Bool := decide (s.cmpWas x.ch k t < 2)
  let b (v : Bool) (i : Nat) : Nat := if v then 2 ^ i else 0
  b (obs.ch4 && live 0 x.at4) 0 + b (obs.cl4 && live 1 x.at4) 1 + b (obs.ch5 && live 0 x.at5) 2 +
    b (obs.cl5 && live 1 x.at5) 3
/-- The strobe finds CH or CL in UNK: at E4, or at any instant from E4 to E5 (R165). -/
def State.strobeUnk (s : State) (x : Strobe) : Bool :=
  (List.range 2).any fun k => s.cmpIn x.ch k 2 x.at4 (if x.window then x.at5 else x.at4)

/-- The piece that holds vector `vid` captures RAW bits of channel `i`. -/
def State.rawWantedOf (s : State) (c vid i : Nat) : Bool :=
  ((s.cap c).closed ++ (s.cap c).piece.toList).any fun p =>
    decide (p.mode = 1) && p.mask.getLsbD i && p.entries.any fun x => x.vid = vid

/-- The oldest strobe of channel `i` that is due resolves. -/
def State.strobeResolve (s : State) (c i : Nat) (obs : StrobeObs) : State :=
  let n := 32 * c + i
  let u := s.cl c
  match u.strobes.find? fun x => x.ch = n ∧ x.due ≤ s.now with
  | none => s
  | some x =>
    let s := s.setCl c { u with strobes := u.strobes.erase x }
    if s.parkedCh n then s
    else
      let cmp := isCmpState x.st && !(s.st x.site).masked s.now
      let unk := s.strobeUnk x
      let fail := cmp && (unk || !strobePass x obs)
      let s := if cmp && unk then s.chFlag n 3 else s
      let s := s.strobeBits c x.vid i fail (if x.raw && s.rawWantedOf c x.vid i then s.rawBits x obs else 0)
      if fail && x.counts then s.countedFail c x else s

/-- STROBE_RESOLVE (R99). -/
def execStrobeResolve (c : Cl) (i : Fin 32) (obs : StrobeObs) (s : State) : Result := .next (s.strobeResolve c i obs)

end Sys2Proof.Machine
end

