-- ==== Sys2Proof/Machine/Pmu.lean ====
section
/-!
DEFINITION. The per-pin PMU (R101 to R107, R173 to R179, R215, R272, R372 to R374, R449): RANGE, FORCE and MEAS at issue
and at the pins, power admission, settling and the ADCs.
-/
namespace Sys2Proof.Machine

open Sys2Proof

/-! ### Power admission (R372 to R374) -/

/-- Cost of a channel in FV or FI, in quarters of a microwatt. -/
def pmuCost (ir : Nat) : Nat := match ir with
  | 0 => 105 | 1 => 1050 | 2 => 10500 | 3 => 105000 | _ => 1680000
/-- Cost of a rail controller. -/
def railCost : Nat := 80000
/-- Cost of a mode and range. -/
def modeCost (mode ir : Nat) : Nat := if mode = 0 then 0 else pmuCost ir

/-- Cost of channel `n`: its applied mode and range, and every RANGE for it in the FIFO. -/
def State.chCost (s : State) (n : Nat) : Nat :=
  (s.cl (n / 32)).fifo.foldl
    (fun m e => match e.kind with
      | .range mask mode ir => if mask.getLsbD (n % 32) then max m (modeCost mode.toNat ir.toNat) else m
      | _ => m)
    (modeCost (s.pmuMode n) (s.pmuIr n))

/-- Rail controller `r` counts: from acceptance of its site's REQ until the rail is OFF. -/
def State.railCounts (s : State) (r : Nat) : Bool :=
  decide (s.railState r ≠ railOffSt) ||
    (match s.railSite r with
    | some k => s.rb (Off.sitePwr k) 31
    | none => false)

/-- The admitted sum in quarters of a microwatt. -/
def State.admSum (s : State) : Nat :=
  s.mapped.foldl (fun m n => m + s.chCost n) 0 + railCost * ((List.range 64).filter fun r => s.railCounts r).length

/-- BUDGET in quarters of a microwatt. -/
def State.budget (s : State) : Nat := s.rf Off.admCtl 0 13 * 4000
/-- A sum in milliwatts, rounded up. -/
def milliwatts (v : Nat) : Nat := (v + 3999) / 4000

/-- A refusal under R373. -/
def State.admReject (s : State) : State := s.count Off.admStat 0 16 1

/-! ### RANGE and FORCE at issue (R101 to R103) -/

/-- Channels of a mask with a property. -/
def maskWhere (mask : Word) (p : Nat → Bool) : Word := maskOf 32 (idxs 32 fun i => mask.getLsbD i && p i)

/-- A refused request that would have been admitted without those decided before it in the same CCLK is lost (R34). -/
def State.admLost (s : State) (x sum : Nat) : State :=
  if sum - s.admNow ≤ s.budget then (s.count Off.wrlostB 16 16 1).setRb Off.wrlostB x true else s

/-- Refuses the instruction with PWRADM. -/
def State.pwrAdm (s : State) (x sum : Nat) : State :=
  let s := (s.admLost x sum).admReject.count (Off.clPmustat x) 16 16 1
  s.exception x 0x0C (min 65535 (milliwatts sum)) (s.sq x).pc

/-- The checks before admission: CHUNAS, then ROLEF where the entry forces. -/
def State.pmuRefusal (s : State) (x : Nat) (mask : Word) (forces : Bool) : Option (Nat × Nat) :=
  let unas := maskWhere mask fun i => (s.chSite (32 * x + i)).isNone
  let role := maskWhere mask fun i => !s.roleForce (32 * x + i)
  if unas ≠ 0 then some (0x0E, unas.toNat) else if forces && decide (role ≠ 0) then some (0x0D, role.toNat) else none

/-- `c` is a RANGE or FORCE of a sequencer below `x`. -/
def State.admBefore (s : State) (x : Nat) (c : Instr) : Bool :=
  match c with
  | .range y w _ => decide (y.val < x) && s.canRun y 0x60 w
  | .force y w _ => decide (y.val < x) && s.canRun y 0x61 w
  | _ => false
/-- The power request of a RANGE or FORCE of sequencer `x` waits for those of the CCLK that are decided before it: the writes of
SITE_PWR, and those of the sequencers below `x` (R33, R374). -/
def State.admWaits (s : State) (x : Nat) : Bool :=
  s.coming.any (fun e => decide (e.2.1 = .pf0) && isSitePwr e.2.2.1) || s.waiting.any (s.admBefore x)

/-- RANGE at issue. -/
def rangeBody (x : Nat) (w : BitVec 56) (s : State) : Flow :=
  let mask := (s.sq x).gr (fD w)
  let mode := ifld w 50 2
  let ir := ifld w 47 3
  match s.pmuRefusal x mask (decide (mode ≠ 0)) with
  | some (cause, info) => .trap cause info
  | none =>
    let old := s.admSum
    let t := s.pushEntry x (.range mask (BitVec.ofNat 2 mode) (BitVec.ofNat 3 ir)) 3
    let new := t.admSum
    if s.budget < new ∧ old < new then .hold (s.pwrAdm x new)
    else .next { t with admNow := t.admNow + (new - old) } 3

/-- RANGE (R101, R103): MODE 3 and IR from 5 on are reserved values. -/
def execRange (x : Sq) (w : BitVec 56) (mc : Option Micro) (s : State) : Result :=
  .next (if s.admWaits x then s.putBehind (.range x w mc)
    else s.instr x 0x60 w mc [(0, 47)]
      ((if ifld w 50 2 = 3 then [50] else []) ++ if 5 ≤ ifld w 47 3 then [47] else []) (rangeBody x w))

/-- FORCE at issue. -/
def forceBody (x : Nat) (w : BitVec 56) (s : State) : Flow :=
  let q := s.sq x
  let mask := q.gr (fD w)
  let code : BitVec 18 := if w.getLsbD 51 then (q.gr (ifld w 47 4)).setWidth 18 else w.setWidth 18
  match s.pmuRefusal x mask true with
  | some (cause, info) => .trap cause info
  | none =>
    if s.budget < s.admSum then .hold (s.pwrAdm x s.admSum)
    else .next (s.pushEntry x (.force mask code) 3) 3

/-- FORCE (R101, R103): CODE is reserved with VR = 1. -/
def execForce (x : Sq) (w : BitVec 56) (mc : Option Micro) (s : State) : Result :=
  .next (if s.admWaits x then s.putBehind (.force x w mc)
    else s.instr x 0x61 w mc ((18, 29) :: if w.getLsbD 51 then [(0, 18)] else []) [] (forceBody x w))

/-! ### MEAS at issue (R105 to R107) -/

/-- MEAS at issue: G[RD] becomes pending. -/
def measBody (x : Nat) (w : BitVec 56) (s : State) : Flow :=
  let q := s.sq x
  let i := ifld w 41 5
  if (s.chSite (32 * x + i)).isNone then .trap 0x0E (2 ^ i)
  else
    let m : Meas :=
      { ch := i, rd := fD w, qid := if w.getLsbD 47 then some ((q.gr (fA w)).setWidth 20) else none,
        cur := w.getLsbD 46, n := ifld w 28 12 + 1, set := ifld w 0 24, steep := s.steep.num, due := 0, sum := 0,
        count := 0, samples := [], recNo := 0, tsFirst := 0, started := 0, lost := false }
    .next ((s.setSq x { q with pend := q.pend ++ [m.rd] }).pushEntry x (.meas m) 2) 2

/-- MEAS (R101, R106). -/
def execMeas (x : Sq) (w : BitVec 56) (mc : Option Micro) (s : State) : Result :=
  .next (s.instr x 0x62 w mc [(40, 1), (24, 4)] [] (measBody x w))

/-! ### Entries at the pins (R96) -/

/-- The entry at the head of the FIFO reaches the pins: the vector before it has ended, and 48 CCLK have passed since its
instruction's last cycle where that vector had ended by then, which left the FIFO empty. -/
def State.entryDue (s : State) (c : Nat) : Option Entry :=
  match (s.cl c).fifo with
  | e :: _ =>
    let free := match (s.cl c).cur with
      | some (_, _, t) => decide (t < (s.now + 1) * hps)
      | none => true
    if free && decide ((e.issued + 1) * hps ≤ (s.cl c).lastEnd ∨ e.issued + 48 ≤ s.now) then some e else none
  | [] => none

/-- Takes it out of the FIFO. -/
def State.popEntry (s : State) (c : Nat) : State :=
  let s := s.endCur c
  let u := s.cl c
  s.setCl c { u with fifo := u.fifo.drop 1 }

/-- A channel of an entry is dropped (R104): parked, or its role forbids force. -/
def State.pmuDrops (s : State) (n : Nat) (forces : Bool) : Bool := s.parkedCh n || (forces && !s.roleForce n)

/-- Channel `n` changes mode and range (R175, R449). Between FN and a forcing mode the driver turns off; back in FN it turns on with
the next E0 of a drive state. -/
def State.pmuMove (s : State) (n mode ir : Nat) : State :=
  let was := s.pmuMode n
  let s := s.setPmu n mode ir 0
  let u := s.ch n
  let u := { u with moveEnd := s.now + 800 }
  s.setCh n (if (was = 0) = (mode = 0) then u else { u with lvl := none, baseLvl := none })

/-- The force path of channel `n` stays open at mid-scale (R104). -/
def State.pmuFn (s : State) (n : Nat) : State :=
  if s.pmuMode n = 0 then s else s.pmuMove n 0 (s.pmuIr n)

/-- The warden checks the ±32 mA range as the entry applies (R104, R313). -/
def State.pmuGate (s : State) (n : Nat) : State :=
  if s.gateUsed n false && !s.gate n false then s.violGate n else s.gateNote n

/-- Selected channels of cluster `c`. -/
def maskChans (c : Nat) (mask : Word) : List Nat := (idxs 32 fun i => mask.getLsbD i).map (32 * c + ·)

/-- Counts an entry that leaves a selected channel unchanged. -/
def State.dropCount (s : State) (c : Nat) (mask : Word) (forces : Bool) : State :=
  if (maskChans c mask).any fun n => s.pmuDrops n forces then s.count (Off.clPmustat c) 0 16 1 else s

/-- A RANGE entry acts on channel `n`. -/
def State.rangeChan (s : State) (n mode ir : Nat) : State :=
  if s.parkedCh n then s
  else if mode ≠ 0 ∧ !s.roleForce n then s.pmuFn n
  else (s.pmuMove n mode ir).pmuGate n

/-- A FORCE entry acts on channel `n`; a waveform engine that targets it keeps the code (R272). -/
def State.forceChan (s : State) (n : Nat) (code : Int) : State :=
  if s.parkedCh n || s.weHeld n then s
  else if !s.roleForce n then s.pmuFn n
  else s.forceCode n code

/-- RANGE_APPLY (R102, R104). -/
def execRangeApply (c : Cl) (s : State) : Result :=
  .next (match s.entryDue c with
    | some { kind := .range mask mode ir, .. } =>
      let s := (s.popEntry c).dropCount c mask (decide (mode ≠ 0))
      s.each (maskChans c mask) fun n s => s.rangeChan n mode.toNat ir.toNat
    | _ => s)

/-- Engines that discard a FORCE entry. -/
def State.forceEngines (s : State) (c : Nat) (mask : Word) : List Nat :=
  idxs 16 fun w => s.weHolds w && (maskChans c mask).any fun n => (s.weChans w).contains n

/-- FORCE_APPLY (R102, R104, R272). -/
def execForceApply (c : Cl) (s : State) : Result :=
  .next (match s.entryDue c with
    | some { kind := .force mask code, .. } =>
      let s := (s.popEntry c).dropCount c mask true
      let s := s.each (s.forceEngines c mask) fun w s => s.count (Off.weCnt w) 0 16 1
      s.each (maskChans c mask) fun n s => s.forceChan n code.toInt
    | _ => s)

/-! ### MEAS at the pins (R105, R106, R174, R179, R215) -/

/-- Minimum settling in CCLK of a range and quantity. -/
def minSettle (mode ir : Nat) (cur : Bool) : Nat :=
  if mode = 0 ∧ !cur then 800
  else match ir with
    | 0 => 80000 | 1 => 8000 | 2 => 1600
    | 3 => if cur then 400 else 800
    | _ => if cur then 160 else 800

/-- MEAS_APPLY (R105): settling begins. -/
def execMeasApply (c : Cl) (s : State) : Result :=
  .next (match s.entryDue c with
    | some { kind := .meas m, .. } =>
      let s := s.popEntry c
      let n := 32 * c + m.ch
      let u := s.cl c
      s.setCl c { u with settling := u.settling ++
        [{ m with due := s.now + max m.set (minSettle (s.pmuMode n) (s.pmuIr n) m.cur) }] }
    | _ => s)

/-- The entries of ADC `k` that have settled and wait behind no earlier one that settles. -/
def readyMeas (k : Nat) : List Meas → List Meas × List Meas
  | [] => ([], [])
  | m :: t =>
    if m.ch / 8 = k then
      if m.due = 0 then
        let r := readyMeas k t
        (m :: r.1, r.2)
      else ([], m :: t)
    else
      let r := readyMeas k t
      (r.1, m :: r.2)

/-- Marks the oldest settling MEAS of channel `i` whose time has run as settled. -/
def settleMark (i now : Nat) : List Meas → List Meas
  | [] => []
  | m :: t => if m.ch = i ∧ m.due ≠ 0 then (if m.due ≤ now then { m with due := 0 } else m) :: t else m :: settleMark i now t

/-- Settling ends: the ADC takes its entries in issue order, and starts where it is free. -/
def State.settleEnd (s : State) (c i : Nat) : State :=
  let u := s.cl c
  let k := i / 8
  let r := readyMeas k (settleMark i s.now u.settling)
  let busy := s.adcList c k
  let s := (s.setCl c { u with settling := r.2 }).setAdc c k (busy ++ r.1)
  if busy.isEmpty then (s.adcStart c k (r.1.length + 1)).capSteepEnd c else s

/-- MEAS_SETTLE_END (R106). -/
def execMeasSettleEnd (c : Cl) (i : Fin 32) (s : State) : Result := .next (s.settleEnd c i)

/-- A sample in the format of R215. -/
def sampleWord (ir : Nat) (cur : Bool) (i : Nat) (code : Int) : Word :=
  BitVec.ofNat 32 (ir * 0x1000000 + (if cur then 0x800000 else 0) + i * 0x40000 + unsigned 18 code)

/-- Slots that fire on a sample whose tracking starts at `t` (R205). -/
def State.firedSample (s : State) (c t : Nat) : List Nat :=
  ((s.cap c).fired.filter fun f => decide (f.2 ≤ t)).map (·.1)

/-- A sample reaches the capture engine, where its channel is captured. -/
def State.capSample (s : State) (c : Nat) (m : Meas) (w : Word) : State :=
  match (s.cap c).act with
  | none => s
  | some l =>
    if !s.capPmu c || !(s.rg (Off.caplChmask c l)).getLsbD m.ch then s
    else
      let ts := s.tsAt (m.started * hps)
      let slots := if s.capState c l = capArmed then s.firedSample c (m.started * hps) else []
      let s := if slots.isEmpty then s else s.openSegment c l slots m.steep 0 ts
      if s.capState c l = capOpen then
        (s.capEntry c l m.steep 0 ts { vid := 0, fail := 0, raw := 0, sample := some (m.ch, w), tsEnd := s.tstamp }).capLenEnd
          c s.tstamp
      else s

/-- The PMU-sample record that the MEAS has filled (R106, R225, R226). -/
def State.measRec (s : State) (c : Nat) (m : Meas) (q : BitVec 20) : Rec :=
  { tsStart := m.tsFirst, tsEnd := s.tstamp, dead := 0,
    site := BitVec.ofNat 7 ((s.chSite (32 * c + m.ch)).getD 0), segnum := BitVec.ofNat 20 m.recNo,
    src := BitVec.ofNat 8 (0x30 + c), decexp := 0, qid := q, flags := 0, sthr := s.stretchOf c m.steep,
    body := m.samples.flatMap wordBytes, steep := m.steep, closing := false, made := (s.cl c).made }

/-- Samples in a full record. -/
def recSamples : Nat := 1016

/-- A sample joins the record being built; a full or last one is offered. -/
def State.measSample (s : State) (c : Nat) (m : Meas) (w : Word) : State × Meas :=
  match m.qid with
  | none => (s, m)
  | some q =>
    let m := { m with samples := m.samples ++ [w],
                      tsFirst := if m.samples.isEmpty then s.tsAt (m.started * hps) else m.tsFirst }
    if m.count = m.n ∨ recSamples ≤ m.samples.length then
      let u := s.cl c
      ((s.setCl c { u with out := u.out ++ [s.measRec c m q] }).produce c, { m with samples := [], recNo := m.recNo + 1 })
    else (s, m)

/-- The ADC `k` has converted a sample: the code as converted, before correction. -/
def State.adcDone (s : State) (c k : Nat) (raw : Int) : State :=
  match s.adcList c k with
  | [] => s
  | m :: rest =>
    if s.now < m.started + 400 then s
    else
      let n := 32 * c + m.ch
      let a := 4 * c + k
      let code := s.adcCode a raw
      let s := if calCode raw (s.calItem (a / 16) (itemAdc a 1)) (s.calItem (a / 16) (itemAdc a 0)) = code
        then s else s.chFlag n 6
      let w := sampleWord (s.pmuIr n) m.cur m.ch code
      let m := { m with count := m.count + 1, sum := m.sum + code }
      let s := s.capSample c m w
      match s.measSample c m w with
      | (s, m) =>
        let s := if m.count < m.n then s.setAdc c k ({ m with started := s.now } :: rest)
          else ((s.setAdc c k rest).measResult c m (BitVec.ofInt 32 m.sum)).adcStart c k (rest.length + 1)
        s.capSteepEnd c

/-- ADC_SAMPLE_DONE (R106, R179). -/
def execAdcSampleDone (c : Cl) (k : Fin 4) (code : Int) (s : State) : Result := .next (s.adcDone c k code)

end Sys2Proof.Machine
end

