-- ==== Sys2Proof/Machine/Setting.lean ====
section
/-!
DEFINITION. Settings of R49: the shadow copy and its take-up at a tick (R50), saturation (R151), validity of timing sets
(R184), permission for levels above 3.6 V (R161), comparator changes (R166, R167), bands, throttle and stretch groups
(R195, R367, R369), and the taps of calibration (R384).
-/
namespace Sys2Proof.Machine

open Sys2Proof

/-! ### The shadow copy -/

/-- Pseudo offset of edge RAM entry `i` (65,536 × cluster + INDEX) among the settings written. -/
def edgeOff (i : Nat) : Nat := 0x4000000 + i

/-- Notes that a setting was written since the last take-up. -/
def State.soil (s : State) (off : Nat) : State :=
  if s.dirty.contains off then s else { s with dirty := s.dirty ++ [off] }
/-- Pseudo offset of item `i` of the live user table. -/
def userOff (i : Nat) : Nat := 0x5000000 + i
/-- What the shadow copy holds at an offset. -/
def State.shadow (s : State) (off : Nat) : Word :=
  if 0x5000000 ≤ off then (Tbl.get 0 s.cal.utab (off - 0x5000000)).setWidth 32
  else if 0x4000000 ≤ off then Tbl.get 0 s.edge (off - 0x4000000)
  else s.rg off
/-- Puts a value into the shadow copy. -/
def State.putShadow (s : State) (off : Nat) (w : Word) : State :=
  if 0x5000000 ≤ off then { s with cal := { s.cal with utab := Tbl.set 0 s.cal.utab (off - 0x5000000) (w.setWidth 16) } }
  else if 0x4000000 ≤ off then { s with edge := Tbl.set 0 s.edge (off - 0x4000000) w }
  else s.setRg off w
/-- Keeps what the shadow copy holds at an offset that a write of this CCLK replaces (R50). -/
def State.lateNote (s : State) (off : Nat) : State :=
  if s.late.any fun e => e.off = off then s
  else { s with late := s.late ++
    [{ off := off, old := s.shadow off, dirty := s.dirty.contains off,
       bad := decide (0x4000000 ≤ off) && s.edgeBad.contains (off - 0x4000000) }] }
/-- Stores a setting in the shadow copy. -/
def State.setShadow (s : State) (off : Nat) (w : Word) : State := ((s.lateNote off).setRg off w).soil off

/-- Channel and register of an offset in a channel block. -/
def chanReg (off : Nat) : Option (Nat × Nat) :=
  let r := (off - 0x100000) % 0x40000
  if 0x100000 ≤ off ∧ off < 0x500000 ∧ 0x10000 ≤ r ∧ r < 0x12000 then
    some (32 * ((off - 0x100000) / 0x40000) + (r - 0x10000) / 0x100, r % 0x100)
  else none

/-- Timing set (256 × cluster + t) of a setting. -/
def timingSet (off : Nat) : Option Nat :=
  if 0x4000000 ≤ off then some ((off - 0x4000000) / 256)
  else
    let r := (off - 0x100000) % 0x40000
    if 0x100000 ≤ off ∧ off < 0x500000 ∧ 0x2000 ≤ r ∧ r < 0x2C00 then
      some (256 * ((off - 0x100000) / 0x40000) + r % 0x400 / 4)
    else none

/-! ### Channel settings (R151, R161, R166) -/

/-- Valid codes of a channel register (R150): register offset in the channel block. -/
def levelClamp (k : Nat) (code : Int) : Int :=
  if k = 0 ∨ k = 4 ∨ k = 8 ∨ k = 0x18 then clampI (-24000) 96000 code
  else if k = 0x20 ∨ k = 0x24 ∨ k = 0x44 ∨ k = 0x48 then clampI (-32000) 104000 code
  else if k = 0x10 ∨ k = 0x14 then clampI 0 100000 code
  else if k = 0x40 then clampI 1000 110000 code
  else code

/-- Code at the DAC of level register `k` of channel `n` for the vectors of steep `m`: VIH, VIL, VTT and VCOM under VLGAIN and
VLOFS, the thresholds of CH and CL under their taps (R49, R375, R383, R384). -/
def State.dacCode (s : State) (n k : Nat) (m : BitVec 64) (code : Int) : Int :=
  let item (i : Nat) : Int := s.calItemAt m (n / 128) (itemCh n i)
  if k = 0 ∨ k = 4 ∨ k = 8 ∨ k = 0x18 then levelClamp k (calCode code (item 3) (item 2))
  else if k = 0x20 then levelClamp k (code + (s.tapsFor n m).2.2.1)
  else if k = 0x24 then levelClamp k (code + (s.tapsFor n m).2.2.2)
  else levelClamp k code

/-- Code at the force DAC of channel `n`, under FGAIN and FOFS (R383). -/
def State.forceDac (s : State) (n : Nat) : Int :=
  let item (i : Nat) : Int := s.calItem (n / 128) (itemCh n i)
  if s.pmuMode n = 0 then 0 else forceClamp (s.pmuMode n) (calCode (s.pmuCode n) (item 7) (item 6))

/-- Registers that hold configuration and no code. -/
def isCfgReg (k : Nat) : Bool := k = 0x0C || k = 0x28 || k = 0x34

/-- The value that a channel register takes up. -/
def levelWord (k : Nat) (w : Word) : Word :=
  if isCfgReg k then w else BitVec.ofNat 32 (unsigned 18 (levelClamp k (signed 18 (fld w 0 18))))

/-- Comparators of channel `n` follow a new configuration: `old` and `new` are whole CH_CMPCFG values (R166, R167). The watch of a
parked channel begins anew with a comparator that becomes enabled or changes mode, M0 and M1 running as M2 (R157). -/
def State.cmpTakeUp (s : State) (n : Nat) (old new : Word) : State :=
  (List.range 4).foldl
    (fun s k =>
      let m (w : Word) : Nat := let v := fld w (8 * k) 2; if 2 ≤ k ∧ v = 0 then 1 else v
      let s := if 2 ≤ k ∧ fld new (8 * k) 2 = 0 ∧ flag new (8 * k + 7)
        then s.noticeCl (n / 32) (chOff Off.chCmpcfg n) (s.chSite n) else s
      let was := m old
      let now := m new
      let parked := s.parkedCh n
      if flag old (8 * k + 7) ≠ flag new (8 * k + 7) ∨ (flag new (8 * k + 7) ∧ was ≠ now ∧ (!parked ∨ 2 < max was now))
      then (if parked then (if k < 2 then s.setWatch n k (s.side n k) else s) else s.cmpStart n k) else s) s

/-- Takes up one register of a channel. -/
def State.chanTakeUp (s : State) (n k off : Nat) : State :=
  let w := s.rg off
  let v := levelWord k w
  let s := if v = w then s else (s.chFlag n 6).noticeCl (n / 32) (chOff Off.chStat n) (s.chSite n)
  let old := s.ap off
  let s := s.setAp off v
  if k = 0x28 then s.cmpTakeUp n old v else s

/-- Levels above 3.6 V without permission keep the previous set, and the denied shadow is discarded (R161); TERM, which
brings VTT into the swing, stays with it (DEDUCED, log 29). -/
def State.hvCheck (s : State) (n : Nat) : State :=
  let o (f : Nat → Nat → Nat) : Nat := chOff f n
  let lv (f : Nat → Nat → Nat) (k : Nat) : Int := signed 18 (fld (levelWord k (s.rg (o f))) 0 18)
  let hot := [o Off.chVih, o Off.chVil, o Off.chVtt, o Off.chDrvcfg].any fun x => s.dirty.contains x
  if hot && hvLevels (lv Off.chVih 0) (lv Off.chVil 4) (lv Off.chVtt 8) (s.rb (o Off.chDrvcfg) 31) && !s.gate n true
  then
    let back := [o Off.chVih, o Off.chVil, o Off.chVtt]
    let s := back.foldl (fun s x => s.setRg x (s.ap x)) s
    let d := o Off.chDrvcfg
    let s := s.setRg d (setFlag (s.rg d) 31 (flag (s.ap d) 31))
    let s := { s with dirty := s.dirty.filter fun x => !back.contains x }
    (s.chFlag n 2).violGate n
  else s

/-- A VCLL above VCLH is applied at VCLH (R177). -/
def State.vcllFix (s : State) (n : Nat) : State :=
  let h := chOff Off.chVclh n
  let l := chOff Off.chVcll n
  let lo := levelWord 0x48 (s.rg l)
  let s := if s.ap l = lo ∨ s.dirty.contains l then s else s.setAp l lo
  if signed 18 (fld (s.ap h) 0 18) < signed 18 (fld (s.ap l) 0 18) then s.setAp l (s.ap h) else s

/-- Takes up the settings of every channel that has some. -/
def State.chansTakeUp (s : State) : State :=
  let chans := (s.dirty.filterMap fun x => (chanReg x).map (·.1)).foldl
    (fun l n => if l.contains n then l else l ++ [n]) []
  let s := chans.foldl State.hvCheck s
  let due := s.dirty.filterMap fun x => (chanReg x).map fun e => (e, x)
  let s := due.foldl (fun s e => s.chanTakeUp e.1.1 e.1.2 e.2) s
  let s := { s with dirty := s.dirty.filter fun x => (chanReg x).isNone }
  chans.foldl State.gateNote (chans.foldl State.vcllFix s)

/-! ### Timing sets (R183, R184, R198) -/

/-- Edge entry of the shadow copy: timing set `ts` (256 × cluster + t), channel index `i`, slot `k`. -/
def State.edgeSh (s : State) (ts i k : Nat) : Word := Tbl.get 0 s.edge (256 * ts + 8 * i + k)

/-- Edge conditions of R184 for one channel, `p` being the period in half picoseconds. -/
def State.edgesOk (s : State) (ts i p : Nat) (window : Bool) : Bool :=
  let e (k : Nat) : Nat := fld (s.edgeSh ts i k) 0 24
  let d := fld (s.edgeSh ts i 6) 0 3
  (List.range 6).all (fun k => decide (2 * e k < p)) && decide (e 0 ≤ e 1) &&
    (!(d = 1 || d = 2 || d = 3) || decide (e 1 ≤ e 2)) && (!(d = 4) || decide (e 1 ≤ e 3)) &&
    (!window || decide (e 4 ≤ e 5)) && decide (d ≤ 4)

/-- An entry of the timing set holds an uncorrectable error (R198). -/
def State.tsBad (s : State) (ts : Nat) : Bool := s.edgeBad.any fun i => i / 256 = ts

/-- The timing set is valid as its shadow values stand. -/
def State.tsValid (s : State) (ts : Nat) : Bool :=
  let c := ts / 256
  let t := ts % 256
  let w := s.rg (Off.tsPeriod c t)
  let p := 2 * fld w 0 24 + (if flag w 31 then 1 else 0)
  decide (625 ≤ p) && (List.range 32).all (fun i => s.edgesOk ts i p (s.rb (Off.tsCtl c t) 0)) && !s.tsBad ts

/-- Applies one pending value of a timing set. -/
def State.tsApply (s : State) (off : Nat) : State :=
  if 0x4000000 ≤ off then
    let i := off - 0x4000000
    { s with edgeApp := Tbl.set 0 s.edgeApp i (Tbl.get 0 s.edge i), edgeLost := s.edgeLost.filter (· ≠ i) }
  else s.setAp off (s.rg off)

/-- Words of the shadow copy may be found to hold an error as the timing sets with pending values are taken up (R198, R341). -/
def State.edgeMeet (s : State) : State :=
  let sets := (s.dirty.filterMap timingSet).foldl (fun l t => if l.contains t then l else l ++ [t]) []
  let words := sets.flatMap fun t => (List.range 256).map (256 * t + ·)
  let met (n : Nat) := words.filter fun i => !s.edgeBad.contains i && decide ((Config.edgeMeet s.freeCtr i).val = n)
  let s := { s with edgeBad := s.edgeBad ++ met 2 }
  ((met 1).foldl (fun s i => s.corrected (48 + i / 65536) (i % 65536)) s).fresh

/-- The lost words of timing set `t` count in the error counters of its edge RAM (R198, R341). -/
def State.tsLost (s : State) (t : Nat) : State :=
  (s.edgeBad.filter fun i => i / 256 = t).foldl (fun s i => s.uncorrected (48 + t / 256) (i % 65536)) s

/-- Rejects the timing sets `bad` of cluster `c`. -/
def State.tsReject (s : State) (c : Nat) (bad : List Nat) : State :=
  match bad.mergeSort (· ≤ ·) with
  | [] => s
  | first :: _ =>
    let o := Off.tsErr c
    let s := ((s.setRb o 31 true).count o 8 8 bad.length).setRf o 0 8 (first % 256)
    let s := if bad.any s.tsBad then s.setRb o 30 true else s
    (bad.foldl State.tsLost s).noticeCl c o

/-- Takes up every valid timing set with pending values; the others stay pending. -/
def State.tsTakeUp (s : State) : State :=
  let sets := (s.dirty.filterMap timingSet).foldl (fun l t => if l.contains t then l else l ++ [t]) []
  let bad := sets.filter fun t => !s.tsValid t
  let due := s.dirty.filter fun x => match timingSet x with
    | some t => !bad.contains t
    | none => false
  let s := due.foldl State.tsApply s
  let s := { s with dirty := s.dirty.filter fun x => !due.contains x }
  s.each ((List.range 16).filter fun c => bad.any fun t => t / 256 = c) fun c s =>
    s.tsReject c (bad.filter fun t => t / 256 = c)

/-! ### Thermal selections (R195, R366 to R369) -/

/-- A signed temperature field. -/
def temp (v : Nat) : Int := signed 16 v
/-- TG of quadrant `q` (R366). -/
def State.tgov (s : State) (q : Nat) : Int :=
  let a := temp (s.rf (Off.thmTa q) 0 16)
  if s.rb (Off.thmQstat q) 31 then max a (temp (s.rf (Off.thmTb q) 0 16)) else a
/-- Lower bound of band `k`, from 1. -/
def bandLow (k : Nat) : Int := match k with
  | 1 => 720 | 2 => 1120 | 3 => 1440 | _ => 1680
/-- Highest band whose lower bound, lowered by `h`, is at most `t`. -/
def bandUp (t h : Int) : Nat := ([1, 2, 3, 4].filter fun k => bandLow k - h ≤ t).length
/-- The band after a tick. -/
def bandStep (b : Nat) (t : Int) : Nat :=
  if b < bandUp t 0 then bandUp t 0 else if bandUp t 32 < b then bandUp t 32 else b
/-- Comparator bias step of quadrant `q`: its band (R368). -/
def State.biasStep (s : State) (q : Nat) : Nat := s.rf (Off.thmQstat q) 28 3
/-- DRAM refresh interval in ns, from the memory band (R368). -/
def State.refreshNs (s : State) : Nat := match s.rf Off.thmStat 28 3 with
  | 3 => 1950 | 4 => 975 | _ => 3900
/-- The stretch code of quadrant `q` from the THR_CTL taken up. -/
def State.stretchCode (s : State) (q : Nat) : Nat :=
  let w := s.ap Off.thrCtl
  if flag w 31 then min 65535 (fld w 16 8 * (s.tgov q - temp (fld w 0 16)).toNat) else 0

/-- Quadrants in which site `k` has resources (SITE_CLMASK.QMASK, R21). -/
def State.siteQuads (s : State) (k : Nat) : List Nat :=
  idxs 4 fun q =>
    (s.siteChans k).any (fun n => n / 128 = q) || (s.siteRails k).any (fun r => r / 16 = q) ||
      (s.siteAux k).any fun a => (a - 4) / 3 = q

/-- Sites with a channel, each with its quadrants. -/
def State.chanSites (s : State) : List (Nat × List Nat) :=
  ((s.mapped.filterMap fun n => (s.chSite n)).foldl (fun l k => if l.contains k then l else l ++ [k]) []).map
    fun k => (k, s.siteQuads k)

/-- One round of the closure that makes a stretch group (R195). -/
def growGroup (sites : List (List Nat × List Nat)) (g : List Nat) : List Nat :=
  idxs 4 fun q => g.contains q || sites.any fun e => e.1.any (fun x => g.contains x) && e.2.contains q

/-- Stretch group of quadrant `q`: closed under the quadrants of every site with a channel in it. -/
def State.stretchGroup (s : State) (q : Nat) : List Nat :=
  let sites := s.chanSites.map fun e => (((s.siteChans e.1).map fun n => n / 128), e.2)
  (List.range 3).foldl (fun g _ => growGroup sites g) (growGroup sites [q])

/-- Bands, stretch codes and groups at a tick; the groups follow the site map that SITE_CLMASK shows, which a write of the tick's
CCLK has not reached (R14). -/
def State.thermalTick (s : State) : State :=
  let s := (List.range 4).foldl
    (fun s q =>
      let t := s.tgov q
      let o := Off.thmQstat q
      let s := s.setRg o (setFld (setFld (s.rg o) 28 3 (bandStep (s.band q) t)) 0 16 (s.stretchCode q))
      { (s.setAp o (s.rg o)) with cal := { s.cal with tg := Tbl.set 0 s.cal.tg q t } })
    { s with cal := { s.cal with tgP := s.cal.tg } }
  let s := s.setRf Off.thmStat 28 3 (bandStep (s.rf Off.thmStat 28 3) (temp (s.rf Off.thmChip 16 16)))
  let map := s.regBack
  (List.range 4).foldl
    (fun s q =>
      let g := map.stretchGroup q
      let code := g.foldl (fun m x => max m (s.rf (Off.thmQstat x) 0 16)) 0
      let mask := g.foldl (fun m x => m + 2 ^ x) 0
      (List.range 4).foldl
        (fun s j =>
          let o := Off.clStretch (4 * q + j)
          let w := BitVec.ofNat 32 (mask * 0x10000 + code)
          (s.setRg o w).setAp o w) s) s

/-! ### Taps (R384) -/

/-- One step of at most 1 toward a target. -/
def tapStep (jump : Bool) (cur target : Int) : Int := if jump then target else cur + clampI (-1) 1 (target - cur)

/-- The applied taps of channel `n` move toward their targets; LAG follows. -/
def State.tapChan (s : State) (n : Nat) (jump : Bool) : State :=
  let q := n / 128
  let cs := Off.calCstat n
  let tg (i : Nat) : Int := s.calItem q (itemCh n i)
  let tD := tg 0 + signed 8 (s.rf cs 24 8) + s.sync.corr
  let tS := tg 1 + signed 8 (s.rf cs 16 8) + s.sync.corr
  let u := s.ch n
  let u' := { u with tapOld := (u.tapDrv, u.tapStb, u.tapCh, u.tapCl), tapDrv := tapStep jump u.tapDrv tD, tapStb := tapStep jump u.tapStb tS,
                     tapCh := tapStep jump u.tapCh (tg 4), tapCl := tapStep jump u.tapCl (tg 5) }
  let lag (v t : Int) : Bool := decide (1 < (t - v).natAbs)
  let w := setFlag (setFlag (setFlag (setFlag (s.rg cs) 3 (lag u'.tapDrv tD)) 2 (lag u'.tapStb tS)) 1
    (lag u'.tapCh (tg 4))) 0 (lag u'.tapCl (tg 5))
  (s.setCh n u').setRg cs w

/-- Cluster `c` is halted or parked with an empty FIFO. -/
def State.clQuiet (s : State) (c : Nat) : Bool :=
  ((s.sq c).mode = .halted || s.parkReq c || s.clParked c) && (s.cl c).fifo.isEmpty && (s.cl c).cur.isNone

/-- The channels that are assigned, or that have been since reset. -/
def State.chansKnown (s : State) : List Nat := s.mapped ++ (s.chan.map (·.1)).filter fun n => !s.mapped.contains n
/-- The channels move; those of `left` have just left their park state. One that has never been assigned shows no lag: it
jumps as it leaves its park state (DESIGN CHOICE, log 88). -/
def State.tapsTick (s : State) (left : List Nat) : State :=
  s.each s.chansKnown fun n s => s.tapChan n (left.contains n || s.clQuiet (n / 32))

/-! ### The take-up (R50) -/

/-- The shadow copy as it stood before this CCLK. -/
def State.lateBack (s : State) : State :=
  s.late.foldl
    (fun s e =>
      let s := s.putShadow e.off e.old
      { s with
        dirty := if e.dirty then s.dirty else s.dirty.filter (· ≠ e.off)
        edgeBad := if e.bad then s.edgeBad ++ [e.off - 0x4000000] else s.edgeBad }) s
/-- The writes of this CCLK, as `t` holds them, wait for the next tick. -/
def State.lateAgain (s t : State) : State :=
  t.late.foldl
    (fun s e =>
      let s := s.putShadow e.off (t.shadow e.off)
      if 0x5000000 ≤ e.off then s
      else
        let i := e.off - 0x4000000
        State.soil { s with edgeBad := if 0x4000000 ≤ e.off ∧ !t.edgeBad.contains i then s.edgeBad.filter (· ≠ i) else s.edgeBad }
          e.off) s

/-- Takes up every shadow write that waits; the values of the steep before stay in `appPrev`. -/
def State.takeAll (s : State) : State :=
  let s := { s with appPrev := s.app, edgePrev := s.edgeApp, edgeGone := s.edgeLost, cal := { s.cal with utabA := s.cal.utab, utabP := s.cal.utabA } }
  let s := s.chansTakeUp.tsTakeUp
  let due := s.dirty.filter fun x => (timingSet x).isNone
  let s := due.foldl (fun s x => s.setAp x (s.rg x)) s
  { s with dirty := s.dirty.filter fun x => (timingSet x).isSome }

/-- Takes up every shadow write stored in a CCLK before the tick's. -/
def State.takeUp (s : State) : State := s.lateBack.edgeMeet.takeAll.lateAgain s

end Sys2Proof.Machine
end

