-- ==== Sys2Proof/Machine/Rails.lean ====
section
/-!
DEFINITION. DUT rails and site power (R286 to R296, R312, R372 to R374): writes of the rail registers, the six states,
the A-path trips, the warden's permit, stuck enables, and power requests of a site.
-/
namespace Sys2Proof.Machine

open Sys2Proof

/-! ### The warden's permits (R312) -/

/-- Conditions under which slice q keeps RAIL_EN_B of rail `r` high. -/
def State.railKeep (s : State) (r : Nat) : Bool :=
  s.wardOk && decide (s.limit (Off.wlRvmax r) ≠ 0) && decide (s.limit (Off.wlRimax r) ≠ 0) && !(s.rl r).viol &&
    !(s.rl r).reqSafe
/-- Conditions under which it grants it. -/
def State.railGrant (s : State) (r : Nat) : Bool := (s.rl r).breq && s.railKeep r && !s.safe

/-- The same for KEN_B of zone `q`. -/
def State.kzKeep (s : State) (q : Nat) : Bool :=
  s.wardOk && decide (s.limit (Off.wlZone q) ≠ 0) && !(s.kz q).viol && !(s.kz q).reqSafe
/-- Conditions under which it grants it. -/
def State.kzGrant (s : State) (q : Nat) : Bool := (s.kz q).ena && s.kzKeep q && !s.safe

/-- A condition of RAIL_EN_B has lapsed: the warden removes it, the rail enters DISCH, and the owning site is fenced
(R28). -/
def State.railLapse (s : State) (r : Nat) : State :=
  let s := s.wardenCut r
  match s.railSite r with
  | some k => if s.fenced k then s.siteStep k else (s.fenceSite k (wdEv (0x4000 + r))).siteStep k
  | none => s

/-- Every permit follows its conditions. -/
def State.permitsCheck (s : State) : State :=
  let s := s.each ((List.range 64).filter fun r => (s.rl r).bgrant && !s.railKeep r) fun r s => s.railLapse r
  let s := s.each ((List.range 4).filter fun q => (s.kz q).bgrant && !s.kzKeep q) fun q s => s.wardenZoneCut q
  let s := s.each ((List.range 4).filter fun q => !(s.kz q).bgrant && decide (s.kzState q = 2) && s.kzGrant q)
    fun q s => (s.setKz q { s.kz q with bgrant := true, bLowAt := none }).setRb (Off.kzStat q) 27 true
  s.gatesCheck

/-! ### Writes of the rail registers (R287, R291) -/

/-- A discarded write of rail `r`. -/
def State.railReject (s : State) (r : Nat) : State :=
  (s.setRb (Off.railStat r) 20 true).notice (0x4000 + r) 0 (Off.railStat r) (s.railSite r)
/-- Nearest valid code of a written one; SAT where they differ. -/
def State.railSat (s : State) (r : Nat) (lo hi : Int) (v : Word) : State × Word :=
  let c := signed 18 (fld v 0 18)
  let d := clampI lo hi c
  (if d = c then s else s.setRb (Off.railStat r) 19 true, BitVec.ofNat 32 d.toNat)

/-- V lies within VTOL of VSET in the last measurement. -/
def State.railInTol (s : State) (r : Nat) : Bool :=
  let v := signed 18 (s.rf (Off.railV r) 0 18)
  decide ((v - (s.rf (Off.railVset r) 0 18 : Nat)).natAbs ≤ s.rf (Off.railCfg r) 16 16)

/-- CCLK at which the setpoint of a ramp-up reaches its target. -/
def State.railReach (s : State) (r : Nat) : Nat :=
  let u := s.rl r
  let up := max 1 (s.rf (Off.railRamp r) 0 16)
  u.accAt + ((u.acc - u.target * 800) + (u.target * 800 - u.acc) + (up - 1)) / up

/-- The setpoint stands at its target: it was reached in an earlier CCLK, and no break follows from a write that leaves the
target alone (R288). -/
def State.railStands (s : State) (r : Nat) : Bool :=
  let st := s.railState r
  decide (st = railUpRamp ∨ st = railUpSt) && decide (s.railReach r ≤ s.now)
/-- Takes the present setpoint as the start of a new move; one that stands keeps the CCLK in which it came to stand. -/
def State.railKeepHold (s : State) (r : Nat) : State :=
  if s.railStands r then s.setRl r { s.rl r with acc := (s.rl r).target * 800, accAt := s.railReach r } else s.railHold r

/-- The setpoint heads for VSET from where it stands. -/
def State.railAim (s : State) (r : Nat) : State :=
  let s := s.railHold r
  s.setRl r { s.rl r with target := s.rf (Off.railVset r) 0 18, tolAt := if s.railInTol r then some s.now else none }

/-- A write of RAIL_VSET. -/
def State.railVset (s : State) (r : Nat) (v : Word) : State :=
  let (s, w) := s.railSat r 0 96000 v
  if s.rf (Off.railVmax r) 0 18 < w.toNat then s.railReject r
  else
    let s := s.setRg (Off.railVset r) w
    if (s.railState r = railUpRamp ∨ s.railState r = railUpSt) ∧ (s.rl r).target ≠ w.toNat then s.railAim r else s
/-- A write of RAIL_VMAX. -/
def State.railVmax (s : State) (r : Nat) (v : Word) : State :=
  let (s, w) := s.railSat r 0 96000 v
  if w.toNat < s.rf (Off.railVset r) 0 18 then s.railReject r else s.setRg (Off.railVmax r) w
/-- A write of RAIL_ILIM. -/
def State.railIlim (s : State) (r : Nat) (v : Word) : State :=
  let (s, w) := s.railSat r 1 131071 v
  s.setRg (Off.railIlim r) w
/-- A write of RAIL_RAMP: a rate of 0 is stored as 1, and a running ramp goes on at the new rate. -/
def State.railRamp (s : State) (r : Nat) (v : Word) : State :=
  let w := if fld v 16 16 = 0 then setFld v 16 16 1 else v
  let w := if fld w 0 16 = 0 then setFld w 0 16 1 else w
  (s.railKeepHold r).setRg (Off.railRamp r) w
/-- A write of RAIL_CFG. -/
def State.railCfg (s : State) (r : Nat) (v : Word) : State :=
  if s.railState r = railOffSt then s.setRg (Off.railCfg r) (v &&& 0xFFFF3FFF) else s.railReject r

/-- RAIL_VSET_WRITE (R291). -/
def execRailVsetWrite (p : Party) (r : Rail) (v : Word) (s : State) : Result :=
  .next (s.gateWrite p .pf0 (Off.railVset r) v fun s => s.railVset r v)
/-- RAIL_VMAX_WRITE (R291). -/
def execRailVmaxWrite (p : Party) (r : Rail) (v : Word) (s : State) : Result :=
  .next (s.gateWrite p .pf0 (Off.railVmax r) v fun s => s.railVmax r v)
/-- RAIL_CFG_WRITE (R291). -/
def execRailCfgWrite (p : Party) (r : Rail) (v : Word) (s : State) : Result :=
  .next (s.gateWrite p .pf0 (Off.railCfg r) v fun s => s.railCfg r v)

/-! ### The six states (R288 to R290) -/

/-- A state in which the A-path limits apply: ENABLE to RAMPDN. -/
def State.railLive (s : State) (r : Nat) : Bool :=
  let st := s.railState r
  decide (st = railEnSt ∨ st = railUpRamp ∨ st = railUpSt ∨ st = railDnRamp)
/-- Rail `r` is energized: until the CCLK in which its discharge completes (R289). -/
def State.energized (s : State) (r : Nat) : Bool :=
  decide (s.railState r ≠ railOffSt) || decide ((s.rl r).lowAt = some s.now)
/-- The rail's site takes note of a change. -/
def State.railMoved (s : State) (r : Nat) : State :=
  match s.railSite r with
  | some k => if (s.st k).down then s.siteStep k else s.siteGo k
  | none => s.liftOk
/-- A trip of rail `r`. -/
def State.railFault (s : State) (r cause : Nat) : State :=
  if s.railLive r then (s.railTrip r cause).railMoved r else s

/-- RAIL_ENABLE_CONFIRM (R288): the warden grants RAIL_EN_B and both enables read back high. -/
def execRailEnableConfirm (r : Rail) (s : State) : Result :=
  .next (if s.railState r = railEnSt ∧ s.railGrant r then
      let s := s.setRl r { s.rl r with bgrant := true, bLowAt := none, since := s.now }
      let s := ((s.setRb (Off.railStat r) 27 true).setRb (Off.railStat r) 28 true).setRf (Off.railStat r) 29 3 railUpRamp
      State.railAim (s.setRl r { s.rl r with acc := 0, accAt := s.now }) r
    else s)

/-- RAIL_ENFAIL (R288, R290): 50 µs in ENABLE. -/
def execRailEnfail (r : Rail) (s : State) : Result :=
  .next (if s.railState r = railEnSt ∧ (s.rl r).since + 40000 ≤ s.now then s.railFault r 3 else s)

/-- RAIL_SETTLED (R288, R294): the setpoint has stood at VSET with V within VTOL for SETTLE CCLK. -/
def execRailSettled (r : Rail) (s : State) : Result :=
  .next (match (s.rl r).tolAt with
    | some t =>
      if s.railState r = railUpRamp ∧ max t (s.railReach r) + s.rf (Off.railTime r) 16 16 ≤ s.now then
        let s := (s.railHold r).setRf (Off.railStat r) 29 3 railUpSt
        State.railMoved (s.setRl r { s.rl r with since := s.now, tolAt := none }) r
      else s
    | none => s)

/-- RAIL_RAMPFAIL (R288, R290): not UP within VSET ÷ UP µs + 1 ms. -/
def execRailRampfail (r : Rail) (s : State) : Result :=
  let up := max 1 (s.rf (Off.railRamp r) 0 16)
  .next (if s.railState r = railUpRamp ∧
      (s.rl r).since + (s.rf (Off.railVset r) 0 18 * 800 + (up - 1)) / up + 800000 ≤ s.now
    then s.railFault r 4 else s)

/-- A rail in RAMPDN whose setpoint is 0 with V below 0.2 V enters DISCH (R288). -/
def State.railFloor (s : State) (r : Nat) : State :=
  if s.railState r = railDnRamp ∧ s.railAcc r = 0 ∧ signed 18 (s.rf (Off.railV r) 0 18) < 3200
  then (s.railDisch r).railMoved r else s
/-- The rails whose setpoints reach 0 in the present CCLK. -/
def State.railsGo (s : State) : State := s.each (s.rail.map (·.1)) fun r s => s.railFloor r

/-- A conversion of rail `r`: V and I in raw codes (R287, R383). A limit trips once while it lasts (R290). -/
def State.railMeas (s : State) (r : Nat) (v i : Int) : State :=
  let v := clampI 0 96000 (s.railVCode r v)
  let i := clampI (-131072) 131071 (s.railICode r i)
  let s := (s.setRg (Off.railV r) (BitVec.ofNat 32 (unsigned 18 v))).setRg (Off.railI r) (BitVec.ofNat 32 (unsigned 18 i))
  let u := s.rl r
  let lim := s.railLive r && decide (s.rf (Off.railIlim r) 0 18 ≤ i.natAbs)
  let note (b : Bool) (t : Option Nat) : Option Nat := if b then some (t.getD s.now) else none
  let above := s.railLive r && decide ((s.rf (Off.railVmax r) 0 18 : Int) < v)
  let s := (s.setRl r { u with
    ilimAt := note lim u.ilimAt
    ovNow := above
    ocDone := lim && u.ocDone
    tolAt := note (decide (s.railState r = railUpRamp) && s.railInTol r) u.tolAt
    lowAt := if s.railState r = railOffSt then u.lowAt
      else note (decide (s.railState r = railDischSt) && s.railLow r) u.lowAt }).setRb (Off.railStat r) 25 lim
  let s := if above && !u.ovNow then s.railFault r 1 else s
  s.railFloor r

/-- RAIL_MEASURE (R287). -/
def execRailMeasure (r : Rail) (v i : Int) (s : State) : Result := .next (s.railMeas r v i)

/-- RAIL_OC_TRIP (R290): the current limit has lasted IDLY CCLK. -/
def execRailOcTrip (r : Rail) (s : State) : Result :=
  .next (match (s.rl r).ilimAt with
    | some t =>
      if t + s.rf (Off.railTime r) 0 16 ≤ s.now ∧ !(s.rl r).ocDone
      then (s.setRl r { s.rl r with ocDone := true }).railFault r 2 else s
    | none => s)

/-- RAIL_DISCH_DONE (R288): V and I have stayed low for 10 µs. -/
def execRailDischDone (r : Rail) (s : State) : Result :=
  .next (match (s.rl r).lowAt with
    | some t =>
      if s.railState r = railDischSt ∧ t + 8000 ≤ s.now then
        let s := s.setRl r { s.rl r with since := s.now, lowAt := some s.now }
        (s.setRf (Off.railStat r) 29 3 railOffSt).railMoved r
      else s
    | none => s)

/-- RAIL_DTMO (R290): 10 ms in DISCH; no trip. -/
def execRailDtmo (r : Rail) (s : State) : Result :=
  let u := s.rl r
  .next (if s.railState r = railDischSt ∧ u.since + 8000000 ≤ s.now ∧ !u.dtmo then
      let s := (s.setRl r { u with dtmo := true }).setRf (Off.railStat r) 21 3 5
      s.f2 { cls := 2, src := 0x4000 + r, cause := 5, off := Off.railStat r, site := s.railSite r, wd := false } true
    else s)

/-! ### Stuck enables (R292, R326) -/

/-- CCLK at which an enable was driven low. -/
def State.lowSince (s : State) (e : Enable) : Option Nat := match e with
  | .railA r => (s.rl r).aLowAt
  | .railB r => (s.rl r).bLowAt
  | .kenA q => (s.kz q).aLowAt
  | .kenB q => (s.kz q).bLowAt

/-- The watch on an enable ends. -/
def State.unwatch (s : State) (e : Enable) : State := match e with
  | .railA r => s.setRl r { s.rl r with aLowAt := none }
  | .railB r => s.setRl r { s.rl r with bLowAt := none }
  | .kenA q => s.setKz q { s.kz q with aLowAt := none }
  | .kenB q => s.setKz q { s.kz q with bLowAt := none }

/-- Source, status register and read-back bit of an enable. -/
def stuckWhere (e : Enable) : Nat × Nat × Nat := match e with
  | .railA r => (0x4000 + r.val, Off.railStat r, 28)
  | .railB r => (0x4000 + r.val, Off.railStat r, 27)
  | .kenA q => (0x5000 + q.val, Off.kzStat q, 28)
  | .kenB q => (0x5000 + q.val, Off.kzStat q, 27)
/-- The warden drives the enable. -/
def byWarden (e : Enable) : Bool := match e with
  | .railB _ => true
  | .kenB _ => true
  | _ => false

/-- The site that an enable concerns: that of its rail (R485). -/
def State.enableSite (s : State) (e : Enable) : Option Nat := match e with
  | .railA r | .railB r => s.railSite r
  | _ => none

/-- STUCK_ENABLE (R292): an enable still reads high 2 µs after it was driven low. -/
def execStuckEnable (e : Enable) (s : State) : Result :=
  let w := stuckWhere e
  .next (match s.lowSince e with
    | some t =>
      if t + 1600 ≤ s.now then
        let s := (s.unwatch e).setRb w.2.1 w.2.2 true
        s.enterF5 { cls := 5, src := w.1, cause := 1, off := if byWarden e then Off.wdF5 else w.2.1, site := s.enableSite e,
                    wd := byWarden e } 1
      else s
    | none => s)

/-! ### Site power (R293 to R296) -/

/-- Condition 2 for one rail. -/
def State.railReady (s : State) (r : Nat) : Bool :=
  let vset := s.rf (Off.railVset r) 0 18
  let rs := s.rf (Off.railCfg r) 0 14
  decide (0 < vset) && decide (vset ≤ s.rf (Off.railVmax r) 0 18) && decide (rs / 5 < s.rf (Off.railIlim r) 0 18) &&
    decide (20 ≤ rs) && decide (rs ≤ 10000)

/-- What the rails of site `k` add to the admitted sum (R373). -/
def State.powerMore (s : State) (k : Nat) : Nat := railCost * ((s.siteRails k).filter fun r => !s.railCounts r).length

/-- The first condition of R293 that fails, 0 for none. -/
def State.powerCause (s : State) (k : Nat) : Nat :=
  let rails := s.siteRails k
  let more := s.powerMore k
  if !s.enabled k || s.fenced k then 1
  else if rails.isEmpty || !rails.all s.railReady then 2
  else if !s.rb Off.tdStat 30 || s.rb Off.tdStat 29 then 3
  else if s.budget < s.admSum + more then 4 else 0

/-- A write of REQ = 1: every one meets the conditions of R293. -/
def State.powerRequest (s : State) (k : Nat) : State :=
  let cause := s.powerCause k
  if cause ≠ 0 then (if cause = 4 then s.admReject else s).powerRefuse k cause
  else if s.rb (Off.sitePwr k) 31 then s
  else
    let s := { s with admNow := s.admNow + s.powerMore k }
    let s := (s.setRb (Off.sitePwr k) 31 true).setSt k { s.st k with pwrAt := some s.now }
    if s.siteOff k && !s.siteFalling k then (s.setPst k 1).upGroups k
    else (s.setSt k { s.st k with heldPwr := true }).enpend k

/-- A write of REQ = 0 (R295). -/
def State.powerRelease (s : State) (k : Nat) : State :=
  if s.rb (Off.sitePwr k) 31 || !s.siteOff k then s.rampDown k true else s

/-- A write of SITE_PWR[k]. -/
def State.sitePwrWrite (s : State) (k : Nat) (v : Word) : State :=
  let s := s.w1c .pf0 (Off.sitePwr k) 0x800 v
  if flag v 31 then s.powerRequest k else s.powerRelease k

/-- SITE_POWER_REQUEST (R293): a write of SITE_PWR[k]. -/
def execSitePowerRequest (p : Party) (k : Site) (v : Word) (s : State) : Result :=
  .next (s.gateWrite p .pf0 (Off.sitePwr k) v fun s => s.sitePwrWrite k v)
/-- SITE_POWER_RELEASE (R295): a write of SITE_PWR[k]. -/
def execSitePowerRelease (p : Party) (k : Site) (v : Word) (s : State) : Result :=
  .next (s.gateWrite p .pf0 (Off.sitePwr k) v fun s => s.sitePwrWrite k v)

end Sys2Proof.Machine
end

