-- ==== Sys2Proof/Machine/Kettle.lean ====
section
/-!
DEFINITION. Aux outputs (R297 to R299) and the kettle loop (R300 to R304).
-/
namespace Sys2Proof.Machine

open Sys2Proof

/-! ### Aux outputs -/

/-- A write of AUX_CFG[a]: read-only for AUX0 to AUX3; MODE is accepted only while EN = 0 (R298). -/
def State.auxCfgWrite (s : State) (a : Nat) (v : Word) : State :=
  let o := Off.auxCfg a
  if a < 4 then s
  else
    let on := s.rb o 31
    let s := if !on then s.setRb o 30 (flag v 30)
      else if flag v 30 = s.rb o 30 then s else s.setRb (Off.auxStat a) 28 true
    let s := s.setRb o 31 (flag v 31)
    if !flag v 31 then s.setAuxOut a 0
    else if on then s
    else s.auxDrive a (signed 18 (s.rf (Off.auxCode a) 0 18))

/-- A write of AUX_CODE[a]: read-only for AUX0 to AUX3; discarded while a waveform engine that targets the output is
ARMED or PLAYING (R299). -/
def State.auxCodeWrite (s : State) (a : Nat) (v : Word) : State :=
  if a < 4 then s
  else if s.weOnAux a then s.count (Off.auxStat a) 0 16 1
  else
    let c := signed 18 (fld v 0 18)
    let d := auxClamp a c
    let s := if d = c then s else s.setRb (Off.auxStat a) 29 true
    (s.setRg (Off.auxCode a) (BitVec.ofNat 32 (unsigned 18 d))).auxDrive a d

/-- AUX_CFG_WRITE (R298). -/
def execAuxCfgWrite (p : Party) (a : Fin 16) (v : Word) (s : State) : Result :=
  .next (s.gateWrite p .pf0 (Off.auxCfg a) v fun s => s.auxCfgWrite a v)
/-- AUX_CODE_WRITE (R299). -/
def execAuxCodeWrite (p : Party) (a : Fin 16) (v : Word) (s : State) : Result :=
  .next (s.gateWrite p .pf0 (Off.auxCode a) v fun s => s.auxCodeWrite a v)

/-! ### Start and stop of a zone (R303, R304) -/

/-- A write of EN = 1; a zone whose F2 has not been cleared may not be enabled (R322). -/
def State.kzOn (s : State) (q : Nat) : State :=
  let bad := s.rf (Off.kzTh q) 16 16 = 0 ∨ s.rf (Off.kzTh q) 0 13 = 0 ∨ s.rf (Off.kzOut q) 0 17 = 0
  if bad ∨ s.rb (Off.kzStat q) 26 ∨ (s.f2Find (0x5000 + q)).isSome then s.setRb (Off.kzStat q) 22 true
  else if s.kzState q = 0 then s.kzStart q
  else if s.kzState q = 3 then s.setRb (Off.kzStat q) 29 true
  else s
/-- A write of EN = 0; in STOPPING it withdraws a pending enable. -/
def State.kzOffReq (s : State) (q : Nat) : State := (s.kzStop q).setRb (Off.kzStat q) 29 false

/-- A write of KZ_CTL. -/
def State.kzCtlWrite (s : State) (q : Nat) (v : Word) : State :=
  let o := Off.kzCtl q
  let s := (s.setRf o 0 16 (fld v 0 16)).setRb o 30 (flag v 30)
  if flag v 31 then s.kzOn q else s.kzOffReq q

/-- A write of KZ_TH, accepted only in OFF. -/
def State.kzThWrite (s : State) (q : Nat) (v : Word) : State :=
  if s.kzState q = 0 then s.setRg (Off.kzTh q) (v &&& 0xFFFF1FFF) else s

/-- KZ_ENABLE (R303): a write of KZ_CTL. -/
def execKzEnable (p : Party) (q : Quad) (v : Word) (s : State) : Result :=
  .next (s.gateWrite p .pf0 (Off.kzCtl q) v fun s => s.kzCtlWrite q v)
/-- KZ_DISABLE (R303): a write of KZ_CTL. -/
def execKzDisable (p : Party) (q : Quad) (v : Word) (s : State) : Result :=
  .next (s.gateWrite p .pf0 (Off.kzCtl q) v fun s => s.kzCtlWrite q v)
/-- KZ_TH_WRITE (R303). -/
def execKzThWrite (p : Party) (q : Quad) (v : Word) (s : State) : Result :=
  .next (s.gateWrite p .pf0 (Off.kzTh q) v fun s => s.kzThWrite q v)

/-- Both enables of a zone in STARTING have read back high: it enters RUN in the next update (R303). -/
def State.kzReady (s : State) (q : Nat) : Bool := decide (s.kzState q = 1) && (s.kz q).ena && (s.kz q).bgrant
/-- KZ_ENABLE_CONFIRM (R303): the warden grants KEN_B, and both enables read back high. -/
def execKzEnableConfirm (q : Quad) (s : State) : Result :=
  .next (if s.kzState q = 1 ∧ s.kzGrant q then
      let s := s.setKz q { s.kz q with bgrant := true, bLowAt := none }
      (s.setRb (Off.kzStat q) 27 true).setRb (Off.kzStat q) 28 true
    else s)
/-- KZ_ENFAIL (R303, R304): 50 µs in STARTING without both enables high. -/
def execKzEnfail (q : Quad) (s : State) : Result :=
  .next (if s.kzState q = 1 ∧ !s.kzReady q ∧ (s.kz q).since + 40000 ≤ s.now then s.zoneFault q 4 else s)
/-- KZ_STOP_DELAY (R303): KEN_A falls 1 ms after the stop began. -/
def execKzStopDelay (q : Quad) (s : State) : Result :=
  .next (match (s.kz q).stopAt with
    | some t => if s.kzState q = 3 ∧ t ≤ s.now then s.kenLow q else s
    | none => s)
/-- KZ_OFF (R303): KEN_A reads back low; an F2 of the zone is complete, and a pending enable starts it again. -/
def execKzOff (q : Quad) (s : State) : Result :=
  .next (if s.kzState q = 3 ∧ !(s.kz q).ena then
      let s := (s.setKzState q 0).f2Done (0x5000 + q) true
      let again := s.rb (Off.kzStat q) 29
      let s := s.setRb (Off.kzStat q) 29 false
      if again ∧ !s.rb (Off.kzStat q) 26 ∧ (s.f2Find (0x5000 + q)).isNone then s.kzStart q else s
    else s)

/-! ### The beta equation (R301) -/

/-- The series 2 × artanh z at 2^64 of a ratio z, given z² and the term in hand, `n` terms. -/
def artanhSum (zz : Int) : Nat → Nat → Int → Int → Int
  | 0, _, _, acc => acc
  | n + 1, k, term, acc => artanhSum zz n (k + 1) (term * zz / 2 ^ 64) (acc + 2 * term / (2 * k + 1))
/-- ln(a ÷ b) at 2^64, for a and b above 0: powers of two taken out first. -/
def lnFix (a b : Nat) : Int :=
  let up := Nat.log2 a
  let dn := Nat.log2 b
  let x := a * 2 ^ dn
  let y := b * 2 ^ up
  let z : Int := ((x : Int) - y) * 2 ^ 64 / (x + y)
  artanhSum (z * z / 2 ^ 64) 40 0 z 0 + ((up : Int) - dn) * 12786308645202655660

/-- Temperature of a thermistor reading in 1/16 °C; none where the equation gives none in its field. -/
def betaTemp (ohms rnom beta : Nat) : Option Int :=
  if ohms = 0 ∨ rnom = 0 ∨ beta = 0 then none
  else
    let den : Int := 100 * (beta : Int) * 2 ^ 64 + 29815 * lnFix ohms (10 * rnom)
    if den ≤ 0 then none
    else
      let num : Int := 29815 * (beta : Int) * 2 ^ 64
      let t := roundDiv (16 * (100 * num - 27315 * den)) (100 * den).toNat
      if t < -32768 ∨ 32767 < t then none else some t

/-- KZ_STAT.TEMP takes a reading. -/
def State.kzTemp (s : State) (q ohms : Nat) : State :=
  match betaTemp ohms (s.rf (Off.kzTh q) 16 16) (s.rf (Off.kzTh q) 0 13) with
  | some t => s.setRf (Off.kzStat q) 0 16 (unsigned 16 t)
  | none => s.fresh.setRf (Off.kzStat q) 0 16 (Config.kettleTemp s.freeCtr).toNat

/-! ### The update (R302) -/

/-- Control step: new output code and integrator (1/65,536 of a code) from the error. -/
def kzStep (u slew umax : Int) (i kp ki e : Int) (man : Option Int) : Int × Int :=
  let inew := i + ki * e
  let raw := match man with
    | some c => c
    | none => kp * e / 256 + inew / 65536
  let lim := min (max raw 0) umax
  let new := min (max lim (u - slew)) (u + slew)
  (new, if man.isNone ∧ (new = raw ∨ e.sign ≠ (raw - new).sign) then min (max inew 0) (umax * 65536) else i)

/-- A zone in RUN computes u. -/
def State.kzRun (s : State) (q : Nat) : State :=
  let f (off lo len : Nat) : Int := s.rf off lo len
  let e := signed 16 (s.rf (Off.kzCtl q) 0 16) - signed 16 (s.rf (Off.kzStat q) 0 16)
  let r := kzStep (f (Off.kzU q) 0 17) (f (Off.kzOut q) 20 12) (f (Off.kzOut q) 0 17) (s.kz q).i
    (f (Off.kzPi q) 16 16) (f (Off.kzPi q) 0 16) e
    (if s.rb (Off.kzCtl q) 30 then some (f (Off.kzMan q) 0 17) else none)
  (s.setKz q { s.kz q with i := r.2 }).setKzU q r.1.toNat

/-- The update of zone `q` with a reading of TH_CTL; a zone that is ready enters RUN with it. -/
def State.kzTick (s : State) (q ohms : Nat) : State :=
  let s := if s.kzReady q then State.setKzState (s.setKz q { s.kz q with since := s.now }) q 2 else s
  let live := decide (s.kzState q = 1 ∨ s.kzState q = 2)
  if 2000000 < ohms then if live then s.zoneFault q 2 else s
  else if ohms < 50 then if live then s.zoneFault q 3 else s
  else
    let s := s.kzTemp q ohms
    if live && decide (signed 16 (s.rf (Off.kzTmax q) 0 16) < signed 16 (s.rf (Off.kzStat q) 0 16)) then s.zoneFault q 1
    else if s.kzState q = 2 then s.kzRun q
    else s

/-- KZ_UPDATE (R301, R302). -/
def execKzUpdate (q : Quad) (ohms : Nat) (s : State) : Result := .next (s.kzTick q ohms)

end Sys2Proof.Machine
end

