-- ==== Sys2Proof/Machine/Touchdown.lean ====
section
/-!
DEFINITION. The touchdown interlock (R306 to R309). A CONTACT or LIFT_REQ command is a level seen after the filter of 16
CCLK. The warden's view of CONTACT follows the same edge (R312).
-/
namespace Sys2Proof.Machine

open Sys2Proof

/-- The warden sees CONTACT (WD_STAT.CONTACT), and its permits follow. -/
def State.wardContact (s : State) : State := State.permitsCheck (s.setSg Off.wdStat (setFlag (s.sg Off.wdStat) 24 true))

/-- CONTACT is lost: the permits of rails and zones fall without a fence of their own (R308, R312), and a gate in use opens
(R313). -/
def State.contactLost (s : State) : State :=
  let s := s.setSg Off.wdStat (setFlag (s.sg Off.wdStat) 24 false)
  let s := s.each ((List.range 64).filter fun r => (s.rl r).bgrant && !s.railKeep r) fun r s => (s.wardenCut r).railMoved r
  s.permitsCheck

/-- An unexpected lift: every enabled site is fenced, with one history entry for all (R308). -/
def State.unexpectedLift (s : State) : State :=
  let s := ((s.setRb Off.tdStat 27 true).count Off.tdCnt 16 16 1).fire evUnexplift
  let s := s.hist { cls := 3, src := 0xC000, cause := 0, off := Off.tdStat, site := none, wd := false } false
  if s.safe then s else s.each (idxs 128 fun k => s.enabled k) fun k s => s.fenceOnly k

/-- CONTACT_RISE (R306): the settle count starts. -/
def execContactRise (s : State) : Result :=
  .next (if s.rb Off.tdStat 31 then s
    else
      let s := State.fire ({ s with contactAt := some s.now }.setRb Off.tdStat 31 true) evContactRise
      s.wardContact)

/-- CONTACT_FALL (R306, R308). -/
def execContactFall (s : State) : Result :=
  .next (if !s.rb Off.tdStat 31 then s
    else
      let s := State.fire ({ s with contactAt := none }.setRb Off.tdStat 31 false) evContactFall
      let s := if s.rb Off.tdStat 30 then (s.setRb Off.tdStat 30 false).fire evSettledFall else s
      let s := if (List.range 64).any fun r => s.energized r then s.unexpectedLift else s
      s.contactLost)

/-- TD_SETTLED (R306): CONTACT has been high for TD_SETTLE CCLK. -/
def execTdSettled (s : State) : Result :=
  .next (match s.contactAt with
    | some t =>
      if t + (s.rg Off.tdSettle).toNat ≤ s.now ∧ !s.rb Off.tdStat 30
      then (s.setRb Off.tdStat 30 true).fire evSettledRise else s
    | none => s)

/-- LIFT_REQ_RISE (R307): every site's aux outputs go to code 0 and its rails ramp down; LIFT_OK follows when every rail
is OFF. A power request of the same CCLK is refused (R296). -/
def execLiftReqRise (s : State) : Result :=
  .next (if s.rb Off.tdStat 29 then s
    else
      let s := (s.setRb Off.tdStat 29 true).count Off.tdCnt 0 16 1
      let s := s.each (idxs 16 fun a => (s.auxSite a).isSome) fun a s => s.setAuxOut a 0
      let s := s.each (List.range 128) fun k s => (s.powerUndo k 3).rampDown k true
      s.liftOk)

/-- LIFT_REQ_FALL (R307): LIFT_OK falls, but not in F4 or F5 (R309). -/
def execLiftReqFall (s : State) : Result :=
  .next (if s.rb Off.tdStat 29 then
      let s := s.setRb Off.tdStat 29 false
      if s.safe ∨ !s.rb Off.tdStat 28 then s else (s.setRb Off.tdStat 28 false).fire evLiftOkFall
    else s)

end Sys2Proof.Machine
end

