-- ==== Sys2Proof/Machine/Warden.lean ====
section
/-!
DEFINITION. The warden's four slices (R311 to R318, R328, R330, R337, R365): ring, samples, heartbeat, ESTOP_N, the two
copies of the limit tables, limit writes, and the faults of its own path.
-/
namespace Sys2Proof.Machine

open Sys2Proof

/-- Writes a flag of WD_STAT. -/
def State.wdFlag (s : State) (i : Nat) (b : Bool) : State := s.setSg Off.wdStat (setFlag (s.sg Off.wdStat) i b)
/-- A class F4 or F5 event that the warden reports, recorded at a PF1 offset. -/
def wardEv (src cause off : Nat) : Ev := { cls := 4, src := src, cause := cause, off := off, site := none, wd := true }

/-! ### The ring (R311, R317, R318) -/

/-- WARDEN_RING_MESSAGE (R311): the slices that run exchange their state; RING shows that they agree. -/
def execWardenRingMessage (s : State) : Result :=
  .next (if s.ward.granting then
      let s := s.setSg Off.wdStat (setFld (s.sg Off.wdStat) 28 4 s.ward.alive.toNat)
      s.wdFlag 27 (!(flag (s.sg Off.wdF5) 31 && decide (fld (s.sg Off.wdF5) 28 3 = 2)))
    else s)

/-- SLICE_SILENT (R317): the message of slice `q` has been missing for 20 µs; its permits have dropped (R311). -/
def execSliceSilent (q : Quad) (s : State) : Result :=
  .next (if s.ward.granting && s.ward.alive.getLsbD q.val then
      let s := { s with ward := { s.ward with alive := s.ward.alive &&& ~~~(1#4 <<< q.val) } }
      (s.wdFlag (28 + q.val) false).wardenSafe (wardEv (0xA000 + q.val) 0 Off.wdStat)
    else s)

/-- SLICE_DISAGREE (R318): the slices' messages have differed for longer than 20 µs. -/
def execSliceDisagree (s : State) : Result :=
  .next (if s.ward.granting then (s.wdFlag 27 false).enterF5 (wardEv 0xA004 2 Off.wdF5) 2 else s)

/-! ### Samples (R315, R316) -/

/-- A sample of rail `r` on the warden's own scale. One violation counts per request. -/
def State.wardSample (s : State) (r : Nat) (v i : Int) : State :=
  let s := { s with ward := { s.ward with railV := Tbl.set 0 s.ward.railV r v } }
  let bad := decide (((s.limit (Off.wlRvmax r)).toNat : Int) < v) ||
    decide ((s.limit (Off.wlRimax r)).toNat < i.natAbs)
  let s := if bad && !(s.rl r).viol then s.violRail r else s
  s.gatesCheck

/-- WARDEN_SAMPLE (R315). -/
def execWardenSample (r : Rail) (v i : Int) (s : State) : Result := .next (s.wardSample r v i)

/-- WARDEN_THPROT_SAMPLE (R315): a reading of TH_PROT[q]. -/
def execWardenThprotSample (q : Quad) (ohms : Nat) (s : State) : Result :=
  .next (if (ohms < (s.limit (Off.wlZone q)).toNat ∨ 2000000 < ohms ∨ ohms < 50) ∧ !(s.kz q).viol
    then s.violZone q else s)

/-! ### Heartbeat and ESTOP_N (R314, R317, R328) -/

/-- HEARTBEAT_TIMEOUT (R314): no toggle within 1.25 ms of slice `q`'s oscillator, 1.136 ms at its fastest. -/
def execHeartbeatTimeout (q : Quad) (s : State) : Result :=
  .next (if s.ward.granting ∧ s.steep.hbAt + 908800 < s.now ∧ flag (s.sg Off.wdStat) 26
    then (s.wdFlag 26 false).wardenSafe (wardEv (0xA000 + q.val) 0 Off.wdStat) else s)

/-- ESTOP_N is low at READY or later: F4 through the A path, and the warden's safe action. -/
def State.estopAct (s : State) : State :=
  let s := s.enterF4 { cls := 4, src := 0xD000, cause := 0, off := Off.fuStat, site := none, wd := false }
  let s := { s with ward := { s.ward with safeAct := true } }
  (s.wdFlag 23 true).wardenAll

/-- ESTOP (R328): ESTOP_N is seen low after its filter; before READY the level is only noted. -/
def execEstop (s : State) : Result :=
  .next (if s.fault.estop then s
    else
      let s := ({ s with fault := { s.fault with estop := true } }).wdFlag 25 true
      let s := s.setRb Off.fuStat 28 true
      if s.rst.ready then s.estopAct else s)

/-! ### Limit tables (R330, R337) -/

/-- A limit register that a compare by slice `q` covers. -/
def limitOf (q off : Nat) : Bool :=
  if off < 0x200 then decide (off % 4 = 0) && decide (off / 128 = q)
  else decide (off = 0x400 + 4 * q) || decide (0x800 ≤ off ∧ off < 0xA00 ∧ off % 4 = 0)

/-- F2 naming the tables. -/
def State.tableF2 (s : State) (off : Nat) : State :=
  s.f2 { cls := 2, src := 0xA005, cause := 0, off := off, site := none, wd := true } true

/-- The second copy of a limit that slice `q` compares. -/
def State.lim2At (s : State) (q off : Nat) : Word := Tbl.get 0 s.ward.lim2 (lim2Key q off)

/-- The compare by slice `q`: words of the second copy that differ, and uncorrectable errors in either copy. -/
def State.limitCompare (s : State) (q : Nat) (second : List (Nat × Word)) (ue1 ue2 : Bool) : State :=
  let bit : BitVec 4 := 1#4 <<< q
  let put (m : BitVec 4) (b : Bool) : BitVec 4 := if b then m ||| bit else m &&& ~~~bit
  let new1 := ue1 && !s.ward.err1.getLsbD q
  let new2 := ue2 && !s.ward.err2.getLsbD q
  let again := (new1 && s.ward.was2.getLsbD q) || (new2 && s.ward.was1.getLsbD q)
  let mine : List (Nat × Word) := second.filter fun e => limitOf q e.1
  let offs : List Nat := (s.sec.map Prod.fst ++ s.ward.lim2.map fun (e : Nat × Word) => e.1 % 0x10000).filter fun o => limitOf q o
  let fresh := mine.find? fun e => decide (e.2 ≠ s.sg e.1) && decide (s.lim2At q e.1 = s.sg e.1)
  let lim2 := offs.foldl (fun t o => Tbl.set 0 t (lim2Key q o) (s.sg o)) s.ward.lim2
  let lim2 := mine.foldl (fun t e => Tbl.set 0 t (lim2Key q e.1) e.2) lim2
  let w := s.ward
  let s := { s with ward := { w with lim2 := lim2, err1 := put w.err1 ue1, err2 := put w.err2 ue2,
                                     was1 := if ue1 then put w.was1 true else w.was1,
                                     was2 := if ue2 then put w.was2 true else w.was2 } }
  let base := Off.wlRvmax (16 * q)
  let s := if ue1 && ue2 then (if new1 || new2 then s.enterF5 (wardEv 0xA005 4 Off.wdF5) 4 else s)
    else if again then s.enterF4 (wardEv 0xA005 0 base)
    else if new1 || new2 then s.tableF2 base
    else if ue1 || ue2 then s
    else match fresh with
      | some e => s.tableF2 e.1
      | none => s
  s.permitsCheck

/-- LIMIT_COPY_COMPARE (R330). -/
def execLimitCopyCompare (q : Quad) (second : List (Nat × Word)) (ue1 ue2 : Bool) (s : State) : Result :=
  .next (s.limitCompare q second ue1 ue2)

/-- A rejected limit write. -/
def State.limitReject (s : State) : State :=
  State.pirq (s.changeSg Off.wdViol fun w => satAdd w 16 8 1) 4

/-- Every bit of the first word is set in the second. -/
def subsetW (a b : Word) : Bool := decide (a &&& ~~~b = 0)

/-- A write of a limit by PF1: stored in every copy. -/
def State.limitWrite (s : State) (off : Nat) (v : Word) : State :=
  let old := s.limit off
  let store (s : State) (w : Word) : State :=
    let s := s.setSg off w
    let lim2 := (List.range 4).foldl (fun t q => Tbl.set 0 t (lim2Key q off) w) s.ward.lim2
    State.permitsCheck { s with ward := { s.ward with lim2 := lim2 } }
  if off < 0x200 then
    let w := v &&& 0x3FFFF
    if w.toNat ≤ old.toNat ∨ s.railState (off / 8) = railOffSt then store s w else s.limitReject
  else if 0x400 ≤ off ∧ off < 0x410 then
    let w := v &&& 0x1FFFFF
    if old.toNat ≤ w.toNat ∨ s.kzState ((off - 0x400) / 4) = 0 then store s w else s.limitReject
  else if 0x800 ≤ off ∧ off < 0xA00 then
    let w := v &&& 3
    if subsetW w old ∨ !s.enabled ((off - 0x800) / 4) then store s w else s.limitReject
  else s

/-- WARDEN_LIMIT_WRITE (R337): only PF1 writes the warden block. -/
def execWardenLimitWrite (p : Party) (off : BitVec 20) (v : Word) (s : State) : Result :=
  .next (s.gateWrite p .pf1 off.toNat v fun s => if p = .pf1 then s.limitWrite off.toNat v else s)

/-- A write of WL_TBND by PF1 (R365). -/
def State.tbndWrite (s : State) (v : Word) : State :=
  let up := decide (signed 16 (s.sf Off.wlTbnd 0 16) ≤ signed 16 (fld v 0 16))
  let calm := s.allRailsOff && (List.range 16).all fun c => s.clParked c
  if up || calm then s.setSg Off.wlTbnd (v &&& 0xFFFF) else s.limitReject

/-- WL_TBND_WRITE (R365). -/
def execWlTbndWrite (p : Party) (v : Word) (s : State) : Result :=
  .next (s.gateWrite p .pf1 Off.wlTbnd v fun s => if p = .pf1 then s.tbndWrite v else s)

/-! ### Permit path and time limit (R312, R324, R326) -/

/-- Source of a permit path fault: its channel, or its rail (of 64). -/
def pathSource (f : PermitPath) (n : Nat) : Nat := match f with
  | .railCopy => 0x4000 + n % 64
  | _ => 0x3000 + n

/-- The site that a permit path concerns: that of its rail or channel (R485). -/
def State.pathSite (s : State) (f : PermitPath) (n : Nat) : Option Nat := match f with
  | .railCopy => s.railSite (n % 64)
  | _ => s.chSite n

/-- GATE_READBACK_FAULT (R313, R326): the read-back of a gate differs from its command, or that of the warden's copy of a
site assignment from what was written. -/
def execGateReadbackFault (f : PermitPath) (n : Chan) (s : State) : Result :=
  .next (if s.ward.granting then s.enterF5 { wardEv (pathSource f n) 3 Off.wdF5 with site := s.pathSite f n } 3 else s)

/-- The permit removal 100 ms after entry to F4. -/
def State.permitSweep (s : State) : State :=
  let s := { s with fault := { s.fault with swept := true } }
  let s := s.each ((List.range 64).filter fun r => (s.rl r).bgrant || decide (s.railState r ≠ railOffSt)) fun r s =>
    (s.wardenCut r).railMoved r
  s.each ((List.range 4).filter fun q => (s.kz q).bgrant) fun q s => s.wardenZoneCut q

/-- F4_PERMIT_TIMEOUT (R324). -/
def execF4PermitTimeout (s : State) : Result :=
  .next (if s.fault.f4 ∧ !s.fault.swept ∧ s.fault.f4At + 80000000 ≤ s.now then s.permitSweep else s)

end Sys2Proof.Machine
end

