-- ==== Sys2Proof/Machine/Cal.lean ====
section
/-!
DEFINITION. Calibration (R375 to R390): the user and factory table ports, saves, and background measurements.
-/
namespace Sys2Proof.Machine

open Sys2Proof

/-! ### The table ports (R380) -/

/-- INDEX of an address register. -/
def State.calIndex (s : State) (off : Nat) : Nat := s.rf off 0 15
/-- An access increments INDEX. -/
def State.calNext (s : State) (off : Nat) : State := s.setRf off 0 15 (s.calIndex off + 1)

/-- Item of the live user table at CAL_UADDR. -/
def State.udata (s : State) : Word :=
  let i := s.calIndex Off.calUaddr
  if i < itemCount then (Tbl.get 0 s.cal.utab i).setWidth 32 else 0
/-- Item of the factory table at CAL_FADDR. -/
def State.fdata (s : State) : Word :=
  let i := s.calIndex Off.calFaddr
  if i < itemCount then (s.factoryHalf i).setWidth 32 else 0

/-- A write of CAL_UDATA: discarded with WREJ while a save runs. -/
def State.udataWrite (s : State) (v : Word) : State :=
  let i := s.calIndex Off.calUaddr
  let s := if s.cal.save.isSome then s.setRb Off.calStat 22 true
    else if i < itemCount then
      let s := s.lateNote (userOff i)
      { s with cal := { s.cal with utab := Tbl.set 0 s.cal.utab i (v.setWidth 16) } }
    else s
  s.calNext Off.calUaddr

/-- CAL_UDATA_READ (R380). -/
def execCalUdataRead (p : Party) (s : State) : Result :=
  .next (s.gateRead p .pf0 (.calUdataRead p) fun s => (s.answer p (.data s.udata)).calNext Off.calUaddr)
/-- CAL_UDATA_WRITE (R380). -/
def execCalUdataWrite (p : Party) (v : Word) (s : State) : Result :=
  .next (s.gateWrite p .pf0 Off.calUdata v fun s => s.udataWrite v)
/-- CAL_FDATA_READ (R380). -/
def execCalFdataRead (p : Party) (s : State) : Result :=
  .next (s.gateRead p .pf0 (.calFdataRead p) fun s => (s.answer p (.data s.fdata)).calNext Off.calFaddr)

/-! ### Saves (R389, R390) -/

/-- A rejected save. -/
def State.saveReject (s : State) : State := s.setRb Off.calStat 24 true

/-- Erases and page programs of a save: the 4 KiB sectors of a copy, and its pages. -/
def saveOps : Nat := copyRoom / 4096 + Config.savePages

/-- A write of CAL_SAVE: the target is the copy not in use, or A. -/
def State.calSaveWrite (s : State) (v : Word) : State :=
  if !flag v 0 then s
  else if s.cal.save.isSome ∨ s.cp.hdr.isNone then s.saveReject
  else
    let use := s.rf Off.calStat 30 2
    let seq := if use = 0 then 1 else s.rg Off.calSeq + 1
    let v : Save := { toB := decide (use = 1), seq := seq, left := saveOps, busy := false }
    (State.setRb { s with cal := { s.cal with save := some v } } Off.calStat 26 true).saveGo

/-- A write of CAL_SAVE by party `p`: in F4 and F5 it is discarded (R324), and a save is rejected (R389). -/
def State.calSavePort (s : State) (p : Party) (v : Word) (via : Bool := false) : State :=
  s.gateWrite p .pf0 Off.calSave v (fun s => s.calSaveWrite v) via
    (drop := fun s => if flag v 0 then s.saveReject else s)

/-- CAL_SAVE (R389). -/
def execCalSave (p : Party) (v : Word) (s : State) : Result := .next (s.calSavePort p v)

/-- CAL_SAVE_DONE (R389): after its last program the copy has been read back, when the port was the save's, and checked. -/
def execCalSaveDone (ok : Bool) (s : State) : Result :=
  .next (match s.cal.save with
    | none => s
    | some v =>
      if 0 < v.left ∨ !s.savePort then s
      else if ok then
        let s := State.setRb { s with cal := { s.cal with save := none } } Off.calStat 26 false
        ((s.setRf Off.calStat 30 2 (if v.toB then 2 else 1)).setRg Off.calSeq v.seq).setRb Off.calStat 25 true
      else s.saveFail)

/-! ### Background measurements (R385 to R388) -/

/-- A MEAS of channel index `i` of cluster `c` is pending. -/
def State.measPending (s : State) (c i : Nat) : Bool :=
  let u := s.cl c
  u.settling.any (fun m => decide (m.ch = i)) || u.adc.any (fun e => e.2.any fun m => decide (m.ch = i)) ||
    u.fifo.any fun e => match e.kind with
      | .meas m => decide (m.ch = i)
      | _ => false

/-- Channel index `i` of cluster `c` is eligible. -/
def State.bgEligible (s : State) (c i : Nat) : Bool :=
  let n := 32 * c + i
  let u := s.ch n
  let w := s.ap (chOff Off.chMoncfg n)
  ((s.cl c).idle && (s.cl c).fifo.isEmpty && (s.cl c).cur.isNone || s.parkedCh n) && u.lvl.isNone && !s.loadOn n none &&
    decide (s.pmuMode n = 0) && !s.measPending c i && !flag w 31 && !flag w 30

/-- The next path in turn whose channel is eligible: 2 × channel index, + 1 for the strobe path. -/
def State.bgTurn (s : State) (c : Nat) : Option Nat :=
  ((List.range 64).map fun j => ((s.cl c).bgNext + j) % 64).find? fun p => s.bgEligible c (p / 2)

/-- BG_CAL_START (R385). -/
def execBgCalStart (c : Cl) (i : Fin 32) (strobe : Bool) (s : State) : Result :=
  let u := s.cl c
  .next (if s.rst.ready ∧ s.rb Off.calCtl 31 ∧ u.bg.isNone ∧ s.bgTurn c = some (2 * i.val + if strobe then 1 else 0) then
      (s.setCl c { u with bg := some (i.val, strobe, s.now) }).setRb (Off.chStat c i) 30 true
    else s)

/-- The residual `r` of a path of channel `n` (R387). -/
def State.bgApply (s : State) (n : Nat) (strobe : Bool) (r : Int) : State :=
  let o := Off.calCstat n
  let lo := if strobe then 16 else 24
  let v := signed 8 (s.rf o lo 8) - r
  let b := clampI (-16) 16 v
  let s := s.setRf o lo 8 (unsigned 8 b)
  let s := if b = v then s else (s.setRb o 8 true).noticeAt o (s.chSite n)
  let u := s.ch n
  s.setCh n (if strobe then { u with stbAt := some s.now } else { u with drvAt := some s.now })

/-- BG_CAL_DONE (R387): the switch of a channel that is not parked closes again. -/
def execBgCalDone (c : Cl) (r : Int) (s : State) : Result :=
  let u := s.cl c
  .next (match u.bg with
    | some (i, strobe, t) =>
      if t + 400 ≤ s.now then
        let n := 32 * c.val + i
        let s := s.setCl c { u with bg := none, bgNext := (2 * i + (if strobe then 1 else 0) + 1) % 64 }
        let s := if s.parkedCh n then s else s.setRb (Off.chStat c i) 30 false
        s.bgApply n strobe r
      else s
    | none => s)

/-- Age of a path in ms (R388). -/
def State.pathAge (s : State) (last : Option Nat) : Nat := match last with
  | some t => min 65535 ((s.now - t) / 800000)
  | none => 65535

end Sys2Proof.Machine
end

