-- ==== Sys2Proof/Machine/CaptureCtl.lean ====
section
/-!
DEFINITION. Control of the capture engine (R108, R199 to R206, R218, R220, R222, R229): CAP at issue and at the pins, the
list registers, the re-arm, the governor's register and its rises; EVS entries at the pins (R109).
-/
namespace Sys2Proof.Machine

open Sys2Proof

/-! ### CAP at issue (R108, R199) -/

/-- Reserved bits of CAP: LIST and STEP but for an ARM. -/
def capRsv (arm : Bool) : List (Nat × Nat) := [(48, 6), (16, 24)] ++ if arm then [] else [(40, 8), (0, 16)]

/-- CAP with ACT TRIG (R108). -/
def execCapTrig (x : Sq) (w : BitVec 56) (mc : Option Micro) (s : State) : Result :=
  .next (if ifld w 54 2 = 0 then s.instr x 0x68 w mc (capRsv false) [] fun s => .next (s.pushEntry x .capTrig 1) 1 else s)
/-- CAP with ACT ARM (R108, R199): CAPLIST for a list that is not configured; rejected in bypass (R417). -/
def execCapArm (x : Sq) (w : BitVec 56) (mc : Option Micro) (s : State) : Result :=
  .next (if ifld w 54 2 = 1 then s.instr x 0x68 w mc (capRsv true) [] fun s =>
      let l := ifld w 40 8
      if 8 ≤ l ∨ !s.rb (Off.caplCfg x l) 31 then .trap 0x12 l
      else if s.bypass then .next s 1
      else .next (s.pushEntry x (.capArm l (w.setWidth 16)) 1) 1
    else s)
/-- CAP with ACT CLOSE (R108). -/
def execCapClose (x : Sq) (w : BitVec 56) (mc : Option Micro) (s : State) : Result :=
  .next (if ifld w 54 2 = 2 then s.instr x 0x68 w mc (capRsv false) [] fun s => .next (s.pushEntry x .capClose 1) 1 else s)
/-- CAP with ACT DISARM (R108). -/
def execCapDisarm (x : Sq) (w : BitVec 56) (mc : Option Micro) (s : State) : Result :=
  .next (if ifld w 54 2 = 3 then s.instr x 0x68 w mc (capRsv false) [] fun s => .next (s.pushEntry x .capDisarm 1) 1 else s)

/-! ### CAP entries at the pins (R201) -/

/-- Bounds of D: MINEXP, and max(MINEXP, MAXEXP) of the active list (R222). -/
def State.clampD (s : State) (c : Nat) : State :=
  let lo := s.rf (Off.capGov c) 16 4
  let hi := match (s.cap c).act with
    | some l => max lo (s.rf (Off.caplCfg c l) 24 4)
    | none => max lo (s.capD c)
  let e := s.cap c
  let s := s.setCap c { e with oldD := (clampN lo hi e.oldD.1, e.oldD.2) }
  let d := clampN lo hi (s.capD c)
  if d = s.capD c then s else (s.setRf (Off.capGovstat c) 28 4 d).govSplit c

/-- An ARM entry acts: the active list is closed and disarmed, the named one is ARMED. -/
def State.listArm (s : State) (c l : Nat) (step : BitVec 16) : State :=
  let s := s.capDisarm c 1 false
  let s := s.setCap c { s.cap c with act := some l, step := step, seg := none, piece := none, old := none, fired := [], dead := 0,
                                     truncAt := [] }
  ((s.setRf (Off.caplStat c l) 0 20 0).capArmedNow c l).clampD c

/-- LIST_ARM_APPLY (R201). -/
def execListArmApply (c : Cl) (s : State) : Result :=
  .next (match s.entryDue c with
    | some { kind := .capArm l step, .. } => (s.popEntry c).listArm c l step
    | _ => s)
/-- LIST_TRIG_APPLY (R201). -/
def execListTrigApply (c : Cl) (s : State) : Result :=
  .next (match s.entryDue c with
    | some { kind := .capTrig, .. } => (s.popEntry c).capTrigger c 0 0 fun _ => true
    | _ => s)
/-- LIST_CLOSE_APPLY (R201). -/
def execListCloseApply (c : Cl) (s : State) : Result :=
  .next (match s.entryDue c with
    | some { kind := .capClose, .. } => (s.popEntry c).closeSegment c 1 false false
    | _ => s)
/-- LIST_DISARM_APPLY (R201). -/
def execListDisarmApply (c : Cl) (s : State) : Result :=
  .next (match s.entryDue c with
    | some { kind := .capDisarm, .. } => (s.popEntry c).capDisarm c 1 false
    | _ => s)
/-- EVS_ENTRY_APPLY (R109). -/
def execEvsEntryApply (c : Cl) (s : State) : Result :=
  .next (match s.entryDue c with
    | some { kind := .evs src, .. } => (s.popEntry c).fire src
    | _ => s)

/-! ### Registers (R204, R222, R229) -/

/-- A write of the register at list base + 4 × `k`: CFG, LEN, CHMASK, ROUTE, TRG0 to TRG7. -/
def State.caplConfig (s : State) (c l k : Nat) (v : Word) : State :=
  if s.capState c l ≠ capIdle then (s.setRb (Off.caplStat c l) 28 true).noticeCl c (Off.caplStat c l)
  else s.setRg (Off.caplCfg c l + 4 * k)
    (v &&& (if k = 0 then 0xFF0FFFFF else if k = 1 then 0xFFFFFF else if k = 2 then 0xFFFFFFFF
      else if k = 3 then 0xF00FFFFF else 0xF00003FF))

/-- A write of CAP_GOV. -/
def State.capGovWrite (s : State) (c : Nat) (v : Word) : State :=
  let v := v &&& 0xFFFFF
  if fld v 8 8 = 0 ∨ fld v 8 8 ≤ fld v 0 8 then s.noticeCl c (Off.capGov c)
  else ((s.setRg (Off.capGov c) v).clampD c).capTouch c

/-- CAPL_CONFIG_WRITE (R204). -/
def execCaplConfigWrite (p : Party) (c : Cl) (l : Fin 8) (k : Fin 12) (v : Word) (s : State) : Result :=
  .next (s.gateWrite p .pf0 (Off.caplCfg c l + 4 * k) v fun s => s.caplConfig c l k v)
/-- CAP_GOV_WRITE (R229). -/
def execCapGovWrite (p : Party) (c : Cl) (v : Word) (s : State) : Result :=
  .next (s.gateWrite p .pf0 (Off.capGov c) v fun s => s.capGovWrite c v)

/-! ### Re-arm and governor -/

/-- The active list has finished re-arming: it enters ARMED, and the re-arm time goes to the next segment (R202, R218). -/
def State.rearm (s : State) (c : Nat) : State :=
  let e := s.cap c
  match e.act with
  | some l =>
    if s.capState c l = capRearm
    then (s.setCap c { e with dead := if e.closedAt ≤ s.tstamp then (s.tstamp - e.closedAt).toNat else 0, fired := [] }).capArmedNow c l
    else s
  | none => s

/-- REARM_COMPLETE (R202). -/
def execRearmComplete (c : Cl) (s : State) : Result := .next (s.rearm c)

/-- GOV_RISE (R220): pressure has persisted for 800 CCLK since the last rise. -/
def execGovRise (c : Cl) (s : State) : Result :=
  .next (match (s.cap c).pressAt with
    | some t => if s.pressed c ∧ t + 800 ≤ s.now then s.govRise c else s
    | none => s)

end Sys2Proof.Machine
end

