-- ==== Sys2Proof/Machine/Clocks.lean ====
section
/-!
DEFINITION. Clocks (R406 to R417): REFCLK and PLLA, the loss of clocks and the relock, PLLB with the oven, and the clock
outputs.
-/
namespace Sys2Proof.Machine

open Sys2Proof

/-- Frequency in MHz of output `k`: from PLLA's VCO of 6,400 MHz, or in bypass from BKOSC of 400 MHz (R408). -/
def State.clkMhz (s : State) (k : Nat) : Nat :=
  if !s.rb (Off.clkOut k) 31 then 0
  else if s.bypass then (if k = 4 then 200 else if k = 5 then 100 else 400) else 6400 / s.rf (Off.clkOut k) 8 7

/-- Writes REFPRES in CLK_STAT and TIU_TBSTAT. -/
def State.refPres (s : State) (b : Bool) : State := (s.setRb Off.clkStat 29 b).setRb Off.tiuTbstat 30 b

/-- Source of PLLA, and of REFCLK (R333). -/
def srcPlla : Nat := 0x9000
def srcRefclk : Nat := 0x9002

/-- Every cluster parks without a fence; its capture list closes with cause CLKLOSS (R414). -/
def State.clockPark (s : State) (c : Nat) : State :=
  if s.clParked c ∨ (s.cl c).parking then
    (s.setRb (Off.clPark c) 0 true).setRb (Off.clPark c) 30 false
  else s.parkCluster c 7

/-- The outputs run from BKOSC, and PLLA is no longer locked. -/
def State.unlock (s : State) (refclk : Bool) : State :=
  let s := (s.setRb Off.clkStat 31 false).setRb Off.clkStat 30 true
  let s := if refclk then (s.refPres false).count Off.tiuTbstat 0 16 1 else s
  { s with clk := { s.clk with relockAt := none, lockAt := if refclk then none else some s.now } }

/-- The F2 "clock degraded": none while an earlier one is uncleared, whose DONE then waits for the next relock (R416). -/
def State.clockF2 (s : State) (src : Nat) : State :=
  if (s.f2Find srcPlla).isSome ∨ (s.f2Find srcRefclk).isSome then
    (s.f2Done srcPlla false).f2Done srcRefclk false
  else s.f2 { cls := 2, src := src, cause := 1, off := Off.clkStat, site := none, wd := false } false

/-- A loss of clocks from READY onward (R414, R415). -/
def State.clockLoss (s : State) (refclk : Bool) : State :=
  let s := (s.unlock refclk).setRb Off.clkStat 27 true
  let s := s.count Off.clkStat 0 8 1
  let s := s.each (List.range 16) fun c s => s.clockPark c
  let s := s.each (List.range 8) fun t s =>
    if s.tiuState t = 1 ∧ !s.rb (Off.tiuCfg t) 31 then s.tiuFinish t .tbloss else s
  let s := s.each (List.range 16) fun w s => if s.weState w = 0 then s else (s.weEnd w true).weFlag w 24
  let s := State.setRb { s with sync := { s.sync with fresh := false } } Off.syncStat 31 false
  let s := s.steep.ended.foldl (fun s e => s.flagAll e.1 fClkloss) (s.flagAll s.steep.num fClkloss)
  let s := if refclk then { s with qm := { s.qm with link := false, mode := none } } else s
  s.clockF2 (if refclk then srcRefclk else srcPlla)

/-- REFCLK_LOSS (R406, R414): before READY it only holds power-up. -/
def execRefclkLoss (s : State) : Result :=
  .next (if !s.rb Off.clkStat 29 then s else if s.rst.ready then s.clockLoss true else s.unlock true)

/-- PLLA_LOCK_LOSS (R414). -/
def execPllaLockLoss (s : State) : Result :=
  .next (if !s.rb Off.clkStat 31 ∨ !s.rb Off.clkStat 29 then s
    else if s.rst.ready then s.clockLoss false else s.unlock false)

/-- REFCLK_PRESENT (R406, R407): a lock starts while PLLA is unlocked. -/
def execRefclkPresent (s : State) : Result :=
  .next (if s.rb Off.clkStat 29 then s
    else
      let s := s.refPres true
      if s.rb Off.clkStat 31 then s else { s with clk := { s.clk with lockAt := some s.now } })

/-- PLLA_LOCK (R407, R412, R416): after READY, vector memory recalibrates; before it, step 7 of power-up begins (R423). -/
def execPllaLock (band : BitVec 4) (s : State) : Result :=
  .next (if s.clk.lockAt.isSome ∧ s.rst.boot.isSome ∧ s.rb Off.clkStat 29 then
      let s := { s with clk := { s.clk with lockAt := none, relockAt := if s.rst.ready then some s.now else none } }
      let s := { s with sync := { s.sync with fresh := false } }
      let s := if s.rst.ready then s else s.setRf Off.rstStat 16 4 7
      ((s.setRb Off.clkStat 31 true).setRb Off.clkStat 30 false).setRf Off.clkStat 16 4 band.toNat
    else s)

/-- PLLA_LOCK_TIMEOUT (R407): 150 µs have passed. -/
def execPllaLockTimeout (s : State) : Result :=
  .next (match s.clk.lockAt with
    | some t =>
      if t + 120000 ≤ s.now ∧ s.rst.boot.isSome ∧ s.rb Off.clkStat 29 then
        let s := State.count { s with clk := { s.clk with lockAt := some s.now } } Off.clkStat 8 8 1
        if s.rst.ready then s.notice srcPlla 3 Off.clkStat else s
      else s
    | none => s)

/-- RELOCK_COMPLETE (R416). -/
def execRelockComplete (s : State) : Result :=
  .next (if s.clk.relockAt.isSome then
      let s := State.setRb { s with clk := { s.clk with relockAt := none } } Off.clkStat 28 true
      ((s.f2Done srcPlla true).f2Done srcRefclk true).notice srcPlla 2 Off.clkStat
    else s)

/-- OVO_READY_RISE (R410): the oven is at its temperature, and PLLB, which power-up has started in step 6, locks. -/
def execOvoReadyRise (s : State) : Result :=
  .next (if s.rst.held || !s.rst.loaded then s
    else (s.setRf Off.pllbStat 29 3 7).setRb Off.tiuTbstat 31 true)

/-- OVO_READY_FALL (R268, R411). -/
def execOvoReadyFall (s : State) : Result :=
  .next (if s.rb Off.pllbStat 31 then
      let s := (s.setRb Off.pllbStat 31 false).setRb Off.tiuTbstat 31 false
      let s := State.fresh (s.setRb Off.pllbStat (if Config.ovenLost s.freeCtr then 30 else 29) false)
      let s := s.each (List.range 8) fun t s =>
        if s.tiuState t = 1 ∧ s.rb (Off.tiuCfg t) 31 then s.tiuFinish t .tbloss else s
      s.notice 0x9001 1 Off.pllbStat
    else s)

/-! ### Clock outputs (R408, R409) -/

/-- A write of CLK_OUT[k]: accepted only while every cluster is parked. EN is writable for TCLK and VCLK. -/
def State.clkOutWrite (s : State) (k : Nat) (v : Word) : State :=
  let o := Off.clkOut k
  if (List.range 16).all fun c => s.clParked c then
    let w := setFld (s.rg o) 0 6 (fld v 0 6)
    let w := if k = 0 ∨ k = 3 then setFlag w 31 (flag v 31) else w
    let now := (Tbl.find s.clk.delay k).getD (s.af o 0 6)
    State.setShadow { s with clk := { s.clk with delay := tblPut k now s.clk.delay } } o w
  else (s.setRb Off.clkStat 26 true).notice srcPlla 0 Off.clkStat

/-- CLK_OUT_WRITE (R409). -/
def execClkOutWrite (p : Party) (k : Fin 6) (v : Word) (s : State) : Result :=
  .next (s.gateWrite p .pf0 (Off.clkOut k) v fun s => s.clkOutWrite k v)

/-- CLK_DELAY_STEP (R409): the delay in force moves one step toward the one that the last tick took up, at most once per 1 µs. -/
def execClkDelayStep (k : Fin 6) (s : State) : Result :=
  let target := s.af (Off.clkOut k) 0 6
  .next (match Tbl.find s.clk.delay k.val with
    | none => s
    | some d =>
      if s.now < Tbl.get 0 s.clk.stepAt k then s
      else
        let e := if d < target then d + 1 else if target < d then d - 1 else d
        let keep := decide (e ≠ target) || s.dirty.contains (Off.clkOut k)
        { s with clk := { s.clk with
          delay := if keep then tblPut k.val e s.clk.delay else Tbl.drop s.clk.delay k.val
          stepAt := if e = d then s.clk.stepAt else Tbl.set 0 s.clk.stepAt k (s.now + 800) } })

end Sys2Proof.Machine
end

