-- ==== Sys2Proof/Machine/Control.lean ====
section
/-!
DEFINITION. Control flow and results (R89 to R100, R109 to R113, R117, R121 to R123): STEEP, POUR, HALT, TRET, branches,
loops, fails, events, QPUSH, SFCLR and SEQH's register accesses and waits; what waiting instructions do in each CCLK.
-/
namespace Sys2Proof.Machine

open Sys2Proof

/-! ### Steep, HALT and TRET (R97, R98, R117) -/

/-- STEEP retires and the sequencer yields until the tick (R38). -/
def State.yield (s : State) (x : Nat) : State :=
  let q := s.sq x
  let s := s.setSq x { q with pc := q.pc + 1, wait := .none, mode := .yielded, readyAt := s.now + 1 }
  if q.stopReq then s.haltSeq x else s

/-- STEEP (R97). -/
def execSteep (x : Sq) (w : BitVec 56) (mc : Option Micro) (s : State) : Result :=
  .next (s.instr x 0x02 w mc [(0, 56)] [] fun s => .hold (s.yield x))
/-- POUR (R97): it waits while a steep that has ended has not committed. -/
def execPour (x : Sq) (w : BitVec 56) (mc : Option Micro) (s : State) : Result :=
  .next (s.instr x 0x03 w mc [(0, 56)] [] fun s =>
    if s.steep.ended.isEmpty then .next s 1 else .hold (s.setSq x { s.sq x with wait := .pour }))

/-- SEQ_HALT takes CODE and VALID, and source 192 + x is signalled (R98, R250). -/
def State.haltCode (s : State) (x : Nat) (code : Nat) : State :=
  let s := (s.change (Off.seqHalt x) fun _ => setFlag (setFld 0 0 16 code) 31 true).irq (192 + x)
  (s.setSq x { s.sq x with pc := (s.sq x).pc + 1 }).haltSeq x

/-- HALT (R98). -/
def execHalt (x : Sq) (w : BitVec 56) (mc : Option Micro) (s : State) : Result :=
  .next (s.instr x 0x04 w mc [(16, 40)] [] fun s => .hold (s.haltCode x (ifld w 0 16)))

/-- TRET leaves the handler (R117). -/
def tretBody (x : Nat) (w : BitVec 56) (s : State) : Flow :=
  if !s.trapAct x then .trap 0x13 0
  else
    let pc := (s.rg (Off.trapPc x)).toNat + ifld w 0 1
    let s := s.setSq x ((s.sq x).restore (s.rf (Off.trapStat x) 16 4))
    .jump (s.setRb (Off.trapStat x) 31 false) pc 2

/-- TRET (R117). -/
def execTret (x : Sq) (w : BitVec 56) (mc : Option Micro) (s : State) : Result :=
  .next (s.instr x 0x05 w mc [(1, 55)] [] (tretBody x w))

/-! ### Branches (R89 to R92) -/

/-- A condition of JMP. -/
def SeqSt.cond (q : SeqSt) (n : Nat) : Bool := match n with
  | 0 => true
  | 1 => q.zero
  | 2 => !q.zero
  | 3 => q.carry
  | 4 => !q.carry
  | 5 => q.mtch
  | 6 => !q.mtch
  | 7 => q.evt
  | _ => !q.evt

/-- Reserved bits of the target of JMP and CALL. -/
def jumpRsv (x : Nat) (w : BitVec 56) : List (Nat × Nat) :=
  (24, 23) :: (if w.getLsbD 47 then [(0, 24)] else targetRsv x 0)

/-- JMP (R91): COND from 9 on is reserved. -/
def execJmp (x : Sq) (w : BitVec 56) (mc : Option Micro) (s : State) : Result :=
  .next (s.instr x 0x50 w mc (jumpRsv x w) (if 9 ≤ fA w then [48] else []) fun s =>
    let q := s.sq x
    if q.cond (fA w) then .jump s (branchTarget x w q) 2 else .next s 1)

/-- CALL (R91): STKOVF with 16 entries on the stack. -/
def execCall (x : Sq) (w : BitVec 56) (mc : Option Micro) (s : State) : Result :=
  .next (s.instr x 0x54 w mc ((48, 4) :: jumpRsv x w) [] fun s =>
    let q := s.sq x
    if 16 ≤ q.stack.length then .trap 0x0A 0
    else .jump (s.setSq x { q with stack := (q.pc + 1) :: q.stack }) (branchTarget x w q) 2)

/-- RET (R91): STKUND with an empty stack. -/
def execRet (x : Sq) (w : BitVec 56) (mc : Option Micro) (s : State) : Result :=
  .next (s.instr x 0x55 w mc [(0, 56)] [] fun s =>
    let q := s.sq x
    match q.stack with
    | [] => .trap 0x0B 0
    | pc :: rest => .jump (s.setSq x { q with stack := rest }) pc 2)

/-- The condition of JF. -/
def SeqSt.failCond (q : SeqSt) (sel neg : Bool) (site : Nat) : Bool :=
  (if sel then q.siteFail.getLsbD site else q.failed) != neg

/-- JF (R92): with W it waits until every strobe has resolved. -/
def execJf (x : Sq) (w : BitVec 56) (mc : Option Micro) (s : State) : Result :=
  .next (s.instr x 0x51 w mc ((48, 1) :: (24, 24) :: targetRsv x 0) [] fun s =>
    let q := s.sq x
    let site := (q.gr (fD w)).toNat % 128
    if w.getLsbD 51 then
      .hold (s.setSq x { q with
        wait := .jfw (w.getLsbD 50) (w.getLsbD 49) site (ifld w 0 24), readyAt := s.now + 2 })
    else if q.failCond (w.getLsbD 50) (w.getLsbD 49) site then .jump s (ifld w 0 24) 2 else .next s 1)

/-! ### Loops (R93, R131) -/

/-- A LOOP with counter `k` begins, and its lines are to be locked. -/
def State.loopIn (s : State) (x k : Nat) : State :=
  if x < 16 then
    let s := s.unlockLoop x k
    s.setSq x { s.sq x with loops := k :: (s.sq x).loops }
  else s

/-- The first pass of the loop with counter `k` has ended. -/
def State.loopPass (s : State) (x k : Nat) : State :=
  s.setSq x { s.sq x with loops := (s.sq x).loops.map fun j => if j = k then k + 8 else j }

/-- The loop with counter `k` exits. -/
def State.loopOut (s : State) (x k : Nat) : State := if x < 16 then s.unlockLoop x k else s

/-- LOOP (R93). -/
def execLoop (x : Sq) (w : BitVec 56) (mc : Option Micro) (s : State) : Result :=
  .next (s.instr x 0x58 w mc ((if w.getLsbD 51 then [(24, 24)] else []) ++ targetRsv x 0) [] fun s =>
    let q := s.sq x
    let k := ifld w 48 3
    let n := if w.getLsbD 51 then q.gr (fD w) else BitVec.ofNat 32 (ifld w 24 24)
    let s := s.setSq x (q.setLc k n)
    if n = 0 then .jump s (ifld w 0 24 + 1) 1 else .next (s.loopIn x k) 1)

/-- ENDL (R93). -/
def execEndl (x : Sq) (w : BitVec 56) (mc : Option Micro) (s : State) : Result :=
  .next (s.instr x 0x59 w mc ((51, 5) :: (24, 24) :: targetRsv x 0) [] fun s =>
    let q := s.sq x
    let k := ifld w 48 3
    let n := q.lcr k - 1
    let s := s.setSq x (q.setLc k n)
    if n = 0 then .next (s.loopOut x k) 1 else .jump (s.loopPass x k) (ifld w 0 24) 1)

/-! ### SFCLR (R100) -/

/-- Reserved bits of SEL by OSRC. R100 names SEL[7] with OSRC 2 alone; the others are R78's for SITEM (DEDUCED, log 83). -/
def sfclrRsv (w : BitVec 56) : List (Nat × Nat) :=
  (8, 40) :: (52, 4) :: (match fA w with
    | 0 => [(2, 6)]
    | 2 => [(7, 1)]
    | _ => [(0, 8)])

/-- SITEFAIL bits that fails of CCLK `now` set (R4). -/
def SeqSt.failedNow (q : SeqSt) (now : Nat) : BitVec 128 := if q.failNow.1 = now then q.failNow.2 else 0

/-- SFCLR (R100): OSRC 0, 2 and 3. A bit that a fail sets in the same CCLK stays 1 (R4). -/
def execSfclr (x : Sq) (w : BitVec 56) (mc : Option Micro) (s : State) : Result :=
  .next (s.instr x 0x79 w mc (sfclrRsv w) (if fA w = 1 ∨ 4 ≤ fA w then [48] else []) fun s =>
    let q := s.sq x
    .next (s.setSq x { q with siteFail := q.siteFail &&& ~~~(q.siteOperand w &&& ~~~q.failedNow s.now) }) 2)

/-! ### Events (R109 to R111) -/

/-- Number of the own event source `k` of sequencer `x` (R350). -/
def evsSource (x k : Nat) : Nat := 0x800 + 8 * x + k

/-- EVS (R109): at once, or through the FIFO of a cluster sequencer. -/
def execEvs (x : Sq) (w : BitVec 56) (mc : Option Micro) (s : State) : Result :=
  .next (s.instr x 0x70 w mc [(3, 48), (52, 4)] [] fun s =>
    let src := evsSource x (ifld w 0 3)
    .next (if w.getLsbD 51 && decide (x.val < 16) then s.pushEntry x (.evs src) 1 else s.fire src) 1)

/-- Slots of a mask that are not enabled in EV_SEL. -/
def State.deadSlots (s : State) (x : Nat) (slots : BitVec 8) : Nat :=
  (maskOf 8 (idxs 8 fun k => slots.getLsbD k && !s.rb (Off.evSel x k) 31)).toNat

/-- Slots of a mask whose latch is set. -/
def State.latched (s : State) (x : Nat) (slots : BitVec 8) : BitVec 8 := slots &&& (s.rg (Off.evLatch x)).setWidth 8

/-- The condition of EVW. -/
def State.evwHolds (s : State) (x : Nat) (slots : BitVec 8) (all : Bool) : Bool :=
  if all then decide (s.latched x slots = slots) else decide (s.latched x slots ≠ 0)

/-- Latches set in the present CCLK that were 1 before it: a second firing (R111). -/
def State.againNow (s : State) (off : Nat) : Word :=
  match s.marks.find? fun m => m.off = off with
  | some m => m.new &&& m.was
  | none => 0
/-- Clears latches (R110, R111). A latch set in the same CCLK stays 1. The firing that ends the wait of an EVW (`waited`) is the
one that it clears: there only a second firing stays (DEDUCED, log 89). -/
def State.clearLatch (s : State) (x : Nat) (slots : BitVec 8) (waited : Bool) : State :=
  let o := Off.evLatch x
  let keep := if waited then s.againNow o else s.setNow o
  s.setRg o (s.rg o &&& ~~~(slots.setWidth 32 &&& ~~~keep))

/-- EVW (R110). -/
def execEvw (x : Sq) (w : BitVec 56) (mc : Option Micro) (s : State) : Result :=
  .next (s.instr x 0x71 w mc ((40, 9) :: if w.getLsbD 51 then [(0, 32)] else [])
      (if ifld w 32 8 = 0 then [32] else []) fun s =>
    let q := s.sq x
    let slots := BitVec.ofNat 8 (ifld w 32 8)
    if s.deadSlots x slots ≠ 0 then .trap 0x0F (s.deadSlots x slots)
    else
      let tmo := (if w.getLsbD 51 then q.gr (fD w) else fImm w).toNat
      .hold (s.setSq x { q with
        wait := .evw slots (w.getLsbD 50) (w.getLsbD 49) (s.now + 2) tmo, readyAt := s.now + 2 }))

/-- EVW_TIMEOUT (R110): the timeout has run from the first cycle of the wait, and the condition does not hold. -/
def execEvwTimeout (x : Sq) (s : State) : Result :=
  .next (match (s.sq x).wait with
    | .evw slots all _ start tmo =>
      if tmo ≠ 0 ∧ start + tmo ≤ s.now ∧ !s.evwHolds x slots all
      then (s.setSq x { s.sq x with evt := false }).retire x ((s.sq x).pc + 1) 1 else s
    | _ => s)

/-- JE (R110): it tests a latch, and clears it with CLR. -/
def execJe (x : Sq) (w : BitVec 56) (mc : Option Micro) (s : State) : Result :=
  .next (s.instr x 0x52 w mc ([(51, 5), (48, 2), (27, 21)] ++ targetRsv x 0) [] fun s =>
    let slot := maskOf 8 [ifld w 24 3]
    if s.deadSlots x slot ≠ 0 then .trap 0x0F (s.deadSlots x slot)
    else if s.latched x slot = 0 then .next s 1
    else .jump (if w.getLsbD 50 then s.clearLatch x slot false else s) (ifld w 0 24) 2)

/-! ### QPUSH (R113) -/

/-- The record of a QPUSH (R113, R225, R226). -/
def State.pushRec (s : State) (x : Nat) (w : BitVec 56) : Rec :=
  let q := s.sq x
  { tsStart := s.tstamp, tsEnd := s.tstamp, dead := 0, site := BitVec.ofNat 7 (ifld w 32 7),
    segnum := BitVec.ofNat 20 (ifld w 0 16), src := BitVec.ofNat 8 (0x10 + x), decexp := 0,
    qid := (q.gr (fA w)).setWidth 20, flags := 0, sthr := if x < 16 then s.stretchOf x s.steep.num else 0,
    body := (List.range (fB w + 1)).flatMap fun k => wordBytes (q.gr (fD w + k)), steep := s.steep.num, closing := false,
    made := (s.cl x).made }

/-- QPUSH (R113): QSITE at issue; the queue manager takes the record after the payload cycles. -/
def execQpush (x : Sq) (w : BitVec 56) (mc : Option Micro) (s : State) : Result :=
  .next (s.instr x 0x78 w mc [(39, 5), (16, 16)] (if 15 < fD w + fB w then [44] else []) fun s =>
    let site := ifld w 32 7
    if x.val < 16 ∧ !s.siteIn site x then .trap 0x10 site
    else
      let t := s.setSq x { s.sq x with wait := .qpush (s.pushRec x w), readyAt := s.now + 3 + fB w }
      .hold (if x.val < 16 then t.produce x else t))

/-! ### SEQH (R122, R123) -/

/-- Offset of RDR and WRR: G[RA] + IMM with bits [1:0] cleared. -/
def State.regOffset (s : State) (w : BitVec 56) : Nat :=
  ((s.sq 16).gr (fA w) + fImm w).toNat / 4 * 4

/-- RDR (R123). -/
def execRdr (w : BitVec 56) (mc : Option Micro) (s : State) : Result :=
  .next (s.instr 16 0xC0 w mc [(32, 16)] [] fun s =>
    let off := s.regOffset w
    if !Space.mapped .pf0 off then .trap 0x14 off
    else .hold (s.setSq 16 { s.sq 16 with wait := .regRead (fD w) off, readyAt := s.now + 2 }))
/-- WRR (R123). -/
def execWrr (w : BitVec 56) (mc : Option Micro) (s : State) : Result :=
  .next (s.instr 16 0xC1 w mc [(32, 16)] [] fun s =>
    let off := s.regOffset w
    if !Space.mapped .pf0 off then .trap 0x14 off
    else .hold (s.setSq 16 { s.sq 16 with wait := .regWrite off ((s.sq 16).gr (fD w)), readyAt := s.now + 2 }))
/-- WAITC (R123): with CR = 1 the count is G[GA], and IMM is reserved for the other form only. -/
def execWaitc (w : BitVec 56) (mc : Option Micro) (s : State) : Result :=
  .next (s.instr 16 0xC2 w mc [(32, 19)] [] fun s =>
    let n := (if w.getLsbD 51 then (s.sq 16).gr (fD w) else fImm w).toNat
    .hold (s.setSq 16 { s.sq 16 with wait := .waitc (s.now + 1 + n), readyAt := s.now + 1 }))
/-- WAITC_EXPIRY (R123). -/
def execWaitcExpiry (s : State) : Result :=
  .next (match (s.sq 16).wait with
    | .waitc due => if due ≤ s.now then s.retire 16 ((s.sq 16).pc + 1) 0 else s
    | _ => s)

/-! ### Waits in a CCLK -/

/-- Every vector issued by cluster `c` has left the pins and every compare of them has resolved (R99); samples of RAW data alone
are not waited for. -/
def State.drained (s : State) (c : Nat) : Bool :=
  s.fifoEmpty c && (s.cl c).strobes.all fun x => !isCmpState x.st

/-- EVW and JF with W look at their condition in the present CCLK; one that holds in the first cycle costs no wait. -/
def State.waitTick (s : State) (x : Nat) : State :=
  let q := s.sq x
  if q.mode ≠ .running ∨ s.now < q.readyAt then s
  else
    let cost := if q.readyAt = s.now then 0 else 1
    match q.wait with
    | .jfw sel neg site target =>
      if s.drained x then s.retire x (if q.failCond sel neg site then target else q.pc + 1) cost else s
    | .evw slots all clr _ _ =>
      if s.evwHolds x slots all then
        let hit := s.latched x slots
        let s := s.setSq x { q with evt := true }
        (if clr then s.clearLatch x hit true else s).retire x (q.pc + 1) cost
      else s
    | _ => s

end Sys2Proof.Machine
end

