-- ==== Sys2Proof/Machine/Events.lean ====
section
/-!
DEFINITION. The event fabric (R350 to R362): a channel passes its pulse to its consumers, ownership and security, software
sources, and pin actions.
-/
namespace Sys2Proof.Machine

open Sys2Proof

/-! ### Pin actions (R362, R448) -/

/-- The applied state of channel `n` under the pin actions that run, from the state of its vector. -/
def State.paNow (s : State) (n : Nat) : BitVec 3 := s.gateState n (paState (s.paActs n) (s.ch n).base)

/-- Steep of the vector at the pins of channel `n`, or the one in progress. -/
def State.pinSteep (s : State) (n : Nat) : BitVec 64 := match (s.cl (n / 32)).cur with
  | some x => x.1.steep
  | none => s.steep.num

/-- The driver of channel `n` takes, from the instant `t` on, the level of an override, else what the vectors give at that instant
and after it under their mode (R159, R362). A parked channel stays as it is. -/
def State.paDrive (s : State) (n : Nat) (t : Int) : State :=
  if s.parkedCh n then s
  else
    let st := s.paNow n
    let u := s.ch n
    let steep := s.pinSteep n
    let base := (u.baseSteps.filter fun d => decide (d.at_ < t)).foldl (fun l d => d.next l) u.baseLvl
    let now (l : Option Nat) : DrvStep := { at_ := t, on := l.isSome, lvl := l, steep := steep }
    let rest := if st.toNat ≤ 1 ∧ !(s.paActs n).isEmpty then [now (some st.toNat)]
      else if u.base.toNat ≤ 1 ∧ 1 < st.toNat then [now none]
      else now base :: u.baseSteps.filter fun d => decide (t ≤ d.at_)
    s.setCh n { u with prev := st, steps := (u.steps.filter fun d => decide (d.at_ < t)) ++ rest }

/-- TCLK cycle at the start of the present CCLK. -/
def State.nowT (s : State) : Nat := 4 * s.now

/-- The holds whose start has come take over their drivers. -/
def State.paStart (s : State) : State :=
  let due := s.holds.filter fun h => !h.on && decide (h.start < s.nowT + 4)
  let s := { s with holds := s.holds.map fun h => if h.start < s.nowT + 4 then { h with on := true } else h }
  due.foldl (fun s h => s.paDrive (s.paChan h.slot) (h.start * tclkHps)) s

/-- A pulse of channel `k` reaches slot `i`: the hold starts or restarts with the TCLK edge of its arrival, 2 CCLK after the
source (DEDUCED from R355, log 52), and 2 CCLK later across sections (R353). One that comes after the hold has ended begins another. -/
def State.paPulse (s : State) (k i : Nat) : State :=
  let start := s.nowT + (if k / 256 = i / 16 then 0 else 8)
  let stop := start + s.af (Off.evpaHold i) 0 16 + 1
  match s.holds.find? fun h => h.slot = i ∧ start ≤ h.stop with
  | some _ => { s with holds := s.holds.map fun h => if h.slot = i ∧ start ≤ h.stop then { h with stop := stop } else h }
  | none => { s with holds := s.holds ++ [{ slot := i, start := start, stop := stop, on := false }] }

/-- Slots that watch channel `k`. -/
def State.paSlots (s : State) (k : Nat) : List Nat :=
  idxs 64 fun i =>
    let w := s.ap (Off.evpaCfg i)
    flag w 31 && decide (fld w 29 2 ≠ 3) && decide (fld w 16 10 = k)

/-- PIN_ACTION_HOLD_END (R362). -/
def execPinActionHoldEnd (slot : Fin 64) (s : State) : Result :=
  .next (match s.holds.find? fun h => h.slot = slot.val ∧ h.on ∧ h.stop < s.nowT + 4 with
    | some h =>
      State.paDrive { s with holds := s.holds.erase h } (s.paChan h.slot) (h.stop * tclkHps)
    | none => s)

/-! ### Consumers (R352, R359) -/

/-- Sequencer slots bound to channel `k`, as (sequencer, slot). -/
def State.seqSlots (s : State) (k : Nat) : List (Nat × Nat) :=
  (List.range 17).flatMap fun x => ((List.range 8).filter fun j =>
    let w := s.rg (Off.evSel x j)
    flag w 31 && decide (fld w 0 10 = k)).map fun j => (x, j)

/-- An acquisition list of cluster `c` names channel `k` in an enabled slot. -/
def State.capBound (s : State) (k c : Nat) : Bool :=
  (List.range 8).any fun l => (List.range 8).any fun j => s.trgOn c l j 1 && decide (s.rf (Off.caplTrg c l j) 0 10 = k)

/-- A waveform engine names channel `k` as its start or jump event. -/
def State.weBound (s : State) (k w : Nat) : Bool :=
  let g := s.rg (Off.weCfg w)
  (decide (fld g 27 2 = 1) && decide (fld g 0 10 = k)) || (flag g 26 && decide (fld g 10 10 = k))

/-- Some consumer names channel `k`. -/
def State.watched (s : State) (k : Nat) : Bool :=
  !(s.seqSlots k).isEmpty || !(s.paSlots k).isEmpty ||
    (List.range 8).any (fun t => s.tiuBound k t false || s.tiuBound k t true) ||
    (List.range 16).any (fun w => s.weBound k w) || (List.range 16).any fun c => s.capBound k c

/-- Delivers the pulse of channel `k` to every consumer that names it, in the CCLK after the channel passed it (R352). -/
def State.deliver (s : State) (k : Nat) : State :=
  let s := (s.seqSlots k).foldl (fun s e => s.setRb (Off.evLatch e.1) e.2 true) s
  let s := s.capTriggerAll 1 s.trigDue fun sel => decide (sel = k)
  let s := s.each (List.range 8) fun t s => s.tiuPulse k t
  let s := s.weEvent k
  ((s.paSlots k).foldl (fun s i => s.paPulse k i) s).paStart

/-- The pulses that channels passed in the CCLK before reach their consumers. -/
def State.arrive (s : State) : State := s.reach.foldl (fun s k => s.deliver k) { s with reach := [] }

/-! ### A channel passes its pulse (R351, R356, R357, R360, R361) -/

/-- A pulse that has passed eight channels is refused by channel `k`. -/
def State.evLoop (s : State) (k : Nat) : State :=
  ((s.setRb Off.evStat 31 true).setRf Off.evStat 0 10 k).notice (0xE000 + k) 1 Off.evStat

/-- Channel `k` passes one pulse for the producers listed, with hop count `hc`, under the configuration `cfg`. -/
def State.evPass (s : State) (k hc n : Nat) (cfg : Word) : State :=
  let s := (s.count (Off.ecCnt k) 0 16 1).count (Off.ecCnt k) 16 16 (n - 1)
  let s := s.setRb (Off.evflag (k / 32)) (k % 32) true
  let s := if flag cfg 30 && !flag cfg 29 then (if s.watched k then s.setRb Off.evStat 30 true else s)
    else { s with reach := s.reach ++ [k] }
  let s := if flag cfg 28 ∧ fld cfg 20 3 = 4 then
      let site := fld cfg 0 7
      s.fenceSite site
        { cls := 3, src := 0xE000 + k, cause := 0, off := Off.siteStat site, site := some site, wd := false }
    else s
  s.pulse (0xC00 + k) (hc + 1)

/-- The pulses that reached channel `k` together, one CCLK ago or more, pass as one. -/
def State.eventPass (s : State) (k : Nat) : State :=
  let due := s.pulses.filter fun p => decide (p.ch = k) && decide (p.at_ < s.now)
  match due with
  | [] => s
  | d :: rest =>
    let t := rest.foldl (fun m p => min m p.at_) d.at_
    let group := due.filter fun p => p.at_ = t
    let s := { s with pulses := s.pulses.filter fun p => !(decide (p.ch = k) && decide (p.at_ = t)) }
    let live := group.filter fun p => flag p.cfg 31
    let s := if live.any fun p => decide (8 ≤ p.hc) then s.evLoop k else s
    match live.filter fun p => decide (p.hc < 8) with
    | [] => s
    | p :: ps =>
      let prods := (p :: ps).foldl (fun l q => if l.contains q.prod then l else l ++ [q.prod]) []
      s.evPass k (ps.foldl (fun m q => max m q.hc) p.hc) prods.length p.cfg

/-- EVENT_PASS (R351). -/
def execEventPass (k : Ec) (s : State) : Result := .next (s.eventPass k)

/-! ### Ownership (R358 to R360) -/

/-- The owner of channel `k` admits a write of party `p`; a new owner does so from the CCLK after the write on. -/
def State.ecAdmits (s : State) (p : Party) (k : Nat) : Bool :=
  let w := s.regBack.rg (Off.ecCfg k)
  let high := decide (p = .pf1) || decide (p = .sp)
  let low := decide (p = .pf0) || decide (p = .seqh)
  if high then true
  else if flag w 30 then false
  else match fld w 20 3 with
    | 0 => decide (p = .pf0)
    | 2 => decide (p = .seqh) || (decide (p = .pf0) && decide ((s.sq 16).mode = .halted))
    | 3 => low && decide ((s.sq (fld w 0 7)).mode = .halted)
    | 4 => low && !s.enabled (fld w 0 7)
    | _ => false

/-- A write of EC_CFG (`j` = 0) or EC_PROD that is accepted. Pulses in the channel pass under the configuration before it, and those
that reach it later find the one that stands then (R351). -/
def State.ecStore (s : State) (k j : Nat) (v : Word) : State :=
  let s := s.regNote (Off.ecCfg k + 4 * j)
  if j = 0 then s.setRg (Off.ecCfg k) (v &&& 0xF070007F) else s.setRg (Off.ecProd k (j - 1)) (v &&& 0x8FFF8FFF)

/-- A discarded write (R358). -/
def State.ecReject (s : State) (k : Nat) : State := (s.count Off.evStat 16 8 1).notice (0xE000 + k) 0 Off.evStat

/-- A write of EC_CFG or EC_PROD. -/
def State.ecWrite (s : State) (p : Party) (k j : Nat) (v : Word) : State :=
  let w := s.rg (Off.ecCfg k)
  let high := decide (p = .pf1) || decide (p = .sp)
  let ok := s.ecAdmits p k &&
    (j ≠ 0 || ((high || fld v 29 2 = fld w 29 2) && (!flag v 28 || fld v 20 3 = 4)))
  if ok then s.ecStore k j v else s.ecReject k

/-- EC_CONFIG_WRITE (R358): EC_CFG for `j` = 0, else EC_PROD[j − 1]. -/
def execEcConfigWrite (p : Party) (k : Ec) (j : Fin 5) (v : Word) (s : State) : Result :=
  .next (s.gateWrite p .pf0 (Off.ecCfg k + 4 * j) v fun s => s.ecWrite p k j v)

/-- A source fires in the next CCLK. -/
def State.fireNext (s : State) (src : Nat) : State :=
  { s with transit := s.transit ++ [{ src := src, hc := 0, at_ := s.now + 1, quad := none }] }

/-- EV_SW_PULSE (R350): the selected software sources pulse in the CCLK after the write. -/
def execEvSwPulse (p : Party) (v : Word) (s : State) : Result :=
  .next (s.gateWrite p .pf0 Off.evSw v fun s =>
    (idxs 16 fun i => flag v i).foldl (fun s i => s.fireNext (0xB80 + i)) s)

end Sys2Proof.Machine
end

