-- ==== Sys2Proof/Machine/FaultCtl.lean ====
section
/-!
DEFINITION. The writes of the fault unit (R321, R329, R331): safe-state requests, clearing an F2, emptying the history
queue.
-/
namespace Sys2Proof.Machine

open Sys2Proof

/-- Source of a safe-state request by a party (R460). -/
def safeSource (p : Party) : Nat := match p with
  | .pf1 => 0xD003
  | .sp => 0xD002
  | _ => 0xD001

/-- A rejected write of the fault unit. -/
def State.clrRej (s : State) : State := s.setRb Off.fuStat 2 true

/-- A request of F4 from an external source. -/
def State.safeFrom (s : State) (src : Nat) : State :=
  s.enterF4 { cls := 4, src := src, cause := 0, off := Off.fuStat, site := none, wd := false }

/-- A write of FU_SAFEREQ. -/
def State.safereqWrite (s : State) (p : Party) (v : Word) : State :=
  if fld v 16 16 ≠ 0x5AFE then s.clrRej else if flag v 0 then s.safeFrom (safeSource p) else s

/-- A write of FU_F2CLR. -/
def State.f2clrWrite (s : State) (v : Word) : State :=
  match s.f2Find (fld v 0 16) with
  | some k =>
    if (Tbl.get F2.none s.fault.f2 k).done then { s with fault := { s.fault with f2 := Tbl.drop s.fault.f2 k } }
    else s.clrRej
  | none => s.clrRej

/-- A write of FU_HCLR. -/
def State.hclrWrite (s : State) (v : Word) : State :=
  if flag v 0 && s.fault.frozen.isNone then { s with fault := { s.fault with hist := [], order := [] } } else s

/-- SAFE_REQUEST (R329). -/
def execSafeRequest (p : Party) (v : Word) (s : State) : Result :=
  .next (s.gateWrite p .pf0 Off.fuSafereq v fun s => s.safereqWrite p v)
/-- F2_CLEAR (R321). -/
def execF2Clear (p : Party) (v : Word) (s : State) : Result :=
  .next (s.gateWrite p .pf0 Off.fuF2clr v fun s => s.f2clrWrite v)
/-- HISTORY_CLEAR (R331). -/
def execHistoryClear (p : Party) (v : Word) (s : State) : Result :=
  .next (s.gateWrite p .pf0 Off.fuHclr v fun s => s.hclrWrite v)

end Sys2Proof.Machine
end

