-- ==== Sys2Proof/Machine/Microcode.lean ====
section
/-!
DEFINITION. Patch loads (R400 to R405).
-/
namespace Sys2Proof.Machine

open Sys2Proof

/-- Rows of vector memory from row `r` on, as bytes; `err` where one is uncorrectable or NOTINIT. -/
def State.memRows (s : State) (r : Nat) : Nat → State × FlashRead
  | 0 => (s, { bytes := [], err := false })
  | n + 1 =>
    let ecc := s.rowEcc
    let x := s.rowRead (r % rowCount) ecc
    let (s, rest) := (s.rowSeen (r % rowCount) ecc).fresh.memRows (r + 1) n
    (s, { bytes := (List.range 8).map (rowByte x.data) ++ rest.bytes, err := x.ue || x.notInit || rest.err })

/-- The image in vector memory from row `r` on (R402): its header, then what the header counts. -/
def State.memImage (s : State) (r : Nat) : State × FlashRead :=
  let (s, h) := s.memRows r 4
  let w := leWords h.bytes
  if patchCounts w then
    let (s, t) := s.memRows (r + 4) ((patchLen w + 7) / 8 - 4)
    (s, { bytes := h.bytes ++ t.bytes, err := h.err || t.err })
  else (s, h)

/-- ROMVER. -/
def State.romver (s : State) : Nat := s.rf Off.mcver 16 16

/-- Loads a patch into every caddy and every match register set. -/
def State.mcLoad (s : State) (p : Patch) : State :=
  let micro := (List.range p.micro.length).zip (p.micro.map microOf)
  let caddy := (List.range 17).flatMap fun x => (micro.filter fun e => decide (e.2 ≠ 0)).map fun e => (512 * x + e.1, e.2)
  let s := { s.mcZero with mc := { s.mc with caddy := caddy, ue := [] } }
  let s := ((List.range p.entries.length).zip p.entries).foldl (fun s e => s.setRg (Off.mcMatch e.1) e.2) s
  let s := (s.setRf Off.mcver 0 16 p.ver).setRg Off.mccrc p.crc
  ((s.setRf Off.mcLstat 16 6 p.entries.length).setRf Off.mcLstat 0 10 p.micro.length).mcCover

/-- A load ends with an invalid image. -/
def State.mcInval (s : State) (cause : Nat) : State :=
  ((s.setRb Off.mcLstat 29 true).setRf Off.mcLstat 23 3 cause).noticeAt Off.mcLstat

/-- A write of MCP_CTL by PF1: CLEAR prevails over GO (R404). `image` is what pass 1 reads from the card flash, where the write carries
it. -/
def State.mcpWrite (s : State) (v : Word) (image : Option FlashRead) : State :=
  if !flag v 0 && !flag v 1 then s
  else if (List.range 17).any (fun x => decide ((s.sq x).mode ≠ .halted)) || s.mc.load.isSome || s.safe then
    (s.setRb Off.mcLstat 28 true).noticeAt Off.mcLstat
  else if flag v 1 then (s.mcZero.setRb Off.mcLstat 30 true).mcSweep
  else
    let mem := flag (s.sg Off.mcpSrc) 0
    let s := { s with mc := { s.mc with load := some { mem := mem, second := false, image := if mem then none else image } } }
    (s.setRb Off.mcLstat 31 true).setRb Off.mcLstat 26 mem

/-- A load can read its source: vector memory while it does not recalibrate (R416), or the card flash while the port is the load's
(R436). -/
def State.loadCan (s : State) (l : Load) : Bool := if l.mem then !s.vmWait else s.loadPort

/-- The image as a pass reads it; `flash` is what it reads from the card flash. -/
def State.loadImage (s : State) (l : Load) (flash : FlashRead) : State × FlashRead :=
  if l.mem then s.memImage (s.sg Off.mcpRow).toNat else (s.contEnd, flash)

/-- A load is over. -/
def State.loadOver (s : State) : State :=
  State.setRb { s with mc := { s.mc with load := none } } Off.mcLstat 31 false

/-- Pass 1 (R405): an invalid image ends the load; else pass 2 begins, with every match register disabled and no patch shown. -/
def State.passOne (s : State) (l : Load) (flash : FlashRead) : State :=
  let (s, f) := s.loadImage l flash
  match readPatch s.romver f with
  | .inr cause => (s.loadOver.mcInval cause).mcSweep
  | .inl _ =>
    let s := s.each (List.range 32) fun k s => s.setRb (Off.mcMatch k) 31 false
    State.setRg (State.setRf { s with mc := { s.mc with load := some { l with second := true } } } Off.mcver 0 16 0) Off.mccrc 0

/-- Pass 2: the image is read again, and loaded or torn; R400 is applied at the end. -/
def State.passTwo (s : State) (l : Load) (flash : FlashRead) : State :=
  let (s, f) := s.loadImage l flash
  match readPatch s.romver f with
  | .inl p => ((s.loadOver.mcLoad p).setRb Off.mcLstat 30 true).mcSweep
  | .inr _ => s.mcTorn.mcSweep

/-- Pass 1 ends in a CCLK in which its source can be read. -/
def State.loadGo (s : State) : State := match s.mc.load with
  | some l =>
    if l.second || !s.loadCan l then s
    else match l.mem, l.image with
      | true, _ => s.passOne l { bytes := [], err := true }
      | false, some f => s.passOne l f
      | false, none => s
  | none => s

/-- PATCH_LOAD (R405): a write of MCP_CTL; `flash` is what pass 1 reads from the card flash. -/
def execPatchLoad (p : Party) (v : Word) (flash : FlashRead) (s : State) : Result :=
  .next (s.gateWrite p .pf1 Off.mcpCtl v fun s => if p = .pf1 then s.mcpWrite v (some flash) else s)
/-- PATCH_CLEAR (R405): a write of MCP_CTL. -/
def execPatchClear (p : Party) (v : Word) (s : State) : Result :=
  .next (s.gateWrite p .pf1 Off.mcpCtl v fun s => if p = .pf1 then s.mcpWrite v none else s)
/-- PATCH_LOAD_DONE (R405): `flash` is what pass 2 reads from the card flash, and pass 1 where its command carried nothing. -/
def execPatchLoadDone (flash : FlashRead) (s : State) : Result :=
  .next (match s.mc.load with
    | some l =>
      if !s.loadCan l then s
      else
        let s := if l.second then s else s.passOne l (l.image.getD flash)
        match s.mc.load with
        | some l => s.passTwo l flash
        | none => s
    | none => s)

end Sys2Proof.Machine
end

