-- ==== Sys2Proof/Machine/Move.lean ====
section
/-!
DEFINITION. Vector memory from a program: LDV and STV (R84), the overlay copies OVL and OVLW (R61).
-/
namespace Sys2Proof.Machine

open Sys2Proof

/-- Row of LDV and STV: (G[RA] + IMM) mod 2^32. -/
def State.accessRow (s : State) (x : Nat) (w : BitVec 56) : Nat := ((s.sq x).gr (fA w) + fImm w).toNat

/-- LDV and STV begin: a row in the descriptor region raises VPROT; else the access runs. -/
def accessBegin (store : Bool) (x : Nat) (w : BitVec 56) (s : State) : Flow :=
  let row := s.accessRow x w
  if inDesc row then .trap 0x05 row
  else .hold (s.setSq x { s.sq x with wait := .access store (fD w) row (w.getLsbD 47) false, readyAt := s.now + 2 })

/-- LDV (R84). -/
def execLdv (x : Sq) (w : BitVec 56) (mc : Option Micro) (s : State) : Result :=
  .next (s.instr x 0x48 w mc [(32, 15)] [] (accessBegin false x w))
/-- STV (R84). -/
def execStv (x : Sq) (w : BitVec 56) (mc : Option Micro) (s : State) : Result :=
  .next (s.instr x 0x49 w mc [(32, 15)] [] (accessBegin true x w))

/-- The read of an LDV ends. -/
def State.ldvDone (s : State) (x rd row : Nat) (hi : Bool) (ecc : Ecc) : State :=
  let r := s.rowRead row ecc
  let pc := (s.sq x).pc
  let s := s.rowSeen row ecc
  if r.ue then s.exception x 0x06 row pc
  else (s.setSq x ((s.sq x).setG rd (rowHalf r.data hi))).retire x (pc + 1) 1

/-- The partial write of an STV ends, or waits for an implicit-fill slot (R147). -/
def State.stvDone (s : State) (x rd row : Nat) (hi waited : Bool) (ecc : Ecc) : State :=
  let q := s.sq x
  let be : BitVec 8 := if hi then 0xF0 else 0x0F
  let v := q.gr rd
  match s.writeEnd row be ecc with
  | .waits =>
    if waited then s
    else (s.setSq x { q with wait := .access true rd row hi true }).count Off.vmTrk 0 16 1
  | .rejected => (s.writeRow row (v ++ v) be ecc).exception x 0x06 row q.pc
  | .stored => ((s.potRewrite row).writeRow row (v ++ v) be ecc).retire x (q.pc + 1) 1

/-- VMEM_ACCESS_DONE (R84). -/
def execVmemAccessDone (x : Sq) (ecc : Ecc) (s : State) : Result :=
  .next (match (s.sq x).wait with
    | .access store rd row hi waited =>
      if (s.sq x).readyAt ≤ s.now ∧ !s.vmWait then
        if store then s.stvDone x rd row hi waited ecc else s.ldvDone x rd row hi ecc
      else s
    | _ => s)

/-- OVL begins (R61): its range is checked, then the copy starts or waits for the one that runs. -/
def ovlBegin (x : Nat) (w : BitVec 56) (s : State) : Flow :=
  let q := s.sq x
  let row := (q.gr (fD w)).toNat
  let dst := ifld w 32 15
  let len := ifld w 0 15 + 1
  if 32767 < dst + (len - 1) then .trap 0x08 (dst + (len - 1))
  else if dst ≤ q.pc ∧ q.pc < dst + len then .trap 0x07 dst
  else if q.copy.isSome then .hold (s.setSq x { q with wait := .ovl row dst len })
  else .next (s.copyStart x row dst len) 2

/-- OVL (R61). -/
def execOvl (x : Sq) (w : BitVec 56) (mc : Option Micro) (s : State) : Result :=
  .next (s.instr x 0x4C w mc [(15, 17), (47, 5)] [] (ovlBegin x w))
/-- OVLW (R61): waits until no copy runs. -/
def execOvlw (x : Sq) (w : BitVec 56) (mc : Option Micro) (s : State) : Result :=
  .next (s.instr x 0x4D w mc [(0, 56)] [] fun s =>
    if (s.sq x).copy.isSome then .hold (s.setSq x { s.sq x with wait := .ovlw }) else .next s 1)

end Sys2Proof.Machine
end

