-- ==== Sys2Proof/Machine/Pins.lean ====
section
/-!
DEFINITION. What the pins report (R157, R164, R167 to R172, R178): comparator transitions, safety monitors, clamps; and the
edge data port of the timing sets (R185 to R187).
-/
namespace Sys2Proof.Machine

open Sys2Proof

/-! ### Comparators -/

/-- The transition to `new` is one that EDGE of comparator `k` selects (R169). -/
def State.edgeSel (s : State) (n k : Nat) (new : Cmp) : Bool :=
  let e := s.cmpCfg n k / 4 % 4
  (decide (new = .high) && nbit e 0) || (decide (new = .low) && nbit e 1)

/-- The edge flag of comparator `k` of channel `n`. -/
def State.edgeFlag (s : State) (n k : Nat) : State := s.setRb (chOff Off.chCmpstat n) (8 + k) true

/-- Channel `n` watches for a wake edge (R157). -/
def State.wakes (s : State) (n : Nat) : Bool :=
  s.parkReq (n / 32) && s.parkedCh n && s.monCfg n 30 &&
    (match s.chSite n with
    | some k => s.enabled k && !s.fenced k
    | none => false)

/-- A wake edge in cluster `c`. -/
def State.wake (s : State) (c : Nat) : State :=
  let s := (s.setRb (Off.clPark c) 2 true).fire (evCluster c 1)
  if s.rb (Off.clPark c) 1 then s.clUnpark c else s

/-- A selected edge: flag, event source and capture trigger. -/
def State.cmpEdge (s : State) (n k : Nat) : State :=
  ((s.edgeFlag n k).fire (evCmp n k)).capTrigger (n / 32) 2 s.trigDue fun sel => decide (sel % 128 = n % 32 + 32 * k)

/-- The watch of CH or CL of a parked channel sees its input at `new`: an edge of a WAKE channel wakes the cluster, and the
first resolution out of UNK is none (R157, R167, R169). -/
def State.cmpWatch (s : State) (n k : Nat) (new : Cmp) : State :=
  let old := s.watchOf n k
  if !s.wakes n then s.setWatch n k new
  else if new = .unk then s
  else
    let s := s.setWatch n k new
    if old ≠ .unk ∧ old ≠ new ∧ s.cmpEn n k ∧ s.edgeSel n k new then (s.edgeFlag n k).wake (n / 32) else s

/-- The input of comparator `k` of channel `n` is on the side `new` of the HYST band, or inside it (UNK). -/
def State.cmpMove (s : State) (n k : Nat) (new : Cmp) : State :=
  if new = .off then s
  else
    let s := s.setSide n k new
    if s.parkedCh n then (if k < 2 then s.cmpWatch n k new else s)
    else
      let old := s.cmp n k
      if new = .unk ∨ !s.cmpEn n k ∨ old = new ∨ old = .off then s
      else
        let s1 := (s.setCmp n k new).setUnkAt n k none
        let s1 := if old ≠ .unk && s.edgeSel n k new then s1.cmpEdge n k else s1
        s1.tripCheck n k new

/-- COMPARATOR_TRANSITION (R169). -/
def execComparatorTransition (n : Chan) (k : Fin 4) (new : Cmp) (s : State) : Result := .next (s.cmpMove n k new)

/-- UNK_TIMEOUT (R168): MH for `k` = 0, ML for 1. -/
def execUnkTimeout (n : Chan) (k : Fin 2) (s : State) : Result :=
  let u := s.ch n
  .next (match (if k = 0 then u.unkAt.1 else u.unkAt.2) with
    | some t =>
      if s.monCfg n 31 && decide (t + 8000 ≤ s.now) && decide (s.cmp n (2 + k) = .unk)
      then (s.setUnkAt n (2 + k) none).monTrip n else s
    | none => s)

/-- A clamp begins or ceases to act on channel `n` (R178). One that begins in the CCLK in which the channel parks, as with a trip, has
acted (R455). -/
def State.clamp (s : State) (n : Nat) (acts : Bool) : State :=
  let o := Off.clClamp (n / 32)
  let parked := s.parkedCh n
  if parked && !flag (s.setNow (chOff Off.chStat n)) 31 then s
  else if !acts then s.setRb o (n % 32) false
  else
    let s := ((if parked then s else s.setRb o (n % 32) true).chFlag n 7).fire (evCluster (n / 32) 2)
    match s.chSite n with
    | some k => s.flagSite k s.steep.num fClamp
    | none => s

/-- A clamp begins or ceases to act on aux output `a`: AUX_STAT.CLAMP is set while it acts, and until it is cleared (R297). -/
def State.auxClampSet (s : State) (a : Nat) (acts : Bool) : State :=
  let s := { s with auxClamps := (s.auxClamps.filter (· ≠ a)) ++ if acts then [a] else [] }
  if acts then s.setRb (Off.auxStat a) 30 true else s

/-- CLAMP_ENGAGE (R178, R297): a clamp begins or ceases to act. -/
def execClampEngage (o : ClampAt) (acts : Bool) (s : State) : Result :=
  .next (match o with
    | .chan n => s.clamp n acts
    | .aux a => s.auxClampSet a acts)

/-! ### The edge data port (R185 to R187) -/

/-- Index of the entry that TS_EADDR of cluster `c` addresses, in the edge tables. -/
def State.edgeAt (s : State) (c : Nat) : Nat := 65536 * c + s.rf (Off.tsEaddr c) 0 16
/-- INDEX increments. -/
def State.edgeStep (s : State) (c : Nat) : State := s.setRf (Off.tsEaddr c) 0 16 (s.rf (Off.tsEaddr c) 0 16 + 1)

/-- The entry that a read of TS_EDATA returns. -/
def State.edgeRead (s : State) (c : Nat) : Word :=
  Tbl.get 0 (if s.rb (Off.tsEaddr c) 31 then s.edgeApp else s.edge) (s.edgeAt c)

/-- What a write of TS_EDATA does with the entry. -/
def State.edgeWrite (s : State) (c : Nat) (v : Word) : State :=
  let i := s.edgeAt c
  if s.rb (Off.tsEaddr c) 31 then s.setRb (Off.tsErr c) 28 true
  else if i % 8 = 7 then s
  else
    let v := v &&& (if i % 8 = 6 then 7 else 0xFFFFFF)
    let s := s.lateNote (edgeOff i)
    State.soil { s with edge := Tbl.set 0 s.edge i v, edgeBad := s.edgeBad.filter (· ≠ i) } (edgeOff i)

/-- A write of TS_EDATA by party `p`: it increments INDEX even where it loses. -/
def State.edgePort (s : State) (p : Party) (c : Nat) (v : Word) (via : Bool := false) : State :=
  s.gateWrite p .pf0 (Off.tsEdata c) v (fun s => (s.edgeWrite c v).edgeStep c) via (lose := fun s => s.edgeStep c)

/-- TS_EDATA_READ (R186). -/
def execTsEdataRead (p : Party) (c : Cl) (s : State) : Result :=
  .next (s.gateRead p .pf0 (.tsEdataRead p c) fun s => (s.answer p (.data (s.edgeRead c))).edgeStep c)
/-- TS_EDATA_WRITE (R186). -/
def execTsEdataWrite (p : Party) (c : Cl) (v : Word) (s : State) : Result := .next (s.edgePort p c v)

end Sys2Proof.Machine
end

