-- ==== Sys2Proof/Machine/Queue.lean ====
section
/-!
DEFINITION. The queue manager, the DMA engines and the link (R230 to R251): acceptance of records, holdover moves, the
descriptor window, HEAD, the holdover registers, copies to the host, link down and up.
-/
namespace Sys2Proof.Machine

open Sys2Proof

/-! ### Counters and notices -/

/-- A class F0 notice about queue `q`, with the register that records it. -/
def State.noticeQ (s : State) (q off : Nat) : State := s.notice (queueSrc q) (queueCause q) (queueOff q off)

/-- Pressure follows the level of the queues (R219). -/
def State.touchOpen (s : State) : State :=
  s.each ((s.clu.filter fun e => e.2.cap.piece.isSome).map (·.1)) fun c s => s.capTouch c

/-- A read of a descriptor that was never written is answered with NOTINIT (R146). It counts once, and each access to the descriptor
is such a read (DESIGN CHOICE, log 88: whether the cache of R231 answers a later one is not stated). -/
def State.descSeen (s : State) (q : Nat) : State :=
  if s.lineLive (descWordRow q 0) then s else s.count Off.vmNotinit 0 32 1

/-- A read of the descriptor cache, of which the checker reports `e`: a line with an uncorrectable error, found now or by the
strainer, is refetched from vector memory, which holds it (R231, R341). -/
def State.descCache (s : State) (e : Ecc) : State :=
  let i := (Config.descAddr s.freeCtr).val
  if e = .uncorrectable then (s.uncorrected 81 i).fresh
  else if e = .corrected then (s.corrected 81 i).fresh
  else match s.qm.dcLost with
    | [] => s
    | w :: t =>
      if Config.cacheMeet s.freeCtr then (State.uncorrected { s with qm := { s.qm with dcLost := t } } 81 w).fresh else s.fresh

/-- An uncorrectable error in the descriptor of queue `q` raises F2 once, and again where its F2 has been cleared (R234). -/
def State.queueUe (s : State) (q : Nat) (e : Ecc := .ok) : State :=
  let s := (s.descCache e).descSeen q
  if s.qBad q && (!s.qm.badSeen.contains q || (s.f2Find (queueSrc q)).isNone) then
    State.f2 { s with qm := { s.qm with badSeen := s.qm.badSeen.filter (· ≠ q) ++ [q] } }
      { cls := 2, src := queueSrc q, cause := queueCause q, off := queueOff q Off.qdSel, site := none, wd := false } true
  else s

/-- A record for queue `q` is dropped (R236); OVF sets unless the descriptor is lost (R234). -/
def State.dropRec (s : State) (q : Nat) : State :=
  if s.qBad q then s.qmCount Off.qmStat 16 16
  else ((s.setQWord q 1 (setFlag (s.qWord q 1) 30 true)).qmCount Off.qmStat 16 16).noticeQ q Off.qmStat

/-- A record for a disabled queue is discarded (R236). -/
def State.offRec (s : State) (q : Nat) : State := (s.qmCount Off.qmStat 0 16).noticeQ q Off.qmStat

/-! ### Acceptance (R25, R234, R236, R237, R239) -/

/-- How the offer of a record ends: filed (or dropped), to a disabled queue, waiting, or waiting for an implicit-fill slot
(R147). -/
inductive FileEnd where
  | filed | lost | off | waits | slot
  deriving DecidableEq, Repr

/-- POUR_DONE of the steep before steep `n` has occurred (R237). -/
def State.mayPlace (s : State) (n : BitVec 64) : Bool := match s.steep.ended with
  | [] => true
  | e :: _ => decide (e.1 = n) || s.committed n

/-- Places a record, as the bytes `l`, in its ring; one of a steep that has committed commits at once (R238). -/
def State.placeRec (s : State) (q : Nat) (r : Rec) (l : List Byte) : State :=
  let s := s.place q r l
  (if s.committed r.steep then s.commitQueue q else s).touchOpen

/-- The site of a record that is not a capture engine's is fenced (R25) or disabled (R28). -/
def State.siteRefuses (s : State) (r : Rec) : Bool :=
  decide (16 ≤ r.src.toNat) && (s.fenced r.site.toNat || !s.enabled r.site.toNat)

/-- A record is filed, once the rows it is written to find a slot. -/
def State.fileAt (s : State) (rows : List Nat) : FileEnd := if s.slotsFor rows then .filed else .slot

/-- What happens to a record that is offered. A record of a fenced or disabled site is lost before its queue is looked at, so a
QPUSH of such a site raises no QOFF; QOFF is judged as a record is offered (DESIGN CHOICE, log 79: R113 orders neither). -/
def State.fileEnd (s : State) (r : Rec) : FileEnd :=
  let q := r.qid.toNat
  let ahead := s.qm.hold.any fun x => x.rcd.qid = r.qid
  if s.safe || s.siteRefuses r || s.qBad q then .lost
  else if !s.qEn q then .off
  else if !s.mayPlace r.steep || (ahead && r.closing) then
    if s.holdRoom r.units then s.fileAt (s.holdPlan r.units) else if r.closing then .lost else .waits
  else if ahead then .waits
  else if s.qRoom q r.units then s.fileAt (s.ringPlan q r.units)
  else if s.qDrop q || r.closing then .lost
  else .waits

/-- What the offer leaves on the queues. -/
def State.fileRec (s : State) (r : Rec) (e : Ecc) : State :=
  let s := if s.safe then s else s.queueUe r.qid.toNat e
  let q := r.qid.toNat
  let ahead := s.qm.hold.any fun x => x.rcd.qid = r.qid
  match s.fileEnd r with
  | .waits => s
  | .slot => s
  | .off => s.offRec q
  | .lost => if s.safe || s.siteRefuses r then s else s.dropRec q
  | .filed =>
    if !s.mayPlace r.steep || ahead then (s.holdPut (s.flagged r)).holdStat
    else s.placeRec q r r.bytes

/-! ### Producers (R226) -/

/-- A strobe of an entry of the piece has not resolved. -/
def State.pieceBusy (s : State) (c : Nat) (p : Piece) : Bool :=
  (s.cl c).strobes.any fun x => p.entries.any fun e => decide (e.vid = x.vid) && e.sample.isNone

/-- A record of cluster `c` for queue `q`, produced before number `made`, has not been accepted (R30). -/
def State.olderWaits (s : State) (c made q : Nat) : Bool :=
  (s.cap c).closed.any (fun p => decide (p.made < made) && p.owed.any fun k => decide (s.capQid c p k = q)) ||
    (s.cl c).out.any (fun r => decide (r.made < made) && decide (r.qid.toNat = q)) ||
    (match (s.sq c).wait with
    | .qpush r => decide (r.made < made) && decide (r.qid.toNat = q)
    | _ => false)

/-- The first record that a closed piece owes, sites rising. -/
def Piece.first (p : Piece) : Option (Piece × Nat) := p.owed.head?.map fun k => (p, k)

/-- Such a record waits for room in its ring or in the holdover area. -/
def State.olderStuck (s : State) (c made q : Nat) : Bool :=
  let waits (r : Rec) : Bool := decide (r.made < made ∧ r.qid.toNat = q ∧ s.fileEnd r = .waits)
  (s.cap c).closed.any (fun p => p.owed.any fun k => waits (s.pieceRec c p k)) || (s.cl c).out.any waits ||
    (match (s.sq c).wait with
    | .qpush r => waits r
    | _ => false)

/-- The record of a piece does not wait: its strobes have resolved, no older record of its queue waits, and the queue manager
decides it at once. A closing record behind one that waits for room has no room where it must go, and is dropped (R30, R239). -/
def State.pieceGoes (s : State) (c : Nat) (p : Piece) : Bool :=
  !s.pieceBusy c p &&
    (match p.first with
    | some (_, k) =>
      let q := s.capQid c p k
      if s.olderWaits c p.made q then p.closing && s.olderStuck c p.made q
      else p.closing || decide (s.fileEnd (s.pieceRec c p k) ≠ .waits)
    | none => false)

/-- The next record of the capture engine: that of the oldest closed piece, or the first of a closing piece, which does not wait
behind it (R239). -/
def State.capOffer (s : State) (c : Nat) : Option (Piece × Nat) :=
  let l := (s.cap c).closed.filter fun p => !p.owed.isEmpty
  (l.find? fun p => s.pieceGoes c p && (p.closing || decide (l.head? = some p))).bind Piece.first

/-- The record of site `k` has left the buffer. -/
def State.capFiled (s : State) (c k : Nat) (p : Piece) : State :=
  let e := s.cap c
  let l := e.closed.map fun x => if x = p then { x with filed := x.filed ++ [k] } else x
  let s := s.setCap c { e with closed := l }
  let s := s.setCap c { s.cap c with closed := l.filter fun x => !x.owed.isEmpty }
  s.capTouch c

/-- Zeroes the 32-bit word `w` of a list of bytes. -/
def zeroWord (l : List Byte) (w : Nat) : List Byte :=
  (l.take (4 * w)) ++ ((l.drop (4 * w)).take 4).map (fun _ => 0) ++ l.drop (4 * w + 4)

/-- Data words of a record. -/
def Rec.words (r : Rec) : Nat := (r.body.length - 32 + 3) / 4

/-- Data word `w` of a record of cluster `c` meets an error in word `i` of the capture buffer: corrected, or lost, and then it
is written as 0 and the record carries POISON (R341). -/
def State.capWord (s : State) (c : Nat) (r : Rec) (i w : Nat) (ue : Bool) : State × Rec :=
  if ue then (s.uncorrected (32 + c) i, { r with body := zeroWord r.body (8 + w), flags := r.flags ||| fPoison })
  else (s.corrected (32 + c) i, r)

/-- The errors that the checker reports of the words of a record. -/
def State.capWords (s : State) (c : Nat) (r : Rec) : List (Fin 1008 × Bool) → State × Rec
  | [] => (s, r)
  | (w, ue) :: t =>
    if r.words ≤ w.val then s.capWords c r t
    else
      let a := s.capWord c r (Config.bufAddr s.freeCtr).val w.val ue
      a.1.fresh.capWords c a.2 t

/-- A record may meet a word of the capture buffer in which the strainer has found an uncorrectable error (R341). -/
def State.capLost (s : State) (c : Nat) (r : Rec) : State × Rec :=
  match (s.cap c).lost with
  | [] => (s, r)
  | i :: t =>
    let k := Config.bufWord s.freeCtr
    if r.words = 0 then (s, r)
    else if k = 0 then (s.fresh, r)
    else (State.fresh (s.setCap c { s.cap c with lost := t })).capWord c r i ((k - 1) % r.words) true

/-- The capture engine of cluster `c` offers a record. -/
def State.acceptCap (s : State) (c : Nat) (o : Offer) : State :=
  match s.capOffer c with
  | none => s
  | some (p, k) =>
    let r := s.pieceRec c p k
    if s.olderWaits c p.made r.qid.toNat then ((s.queueUe r.qid.toNat o.desc).dropRec r.qid.toNat).capFiled c k p
    else match s.fileEnd r with
      | .waits => s
      | .slot => s.slotHold (.recordAccept o)
      | _ =>
        let a := s.capWords c r o.words
        let b := a.1.capLost c a.2
        (b.1.fileRec b.2 o.desc).capFiled c k p

/-- The steep and STHR that a QPUSH record takes: SEQH's belongs to the steep of its acceptance (R40, R225). -/
def State.pushFinal (s : State) (x : Nat) (r : Rec) : Rec :=
  if x < 16 then r else { r with steep := s.steep.num, sthr := s.maxStretch }

/-- A QPUSH offers its record: it retires, or raises QOFF (R113, R236). -/
def State.acceptPush (s : State) (x : Nat) (o : Offer) : State :=
  let q := s.sq x
  match q.wait with
  | .qpush r =>
    if q.mode ≠ .running ∨ s.now < q.readyAt ∨ (x < 16 ∧ s.olderWaits x r.made r.qid.toNat) then s
    else
      let r := s.pushFinal x r
      match s.fileEnd r with
      | .waits => s
      | .slot => s.slotHold (.recordAccept o)
      | .off => (s.queueUe r.qid.toNat o.desc).exception x 0x11 r.qid.toNat q.pc
      | _ => (s.fileRec r o.desc).retire x (q.pc + 1) 0
  | _ => s

/-- A MEAS offers its oldest record. -/
def State.acceptMeas (s : State) (c : Nat) (o : Offer) : State :=
  match (s.cl c).out with
  | r :: rest =>
    if s.olderWaits c r.made r.qid.toNat then s
    else match s.fileEnd r with
      | .waits => s
      | .slot => s.slotHold (.recordAccept o)
      | _ => State.fileRec (s.setCl c { s.cl c with out := rest }) r o.desc
  | [] => s

/-- A TIU offers its record: NOREC where it is discarded or dropped (R265). -/
def State.acceptTiu (s : State) (t : Nat) (o : Offer) : State :=
  if s.tiuState t ≠ 2 then s
  else
    let r := s.tiuRec t
    match s.fileEnd r with
    | .waits => s
    | .slot => s.slotHold (.recordAccept o)
    | .filed => (s.fileRec r o.desc).setTiuState t 0
    | _ => ((s.fileRec r o.desc).tiuFlag t 26).setTiuState t 0

/-- A write of QHEAD_ADV of the present CCLK has not acted: room is judged with HEAD as it leaves it (R236). -/
def State.headComes (s : State) : Bool := s.coming.any fun e => decide (e.2.1 = .pf0 ∧ e.2.2.1 = Off.qheadAdv)

/-- RECORD_ACCEPT (R236). -/
def execRecordAccept (o : Offer) (s : State) : Result :=
  .next (if s.vmWait then s else if s.headComes then s.putBehind (.recordAccept o) else match o.src with
    | .capture c => s.acceptCap c o
    | .qpush x => s.acceptPush x o
    | .meas c => s.acceptMeas c o
    | .tiu t => s.acceptTiu t o)

/-! ### Holdover moves (R237, R238) -/

/-- The record may move: POUR_DONE of the steep before its own has occurred, and its queue does not make it wait. -/
def State.mayMove (s : State) (r : Rec) : Bool :=
  let q := r.qid.toNat
  s.mayPlace r.steep && (s.qBad q || !s.qEn q || s.qRoom q r.units || s.qDrop q)

/-- The first record in order of acceptance that may move and stands behind none of its queue, with the others: one that waits for
room does not keep back those of other queues (DESIGN CHOICE, log 88: R237 does not say whether it does). -/
def State.moveNext (s : State) : List (BitVec 20) → List Held → Option (Held × List Held)
  | _, [] => none
  | blocked, h :: t =>
    if !blocked.contains h.rcd.qid && s.mayMove h.rcd then some (h, t)
    else (s.moveNext (h.rcd.qid :: blocked) t).map fun e => (e.1, h :: e.2)

/-- One move out of the holdover area. -/
def State.holdMove (s : State) : State :=
  match s.moveNext [] s.qm.hold with
  | none => s
  | some (h, rest) =>
    let q := h.rcd.qid.toNat
    let (r, l) := s.holdRead h
    let rows := s.holdEcc h
    if !s.qBad q && s.qEn q && s.qRoom q r.units && !s.slotsFor (s.ringPlan q r.units) then s.slotHold .holdoverMove
    else
    let s := State.queueUe { s with qm := { s.qm with hold := rest } } q
    let s := if s.qBad q then (s.dropRec q).recLost r
      else if !s.qEn q then (s.offRec q).recLost r
      else if s.qRoom q r.units then ((s.rowsSeen rows).freshBy rows.length).placeRec q r l
      else (s.dropRec q).recLost r
    State.holdStat { s with qm := { s.qm with moving := s.qm.hold.any fun h => s.mayPlace h.rcd.steep } }

/-- HOLDOVER_MOVE (R237). -/
def execHoldoverMove (s : State) : Result :=
  .next (if s.vmWait then s else if s.headComes then s.putBehind .holdoverMove else s.holdMove)

/-! ### The descriptor window (R231 to R234) -/

/-- Bits of W0 that may change at any time: IEN, WM, MSIX. -/
def w0Any : Word := 0x1001FFFF

/-- A ring lies inside vector memory and outside the descriptor region. -/
def State.ringFits (s : State) (q sizeLog : Nat) : Bool :=
  decide (7 ≤ sizeLog ∧ sizeLog ≤ 22) && decide (s.qBase q + 32 * 2 ^ sizeLog ≤ descRow * 8)

/-- Whether a write of word `k` is accepted. -/
def State.qdOk (s : State) (q k : Nat) (v : Word) : Bool :=
  let en := s.qEn q
  if s.qBad q then false
  else if k = 0 then
    if !en then !flag v 31 || s.ringFits q (fld v 17 5)
    else if (v ^^^ s.qWord q 0) &&& ~~~(w0Any ||| 0x80000000) ≠ 0 then false
    else flag v 31 || (decide (s.qIdx q 6 = s.qIdx q 5) &&
      (!s.qHost q || decide (s.qIdx q 7 = s.qIdx q 5) || s.qHalted q))
  else if k = 1 then true
  else if k = 2 ∨ k = 3 then !en
  else true

/-- Stores word `k` of the descriptor of queue `q`. -/
def State.qdStore (s : State) (q k : Nat) (v : Word) : State :=
  let old := s.qWord q k
  match k with
  | 0 =>
    let s1 := s.setQWord q 0 v
    if flag v 31 && !flag old 31 then (((s1.setQIdx q 4 0).setQIdx q 5 0).setQIdx q 6 0).setQIdx q 7 0 else s1
  | 1 =>
    let ovf := flag old 30 && !flag v 30
    s.setQWord q 1 (setFlag (if s.qEn q then old else v &&& 0x7FFFFF) 30 ovf)
  | 2 => s.setQWord q 2 v
  | 3 => s.setQWord q 3 (v &&& 0xFFFFF)
  | _ => s

/-- A write through QD_W by party `p`. -/
def State.qdWrite (s : State) (p : Party) (k : Nat) (v : Word) : State :=
  let q := s.rf Off.qdSel 0 20
  if s.qdOk q k v && !s.slotsFor [descWordRow q k] then s.slotHold (.qdWrite p (Fin.ofNat 8 k) v)
  else
  let s := s.queueUe q
  if s.qdOk q k v then (s.qdStore q k v).touchOpen
  else (s.qmCount Off.qmStat2 8 8).noticeQ q Off.qmStat2

/-- QD_WRITE (R233). -/
def execQdWrite (p : Party) (k : Fin 8) (v : Word) (s : State) : Result :=
  .next (s.gateWrite p .pf0 (Off.qdW k) v fun s => s.qdWrite p k v)

/-! ### HEAD and the holdover registers (R240, R251) -/

/-- A write of QHEAD_ADV. -/
def State.headAdv (s : State) (v : Word) : State :=
  let q := fld v 12 20
  let adv := fld v 0 12
  let s := s.queueUe q
  let limit := idxDiff (if s.qHost q then s.qIdx q 7 else s.qIdx q 5) (s.qIdx q 4)
  if s.qBad q || !s.qEn q || decide (limit < adv) then (s.qmCount Off.qmStat2 0 8).noticeQ q Off.qmStat2
  else (s.setQIdx q 4 (s.qIdx q 4 + adv)).touchOpen

/-- QHEAD_ADV (R240). -/
def execQheadAdv (p : Party) (v : Word) (s : State) : Result :=
  .next (s.gateWrite p .pf0 Off.qheadAdv v fun s => s.headAdv v)

/-- First region of the descriptor region. -/
def descRegion : Nat := 0x7FE0

/-- A write of QM_HOLD_BASE or QM_HOLD_LEN. -/
def State.qmHold (s : State) (len : Bool) (v : Word) : State :=
  let r := fld v 0 15
  let base := if len then s.rf Off.qmHoldBase 0 15 else r
  let n := if len then r else s.rf Off.qmHoldLen 0 15
  if s.rf Off.qmHoldStat 0 21 = 0 ∧ (n = 0 ∨ base + n ≤ descRegion)
  then s.setRg (if len then Off.qmHoldLen else Off.qmHoldBase) (BitVec.ofNat 32 r)
  else s.qmCount Off.qmStat2 8 8

/-- QM_HOLD_WRITE (R251): QM_HOLD_LEN with `len`, else QM_HOLD_BASE. -/
def execQmHoldWrite (p : Party) (len : Bool) (v : Word) (s : State) : Result :=
  .next (s.gateWrite p .pf0 (if len then Off.qmHoldLen else Off.qmHoldBase) v fun s => s.qmHold len v)

/-! ### DMA engines (R241 to R245) -/

/-- Writes bytes to host memory. -/
def hostPut (mem : List Host.Cell) (a : Nat) : List Byte → List Host.Cell
  | [] => mem
  | b :: t => hostPut (tblSet (fun _ => (0 : Byte)) mem (a % 2 ^ 64) b) (a + 1) t

/-- Rows of a unit of a ring. -/
def State.unitRows (s : State) (q i : Nat) : List Nat := (List.range 4).map fun j => s.unitAddr q i / 8 + j

/-- Length in units of the record at index `i`: LENM1 + 1. -/
def State.recUnits (s : State) (q i : Nat) : Nat :=
  let r := s.unitAddr q i / 8 + 2
  (if s.lineLive r then fld (rowHalf (s.mem.row r) false) 24 7 else 0) + 1

/-- Bytes of `n` units from index `i`, a never-written row reading 0. -/
def State.ringBytes (s : State) (q i n : Nat) : List Byte :=
  (List.range n).flatMap fun j => (s.unitRows q (i + j)).flatMap fun r => longBytes (if s.lineLive r then s.mem.row r else 0)

/-- Sets NOTINIT in the header of a record's bytes: bit 19 of word 7. -/
def markNotInit : List Byte → List Byte := fun l => l.mapIdx fun i b => if i = 30 then b ||| 8 else b

/-- Sets COPY and writes it to the write-back block; with IEN the vector is signalled (R242). -/
def State.dmaUpdate (s : State) (q i : Nat) : State :=
  let s := s.setQIdx q 7 i
  let wb := s.qHostBase q + s.qSize q * 32
  let s := { s with qm := { s.qm with
    hostMem := hostPut s.qm.hostMem wb (wordBytes (BitVec.ofNat 32 (i % 2 ^ 24)) ++ List.replicate 28 0) } }
  if s.qIen q then s.msix false (s.qMsix q) else s

/-- The engine halts on the record at index `i` for the row `r` (R244). -/
def State.dmaHalt (s : State) (e q r : Nat) : State :=
  let o := Off.dmaStat e
  let s := (s.uncorrected memVm r).poison r
  let s := (s.setRb o 31 true).setRg (Off.dmaErrq e) (BitVec.ofNat 32 q)
  let s := (s.setRg (Off.dmaErraddrLo e) (BitVec.ofNat 32 (8 * r))).setRg (Off.dmaErraddrHi e) (BitVec.ofNat 32 (8 * r / 2 ^ 32))
  let s := s.f2 { cls := 2, src := 0x6000 + e, cause := 0, off := o, site := none, wd := false } true
  s.irq (128 + e)

/-- Copies records from index `i` until CTAIL or a bad record; gives the index reached and the row that failed. `ecc` is what the
checker reports of the rows read, in order. -/
def State.dmaLoop (s : State) (e q i : Nat) (ecc : List Ecc) : Nat → State × Nat × Option Nat
  | 0 => (s, i, none)
  | n + 1 =>
    if i = s.qIdx q 5 then (s, i, none)
    else
      let k := s.recUnits q i
      let rows := (List.range k).flatMap fun j => s.unitRows q (i + j)
      let reads := withEcc rows ecc
      match s.firstBad reads with
      | some r => (s.rowsSeen (reads.takeWhile fun x => x.1 ≠ r), i, some r)
      | none =>
        let bytes := s.ringBytes q i k
        let bytes := if rows.any fun r => !s.lineLive r then markNotInit bytes else bytes
        let mem := (List.range k).foldl (fun m j => hostPut m (s.qHostBase q + (i + j) % s.qSize q * 32)
          ((bytes.drop (32 * j)).take 32)) s.qm.hostMem
        let s := s.rowsSeen reads
        let s := State.count { s with qm := { s.qm with hostMem := mem } } (Off.dmaStat e) 0 16 1
        s.dmaLoop e q ((i + k) % 2 ^ 24) (ecc.drop rows.length) n

/-- Engine `e` serves the first queue of its order. -/
def State.dmaServe (s : State) (e : Nat) (ecc : List Ecc) : State :=
  if !s.linkOk || s.dmaHalted e then s
  else match Tbl.get [] s.qm.order e with
    | [] => s
    | q :: rest =>
      let s := { s with qm := { s.qm with order := Tbl.set [] s.qm.order e rest } }
      let s := s.queueUe q
      if s.qBad q then s
      else if !s.qEn q || decide (s.qIdx q 7 = s.qIdx q 5) then s
      else
        let i := s.qIdx q 7
        match s.dmaLoop e q i ecc (idxDiff (s.qIdx q 5) i) with
        | (s, j, none) => s.dmaUpdate q j
        | (s, j, some r) => (if j = i then s else s.dmaUpdate q j).dmaHalt e q r

/-- DMA_COPY (R242). -/
def execDmaCopy (e : Fin 64) (ecc : List Ecc) (s : State) : Result := .next (if s.vmWait then s else s.dmaServe e ecc)

/-! ### The link (R249) -/

/-- LINK_DOWN: the link goes down, or Bus Master Enable is cleared. -/
def execLinkDown (bmeCleared : Bool) (s : State) : Result :=
  .next (if bmeCleared then { s with qm := { s.qm with bme := false } } 
    else { s with qm := { s.qm with link := false, mode := none } })

/-- The link is up with Bus Master Enable set: pending messages leave. At 64.0 GT/s it runs in Flit mode (R246). -/
def State.linkUp (s : State) : State :=
  let m := Config.linkTrained s.freeCtr
  State.fresh { s with qm := { s.qm with
    link := true, mode := some { m with flit := m.flit || decide (m.rate = .g64) }, bme := true,
    msix := s.qm.msix ++ s.qm.msixPend, msixPend := [] } }

/-- The link may train: from step 7 of power-up on, with REFCLK, from which its PHY takes its reference, and with PERST_N released
(R414, R422). -/
def State.mayTrain (s : State) : Bool :=
  !s.rst.held && decide (7 ≤ s.rf Off.rstStat 16 4) && s.rb Off.clkStat 29 && !s.qm.perst
/-- LINK_UP. -/
def execLinkUp (s : State) : Result := .next (if s.mayTrain then s.linkUp else s)

end Sys2Proof.Machine
end

