-- ==== Sys2Proof/Machine/Sync.lean ====
section
/-!
DEFINITION. Multi-part alignment (R281 to R285): SYNC_OUT, the pulses at SYNC_IN, skew measurement and re-phase.
-/
namespace Sys2Proof.Machine

open Sys2Proof

/-- SYNC_STAT.ARMED. -/
def State.syncArmed (s : State) : Bool := s.rb Off.syncStat 30

/-- A write of SYNC_CFG: FIRST below 800 is stored as 800, with a notice (R283). -/
def State.syncCfgWrite (s : State) (v : Word) : State :=
  let w := v &&& 0xC0FFFFFF
  if fld w 0 24 < 800 then (s.setRg Off.syncCfg (setFld w 0 24 800)).noticeAt Off.syncCfg
  else s.setRg Off.syncCfg w

/-- A write of 1 to SEND (R281). -/
def State.syncSend (s : State) : State :=
  if s.rb Off.syncCfg 31 then { s with sync := { s.sync with send := true } } else s.setRb Off.syncStat 27 true

/-- A write of 1 to ARM (R282); in bypass it is rejected (R417). -/
def State.syncArm (s : State) : State :=
  if s.bypass then s
  else
    let n := if s.rb Off.syncCfg 30 then s.rf Off.skCfg 24 8 + 1 else 1
    State.setRb { s with sync := { s.sync with left := n, samples := [] } } Off.syncStat 30 true

/-- A write of SYNC_CMD. -/
def State.syncCmdWrite (s : State) (v : Word) : State :=
  let s := if flag v 1 then s.syncSend else s
  if flag v 0 then s.syncArm else s

/-- A phase moved by whole TCLK to within half a TCLK of a reference, both in half picoseconds (R282). -/
def unwrapPhase (ref a : Int) : Int :=
  if 2 * (a - ref) > 625 then a - 625 else if 2 * (a - ref) < -625 then a + 625 else a

/-- MEAN of samples in half picoseconds: reduced modulo 312.5 ps and rounded to whole ps (R282). -/
def syncMean (l : List Int) : Nat :=
  let n := l.length
  (roundDiv (l.sum % ((625 * n : Nat) : Int)) (2 * n)).toNat

/-- A pulse of a measurement: after the last one MEAN, SK_CORR and MDONE (R282). -/
def State.syncMeasure (s : State) (a : Int) : State :=
  let l := s.sync.samples ++ [unwrapPhase (s.sync.samples.headD a) a]
  let left := s.sync.left - 1
  let s := { s with sync := { s.sync with samples := l, left := left } }
  if left = 0 then
    let mean := syncMean l
    let corr := mean + signed 16 (s.rf Off.skCfg 0 16) - 312
    let s := s.setRg Off.skStat (setFld (BitVec.ofNat 32 mean) 16 16 (unsigned 16 corr))
    let s := (s.setRb Off.syncStat 28 true).setRb Off.syncStat 30 false
    { s with sync := { s.sync with corrNew := some corr, fresh := !s.bypass } }
  else s

/-- Every cluster is HALTED or parked with an empty FIFO, and every waveform engine and TIU is IDLE (R283). -/
def State.syncQuiet (s : State) : Bool :=
  (List.range 16).all (fun c =>
    (decide ((s.sq c).mode = .halted) || s.clParked c) && (s.cl c).fifo.isEmpty && (s.cl c).cur.isNone) &&
  (List.range 16).all (fun w => decide (s.weState w = 0)) && (List.range 8).all fun t => decide (s.tiuState t = 0)

/-- TCLK cycle that the SYNC instant of a pulse begins, `a` half picoseconds after the start of TCLK cycle `e` (R282): 64 TCLK
later, with `a` unwrapped toward MEAN. -/
def State.syncInstant (s : State) (e : Nat) (a : Int) : Nat :=
  let mean : Int := 2 * (s.rf Off.skStat 0 9 : Nat)
  e + 64 + (if unwrapPhase mean a < a then 1 else 0) - (if a < unwrapPhase mean a then 1 else 0)

/-- A pulse of a re-phase (R283): its instant begins TCLK cycle `t`. -/
def State.syncRephase (s : State) (t : Nat) : State :=
  if s.syncQuiet then
    State.setRb { s with sync := { s.sync with
      left := 0, loadAt := some ((t + 3) / 4), lastAt := some t, grid := (s.sync.grid + t) % 4 } } Off.syncStat 30 false
  else (s.setRb Off.syncStat 27 true).noticeAt Off.syncStat

/-- A pulse within 64 TCLK of the SYNC instant of the pulse before (R284). -/
def State.syncNear (s : State) (e : Nat) (a : Int) : Bool := match s.sync.lastAt with
  | some t => decide (e < t + 64) || (decide (e = t + 64) && decide (a = 0))
  | none => false

/-- A pulse at SYNC_IN, `a` half picoseconds after the start of TCLK cycle `e` (R282). -/
def State.syncPulse (s : State) (e : Nat) (a : Int) : State :=
  if !s.syncArmed || s.syncNear e a then s.count Off.syncStat 0 8 1
  else if s.rb Off.syncCfg 30 then State.syncMeasure { s with sync := { s.sync with lastAt := some (e + 64) } } a
  else State.syncRephase { s with sync := { s.sync with lastAt := some (s.syncInstant e a) } } (s.syncInstant e a)

/-- The SYNC instant of an accepted re-phase: a CCLK edge is placed there, from which the model counts TCLK cycles anew, and
TSTAMP, the next tick and the steep that it begins are loaded (R283). -/
def State.syncLoad (s : State) : State :=
  match s.sync.loadAt with
  | some t =>
    if t ≤ s.now then
      let pair (lo hi : Nat) : BitVec 64 := (s.rg hi ++ s.rg lo)
      let s := { s with
        tstamp := pair Off.syncTsLo Off.syncTsHi
        steep := { s.steep with tickLeft := s.rf Off.syncCfg 0 24 }
        sync := { s.sync with loadAt := none, lastAt := some (4 * s.now),
                              rephase := some (pair Off.syncSteepLo Off.syncSteepHi) } }
      (s.setRb Off.syncStat 29 true).setRb Off.syncStat 31 (s.rb Off.syncStat 31 || s.sync.fresh)
    else s
  | none => s

/-- A waiting SEND leaves at the tick, if the part is still the master (R281). -/
def State.syncLaunch (s : State) : State :=
  if s.sync.send then
    { s with sync := if s.rb Off.syncCfg 31
      then { s.sync with send := false, out := s.sync.out + 1, outAt := some s.now } else { s.sync with send := false } }
  else s

/-- SYNC_OUT (R281): none where the part is not the master; else its level, high for 8 TCLK from the launch of a pulse. -/
def State.syncOut (s : State) : Option Bool :=
  if s.rb Off.syncCfg 31 then some (match s.sync.outAt with
    | some t => decide (s.now < t + 2)
    | none => false)
  else none

/-- SYNC_SEND (R281): a write of SYNC_CMD. -/
def execSyncSend (p : Party) (v : Word) (s : State) : Result :=
  .next (s.gateWrite p .pf0 Off.syncCmd v fun s => s.syncCmdWrite v)
/-- SYNC_ARM (R282): a write of SYNC_CMD. -/
def execSyncArm (p : Party) (v : Word) (s : State) : Result :=
  .next (s.gateWrite p .pf0 Off.syncCmd v fun s => s.syncCmdWrite v)
/-- SYNC_PULSE (R282): a pulse at SYNC_IN, `phase` half picoseconds after the start of the present CCLK, whose
four TCLK cycles hold 625 each. -/
def execSyncPulse (phase : Fin 2500) (s : State) : Result :=
  .next (s.syncPulse (4 * s.now + phase.val / 625) ((phase.val % 625 : Nat) : Int))

end Sys2Proof.Machine
end

