-- ==== Sys2Proof/Machine/Steep.lean ====
section
/-!
DEFINITION. The steep and the pour window (spec 02): the tick, overruns, the pour of a cluster, POUR_DONE with the commit,
and the pour limit.
-/
namespace Sys2Proof.Machine

open Sys2Proof

/-- The tick generator runs (STEEP_STAT.ACTIVE). -/
def State.ticking (s : State) : Bool := s.rb Off.steepStat 31
/-- LP of the steep in progress: floor(STEEP_PERIOD × POUR_LIMIT ÷ 64) of its values (R43). -/
def State.pourLimit (s : State) : Nat := s.af Off.steep 0 24 * s.af Off.pourCtl 0 6 / 64
/-- RUNAHEAD of the steep in progress (R44). -/
def State.runAhead (s : State) : Nat := min 12800 (3 * s.pourLimit / 4)

/-- A piece of the cluster that closed with a park or fence still owes a record (R239). -/
def State.clClosing (s : State) (c : Nat) : Bool :=
  (s.cap c).closed.any fun p => p.closing && !p.owed.isEmpty
/-- The cluster is parked or fenced: it starts no sequencer and its channels are parked. -/
def State.clOut (s : State) (c : Nat) : Bool := s.parkReq c || s.clParked c || (s.cl c).parking
/-- The cluster counts as parked or fenced for POUR_DONE (R42, R239). -/
def State.clExcluded (s : State) (c : Nat) : Bool := s.clOut c && !s.clClosing c

/-- Cluster `c` holds a record of steep `n` that has not been filed. -/
def State.owesRec (s : State) (c : Nat) (n : BitVec 64) : Bool :=
  (s.cap c).closed.any (fun p => p.steep = n && !p.owed.isEmpty) || (s.cl c).out.any (fun r => r.steep = n) ||
    (match (s.sq c).wait with
    | .qpush r => decide (r.steep = n)
    | _ => false)

/-- Work of steep `n` in cluster `c`, as R41 lists it, has ended: its vectors' last edges have been placed and their strobes
have resolved, its pieces have been filed, its samples converted and its records accepted. -/
def State.clDone (s : State) (c : Nat) (n : BitVec 64) : Bool :=
  let u := s.cl c
  let e := s.cap c
  !(u.fifo.any fun x => decide (x.steep = n)) &&
    u.placed.all (fun e => decide (e.1 ≠ n) || decide (e.2 < (s.now + 1) * hps)) &&
    !s.entriesLeft c n true && u.strobes.all (fun x => x.steep ≠ n) &&
    (e.piece.toList ++ e.old.toList).all (fun p => p.steep ≠ n) && !s.owesRec c n
/-- Cluster `c` has reached CPOUR_DONE of the ended steep `n` (R42): noted, or reached in the present CCLK. -/
def State.clPoured (s : State) (c : Nat) (n : BitVec 64) : Bool := (s.cl c).poured.contains n || s.clDone c n

/-! ### Overruns (R39, R52 to R54, R484) -/

/-- Offset of the status register of a cluster's steep. -/
def overOff (c : Nat) : Nat := Off.clSteepstat c

/-- The sequencer of cluster `c` overruns at this tick (R39). -/
def State.overruns (s : State) (c : Nat) : Bool := decide ((s.sq c).mode = .running) && !s.clOut c
/-- OVERRUN_POLICY of cluster `c` is SLIP, and SLIPRUN would stay within SLIPMAX (R53). -/
def State.maySlip (s : State) (c : Nat) : Bool :=
  flag (s.ap (Off.clSteep c)) 8 && decide (s.rf (overOff c) 1 4 + 1 ≤ s.rf (Off.clSteep c) 0 4)
/-- The causes for which cluster `c` is fenced at a tick: an overrun under ABORT (1) or beyond SLIPMAX (3), and the pour
limit of the steep before, where it ends at this tick (2). -/
def State.tickCauses (s : State) (c : Nat) : List (Nat × Nat) :=
  let a := if s.overruns c && !s.maySlip c then
      [(if flag (s.ap (Off.clSteep c)) 8 then 3 else 1, overOff c)] else []
  let late := s.steep.limitOn && !s.clOut c && s.steep.ended.any fun e => !s.clPoured c e.1
  a ++ (if late then [(2, overOff c)] else [])

/-- The sequencer is stalled under R140. -/
def SeqSt.stalled (q : SeqSt) : Bool := match q.wait with
  | .issue j => j.stalled
  | _ => false

/-- A slipped tick of cluster `c`, at the end of steep `n` (R53); of a stalled one the records of both steeps carry UNDERRUN
too (R145). -/
def State.slip (s : State) (c : Nat) (n n1 : BitVec 64) : State :=
  let o := overOff c
  let s := ((s.setRb o 0 true).count o 16 16 1).count o 1 4 1
  let f := fSlip ||| if (s.sq c).stalled then fUnderrun else 0
  ((s.noticeCl c o).flagCl c n f).flagCl c n1 f

/-- The tick judges the sequencer of cluster `c`: a slip is recorded, SLIPPING and SLIPRUN clear where it has yielded, and
whatever fences the cluster acts beside that (R54, R320). -/
def State.judge (s : State) (c : Nat) (n n1 : BitVec 64) : State :=
  let causes := s.tickCauses c
  let s := match (s.sq c).mode with
    | .running => if s.overruns c && s.maySlip c then s.slip c n n1 else s
    | .yielded => (s.setRb (overOff c) 0 false).setRf (overOff c) 1 4 0
    | _ => s
  s.fenceCluster c causes

/-! ### Sequencers at a tick (R38, R56, R62, R143) -/

/-- A sequencer resumes or starts in the CCLK after the tick. -/
def State.seqTick (s : State) (x : Nat) : State :=
  let q := s.sq x
  match q.mode with
  | .startPend => s.seqBegin x (s.rf (Off.seqStart x) 0 15)
  | .yielded =>
    s.setSq x { q with mode := .running, readyAt := s.now + 1, abort := false, vcnt := 0,
                       pc := if q.abort then s.rf (Off.clUnderrunCtl x) 0 15 else q.pc }
  | _ => s.setSq x { q with vcnt := 0 }

/-! ### Channels and clusters that leave park (R154, R156, R409, R417) -/

/-- The clusters unpark whose PARK is 0 and whose parking has completed. Not while TCLK or VCLK is off, or from a loss of
clocks until RELOCKED. -/
def State.unparkTick (s : State) : State :=
  if !s.rb (Off.clkOut 0) 31 || !s.rb (Off.clkOut 3) 31 || s.bypass || s.clk.relockAt.isSome then s
  else s.each ((List.range 16).filter fun c => s.clParked c && !s.parkReq c) fun c s =>
    (s.setRb (Off.clPark c) 31 false).setRb (Off.clPark c) 30 false

/-- Channels that leave their park state at this tick. -/
def State.leaving (s : State) : List Nat :=
  s.mapped.filter fun n =>
    s.parkedCh n && !s.parkCause n && !s.clParked (n / 32) && !(s.cl (n / 32)).parking &&
      (match s.chSite n with
      | some k => !s.siteFalling k
      | none => false)

/-- Channels with an edge flag set, assigned or not. -/
def State.edgeFlagged (s : State) : List Nat :=
  s.reg.filterMap fun e => match chanReg e.1 with
    | some (n, 0x38) => if fld e.2 8 4 ≠ 0 then some n else none
    | _ => none

/-- Edge flags with CLRMODE = STEEP clear at the tick, but for those set in its CCLK (R4, R169). -/
def State.clearEdges (s : State) : State :=
  s.each s.edgeFlagged fun n s =>
    (List.range 4).foldl
      (fun s k =>
        let c := s.cmpCfg n k
        let held := (s.cmp n k = .high && c / 4 % 4 = 1) || (s.cmp n k = .low && c / 4 % 4 = 2)
        if nbit c 4 && !held && !flag (s.setNow (chOff Off.chCmpstat n)) (8 + k) 
        then s.setRb (chOff Off.chCmpstat n) (8 + k) false else s) s

/-! ### Governor at a tick (R221) -/

/-- One step back where the steep that ends was free of pressure. -/
def State.govTick (s : State) (c : Nat) : State :=
  let o := Off.capGovstat c
  let e := s.cap c
  let s := s.setCap c { e with oldD := (s.capD c, s.capFolded c) }
  let s :=
    if !e.lowOk then s
    else if s.capFolded c then s.setRb o 27 false
    else if s.rf (Off.capGov c) 16 4 < s.capD c then s.setRf o 28 4 (s.capD c - 1)
    else s
  s.setCap c { s.cap c with lowOk := decide (e.fill ≤ s.rf (Off.capGov c) 0 8 * 512) && !s.capAbove c }

/-- A clamp that acts over the tick flags the records of its site in the new steep (R178). -/
def State.clampTick (s : State) : State :=
  s.each (s.mapped.filter fun n => s.rb (Off.clClamp (n / 32)) (n % 32)) fun n s =>
    match s.chSite n with
    | some k => s.flagSite k s.steep.num fClamp
    | none => s

/-! ### The tick (R35) -/

/-- The heartbeat has toggled: the warden's view of it is valid (R37, R314). -/
def State.hbSeen (s : State) : State :=
  if s.ward.granting then s.setSg Off.wdStat (setFlag (s.sg Off.wdStat) 26 true) else s

/-- What a tick does. -/
def State.tick (s : State) : State :=
  let n := s.steep.num
  let n1 := s.sync.rephase.getD (n + 1)
  let lp := s.pourLimit
  let s := s.each (List.range 16) fun c s => s.judge c n n1
  let s := { s with
    steep := { s.steep with num := n1, lastTick := s.now, lp := lp, limitOn := true,
                            ended := s.steep.ended ++ [(n, s.now)], hb := !s.steep.hb, hbAt := s.now }
    sync := { s.sync with rephase := none, corr := s.sync.corrNew.getD s.sync.corr, corrNew := none } }
  let s := s.clampTick.takeUp
  let s := State.setRf { s with steep := { s.steep with tickLeft := s.af Off.steep 0 24 } } Off.steepStat 0 14 s.runAhead
  let s := s.thermalTick
  let s := s.unparkTick
  let left := s.leaving
  let s := s.each left fun n s => s.unparkChan n
  let s := s.tapsTick left
  let s := s.clearEdges
  let s := s.each (List.range 8) fun t s =>
    let u := s.tu t
    let src := s.rb (Off.tiuCalctl t) 1 && u.cd.isSome
    s.setTu t { u with tabSrc := src, tab := u.cd.getD [] }
  let s := s.each (List.range 17) fun x s => s.seqTick x
  let s := s.each (List.range 16) fun c s => (s.capSteepEnd c).govTick c
  let s := s.capTriggerAll 4 n1.toNat fun _ => true
  let s := s.each (List.range 16) fun w s => s.weTrigger w 2
  s.syncLaunch.hbSeen.fire evTick

/-- A STEEP of a running sequencer retires in the present CCLK and stands behind in the queue (R38). -/
def State.steepComes (s : State) : Bool :=
  s.waiting.any fun c => match c with
    | .steep x w _ => s.canRun x 0x02 w
    | _ => false

/-- A command with which work that R41 lists may end. -/
def endsWork (c : Instr) : Bool := match c with
  | .vectorApply _ => true
  | .strobeResolve .. => true
  | .mloopPassResolve .. => true
  | .rangeApply _ => true
  | .forceApply _ => true
  | .measApply _ => true
  | .evsEntryApply _ => true
  | .adcSampleDone .. => true
  | .measSettleEnd .. => true
  | .listArmApply _ => true
  | .listTrigApply _ => true
  | .listCloseApply _ => true
  | .listDisarmApply _ => true
  | .vectorPeriodEnd _ => true
  | .recordAccept _ => true
  | _ => false
/-- A cluster's work is late at the end of the pour limit, and a command that may end work in this CCLK stands in the queue. -/
def State.workComes (s : State) : Bool :=
  s.steep.limitOn && s.waiting.any endsWork &&
    (List.range 16).any fun c => !s.clOut c && s.steep.ended.any fun e => !s.clPoured c e.1

/-- TICK (R35): the steep period has run out. A STEEP that retires in its CCLK is on time (R38), and work that ends in it meets
the pour limit (R43): the tick lets both pass. -/
def execTick (s : State) : Result :=
  .next (if s.ticking ∧ s.steep.tickLeft = 0 then
      (if s.steepComes || s.workComes then s.putBehind .tick else s.tick)
    else s)

/-- HEARTBEAT_TOGGLE (R37): 800,000 CCLK have passed since the last toggle. -/
def execHeartbeatToggle (s : State) : Result :=
  .next (if s.rst.ready ∧ s.steep.hbAt + 800000 ≤ s.now
    then State.hbSeen { s with steep := { s.steep with hb := !s.steep.hb, hbAt := s.now } } else s)

/-! ### The pour of a cluster (R41, R42) -/

/-- CLUSTER_POUR_DONE (R42): the cluster reaches CPOUR_DONE of its oldest ended steep. -/
def execClusterPourDone (c : Cl) (s : State) : Result :=
  .next (match s.steep.ended.find? fun e => !(s.cl c).poured.contains e.1 with
    | some (n, _) =>
      if !s.clOut c && s.clDone c n then s.setCl c { s.cl c with poured := (s.cl c).poured ++ [n] } else s
    | none => s)

/-! ### POUR_DONE (R42, R45, R47) -/

/-- POUR_DONE of steep `n` is due. -/
def State.pourDue (s : State) (n : BitVec 64) : Bool :=
  (List.range 16).all fun c => (s.cl c).poured.contains n || s.clExcluded c

/-- The MASK fail actions of steep `n` end, but for sites fenced in this CCLK (R31, R48), whose mask ends at the next POUR_DONE
(DEDUCED, log 18); vectors issued before stay masked for their sites (R23). -/
def State.maskEnd (s : State) (n : BitVec 64) : State :=
  let done (m : BitVec 64) : Bool := decide (m = n) || decide (m ≠ s.steep.num) && s.steep.ended.all fun e => decide (e.1 ≠ m)
  let ks := idxs 128 fun k => (s.st k).maskSteep.any done && decide ((s.st k).fencedAt ≠ some s.now)
  if ks.isEmpty then s
  else
    let m := maskOf 128 ks
    let mark (v : Vec) : Vec := { v with masked := v.masked ||| m }
    let s := s.each ks fun k s => (s.setSt k ((s.st k).maskChange s.now none)).setRb (Off.siteStat k) 29 false
    s.each (List.range 16) fun c s =>
      let u := s.cl c
      s.setCl c { u with
        fifo := u.fifo.map fun e => match e.kind with
          | .vec v => { e with kind := .vec (mark v) }
          | _ => e
        cur := u.cur.map fun x => (mark x.1, x.2)
        strobes := u.strobes.map fun x => if ks.contains x.site then { x with st := 0b111, counts := false } else x }

/-- Decisions that waited for POUR_DONE(n) take effect, and waiting POUR instructions retire (R46, R47). -/
def State.pourSeq (s : State) (x : Nat) (n : BitVec 64) : State :=
  let q := s.sq x
  let q := match (q.due.filter fun e => e.1 = n).getLast? with
    | some (_, v, c) => s.useMasks { q with due := q.due.filter fun e => e.1 ≠ n } v c
    | none => q
  let q := if q.wait = .pour ∧ s.steep.ended.isEmpty then { q with wait := .none, pc := q.pc + 1, readyAt := s.now + 1 } else q
  s.setSq x q

/-- Flags of steep `m` are kept at POUR_DONE(n): the steep has not committed, or a record of it has still to be filed, by a cluster
that POUR_DONE does not wait for (R42, R212). -/
def State.flagLive (s : State) (m n : BitVec 64) : Bool :=
  (decide (m ≠ n) && !s.committed m) || (List.range 16).any fun c => s.owesRec c m

/-- What POUR_DONE(n) does; tick n+1 fell in CCLK `t`. -/
def State.pourDone (s : State) (n : BitVec 64) (t : Nat) : State :=
  let s := s.commitAll
  let hold := s.qm.hold.map fun h => if h.rcd.steep = n then { h with rcd := s.flagged h.rcd } else h
  let s := { s with
    qm := { s.qm with hold := hold, moving := !hold.isEmpty,
                      siteFlags := s.qm.siteFlags.filter fun e => s.flagLive e.1 n,
                      allFlags := s.qm.allFlags.filter fun e => s.flagLive e.1 n }
    steep := { s.steep with ended := s.steep.ended.drop 1, limitOn := s.steep.limitOn && 1 < s.steep.ended.length } }
  let s := s.holdStat
  let s := s.each (List.range 16) fun c s =>
    let u := s.cl c
    s.setCl c { u with poured := u.poured.filter (· ≠ n), placed := u.placed.filter fun e => e.1 ≠ n, flags := u.flags.filter fun e => s.flagLive e.1 n }
  let s := s.setRf Off.pourLast 0 24 (min 0xFFFFFF (s.now - t))
  let s := s.maskEnd n
  let s := s.each (List.range 17) fun x s => s.pourSeq x n
  (s.capTriggerAll 5 s.now fun _ => true).fire evPourDone

/-- POUR_DONE (R45). -/
def execPourDone (s : State) : Result :=
  .next (match s.steep.ended with
    | (n, t) :: _ => if s.pourDue n then s.pourDone n t else s
    | [] => s)

/-! ### The pour limit (R43) -/

/-- POUR_LIMIT_EXPIRY (R43): every cluster that has not reached CPOUR_DONE is fenced with cause 2. It lets pass the work that
ends in its CCLK, and a tick, which judges the same limit together with the overrun. -/
def execPourLimitExpiry (s : State) : Result :=
  .next (if s.steep.limitOn ∧ s.steep.lastTick + s.steep.lp ≤ s.now then
      if s.workComes || s.waiting.contains .tick then s.putBehind .pourLimitExpiry else
      let s := { s with steep := { s.steep with limitOn := false } }
      s.each ((List.range 16).filter fun c =>
          !s.clOut c && s.steep.ended.any fun e => !s.clPoured c e.1) fun c s =>
        s.fenceCluster c [(2, overOff c)]
    else s)

end Sys2Proof.Machine
end

