-- ==== Sys2Proof/Machine/Reset.lean ====
section
/-!
DEFINITION. Resets and power-up (R418 to R423): what a reset clears, what power-up loads (R348, R377 to R379, R400, R403,
R409, R433), and READY. A failure of a step is deferred to READY.
-/
namespace Sys2Proof.Machine

open Sys2Proof

/-! ### Resets (R418 to R421) -/

/-- The program or erase of the card flash that a full reset lets end (R421). -/
def State.flashKept (s : State) : List Poll :=
  let kept := (s.cp.polls.filter fun p => decide (p.dev = 0)).map fun p =>
    { p with what := PollFor.past, limit := p.limit.map fun t => t - s.now, next := p.next - s.now }
  let fresh : Poll := { dev := 0, what := .past, limit := some pollLimit, next := pollStep }
  kept ++ if kept.isEmpty && s.flashBusy then [fresh] else []

/-- A cold or full reset clears everything but WD_F5 and the oven's warm-up; commands that wait and what the host has
received lie outside the part. Power-up will run from step `step`. -/
def State.resetTo (s : State) (cause step : Nat) : State :=
  let t : State := { State.reset with
    pending := s.pending
    freeCtr := s.freeCtr
    clk := { State.reset.clk with warm := s.clk.warm + s.now }
    qm := { State.reset.qm with hostMem := s.qm.hostMem, msix := s.qm.msix, perst := s.qm.perst }
    rst := { State.reset.rst with cold := decide (cause < 2), low := s.rst.low }
    cp := { State.reset.cp with polls := if cause < 2 then [] else s.flashKept }
    tap := if cause < 2 then .idcode else s.tap }
  (t.setSg Off.wdF5 (s.sg Off.wdF5)).setRg Off.rstStat (setFld (setFld 0 24 3 cause) 16 4 step)

/-- COLD_RESET (R418, R426): PORST_N falls, or a supply monitor trips. -/
def execColdReset (supply : Bool) (s : State) : Result := .next (s.resetTo (if supply then 1 else 0) 1)

/-- FULL_RESET (R418): RST_N falls; a cold reset prevails (R419). -/
def execFullReset (s : State) : Result :=
  let s := { s with rst := { s.rst with low := true } }
  .next (if s.coldHeld then s else s.resetTo 2 2)

/-- PCIE_RESET (R418): the controller, the link, the configuration spaces and the MSI-X tables; DMA follows R249. -/
def execPcieReset (s : State) : Result :=
  .next (if s.rst.held then { s with qm := { s.qm with perst := true } }
    else { s with qm := { s.qm with link := false, mode := none, bme := false, aer := [], perst := true },
                  win := s.win.filter fun e => decide (e.1 < 0x10000) })

/-- A full reset is requested; an earlier request stands (R420). -/
def State.askReset (s : State) (cause : BitVec 3) : State :=
  if s.rst.reqAt.isSome then s else { s with rst := { s.rst with reqAt := some (s.now, cause) } }

/-- KEY of a full reset. -/
def keyReset : Nat := 0xB007

/-- A write of RST_REQ by PF1, or by the service port, which reaches the same register. -/
def State.rstReqWrite (s : State) (p : Party) (v : Word) : State :=
  if fld v 16 16 ≠ keyReset then s.noticeAt Off.rstReq
  else if flag v 0 then s.askReset (if p = .sp then 3 else 4)
  else s

/-- RST_REQUEST (R420). -/
def execRstRequest (p : Party) (v : Word) (s : State) : Result :=
  .next (s.gateWrite p .pf1 Off.rstReq v fun s => s.rstReqWrite p v)

/-- RESET_DELAY_EXPIRY (R420): 2 µs after the request. -/
def execResetDelayExpiry (s : State) : Result :=
  .next (match s.rst.reqAt with
    | some (t, cause) => if t + 1600 ≤ s.now then s.resetTo cause.toNat 2 else s
    | none => s)

/-! ### Power-up (R423) -/

/-- The nodes of both thermal models start at their boundary registers (R364, R365). -/
def State.nodesStart (s : State) : State :=
  { s with nodesA := List.replicate 96 ((s.rg Off.thmCfg).setWidth 16),
           nodesB := List.replicate 24 ((s.sg Off.wlTbnd).setWidth 16) }

/-- Step 2 (R377, R378, R409): OTP words lost, the factory header, clock delays. -/
def State.otpLoad (s : State) (b : Boot) : State :=
  let s := b.otpBad.eraseDups.foldl
    (fun s w =>
      let s := s.uncorrected 83 w.val
      let s := s.setRb (Off.miOtpbad (w.val / 1024)) (w.val % 1024 / 32) true
      let s := { s with cal := { s.cal with nomF := insN w.val s.cal.nomF } }
      if w.val < 16328 then (s.setRb Off.calStat 28 true).noticeAt Off.calStat else s) s
  let s := b.otpFixed.foldl (fun s w => if b.otpBad.contains w then s else s.corrected 83 w.val) s
  let s := if b.factoryOk then s else (s.setRb Off.calStat 29 true).noticeAt Off.calStat
  s.each (List.range 6) fun k s =>
    let s := s.setRf (Off.clkOut k) 0 6 (Config.clkDelay k).toNat
    s.setAp (Off.clkOut k) (s.rg (Off.clkOut k))

/-- Step 3 (R348): checkers that fail. -/
def State.selfTest (s : State) (b : Boot) : State :=
  b.bistBad.foldl (fun s m => s.setRb (Off.miStat m.val) 31 true) s

/-- Step 4 (R400): bad ROM words, counted, the lowest stored. -/
def State.romSweep (s : State) (b : Boot) : State :=
  let bad := (b.romBad.filter fun e => decide (e.2.toNat < 0x3000)).map fun e => (e.1.val, e.2.toNat)
  let s := { s with mc := { s.mc with romBad := bad.eraseDups } }
  s.each ((List.range 17).filter fun x => bad.any fun e => e.1 = x) fun x s =>
    let mine := (s.mc.romBad.filter fun e => decide (e.1 = x)).map (·.2)
    s.setRg (Off.mcRombad x)
      (setFld (setFld (setFlag 0 31 true) 16 8 (min 255 mine.length)) 0 14 (mine.foldl min (mine.headD 0)))

/-- The copy in use and whether the copies give an F0 with UDIFF (R379): `false` is A. -/
def pickCopy (a b : Option (Word × List (BitVec 16))) : Option (Bool × Word × List (BitVec 16)) × Bool :=
  match a, b with
  | none, none => (none, false)
  | some (n, l), none => (some (false, n, l), false)
  | none, some (n, l) => (some (true, n, l), false)
  | some (n, l), some (m, k) =>
    let d := (m - n).toNat
    if d = 0 then (some (false, n, l), decide (l ≠ k))
    else if d < 2 ^ 31 then (some (true, m, k), true)
    else (some (false, n, l), true)

/-- Loads the user calibration (R379). -/
def State.userLoad (s : State) (a b : Option (Word × List (BitVec 16))) : State :=
  match pickCopy a b with
  | (none, _) => s.noticeAt Off.calStat
  | (some (useB, n, l), diff) =>
    let t := itemTable l
    let s := { s with cal := { s.cal with utab := t, utabA := t } }
    let s := (s.setRf Off.calStat 30 2 (if useB then 2 else 1)).setRg Off.calSeq n
    if diff then (s.setRb Off.calStat 27 true).noticeAt Off.calStat else s

/-- The patch at power-up (R403). -/
def State.bootPatch (s : State) (f : FlashRead) : State :=
  match readPatch s.romver f with
  | .inl p => (s.mcLoad p).setRb Off.mcLstat 30 true
  | .inr cause => s.mcInval cause

/-- Step 5 (R403, R379, R433): the header, the user copies, the patch. -/
def State.flashLoad (s : State) (b : Boot) : State :=
  match readHdr b.header with
  | some (h, dev, xip) =>
    let s := State.setRb { s with cp := { s.cp with hdr := some h } } Off.cpStat 29 true
    let s := s.setRg (Off.cpDev 0) (setFld (setFld 0 16 10 (max 39 (fld dev 16 10))) 8 4 (fld dev 8 4))
    let s := s.setRg Off.cpXip (xip &&& 0xFFFFFFDF)
    let s := s.userLoad (readCopy b.copyA) (readCopy b.copyB)
    if h.patch = 0 then s.mcCover else (s.bootPatch b.patch).mcCover
  | none => ((s.noticeAt Off.cpStat).userLoad none none).mcCover

/-- Steps 2 to 5 and the lock of PLLA begin, once the card flash has ended what it was programming (R421). -/
def State.bootGo (s : State) : State := match s.rst.boot with
  | some b =>
    if s.rst.held || s.rst.loaded || s.flashBusy then s
    else
      let s := { s with rst := { s.rst with loaded := true } }
      let s := (((s.nodesStart.otpLoad b).selfTest b).romSweep b).flashLoad b
      let s := (s.setRb Off.pllbStat 30 b.ovoWarm).setRf Off.rstStat 16 4 6
      if s.rb Off.clkStat 29 then { s with clk := { s.clk with lockAt := some s.now } } else s
  | none => s

/-- Power-up up to the lock of PLLA: the reset is released, and what steps 1 to 5 meet is `b`. -/
def State.powerUp (s : State) (b : Boot) : State :=
  State.bootGo { s with rst := { s.rst with held := false, relAt := s.now, boot := some b, loaded := false } }

/-- RESET_RELEASE (R419): power-up starts, unless RST_N, still low, holds the reset; after PERST_N only the link trains. -/
def execResetRelease (k : ResetKind) (b : Boot) (s : State) : Result :=
  .next (match k with
    | .cold =>
      if !s.coldHeld then s
      else
        let s := { s with rst := { s.rst with cold := false } }
        if s.rst.low then s.setRf Off.rstStat 16 4 2 else s.powerUp b
    | .full =>
      let s := { s with rst := { s.rst with low := false } }
      if s.rst.held && !s.coldHeld then s.powerUp b else s
    | .pcie => { s with qm := { s.qm with perst := false } })

/-! ### READY (R423) -/

/-- Tick 0 (R35, R367): settings are taken up, bands come directly from their temperatures, the heartbeat starts. -/
def State.tickZero (s : State) : State :=
  let s := s.takeUp
  let s := { s with steep := { s.steep with num := 0, lastTick := s.now, hb := !s.steep.hb, hbAt := s.now,
                                            tickLeft := s.af Off.steep 0 24 } }
  let s := (s.setRf Off.steepStat 0 14 s.runAhead).setRb Off.steepStat 31 true
  let s := s.each (List.range 4) fun q s => s.setRf (Off.thmQstat q) 28 3 (bandUp (s.tgov q) 0)
  let s := s.setRf Off.thmStat 28 3 (bandUp (temp (s.rf Off.thmChip 16 16)) 0)
  let s := s.thermalTick
  s.tapsTick s.chansKnown

/-- The warden from READY on (R311, R314): WD_STAT, and permits may be granted. -/
def State.wardenStart (s : State) (b : Boot) : State :=
  let s := { s with ward := { s.ward with granting := true, alive := b.slices } }
  let w := setFlag (setFld (s.sg Off.wdStat) 28 4 b.slices.toNat) 27 (decide (b.slices = 0xF))
  s.setSg Off.wdStat (setFlag w 26 true)

/-- The faults of power-up that lead to safe state (R326, R328, R348, R423, R444). -/
def State.readySafe (s : State) (b : Boot) : State :=
  let ev (src cause off : Nat) : Ev := { cls := 4, src := src, cause := cause, off := off, site := none, wd := false }
  let s := if flag (s.sg Off.wdF5) 31 then
      State.wardenAll { s with fault := { s.fault with f5 := true, f4At := s.now } }
    else s
  let s := s.each (idxs 4 fun q => !b.slices.getLsbD q) fun q s => s.wardenSafe (wardEv (0xA000 + q) 0 Off.wdStat)
  let s := s.each ([81, 82, 83].filter fun m => s.rb (Off.miStat m) 31) fun m s =>
    s.enterF4 (ev (0x8000 + m) 3 (Off.miStat m))
  let s := if b.dramOk then s else s.enterF4 (ev (0xF000 + Off.rstStat / 0x10000) 0 Off.rstStat)
  let s := if s.rst.safeReq then s.safeFrom 0xD002 else s
  if s.fault.estop then s.estopAct else s

/-- A checker of memory `m` has failed (R348, R349): its cluster, or SEQH, is fenced. -/
def State.bistFence (s : State) (m : Nat) : State :=
  let x := if m < 64 then m % 16 else if m < 81 then m - 64 else m - 84
  let s := s.f2 { cls := 2, src := 0x8000 + m, cause := 3, off := Off.miStat m, site := none, wd := false } (x = 16)
  if s.safe then s else if x < 16 then s.parkCluster x 6 else s.haltSeq 16

/-- READY. -/
def State.readyUp (s : State) (b : Boot) : State :=
  let s := { s with rst := { s.rst with ready := true } }
  let s := (s.setRf Off.rstStat 16 4 8).setRb Off.rstStat 31 true
  let s := s.setRg Off.rstTime (BitVec.ofNat 32 ((s.now - s.rst.relAt) / 800))
  let s := (s.tickZero.wardenStart b).readySafe b
  let s := State.setRb { s with rst := { s.rst with safeUp := s.safe } } Off.rstStat 30 s.safe
  let s := match s.cp.hdr, s.safe with
    | some h, false => s.seqBegin 16 h.entry
    | _, _ => s
  let s := s.each (idxs 101 fun m => s.rb (Off.miStat m) 31 && !(decide (81 ≤ m ∧ m ≤ 83))) fun m s => s.bistFence m
  s.mcSweep.liftOk

/-- READY (R423): power-up has run, PLLA is locked and the DRAM is trained. -/
def execReady (s : State) : Result :=
  .next (match s.rst.boot with
    | some b => if !s.rst.held && s.rst.loaded && !s.rst.ready && s.rb Off.clkStat 31 then s.readyUp b else s
    | none => s)

end Sys2Proof.Machine
end

