-- ==== Sys2Proof/Machine/ServicePort.lean ====
section
/-!
DEFINITION. The service port (R440 to R445): commands, the indirect pointer and its accesses, framing errors. A command carries
a committed register write, or the snapshot of a register read; Machine/Wires.lean gives the frames.
-/
namespace Sys2Proof.Machine

open Sys2Proof

/-- Sets a bit of SP_STAT. -/
def State.spFlag (s : State) (i : Nat) (b : Bool) : State := s.changeWg Off.spStat fun w => setFlag w i b
/-- An access or command is refused. -/
def State.spRefuse (s : State) : State := s.spFlag 29 true

/-! ### SP_CMD (R444) -/

/-- KEY of a safe-state request. -/
def keySafe : Nat := 0x5AFE

/-- A write of SP_CMD: SAFE acts first, and each bit under its own key. -/
def State.spCmdWrite (s : State) (v : Word) : State :=
  let key := fld v 16 16
  let s := if flag v 0 ∧ key = keySafe then
      (if s.rst.ready then s.safeFrom 0xD002 else { s with rst := { s.rst with safeReq := true } })
    else s
  let s := if flag v 1 ∧ key = keyReset then s.askReset 3 else s
  if (key ≠ keySafe ∧ key ≠ keyReset) ∨ (flag v 0 ∧ key ≠ keySafe) ∨ (flag v 1 ∧ key ≠ keyReset) then s.spRefuse else s

/-- SP_CMD_SAFE (R444): a write of SP_CMD. -/
def execSpCmdSafe (v : Word) (s : State) : Result := .next (s.gateWrite .sp .win Off.spCmd v fun s => s.spCmdWrite v)
/-- SP_CMD_RST (R444): a write of SP_CMD. -/
def execSpCmdRst (v : Word) (s : State) : Result := .next (s.gateWrite .sp .win Off.spCmd v fun s => s.spCmdWrite v)

/-! ### The indirect access (R443) -/

/-- Space and offset that SP_PTR addresses. -/
def State.spTarget (s : State) : Bool × Nat := (flag (s.wg Off.spPtr) 31, 4 * fld (s.wg Off.spPtr) 2 24)
/-- ADDR advances to the next register. -/
def State.spAdvance (s : State) : State :=
  s.setWg Off.spPtr (setFld (s.wg Off.spPtr) 2 24 (fld (s.wg Off.spPtr) 2 24 + 1))

/-- An access that SP_PTR, as `ptr`, addresses is refused: before READY, or at an offset outside the mapped blocks. -/
def State.spMay (s : State) (ptr : Word) : Bool :=
  s.rst.ready && Space.mapped (if flag ptr 31 then .pf1 else .pf0) (4 * fld ptr 2 24)

/-- An access starts, or is refused. -/
def State.spStart (s : State) (write : Bool) (data : Word) : State :=
  let (sec, off) := s.spTarget
  if !s.spMay (s.wg Off.spPtr) then s.spRefuse
  else State.spFlag { s with spp := { s.spp with busy := some (write, sec, off, data), start := s.now } } 31 true

/-- A write of SP_PTR: with RD = 1 a read starts. A refused one changes nothing. -/
def State.spPtrWrite (s : State) (v : Word) : State :=
  if s.spp.busy.isSome || (flag v 29 && !s.spMay v) then s.spRefuse
  else
    let s := s.setWg Off.spPtr (v &&& 0xE3FFFFFC)
    if flag v 29 then s.spStart false 0 else s
/-- A write of SP_DATA starts a write. A refused one changes nothing. -/
def State.spDataWrite (s : State) (v : Word) : State :=
  if s.spp.busy.isSome || !s.spMay (s.wg Off.spPtr) then s.spRefuse else (s.setWg Off.spData v).spStart true v
/-- A snapshot of SP_DATA: with INC, in a sequence of reads, ADDR advances and the next read starts. -/
def State.spDataTaken (s : State) : State :=
  if flag (s.wg Off.spPtr) 30 ∧ flag (s.wg Off.spPtr) 29 ∧ s.spp.busy.isNone then s.spAdvance.spStart false 0 else s

/-- SP_PTR_WRITE (R443). -/
def execSpPtrWrite (v : Word) (s : State) : Result := .next (s.gateWrite .sp .win Off.spPtr v fun s => s.spPtrWrite v)
/-- SP_DATA_WRITE (R443). -/
def execSpDataWrite (v : Word) (s : State) : Result :=
  .next (s.gateWrite .sp .win Off.spData v fun s => s.spDataWrite v)
/-- SP_DATA_READ (R443). -/
def execSpDataRead (s : State) : Result :=
  .next (s.gateRead .sp .win .spDataRead fun s => (s.answer .sp (.data (s.wg Off.spData))).spDataTaken)

/-- SP_FRAME_ERROR (R442): a frame of fewer than 8 bits of first byte only counts. -/
def execSpFrameError (s : State) : Result :=
  .next (if s.coldHeld then s
    else
      let s := s.changeWg Off.spStat fun w => satAdd w 0 16 1
      let short := Config.shortFrame s.freeCtr
      s.fresh.changeWg Off.spStat fun w => setFlag w 28 (flag w 28 || !short))

end Sys2Proof.Machine
end

