-- ==== Sys2Proof/Machine/RegRead.lean ====
section
/-!
DEFINITION. Register reads (R2, R359, R457, R458, R462): the values of fields that follow the units behind the registers,
RC fields, and the snapshots of 64-bit pairs.
-/
namespace Sys2Proof.Machine

open Sys2Proof

/-! ### Fields that follow a unit -/

/-- SEQ_STAT.STATE. -/
def modeCode : SeqMode → Nat
  | .halted => 0 | .startPend => 1 | .running => 2 | .yielded => 3

/-- PC as SEQ_STAT shows it: after an ABORT, RESUME (R143). -/
def State.seqPc (s : State) (x : Nat) : Nat :=
  let q := s.sq x
  if q.abort then s.rf (Off.clUnderrunCtl x) 0 15 else q.pc

/-- The words of slot `k` of the history queue (R332). -/
def State.histWord (s : State) (k j : Nat) : Word :=
  let h := Tbl.get { ts := 0, w2 := 0, w3 := 0 } s.fault.hist k
  match j with
  | 0 => h.ts.setWidth 32
  | 1 => (h.ts >>> 32).setWidth 32
  | 2 => h.w2
  | _ => h.w3

/-- FU_STAT (R320, R327). -/
def State.fuStatView (s : State) (w : Word) : Word :=
  let w := setFlag (setFlag (setFlag w 31 s.fault.f5) 30 s.safe) 29 s.nofault
  setFld (setFld w 16 8 s.fault.f2.length) 8 8 s.fencedSites.length

/-- FU_HSTAT. -/
def State.fuHstatView (s : State) (w : Word) : Word :=
  setFld (setFld (setFlag w 31 s.fault.frozen.isSome) 16 5 s.fault.order.length) 8 4 (s.fault.order.getLastD 0)

/-- FU_F2TAB[k] (R321). -/
def State.f2tabView (s : State) (k : Nat) : Word := match Tbl.find s.fault.f2 k with
  | some e => setFld (setFld (setFlag (setFlag 0 31 true) 30 e.done) 16 8 e.rep.toNat) 0 16 e.src.toNat
  | none => 0

/-- Word `k` of the selected descriptor (R232, R234). -/
def State.qdView (s : State) (k : Nat) : Word :=
  let q := s.rf Off.qdSel 0 20
  if s.qBad q then 0
  else if k = 1 then setFlag (setFlag (s.qWord q 1) 31 (s.qAbove q)) 29 (s.qHalted q)
  else s.qWord q k

/-- The selected caddy word holds an uncorrectable error. -/
def State.caddyUe (s : State) : Bool := s.mc.ue.contains (512 * s.rf Off.mcCsel 16 5 + s.rf Off.mcCsel 0 9)
/-- MC_CDATA[j]. -/
def State.cdataView (s : State) (j : Nat) : Word :=
  let x := s.rf Off.mcCsel 16 5
  if s.caddyUe ∨ 16 < x then 0
  else (Tbl.get 0 s.mc.caddy (512 * x + s.rf Off.mcCsel 0 9) >>> (32 * j)).setWidth 32

/-- Event channels below 32 × (i + 1) that are secure, as bits of EVFLAG[i] (R359). -/
def State.secureBits (s : State) (i : Nat) : Word := maskOf 32 (idxs 32 fun b => s.rb (Off.ecCfg (32 * i + b)) 30)
/-- The party reads and writes secure channels. -/
def secureParty (p : Party) : Bool := decide (p = .pf1) || decide (p = .sp)

/-- SITE_CLMASK[k] (R21). -/
def State.clmaskView (s : State) (k : Nat) : Word :=
  let s := s.regBack
  setFld (setFld 0 16 4 ((maskOf 4 (s.siteQuads k)).toNat)) 0 16 ((maskOf 16 (idxs 16 fun c => s.siteIn k c)).toNat)
/-- SITE_CNT[k]. -/
def State.siteCntView (s : State) (k : Nat) : Word :=
  let s := s.regBack
  setFld (setFld (setFld 0 16 10 (s.siteChans k).length) 8 7 (s.siteRails k).length) 0 4 (s.siteAux k).length

/-- CAL_AGE[n] (R388). -/
def State.ageView (s : State) (n : Nat) : Word :=
  setFld (setFld 0 16 16 (s.pathAge (s.ch n).drvAt)) 0 16 (s.pathAge (s.ch n).stbAt)

/-- SP_HEALTH. -/
def State.healthView (s : State) : Word :=
  let w := setFlag (setFlag (setFlag (setFlag 0 31 s.rst.ready) 30 s.nofault) 29 s.safe) 28 s.fault.f5
  let w := setFlag (setFlag (setFlag (setFlag w 27 s.rst.safeUp) 26 s.bypass) 25 s.fault.frozen.isSome) 24 (s.rb Off.fuStat 28)
  setFld (setFld (setFld w 16 8 s.fault.f2.length) 8 8 s.fencedSites.length) 0 5 s.fault.order.length

/-- SP_IRQ: HIST is stored, the others follow. -/
def State.spIrqView (s : State) (w : Word) : Word :=
  let st := s.wg Off.spStat
  setFlag (setFlag (setFlag (setFlag w 4 (flag st 30)) 3 (flag st 28)) 1 s.safe) 0 (!s.nofault)
/-- SP_IRQ_N is driven low (R445). -/
def State.spIrqLow (s : State) : Bool := decide (s.spIrqView (s.wg Off.spIrq) &&& s.wg Off.spCfg &&& 0x1F ≠ 0)

/-- Seconds since VDD_OVO was applied. -/
def State.warmSecs (s : State) : Nat := min 0xFFFF ((s.clk.warm + s.now) / 800000000)

/-- Word `i` of the MSI-X PBA of PF0 or PF1 (R248, R249): the vectors whose messages are pending. -/
def State.pbaView (s : State) (pf1 : Bool) (i : Nat) : Word :=
  maskOf 32 (idxs 32 fun b => s.qm.msixPend.contains (pf1, BitVec.ofNat 11 (32 * i + b)))

/-- What register `rid` with indexes `i` and `j` shows where its image holds `w`. SEQ_STAT.PC has 15 bits: of a cluster sequencer that
stands at index 32,768 (PCEND) it shows 0 (DESIGN CHOICE, log 88: R58 does not say). -/
def State.view (s : State) (high : Bool) (rid : RegId) (i j : Nat) (w : Word) : Word :=
  match rid with
  | .siteClmask => s.clmaskView i
  | .msixPba0 => s.pbaView false i
  | .msixPba1 => s.pbaView true i
  | .weStat => setFlag w 26 (s.weBlocked i)
  | .siteCnt => s.siteCntView i
  | .steepNumLo => s.steep.num.setWidth 32
  | .steepNumHi => (s.steep.num >>> 32).setWidth 32
  | .tstampLo => s.tstamp.setWidth 32
  | .tstampHi => (s.tstamp >>> 32).setWidth 32
  | .seqStat => setFld (setFld w 30 2 (modeCode (s.sq i).mode)) 0 15 (s.seqPc i)
  | .seqhStat => setFld (setFld w 30 2 (modeCode (s.sq 16).mode)) 0 24 (s.sq 16).pc
  | .seqVcnt => (s.sq i).vcnt
  | .seqG => (s.sq i).gr j
  | .seqLc => Tbl.get 0 (s.sq i).lc j
  | .potStat => setFld w 0 27 (s.potLevel i)
  | .vmTrk => setFld w 16 5 s.mem.slots.length
  | .vmInit => maskOf 32 (idxs 32 fun b => s.mem.init.contains (32 * i + b))
  | .vmFillStat => setFlag w 31 s.mem.fill.isSome
  | .qdSel => setFlag w 31 (s.qBad (s.rf Off.qdSel 0 20))
  | .qdW => s.qdView i
  | .dmaStat => setFlag w 30 (s.linkOk && !s.dmaHalted i && !(Tbl.get [] s.qm.order i).isEmpty)
  | .tiuBin => BitVec.ofNat 32 (Tbl.get 0 (s.tiuTab i) j)
  | .railStat => setFld w 0 18 (s.railSetpt i)
  | .auxCfg => if i < 4 then setFlag (setFlag w 31 (decide (s.kzState i ≠ 0))) 30 true else w
  | .fuStat => s.fuStatView w
  | .fuHstat => s.fuHstatView w
  | .fuHist => s.histWord i j
  | .fuF2tab => s.f2tabView i
  | .evflag => if high then w else w &&& ~~~s.secureBits i
  | .ecCnt => if s.rb (Off.ecCfg i) 30 && !high then 0 else w
  | .admStat => setFld w 16 16 (min 0xFFFF (milliwatts s.admSum))
  | .calAge => s.ageView i
  | .mcCsel => setFlag w 31 s.caddyUe
  | .mcCdata => s.cdataView i
  | .pllbStat => setFld w 0 16 s.warmSecs
  | .spErr => BitVec.ofNat 32 (fld (s.wg Off.spStat) 0 16)
  | .spHealth => s.healthView
  | .spIrq => s.spIrqView w
  | .seqCtl | .idmaCtl | .seqhCtl | .vmFillCtl | .qheadAdv | .tiuCmd | .weCtl | .syncCmd | .fuF2clr | .fuSafereq
  | .fuHclr | .evSw | .calSave | .mcpCtl | .rstReq | .spCmd | .calUdata | .calFdata | .tsEdata | .p1wData => 0
  | _ => w

/-! ### 64-bit pairs (R462) -/

/-- The low half of a pair that a register is part of, and whether it is the high half. -/
def pairOf (rid : RegId) (j off : Nat) : Option (Nat × Bool) :=
  match rid with
  | .steepNumLo | .tstampLo | .dmaErraddrLo => some (off, false)
  | .steepNumHi | .tstampHi | .dmaErraddrHi => some (off - 4, true)
  | .tiuLast | .tiuMean | .tiuMin | .tiuMax => if j = 0 then some (off, false) else some (off - 4, true)
  | .fuHist => if j = 0 then some (off, false) else if j = 1 then some (off - 4, true) else none
  | _ => none

/-- Value of the register at an offset of PF0 BAR0 as it stands. -/
def State.live (s : State) (off : Nat) : Word := match findReg pf0Rows off with
  | some (r, ix) => s.view true r.id (ix.getD 0 0) (ix.getD 1 0) (s.rg off)
  | none => 0

/-- A read of a pair's half by party `p` whose live value is `w`. -/
def State.pairRead (s : State) (p : Party) (lo : Nat) (high : Bool) (w : Word) : State × Word :=
  if high then
    match Tbl.find s.snap (rankOf p) with
    | some (tag, v) => (s, if tag = lo then v else w)
    | none => (s, w)
  else ({ s with snap := tblPut (rankOf p) (lo, s.live (lo + 4)) s.snap }, w)

/-! ### A read (R2, R457, R462, R463) -/

/-- A read clears the RC fields of the register: a secure channel's only for a party that sees them (R359). -/
def State.rcActs (s : State) (high : Bool) (r : RegRow) (i : Nat) : Bool :=
  decide (r.rc ≠ 0) && !(decide (r.id = .ecCnt) && s.rb (Off.ecCfg i) 30 && !high)
/-- RC fields clear, but for what the part set in the same CCLK (R4); a later read of the CCLK returns the cleared value
(R463). -/
def State.readClear (s : State) (high : Bool) (sp : Space) (r : RegRow) (i off : Nat) : State :=
  if s.rcActs high r i then
    let rc := BitVec.ofNat 32 r.rc
    let key := regKey sp off
    let s := s.setRegAt sp off ((s.regAt sp off &&& ~~~rc) ||| (s.setNowAt sp off &&& rc))
    { s with marks := s.marks.map fun m => if m.off = key then { m with was := m.was &&& ~~~rc } else m }
  else s
/-- The RC registers that also show a unit: SEQ_STAT, SEQH_STAT, VM_TRK, DMA_STAT, FU_HSTAT and ADM_STAT. -/
def rcUnits : List Nat :=
  (List.range 16).map Off.seqStat ++ (List.range 64).map Off.dmaStat ++ [Off.seqhStat, Off.vmTrk, Off.fuHstat, Off.admStat]
/-- What they show now. -/
def State.rcShown (s : State) : List (Nat × Word) := rcUnits.map fun o => (o, s.live o)
/-- The value that an RC read returns: where the part has changed the register in the same CCLK, the whole of it as it was
before (R4, R461), less the RC fields that an earlier read of the CCLK cleared (R463). -/
def State.rcValue (s : State) (high : Bool) (sp : Space) (r : RegRow) (i off : Nat) (w : Word) : Word :=
  match if s.rcActs high r i then s.marks.find? fun m => m.off = regKey sp off else none with
  | some m =>
    let rc := BitVec.ofNat 32 r.rc
    let was := match if sp = .pf0 then s.pre.find? fun e => e.1 = off else none with
      | some e => e.2
      | none => if sp = .pf0 ∧ rcUnits.contains off then w else m.was
    (was &&& ~~~rc) ||| (m.was &&& rc)
  | none => w

/-- The register at `off` read by party `p`, except the windows P1W_DATA and SP_DATA. -/
def State.readBase (s : State) (p : Party) (sp : Space) (off : Nat) : State × ReadOut :=
  match findReg (Space.rows sp) off with
  | none => if Space.mapped sp off then (s, .data 0) else (s.unmapped p sp, .abort)
  | some (r, ix) =>
    let i := ix.getD 0 0
    let j := ix.getD 1 0
    match r.id with
    | .calUdata => (s.calNext Off.calUaddr, .data s.udata)
    | .calFdata => (s.calNext Off.calFaddr, .data s.fdata)
    | .tsEdata => (s.edgeStep i, .data (s.edgeRead i))
    | rid =>
      let s := if rid = .qdW then s.queueUe (s.rf Off.qdSel 0 20) else s
      let w := s.view (secureParty p) rid i j (s.regAt sp off)
      let (s, w) := match pairOf rid j off with
        | some (lo, high) => s.pairRead p lo high w
        | none => (s, w)
      let w := s.rcValue (secureParty p) sp r i off w
      (s.readClear (secureParty p) sp r i off, .data w)

/-- With INC = 1, ADDR advances. -/
def State.p1wNext (s : State) : State := s.setSg Off.p1wPtr (p1wStep (s.sg Off.p1wPtr))
/-- A read through P1W_DATA, with PF1's identity (R460). -/
def State.p1wRead (s : State) : State × ReadOut :=
  let (s, o) := s.readBase .pf1 .pf0 s.p1wTarget
  (s.p1wNext, o)

/-- CAUSE of REGPROT (R114). -/
def causeRegprot : Nat := 0x14
/-- An access of SEQH outside the mapped blocks, which raises REGPROT (R457). -/
def State.protects (s : State) (p : Party) (sp : Space) (off : Nat) : Bool :=
  decide (p = .seqh) && decide (sp = .pf0) && !Space.mapped .pf0 off && s.rst.ready && !s.partyHeld .seqh && !s.partyBehind .seqh

/-- A read of a register by party `p`. -/
def State.readReg (s : State) (p : Party) (sp : Space) (off : Nat) : State × ReadOut :=
  if sp = .pf1 ∧ off = Off.p1wData then s.p1wRead
  else if sp = .win ∧ off = Off.spData then (s.spDataTaken, .data (s.wg Off.spData))
  else if s.protects p sp off then (s.exception 16 causeRegprot off (s.sq 16).pc, .abort)
  else s.readBase p sp off

/-- A memory request of PF0 or PF1 that is neither an aligned dword nor two of them at an 8-byte-aligned address (R458). -/
def badShape (p : Party) (off : Nat) (shape : Shape) : Bool :=
  (decide (p = .pf0) || decide (p = .pf1)) && match shape with
    | .dword => decide (off % 4 ≠ 0)
    | .dwords _ => decide (off % 8 ≠ 0)
    | .other => true

/-- The registers that an access of a shape reads. -/
def shapeReads (shape : Shape) (off : Nat) : List Nat := match shape with
  | .dword => [off]
  | .dwords _ => [off, off + 4]
  | .other => []
/-- The registers that a command of the queue reads. -/
def State.readsOf (s : State) (c : Instr) : List (Party × Space × Nat) :=
  let through (p : Party) (sp : Space) (off : Nat) :=
    if !reaches p sp then []
    else if sp = .pf1 ∧ off = Off.p1wData then [(Party.pf1, Space.pf0, s.p1wTarget)] else [(p, sp, off)]
  match c with
  | .lowWordRead p sp off shape => (shapeReads shape off.toNat).flatMap (through p sp)
  | .readClear p sp off shape => (shapeReads shape off.toNat).flatMap (through p sp)
  | .p1wDataRead => through .pf1 .pf1 Off.p1wData
  | .spAccessDone => match s.spp.busy with
    | some (false, sec, off, _) => [(.sp, if sec then .pf1 else .pf0, off)]
    | _ => []
  | .regAccessDone => match (s.sq 16).wait with
    | .regRead _ off => if (s.sq 16).readyAt ≤ s.now then [(.seqh, .pf0, off)] else []
    | _ => []
  | _ => []
/-- A command of party `p` reads an RC register that an earlier party's read of the present CCLK, yet to act, reads too, and
is served after it (R463). -/
def State.readWaits (s : State) (p : Party) (cmd : Instr) : Bool :=
  (s.readsOf cmd).any fun e => ((findReg (Space.rows e.2.1) e.2.2).any fun r => decide (r.1.rc ≠ 0)) &&
    s.waiting.any fun c => (s.readsOf c).any fun d =>
      decide (d.2 = e.2) && decide (rankOf d.1 < rankOf p) && !s.partyHeld d.1

/-- The answers to the two dwords of a request as its completion carries them: an abort of either aborts it. -/
def pairOut : ReadOut → ReadOut → ReadOut
  | .data lo, .data hi => .pair lo hi
  | _, _ => .abort

/-- A read as a command: it passes the gate and answers the party; two dwords are two reads, the lower first (R458). -/
def State.readCmd (s : State) (p : Party) (sp : Space) (off : Nat) (shape : Shape) (cmd : Instr) : State :=
  s.gateRead p sp cmd fun s =>
    if s.readWaits p cmd then s.putBehind cmd
    else if badShape p off shape then (s.count Off.regErr 16 8 1).answer p .abort
    else match shape with
      | .dwords _ =>
        let (s, lo) := s.readReg p sp off
        let (s, hi) := s.readReg p sp (off + 4)
        s.answer p (pairOut lo hi)
      | _ =>
        let (s, o) := s.readReg p sp off
        s.answer p o

/-- LOW_WORD_READ (R462). -/
def execLowWordRead (p : Party) (sp : Space) (off : BitVec 26) (shape : Shape) (s : State) : Result :=
  .next (s.readCmd p sp off.toNat shape (.lowWordRead p sp off shape))
/-- READ_CLEAR (R2). -/
def execReadClear (p : Party) (sp : Space) (off : BitVec 26) (shape : Shape) (s : State) : Result :=
  .next (s.readCmd p sp off.toNat shape (.readClear p sp off shape))
/-- P1W_DATA_READ (R460). -/
def execP1wDataRead (s : State) : Result := .next (s.readCmd .pf1 .pf1 Off.p1wData .dword .p1wDataRead)

end Sys2Proof.Machine
end

