-- ==== Sys2Proof/Machine/VectorMemory.lean ====
section
/-!
DEFINITION. Vector memory from outside and stored-data integrity (R146 to R149, R231, R339 to R347, R349): PF0 BAR2
accesses, explicit fills, the fill engine's regions, the strainer and the leaky buckets.
-/
namespace Sys2Proof.Machine

open Sys2Proof

/-! ### PF0 BAR2 (R126, R146, R147, R231, R341, R343) -/

/-- Logs an error in the AER registers of PF0, with the request's row, byte enables and length in dwords; ERR_NONFATAL is sent where
reporting is enabled. -/
def State.aerLog (s : State) (poison : Bool) (row : Nat) (be : BitVec 8) : State :=
  let half (b : Bool) : Nat := if b then 1 else 0
  let n := half (decide (be.toNat % 16 ≠ 0)) + half (decide (16 ≤ be.toNat))
  State.fresh { s with qm := { s.qm with
    aer := s.qm.aer ++ [{ poison := poison, row := row, be := be, dwords := n, sent := Config.errReport s.freeCtr }] } }

/-- A read of row `r` through BAR2. -/
def State.bar2Get (s : State) (r : Nat) (ecc : Ecc) : State :=
  if !s.rst.ready then s.answer .pf0 .unsupported
  else if inDesc r then s.answer .pf0 .abort
  else
    let d := s.rowRead r ecc
    let s := s.rowSeen r ecc
    let s := if d.ue then s.aerLog true r 0xFF else s
    { s with bar2 := some (r, d.data, d.ue) }

/-- A write of row `r` through BAR2, whose bytes `be` enables. -/
def State.bar2Put (s : State) (r : Nat) (data : Row) (be : BitVec 8) (ecc : Ecc) : State :=
  if !s.rst.ready then s.answer .pf0 .unsupported
  else if inDesc r then s.qmCount Off.qmStat2 24 8
  else if be = 0 then s
  else
    let s := s.potRewrite r
    match s.writeEnd r be ecc with
    | .waits => s.slotHold (.bar2Write (BitVec.ofNat 32 r) data be ecc)
    | .rejected => (s.writeRow r data be ecc).aerLog false r be
    | .stored => s.writeRow r data be ecc

/-- BAR2_READ (R146). -/
def execBar2Read (row : BitVec 32) (ecc : Ecc) (s : State) : Result :=
  .next (if s.partyHeld .pf0 || s.vmWait then s.hold (.bar2Read row ecc)
    else if s.partyBehind .pf0 then s.putBehind (.bar2Read row ecc)
    else s.bar2Get row.toNat ecc)
/-- BAR2_WRITE (R343). -/
def execBar2Write (row : BitVec 32) (data : Row) (be : BitVec 8) (ecc : Ecc) (s : State) : Result :=
  .next (if s.partyHeld .pf0 || s.vmWait then s.hold (.bar2Write row data be ecc)
    else if s.partyBehind .pf0 then s.putBehind (.bar2Write row data be ecc)
    else s.bar2Put row.toNat data be ecc)

/-! ### Fills (R148) -/

/-- A write of VM_FILL_CTL. -/
def State.fillGo (s : State) (v : Word) : State :=
  if !flag v 0 then s
  else
    let base := s.rf Off.vmFillBase 0 15
    let last := base + s.rf Off.vmFillLen 0 15
    if s.mem.fill.isSome ∨ 32767 < last ∨ descRegion ≤ last then s.setRb Off.vmFillStat 29 true
    else State.fillNext { (s.setRb Off.vmFillStat 31 true) with mem := { s.mem with fill := some (base, last) } }

/-- FILL_GO (R148). -/
def execFillGo (p : Party) (v : Word) (s : State) : Result :=
  .next (s.gateWrite p .pf0 Off.vmFillCtl v fun s => s.fillGo v)
/-- FILL_REGION_COMPLETE (R147, R148). -/
def execFillRegionComplete (s : State) : Result := .next (if s.vmWait then s else s.fillDone)

/-! ### The strainer (R339, R345, R349) -/

/-- Words of an on-die memory; 0 where it has no strainer, vector memory apart. -/
def memWords (m : Nat) : Nat :=
  if m < 16 then 65536 else if m < 32 then 16896 else if m < 48 then 32768 else if m < 64 then 65536
  else if m < 81 then 2176 else if m = 81 then 32768 else 0

/-- The first row of the lowest initialised region from region `g` on. -/
def State.initFrom (s : State) (g : Nat) : Option Nat :=
  (s.mem.init.filter fun i => decide (g ≤ i)).foldl (fun b i => match b with
    | none => some i
    | some j => some (min i j)) none

/-- The word that the strainer of memory `m` reads next, from word `i` on, and whether a new lap begins with it. -/
def State.strainNext (s : State) (m i : Nat) : Option (Nat × Bool) :=
  if m = memVm then
    if i < rowCount ∧ s.mem.init.contains (rowRegion i) then some (i, false)
    else match s.initFrom (rowRegion i + 1) with
      | some g => some (g * 0x20000, false)
      | none => (s.initFrom 0).map fun g => (g * 0x20000, true)
  else if memWords m = 0 then none
  else if i < memWords m then some (i, false) else some (0, true)

/-- Adds a word to a list that does not hold it. -/
def addWord (i : Nat) (l : List Nat) : List Nat := if l.contains i then l else l ++ [i]

/-- The word is marked as holding an uncorrectable error. -/
def State.strainMark (s : State) (m i : Nat) : State :=
  if m < 16 then
    let q := s.sq m
    let w := Tbl.get sramZero q.sram (i / 2)
    s.setSq m { q with sram := Tbl.set sramZero q.sram (i / 2) { w with bad := true } }
  else if m < 32 then s.setCl (m - 16) { s.cl (m - 16) with vcLost := addWord i (s.cl (m - 16)).vcLost }
  else if m < 48 then s.setCap (m - 32) { s.cap (m - 32) with lost := addWord i (s.cap (m - 32)).lost }
  else if m < 64 then
    let k := 65536 * (m - 48) + i
    if Config.edgeCopy s.freeCtr then
      State.fresh { s with edgeLost := addWord k s.edgeLost }
    else State.fresh { s with edgeBad := addWord k s.edgeBad }
  else if m < 81 then
    let k := 512 * (m - 64) + i * 32 / 136
    { s with mc := { s.mc with ue := addWord k s.mc.ue } }
  else if m = 81 then { s with qm := { s.qm with dcLost := addWord i s.qm.dcLost } }
  else if m = memVm then s.poison i
  else s

/-- Words of a cache or a buffer that the strainer has found bad and no consumer has met. -/
def State.strainLost (s : State) (m : Nat) : List Nat :=
  if m < 16 then [] else if m < 32 then (s.cl (m - 16)).vcLost else if m < 48 then (s.cap (m - 32)).lost
  else if m = 81 then s.qm.dcLost else []

/-- Word `i` of a cache or a buffer has been written since the strainer found it bad. -/
def State.strainClear (s : State) (m i : Nat) : State :=
  if m < 32 then s.setCl (m - 16) { s.cl (m - 16) with vcLost := (s.cl (m - 16)).vcLost.erase i }
  else if m < 48 then s.setCap (m - 32) { s.cap (m - 32) with lost := (s.cap (m - 32)).lost.erase i }
  else { s with qm := { s.qm with dcLost := s.qm.dcLost.erase i } }

/-- The word is already known to hold an uncorrectable error. Whether that stands in a word of a cache or a buffer is free. -/
def State.strainBad (s : State) (m i : Nat) : Bool :=
  if m < 16 then (Tbl.get sramZero (s.sq m).sram (i / 2)).bad
  else if 48 ≤ m ∧ m < 64 then
    s.edgeBad.contains (65536 * (m - 48) + i) || s.edgeLost.contains (65536 * (m - 48) + i) ||
      s.edgeGone.contains (65536 * (m - 48) + i)
  else if 64 ≤ m ∧ m < 81 then s.mc.ue.contains (512 * (m - 64) + i * 32 / 136)
  else if m = memVm then s.mem.bad.contains i
  else (s.strainLost m).contains i && Config.cacheKept s.freeCtr

/-- The strainer of memory `m` reads a word. -/
def State.strainWord (s : State) (m : Nat) (ecc : Ecc) : State :=
  let e := Tbl.get (0, none) s.strain m
  match s.strainNext m e.1 with
  | none => s
  | some (i, lap) =>
    let start := e.2.getD s.now
    let s := if lap then s.setRg (Off.miLap m) (BitVec.ofNat 32 (min 0xFFFFFFFF ((s.now - start) / 800))) else s
    let s := { s with strain := Tbl.set (0, none) s.strain m (i + 1, some (if lap then s.now else start)) }
    let bad := s.strainBad m i
    let s := if (s.strainLost m).contains i then (if bad then s else s.strainClear m i).fresh else s
    if bad ∨ ecc = .uncorrectable then
      let o := Off.miStat m
      (((s.strainMark m i).uncorrected m i).setRb o 29 true).notice (0x8000 + m) 2 o
    else if ecc = .corrected then s.corrected m i
    else s

/-- STRAINER_WORD (R345). -/
def execStrainerWord (m : Fin 101) (ecc : Ecc) (s : State) : Result := .next (s.strainWord m ecc)

/-! ### Leaky buckets (R346, R347) -/

/-- The leak of memory `m`: one is removed, MI_CFG takes effect, and an empty bucket is armed again. -/
def State.leak (s : State) (m : Nat) : State :=
  let t := Tbl.get 0 s.leakAt m
  let due := t + max 1 (s.af (Off.miCfg m) 0 16) * 800000
  if s.now < due then s
  else
    let s := { s with leakAt := Tbl.set 0 s.leakAt m due }
    let lv := s.rf (Off.miStat m) 16 8 - 1
    let s := (s.setRf (Off.miStat m) 16 8 lv).setAp (Off.miCfg m) (s.rg (Off.miCfg m))
    if lv = 0 then { s with disarmed := s.disarmed.filter (· ≠ m) } else s

/-- BUCKET_LEAK (R346). -/
def execBucketLeak (m : Fin 101) (s : State) : Result := .next (s.leak m)

end Sys2Proof.Machine
end

