-- ==== Sys2Proof/Machine/RegAccess.lean ====
section
/-!
DEFINITION. Register writes (R2, R33, R34, R49, R324, R457 to R460): what each register does with a value, and the accesses
of SEQH, the service port and the PF1 window.
-/
namespace Sys2Proof.Machine

open Sys2Proof

/-! ### What a register does with a value -/

/-- The settings of R49 and the chapters that name it: their writes land in the shadow copy. -/
def isSetting (rid : RegId) : Bool := match rid with
  | .steep | .pourCtl | .clSteep | .clUnderrunCtl | .tsSmap | .clMapsel | .chVih | .chVil | .chVtt | .chIol | .chIoh
  | .chVcom | .chVoh | .chVol | .chMht | .chMlt | .chIlim | .chVclh | .chVcll | .chDrvcfg | .chCmpcfg | .chMoncfg
  | .tsPeriod | .tsCtl | .evpaCfg | .evpaHold | .thrCtl => true
  | _ => false

/-- The plain write: RW and WO fields are stored, and W1C bits that carry 1 clear (R2). -/
def State.storePlain (s : State) (sp : Space) (r : RegRow) (off : Nat) (v : Word) : State :=
  let rw := BitVec.ofNat 32 r.rw
  let w := (s.regAt sp off &&& ~~~rw &&& ~~~s.clearing sp off r.w1c v) ||| (v &&& rw)
  if isSetting r.id then s.setShadow off w else s.setRegAt sp off w

/-- A write of STEEP (R36): a period below 800 is stored as 800. -/
def State.steepWrite (s : State) (v : Word) : State :=
  let p := fld v 0 24
  let s := s.setShadow Off.steep (setFld 0 0 24 (max 800 p))
  if p < 800 then s.noticeAt Off.steep else s
/-- A write of POUR_CTL: 0 is stored as 1, and a value above 32 as 32. -/
def State.pourWrite (s : State) (v : Word) : State := s.setShadow Off.pourCtl (setFld 0 0 6 (clampN 1 32 (fld v 0 6)))
/-- A write of CL_STEEP: SLIPMAX 0 is stored as 1. -/
def State.clSteepWrite (s : State) (c : Nat) (v : Word) : State :=
  s.setShadow (Off.clSteep c) (setFld (v &&& 0x10F) 0 4 (max 1 (fld v 0 4)))
/-- A write of MI_CFG[m]: 0 is no threshold and no interval, and is stored as 1. -/
def State.miCfgWrite (s : State) (m : Nat) (v : Word) : State :=
  s.setRg (Off.miCfg m) (setFld (setFld 0 16 8 (max 1 (fld v 16 8))) 0 16 (max 1 (fld v 0 16)))
/-- A write of ADM_CTL: a budget above 4,000 mW is stored as 4,000. -/
def State.admWrite (s : State) (v : Word) : State := s.setRg Off.admCtl (setFld 0 0 13 (min 4000 (fld v 0 13)))
/-- A write of EVFLAG[i] (R359): bits of secure channels only from PF1 and the service port. -/
def State.evflagWrite (s : State) (p : Party) (i : Nat) (v : Word) : State :=
  s.w1c .pf0 (Off.evflag i) 0xFFFFFFFF (if secureParty p then v else v &&& ~~~s.secureBits i)
/-- A write of EV_SW (R350). -/
def State.evSwWrite (s : State) (v : Word) : State :=
  (idxs 16 fun i => flag v i).foldl (fun s i => s.fireNext (0xB80 + i)) s
/-- A write of KZ_STAT (R304, R322): FAULT clears once the zone's F2 is cleared. -/
def State.kzStatWrite (s : State) (q : Nat) (v : Word) : State :=
  s.w1c .pf0 (Off.kzStat q) (if (s.f2Find (0x5000 + q)).isSome then 0x400000 else 0x4400000) v
/-- A write of CH_STAT: CLAMP stays set while a clamp acts (R178). -/
def State.chStatWrite (s : State) (n : Nat) (v : Word) : State :=
  s.w1c .pf0 (chOff Off.chStat n) (if s.rb (Off.clClamp (n / 32)) (n % 32) then 0x7E else 0xFE) v
/-- A write of AUX_STAT: CLAMP stays set while a clamp acts (R297). -/
def State.auxStatWrite (s : State) (a : Nat) (v : Word) : State :=
  s.w1c .pf0 (Off.auxStat a) (if s.auxClamps.contains a then 0x30000000 else 0x70000000) v
/-- A write to a register of PF0 BAR0 by party `p`: what the register does with it. -/
def State.writePf0 (s : State) (p : Party) (r : RegRow) (i j off : Nat) (v : Word) : State :=
  match r.id with
  | .chStat => s.chStatWrite (32 * i + j) v
  | .auxStat => s.auxStatWrite i v
  | .chsite => s.chsiteWrite i v
  | .railsite => s.railsiteWrite i v
  | .auxsite => s.auxsiteWrite i v
  | .siteCtl => s.siteCtlWrite i v
  | .siteStat => s.siteStatWrite i v
  | .steep => s.steepWrite v
  | .pourCtl => s.pourWrite v
  | .seqCtl => s.seqCtl i v
  | .seqG => s.seqRegWrite i j v
  | .seqLc => s.seqRegWrite i (16 + j) v
  | .idmaCtl => s.idmaCtl i v
  | .seqhCtl => s.seqhCtl v
  | .trapCtl => s.storePlain .pf0 r off (if i < 16 then v &&& 0x80007FFF else v)
  | .clSteep => s.clSteepWrite i v
  | .potCfg => s.potCfgWrite i v (s.potOwnerHalted i)
  | .potBase => s.potBaseWrite i v
  | .potWr => s.potWrWrite p i v
  | .vmFillCtl => s.fillGo v
  | .clPark => s.clParkWrite i v
  | .tsEdata => (s.edgeWrite i v).edgeStep i
  | .caplCfg | .caplLen | .caplChmask | .caplTrg | .caplRoute => s.caplConfig i j ((off - Off.caplCfg i j) / 4) v
  | .capGov => s.capGovWrite i v
  | .qmHoldBase => s.qmHold false v
  | .qmHoldLen => s.qmHold true v
  | .qdW => s.qdWrite p i v
  | .qheadAdv => s.headAdv v
  | .tiuCfg => s.tiuConfig i 0 v
  | .tiuStart => s.tiuConfig i 1 v
  | .tiuStop => s.tiuConfig i 2 v
  | .tiuN => s.tiuConfig i 3 v
  | .tiuWin => s.tiuConfig i 4 v
  | .tiuRoute => s.tiuConfig i 5 v
  | .tiuCmd => s.tiuCmd p i v
  | .tiuCalctl => s.tiuCalctl i v
  | .weCfg | .weTgt | .weChmask | .weRate | .weStep | .weStat | .weCnt | .weSega | .weSegb =>
    s.weConfig i ((off - Off.weCfg i) / 4) v
  | .weCtl => s.weCtl i v
  | .syncCfg => s.syncCfgWrite v
  | .syncCmd => s.syncCmdWrite v
  | .railVset => s.railVset i v
  | .railVmax => s.railVmax i v
  | .railIlim => s.railIlim i v
  | .railRamp => s.railRamp i v
  | .railCfg => s.railCfg i v
  | .sitePwr => s.sitePwrWrite i v
  | .kzCtl => s.kzCtlWrite i v
  | .kzTh => s.kzThWrite i v
  | .kzStat => s.kzStatWrite i v
  | .auxCfg => s.auxCfgWrite i v
  | .auxCode => s.auxCodeWrite i v
  | .fuF2clr => s.f2clrWrite v
  | .fuSafereq => s.safereqWrite p v
  | .fuHclr => s.hclrWrite v
  | .miCfg => s.miCfgWrite i v
  | .ecCfg => s.ecWrite p i 0 v
  | .ecProd => s.ecWrite p i (1 + j) v
  | .evflag => s.evflagWrite p i v
  | .evSw => s.evSwWrite v
  | .admCtl => s.admWrite v
  | .calUdata => s.udataWrite v
  | .calSave => s.calSaveWrite v
  | .clkOut => s.clkOutWrite i v
  | .cpDev => s.cpDevWrite p i v
  | .cpXip => s.cpXipWrite p v
  | .cpFlash => s.cpFlashWrite p v
  | _ => s.storePlain .pf0 r off v

/-- A write to a register of PF1 BAR0: only PF1 writes the warden block, MCP_CTL and CP_CFG (R337, R404, R439). -/
def State.writePf1 (s : State) (p : Party) (r : RegRow) (off : Nat) (v : Word) : State :=
  match r.id with
  | .wlRvmax | .wlRimax | .wlZone | .wlSite => if p = .pf1 then s.limitWrite off v else s
  | .wlTbnd => if p = .pf1 then s.tbndWrite v else s
  | .pirqmap | .cpCfg => if p = .pf1 then s.storePlain .pf1 r off v else s
  | .mcpCtl => if p = .pf1 then s.mcpWrite v none else s
  | .rstReq => s.rstReqWrite p v
  | _ => s.storePlain .pf1 r off v

/-- A committed write to a register of the service window. -/
def State.writeWin (s : State) (r : RegRow) (off : Nat) (v : Word) : State :=
  match r.id with
  | .spCmd => s.spCmdWrite v
  | .spPtr => s.spPtrWrite v
  | .spData => s.spDataWrite v
  | _ => s.storePlain .win r off v

/-- A write that has passed the gate. -/
def State.writeReg (s : State) (p : Party) (sp : Space) (off : Nat) (v : Word) : State :=
  match findReg (Space.rows sp) off with
  | none => s
  | some (r, ix) => match sp with
    | .pf0 => s.writePf0 p r (ix.getD 0 0) (ix.getD 1 0) off v
    | .pf1 => s.writePf1 p r off v
    | .win => s.writeWin r off v
    | _ => s.storePlain sp r off v

/-- Cluster whose TS_EDATA an offset of PF0 BAR0 is. -/
def edataOf (sp : Space) (off : Nat) : Option Nat :=
  if sp = .pf0 then (List.range 16).find? fun c => decide (Off.tsEdata c = off) else none

/-- A write of party `p` through the gate; a write of TS_EDATA that loses still increments INDEX (R186), and a CAL_SAVE that
safe state discards is a rejected save (R389). -/
def State.regWriteBase (s : State) (p : Party) (sp : Space) (off : Nat) (v : Word) (via : Bool := false) : State :=
  match edataOf sp off with
  | some c => s.edgePort p c v via
  | none =>
    if sp = .pf0 ∧ off = Off.calSave then s.calSavePort p v via
    else s.gateWrite p sp off v (fun s => s.writeReg p sp off v) via

/-- A write through P1W_DATA, with PF1's identity (R460). ADDR advances once the write has acted. -/
def State.p1wWrite (s : State) (v : Word) : State :=
  let t := s.regWriteBase .pf1 .pf0 s.p1wTarget v true
  if t.partyHeld .pf1 || t.partyBehind .pf1 then t else t.p1wNext

/-- A write of P1W_DATA waits for an earlier party's write of the register that P1W_PTR addresses, as one of P1W_DATA itself
does (R33). -/
def State.p1wWaits (s : State) (p : Party) : Bool :=
  s.outranked .pf1 .pf0 s.p1wTarget && !s.partyHeld p && !s.partyBehind p && s.rst.ready && reaches p .pf1 &&
    (findReg pf0Rows s.p1wTarget).any fun r => mortalRow r.1 (r.2.getD 0 0)

/-- A write of a register by party `p`; one of SEQH outside the mapped blocks raises REGPROT (R457). -/
def State.regWrite (s : State) (p : Party) (sp : Space) (off : Nat) (v : Word) : State :=
  if sp = .pf1 ∧ off = Off.p1wData then
    if s.p1wWaits p then s.putBehind (requeue p .pf1 off v) else s.gateWrite p .pf1 off v fun s => s.p1wWrite v
  else if s.protects p sp off then s.exception 16 causeRegprot off (s.sq 16).pc
  else s.regWriteBase p sp off v

/-! ### Commands -/

/-- REGISTER_WRITE (R2): two dwords are two writes, the lower first; a request of PF0 or PF1 of another shape is discarded
(R458). -/
def execRegisterWrite (p : Party) (sp : Space) (off : BitVec 26) (shape : Shape) (v : Word) (s : State) : Result :=
  .next (if badShape p off.toNat shape then
      (if s.partyHeld p then s.hold (.registerWrite p sp off shape v)
       else if s.partyBehind p then s.putBehind (.registerWrite p sp off shape v)
       else if s.rst.ready then s.count Off.regErr 16 8 1 else s.answer p .unsupported)
    else match shape with
      | .dwords hi => (s.regWrite p sp off.toNat v).regWrite p sp (off.toNat + 4) hi
      | _ => s.regWrite p sp off.toNat v)

/-- P1W_DATA_WRITE (R460). -/
def execP1wDataWrite (v : Word) (s : State) : Result := .next (s.regWrite .pf1 .pf1 Off.p1wData v)

/-- The register access of an RDR or WRR is done, and the instruction retires. -/
def State.accessDone (s : State) : State :=
  let q := s.sq 16
  match q.wait with
  | .regRead rd off =>
    let (s, o) := s.readReg .seqh .pf0 off
    let w := match o with
      | .data w => w
      | _ => 0
    (s.setSq 16 ((s.sq 16).setG rd w)).retire 16 (q.pc + 1) 0
  | .regWrite off v => (s.regWrite .seqh .pf0 off v).retire 16 (q.pc + 1) 0
  | _ => s

/-- REG_ACCESS_DONE (R123). -/
def execRegAccessDone (s : State) : Result :=
  .next (if s.readWaits .seqh .regAccessDone then s.putBehind .regAccessDone
    else if (s.sq 16).readyAt ≤ s.now then s.accessDone else s)

/-- The service port's access ends (R443): with INC, ADDR advances after a write. -/
def State.spAccess (s : State) : State := match s.spp.busy with
  | none => s
  | some (write, sec, off, data) =>
    let sp : Space := if sec then .pf1 else .pf0
    let s := { s with spp := { s.spp with busy := none } }
    let s := if write then
        let s := s.regWrite .sp sp off data
        if flag (s.wg Off.spPtr) 30 then s.spAdvance else s
      else
        let (s, o) := s.readReg .sp sp off
        match o with
        | .data w => s.setWg Off.spData w
        | _ => s
    (s.spFlag 31 false).spFlag 30 true

/-- SP_ACCESS_DONE (R443). -/
def execSpAccessDone (s : State) : Result :=
  .next (if s.readWaits .sp .spAccessDone then s.putBehind .spAccessDone else s.spAccess)

end Sys2Proof.Machine
end

