-- ==== Sys2Proof/Machine/Thermal.lean ====
section
/-!
DEFINITION. Power monitors and thermal models (R363 to R366, R370, R371): each update comes with the models' outputs,
whose network coefficients the spec does not give.
-/
namespace Sys2Proof.Machine

open Sys2Proof

/-- POWER_INTERVAL (R363): the average power of the 40 domains in mW. -/
def execPowerInterval (mw : List (BitVec 16)) (s : State) : Result :=
  let s := s.each (List.range 40) fun k s =>
    match mw[k]? with
    | some p =>
      let o := Off.pwrDom k
      s.change o fun w => setFld (setFld w 0 16 p.toNat) 16 16 (max (fld w 16 16) p.toNat)
    | none => s
  let sum := (List.range 40).foldl (fun m k => m + s.rf (Off.pwrDom k) 0 16) 0
  .next (if sum < 65536 then s.setRg Off.pwrTotal (BitVec.ofNat 32 sum)
    else s.fresh.setRg Off.pwrTotal ((Config.powerTotal s.freeCtr).setWidth 32))

/-- Threshold of R370 in 1/16 °C. -/
def hotA : Int := 1920
/-- Threshold of R371. -/
def hotB : Int := 1984

/-- A tick stands in the queue of the present CCLK. -/
def isTick : Instr → Bool
  | .tick => true
  | _ => false

/-- The hottest of some temperatures. -/
def hottest (l : List (BitVec 16)) : BitVec 16 :=
  l.foldl (fun m t => if m.toInt < t.toInt then t else m) (l.headD 0)

/-- Model A (R364) takes the 40 domain powers and TBND: its 96 nodes, and the hottest node of every quadrant, of the DRAM stacks and of
the model. The spec gives neither the network's coefficients nor its nodes' places; an output that a command reports stands for the
network's own. -/
def State.nodesAStep (s : State) (ta : List (Option (BitVec 16))) (tmem tmax : Option (BitVec 16)) : State :=
  let mw : List (BitVec 16) := (List.range 40).map fun k => (s.rg (Off.pwrDom k)).setWidth 16
  let nodes := (List.range 96).map fun i => Config.nodeA i s.nodesA mw (s.rg Off.thmCfg)
  let at_ (p : Nat) : BitVec 16 := hottest ((idxs 96 fun i => Config.placeA i = p).map fun i => nodes.getD i 0)
  let s := { s with nodesA := nodes }
  let s := s.each (List.range 4) fun q s => s.setRg (Off.thmTa q) (((ta.getD q none).getD (at_ q)).setWidth 32)
  s.setRg Off.thmChip (tmem.getD (at_ 4) ++ tmax.getD (hottest nodes))

/-- The register whose temperature is at the threshold of R370. -/
def State.hotOff (s : State) : Option Nat :=
  match (List.range 4).find? fun q => decide (hotA ≤ s.tgov q) with
  | some q => some (Off.thmTa q)
  | none => if hotA ≤ temp (s.rf Off.thmChip 0 16) then some Off.thmChip else none

/-- An update of model A (R364): at a temperature of R370, F4. In F4 or F5 only the update that crosses the threshold is one more
event (R320). -/
def State.modelA (s : State) (ta : List (Option (BitVec 16))) (tmem tmax : Option (BitVec 16)) : State :=
  let was := s.safe && s.hotOff.isSome
  let s := s.nodesAStep ta tmem tmax
  match s.hotOff with
  | some off => if was then s
    else s.enterF4 { cls := 4, src := 0xB000, cause := 0, off := off, site := none, wd := false }
  | none => s

/-- MODEL_A_UPDATE (R364, R370): a tick of the same CCLK uses the update before (R367). -/
def execModelAUpdate (ta : List (Option (BitVec 16))) (tmem tmax : Option (BitVec 16)) (s : State) : Result :=
  .next (if s.waiting.any isTick then s.putBehind (.modelAUpdate ta tmem tmax) else s.modelA ta tmem tmax)

/-- The models disagree in some quadrant. -/
def State.anyDiff (s : State) : Bool := (List.range 4).any fun q => s.rb (Off.thmQstat q) 31

/-- The comparison of one quadrant (R366): updates that differ and that agree without a break. -/
def State.diffStep (s : State) (q : Nat) : State :=
  let d := (temp (s.rf (Off.thmTb q) 0 16) - temp (s.rf (Off.thmTa q) 0 16)).natAbs
  let run := Tbl.get (0, 0) s.diffRun q
  let run := if 96 < d then (min 10 (run.1 + 1), 0) else (0, min 10 (run.2 + 1))
  let o := Off.thmQstat q
  let s := { s with diffRun := Tbl.set (0, 0) s.diffRun q run }
  if run.1 = 10 ∧ !s.rb o 31 then (s.setRb o 31 true).count Off.thmStat 0 16 1
  else if run.2 = 10 ∧ s.rb o 31 then s.setRb o 31 false
  else s

/-- The comparison of every quadrant. Where no DIFF was set before the update, one that it sets raises one F2 (R366). -/
def State.diffAll (s : State) : State :=
  let before := s.anyDiff
  let s := s.each (List.range 4) fun q s => s.diffStep q
  match (List.range 4).find? fun q => s.rb (Off.thmQstat q) 31 with
  | some q => if before then s
    else s.f2 { cls := 2, src := 0xB002, cause := 0, off := Off.thmQstat q, site := none, wd := false } true
  | none => s

/-- Model B (R365) takes the warden's own power readings, which no register shows, and WL_TBND: its 24 nodes and its output of every
quadrant, or the one that a command reports in its place. -/
def State.modelB (s : State) (tb : List (Option (BitVec 16))) : State :=
  let nodes := (List.range 24).map fun i => Config.nodeB i s.nodesB (Config.supplyB s.freeCtr) (s.sg Off.wlTbnd)
  let s := State.fresh { s with nodesB := nodes }
  s.each (List.range 4) fun q s =>
    s.setRg (Off.thmTb q) (((tb.getD q none).getD (Config.tempB q ((nodes.drop (6 * q)).take 6))).setWidth 32)

/-- A temperature of model B is at the warden's threshold (R371). -/
def State.hotWarden (s : State) : Bool := (List.range 4).any fun q => decide (hotB ≤ temp (s.rf (Off.thmTb q) 0 16))

/-- A temperature of model B at the warden's threshold is a safe action (R371); while one is held, so is the update that crosses it
(R320). `was`: it was there before the update. -/
def State.modelBHot (s : State) (was : Bool) : State :=
  if s.hotWarden && !(s.ward.safeAct && was) then s.wardenSafe (wardEv 0xB001 0 Off.wdStat) else s

/-- MODEL_B_UPDATE (R366, R371). -/
def execModelBUpdate (tb : List (Option (BitVec 16))) (s : State) : Result :=
  .next ((s.modelB tb).diffAll.modelBHot s.hotWarden)

end Sys2Proof.Machine
end

