-- ==== Sys2Proof/Machine/Dispatch.lean ====
section
/-!
DEFINITION. The dispatch: one arm per command, each a direct call of its own meaning.
-/
namespace Sys2Proof.Machine

open Sys2Proof

/-- The effect of a command on everything but the queue. -/
def exec (i : Instr) (s : State) : Host.Outcome State Fault Refusal :=
  match i with
  | .registerWrite p sp off shape v => Sys2Proof.Machine.execRegisterWrite p sp off shape v s
  | .lowWordRead p sp off shape => Sys2Proof.Machine.execLowWordRead p sp off shape s
  | .chsiteWrite p n v => Sys2Proof.Machine.execChsiteWrite p n v s
  | .railsiteWrite p r v => Sys2Proof.Machine.execRailsiteWrite p r v s
  | .auxsiteWrite p a v => Sys2Proof.Machine.execAuxsiteWrite p a v s
  | .siteEnable p site v => Sys2Proof.Machine.execSiteEnable p site v s
  | .siteDisable p site v => Sys2Proof.Machine.execSiteDisable p site v s
  | .siteUnfence p site v => Sys2Proof.Machine.execSiteUnfence p site v s
  | .clusterPark p c v => Sys2Proof.Machine.execClusterPark p c v s
  | .parkComplete c => Sys2Proof.Machine.execParkComplete c s
  | .clusterUnpark p c v => Sys2Proof.Machine.execClusterUnpark p c v s
  | .tick => Sys2Proof.Machine.execTick s
  | .heartbeatToggle => Sys2Proof.Machine.execHeartbeatToggle s
  | .clusterPourDone c => Sys2Proof.Machine.execClusterPourDone c s
  | .pourDone => Sys2Proof.Machine.execPourDone s
  | .pourLimitExpiry => Sys2Proof.Machine.execPourLimitExpiry s
  | .seqRun p c v => Sys2Proof.Machine.execSeqRun p c v s
  | .seqStop p c v => Sys2Proof.Machine.execSeqStop p c v s
  | .seqRegWrite p x k v => Sys2Proof.Machine.execSeqRegWrite p x k v s
  | .idmaGo p c v => Sys2Proof.Machine.execIdmaGo p c v s
  | .idmaComplete c => Sys2Proof.Machine.execIdmaComplete c s
  | .nop x w mc => Sys2Proof.Machine.execNop x w mc s
  | .vec x w mc avail => Sys2Proof.Machine.execVec x w mc avail s
  | .vecr x w mc avail => Sys2Proof.Machine.execVecr x w mc avail s
  | .tset x w mc => Sys2Proof.Machine.execTset x w mc s
  | .sitem x w mc => Sys2Proof.Machine.execSitem x w mc s
  | .add x w mc => Sys2Proof.Machine.execAdd x w mc s
  | .sub x w mc => Sys2Proof.Machine.execSub x w mc s
  | .and x w mc => Sys2Proof.Machine.execAnd x w mc s
  | .or x w mc => Sys2Proof.Machine.execOr x w mc s
  | .xor x w mc => Sys2Proof.Machine.execXor x w mc s
  | .shl x w mc => Sys2Proof.Machine.execShl x w mc s
  | .shr x w mc => Sys2Proof.Machine.execShr x w mc s
  | .sar x w mc => Sys2Proof.Machine.execSar x w mc s
  | .cmp x w mc => Sys2Proof.Machine.execCmp x w mc s
  | .mul x w mc => Sys2Proof.Machine.execMul x w mc s
  | .addi x w mc => Sys2Proof.Machine.execAddi x w mc s
  | .subi x w mc => Sys2Proof.Machine.execSubi x w mc s
  | .andi x w mc => Sys2Proof.Machine.execAndi x w mc s
  | .ori x w mc => Sys2Proof.Machine.execOri x w mc s
  | .xori x w mc => Sys2Proof.Machine.execXori x w mc s
  | .shli x w mc => Sys2Proof.Machine.execShli x w mc s
  | .shri x w mc => Sys2Proof.Machine.execShri x w mc s
  | .sari x w mc => Sys2Proof.Machine.execSari x w mc s
  | .cmpi x w mc => Sys2Proof.Machine.execCmpi x w mc s
  | .movi x w mc => Sys2Proof.Machine.execMovi x w mc s
  | .mov x w mc => Sys2Proof.Machine.execMov x w mc s
  | .mtlc x w mc => Sys2Proof.Machine.execMtlc x w mc s
  | .mflc x w mc => Sys2Proof.Machine.execMflc x w mc s
  | .mfs x w mc => Sys2Proof.Machine.execMfs x w mc s
  | .ldv x w mc => Sys2Proof.Machine.execLdv x w mc s
  | .stv x w mc => Sys2Proof.Machine.execStv x w mc s
  | .vmemAccessDone x ecc => Sys2Proof.Machine.execVmemAccessDone x ecc s
  | .ovl x w mc => Sys2Proof.Machine.execOvl x w mc s
  | .ovlw x w mc => Sys2Proof.Machine.execOvlw x w mc s
  | .steep x w mc => Sys2Proof.Machine.execSteep x w mc s
  | .pour x w mc => Sys2Proof.Machine.execPour x w mc s
  | .halt x w mc => Sys2Proof.Machine.execHalt x w mc s
  | .tret x w mc => Sys2Proof.Machine.execTret x w mc s
  | .jmp x w mc => Sys2Proof.Machine.execJmp x w mc s
  | .jf x w mc => Sys2Proof.Machine.execJf x w mc s
  | .je x w mc => Sys2Proof.Machine.execJe x w mc s
  | .call x w mc => Sys2Proof.Machine.execCall x w mc s
  | .ret x w mc => Sys2Proof.Machine.execRet x w mc s
  | .loop x w mc => Sys2Proof.Machine.execLoop x w mc s
  | .endl x w mc => Sys2Proof.Machine.execEndl x w mc s
  | .mloop x w mc avail => Sys2Proof.Machine.execMloop x w mc avail s
  | .mloopPassResolve c avail => Sys2Proof.Machine.execMloopPassResolve c avail s
  | .range x w mc => Sys2Proof.Machine.execRange x w mc s
  | .force x w mc => Sys2Proof.Machine.execForce x w mc s
  | .meas x w mc => Sys2Proof.Machine.execMeas x w mc s
  | .capTrig x w mc => Sys2Proof.Machine.execCapTrig x w mc s
  | .capArm x w mc => Sys2Proof.Machine.execCapArm x w mc s
  | .capClose x w mc => Sys2Proof.Machine.execCapClose x w mc s
  | .capDisarm x w mc => Sys2Proof.Machine.execCapDisarm x w mc s
  | .evs x w mc => Sys2Proof.Machine.execEvs x w mc s
  | .evw x w mc => Sys2Proof.Machine.execEvw x w mc s
  | .evwTimeout x => Sys2Proof.Machine.execEvwTimeout x s
  | .qpush x w mc => Sys2Proof.Machine.execQpush x w mc s
  | .sfclr x w mc => Sys2Proof.Machine.execSfclr x w mc s
  | .rdr w mc => Sys2Proof.Machine.execRdr w mc s
  | .wrr w mc => Sys2Proof.Machine.execWrr w mc s
  | .regAccessDone => Sys2Proof.Machine.execRegAccessDone s
  | .waitc w mc => Sys2Proof.Machine.execWaitc w mc s
  | .waitcExpiry => Sys2Proof.Machine.execWaitcExpiry s
  | .cpx w mc ecc => Sys2Proof.Machine.execCpx w mc ecc s
  | .cpTransferDone data pollTimeout => Sys2Proof.Machine.execCpTransferDone data pollTimeout s
  | .interruptEntry x => Sys2Proof.Machine.execInterruptEntry x s
  | .vectorApply c => Sys2Proof.Machine.execVectorApply c s
  | .strobeResolve c y obs => Sys2Proof.Machine.execStrobeResolve c y obs s
  | .rangeApply c => Sys2Proof.Machine.execRangeApply c s
  | .forceApply c => Sys2Proof.Machine.execForceApply c s
  | .measApply c => Sys2Proof.Machine.execMeasApply c s
  | .measSettleEnd c y => Sys2Proof.Machine.execMeasSettleEnd c y s
  | .adcSampleDone c k code => Sys2Proof.Machine.execAdcSampleDone c k code s
  | .listArmApply c => Sys2Proof.Machine.execListArmApply c s
  | .listTrigApply c => Sys2Proof.Machine.execListTrigApply c s
  | .listCloseApply c => Sys2Proof.Machine.execListCloseApply c s
  | .listDisarmApply c => Sys2Proof.Machine.execListDisarmApply c s
  | .evsEntryApply c => Sys2Proof.Machine.execEvsEntryApply c s
  | .vectorStallEnd c avail => Sys2Proof.Machine.execVectorStallEnd c avail s
  | .underrunStart c => Sys2Proof.Machine.execUnderrunStart c s
  | .potCfgWrite p k v => Sys2Proof.Machine.execPotCfgWrite p k v s
  | .potWrWrite p k v => Sys2Proof.Machine.execPotWrWrite p k v s
  | .bar2Read row ecc => Sys2Proof.Machine.execBar2Read row ecc s
  | .bar2Write row data be ecc => Sys2Proof.Machine.execBar2Write row data be ecc s
  | .fillGo p v => Sys2Proof.Machine.execFillGo p v s
  | .fillRegionComplete => Sys2Proof.Machine.execFillRegionComplete s
  | .strainerWord m ecc => Sys2Proof.Machine.execStrainerWord m ecc s
  | .bucketLeak m => Sys2Proof.Machine.execBucketLeak m s
  | .comparatorTransition n k new => Sys2Proof.Machine.execComparatorTransition n k new s
  | .unkTimeout n k => Sys2Proof.Machine.execUnkTimeout n k s
  | .clampEngage o acts => Sys2Proof.Machine.execClampEngage o acts s
  | .tsEdataRead p c => Sys2Proof.Machine.execTsEdataRead p c s
  | .tsEdataWrite p c v => Sys2Proof.Machine.execTsEdataWrite p c v s
  | .caplConfigWrite p c l k v => Sys2Proof.Machine.execCaplConfigWrite p c l k v s
  | .capGovWrite p c v => Sys2Proof.Machine.execCapGovWrite p c v s
  | .rearmComplete c => Sys2Proof.Machine.execRearmComplete c s
  | .govRise c => Sys2Proof.Machine.execGovRise c s
  | .recordAccept o => Sys2Proof.Machine.execRecordAccept o s
  | .holdoverMove => Sys2Proof.Machine.execHoldoverMove s
  | .qdWrite p k v => Sys2Proof.Machine.execQdWrite p k v s
  | .qheadAdv p v => Sys2Proof.Machine.execQheadAdv p v s
  | .qmHoldWrite p len v => Sys2Proof.Machine.execQmHoldWrite p len v s
  | .dmaCopy e ecc => Sys2Proof.Machine.execDmaCopy e ecc s
  | .linkDown bmeCleared => Sys2Proof.Machine.execLinkDown bmeCleared s
  | .linkUp => Sys2Proof.Machine.execLinkUp s
  | .tiuGo p t v => Sys2Proof.Machine.execTiuGo p t v s
  | .tiuAbort p t v => Sys2Proof.Machine.execTiuAbort p t v s
  | .tiuConfigWrite p t k v => Sys2Proof.Machine.execTiuConfigWrite p t k v s
  | .tiuStartEdge t tclk e => Sys2Proof.Machine.execTiuStartEdge t tclk e s
  | .tiuStopEdge t tclk e => Sys2Proof.Machine.execTiuStopEdge t tclk e s
  | .tiuShotArm t => Sys2Proof.Machine.execTiuShotArm t s
  | .tiuOverflow t => Sys2Proof.Machine.execTiuOverflow t s
  | .tiuCalGo p t v => Sys2Proof.Machine.execTiuCalGo p t v s
  | .tiuCalDone t hits => Sys2Proof.Machine.execTiuCalDone t hits s
  | .weGo p w v => Sys2Proof.Machine.execWeGo p w v s
  | .weStop p w v => Sys2Proof.Machine.execWeStop p w v s
  | .weConfigWrite p w k v => Sys2Proof.Machine.execWeConfigWrite p w k v s
  | .weStart w => Sys2Proof.Machine.execWeStart w s
  | .weUpdate w avail => Sys2Proof.Machine.execWeUpdate w avail s
  | .weSampleArrive w => Sys2Proof.Machine.execWeSampleArrive w s
  | .syncSend p v => Sys2Proof.Machine.execSyncSend p v s
  | .syncArm p v => Sys2Proof.Machine.execSyncArm p v s
  | .syncPulse phase => Sys2Proof.Machine.execSyncPulse phase s
  | .railVsetWrite p r v => Sys2Proof.Machine.execRailVsetWrite p r v s
  | .railVmaxWrite p r v => Sys2Proof.Machine.execRailVmaxWrite p r v s
  | .railCfgWrite p r v => Sys2Proof.Machine.execRailCfgWrite p r v s
  | .railEnableConfirm r => Sys2Proof.Machine.execRailEnableConfirm r s
  | .railEnfail r => Sys2Proof.Machine.execRailEnfail r s
  | .railSettled r => Sys2Proof.Machine.execRailSettled r s
  | .railRampfail r => Sys2Proof.Machine.execRailRampfail r s
  | .railMeasure r v y => Sys2Proof.Machine.execRailMeasure r v y s
  | .railOcTrip r => Sys2Proof.Machine.execRailOcTrip r s
  | .railDischDone r => Sys2Proof.Machine.execRailDischDone r s
  | .railDtmo r => Sys2Proof.Machine.execRailDtmo r s
  | .stuckEnable e => Sys2Proof.Machine.execStuckEnable e s
  | .sitePowerRequest p site v => Sys2Proof.Machine.execSitePowerRequest p site v s
  | .sitePowerRelease p site v => Sys2Proof.Machine.execSitePowerRelease p site v s
  | .auxCfgWrite p a v => Sys2Proof.Machine.execAuxCfgWrite p a v s
  | .auxCodeWrite p a v => Sys2Proof.Machine.execAuxCodeWrite p a v s
  | .kzEnable p q v => Sys2Proof.Machine.execKzEnable p q v s
  | .kzDisable p q v => Sys2Proof.Machine.execKzDisable p q v s
  | .kzThWrite p q v => Sys2Proof.Machine.execKzThWrite p q v s
  | .kzEnableConfirm q => Sys2Proof.Machine.execKzEnableConfirm q s
  | .kzEnfail q => Sys2Proof.Machine.execKzEnfail q s
  | .kzStopDelay q => Sys2Proof.Machine.execKzStopDelay q s
  | .kzOff q => Sys2Proof.Machine.execKzOff q s
  | .kzUpdate q ohms => Sys2Proof.Machine.execKzUpdate q ohms s
  | .contactRise => Sys2Proof.Machine.execContactRise s
  | .contactFall => Sys2Proof.Machine.execContactFall s
  | .tdSettled => Sys2Proof.Machine.execTdSettled s
  | .liftReqRise => Sys2Proof.Machine.execLiftReqRise s
  | .liftReqFall => Sys2Proof.Machine.execLiftReqFall s
  | .wardenRingMessage => Sys2Proof.Machine.execWardenRingMessage s
  | .sliceSilent q => Sys2Proof.Machine.execSliceSilent q s
  | .sliceDisagree => Sys2Proof.Machine.execSliceDisagree s
  | .wardenSample r v y => Sys2Proof.Machine.execWardenSample r v y s
  | .wardenThprotSample q ohms => Sys2Proof.Machine.execWardenThprotSample q ohms s
  | .heartbeatTimeout q => Sys2Proof.Machine.execHeartbeatTimeout q s
  | .estop => Sys2Proof.Machine.execEstop s
  | .limitCopyCompare q second ue1 ue2 => Sys2Proof.Machine.execLimitCopyCompare q second ue1 ue2 s
  | .f4PermitTimeout => Sys2Proof.Machine.execF4PermitTimeout s
  | .safeRequest p v => Sys2Proof.Machine.execSafeRequest p v s
  | .f2Clear p v => Sys2Proof.Machine.execF2Clear p v s
  | .historyClear p v => Sys2Proof.Machine.execHistoryClear p v s
  | .wardenLimitWrite p off v => Sys2Proof.Machine.execWardenLimitWrite p off v s
  | .wlTbndWrite p v => Sys2Proof.Machine.execWlTbndWrite p v s
  | .ecConfigWrite p k j v => Sys2Proof.Machine.execEcConfigWrite p k j v s
  | .evSwPulse p v => Sys2Proof.Machine.execEvSwPulse p v s
  | .eventPass k => Sys2Proof.Machine.execEventPass k s
  | .pinActionHoldEnd slot => Sys2Proof.Machine.execPinActionHoldEnd slot s
  | .powerInterval mw => Sys2Proof.Machine.execPowerInterval mw s
  | .modelAUpdate ta tmem tmax => Sys2Proof.Machine.execModelAUpdate ta tmem tmax s
  | .modelBUpdate tb => Sys2Proof.Machine.execModelBUpdate tb s
  | .calUdataRead p => Sys2Proof.Machine.execCalUdataRead p s
  | .calUdataWrite p v => Sys2Proof.Machine.execCalUdataWrite p v s
  | .calFdataRead p => Sys2Proof.Machine.execCalFdataRead p s
  | .calSave p v => Sys2Proof.Machine.execCalSave p v s
  | .calSaveDone ok => Sys2Proof.Machine.execCalSaveDone ok s
  | .bgCalStart c y strobe => Sys2Proof.Machine.execBgCalStart c y strobe s
  | .bgCalDone c r => Sys2Proof.Machine.execBgCalDone c r s
  | .patchLoad p v flash => Sys2Proof.Machine.execPatchLoad p v flash s
  | .patchClear p v => Sys2Proof.Machine.execPatchClear p v s
  | .patchLoadDone flash => Sys2Proof.Machine.execPatchLoadDone flash s
  | .refclkLoss => Sys2Proof.Machine.execRefclkLoss s
  | .pllaLockLoss => Sys2Proof.Machine.execPllaLockLoss s
  | .refclkPresent => Sys2Proof.Machine.execRefclkPresent s
  | .pllaLock band => Sys2Proof.Machine.execPllaLock band s
  | .pllaLockTimeout => Sys2Proof.Machine.execPllaLockTimeout s
  | .relockComplete => Sys2Proof.Machine.execRelockComplete s
  | .ovoReadyRise => Sys2Proof.Machine.execOvoReadyRise s
  | .ovoReadyFall => Sys2Proof.Machine.execOvoReadyFall s
  | .clkOutWrite p k v => Sys2Proof.Machine.execClkOutWrite p k v s
  | .clkDelayStep k => Sys2Proof.Machine.execClkDelayStep k s
  | .coldReset supply => Sys2Proof.Machine.execColdReset supply s
  | .fullReset => Sys2Proof.Machine.execFullReset s
  | .pcieReset => Sys2Proof.Machine.execPcieReset s
  | .rstRequest p v => Sys2Proof.Machine.execRstRequest p v s
  | .resetDelayExpiry => Sys2Proof.Machine.execResetDelayExpiry s
  | .ready => Sys2Proof.Machine.execReady s
  | .seqhRun p v => Sys2Proof.Machine.execSeqhRun p v s
  | .seqhStop p v => Sys2Proof.Machine.execSeqhStop p v s
  | .seqhLineFill data crcOk => Sys2Proof.Machine.execSeqhLineFill data crcOk s
  | .linePrefetch data crcOk => Sys2Proof.Machine.execLinePrefetch data crcOk s
  | .flashPoll busy => Sys2Proof.Machine.execFlashPoll busy s
  | .spCmdSafe v => Sys2Proof.Machine.execSpCmdSafe v s
  | .spCmdRst v => Sys2Proof.Machine.execSpCmdRst v s
  | .spPtrWrite v => Sys2Proof.Machine.execSpPtrWrite v s
  | .spDataWrite v => Sys2Proof.Machine.execSpDataWrite v s
  | .spDataRead => Sys2Proof.Machine.execSpDataRead s
  | .spAccessDone => Sys2Proof.Machine.execSpAccessDone s
  | .spFrameError => Sys2Proof.Machine.execSpFrameError s
  | .p1wDataRead => Sys2Proof.Machine.execP1wDataRead s
  | .p1wDataWrite v => Sys2Proof.Machine.execP1wDataWrite v s
  | .readClear p sp off shape => Sys2Proof.Machine.execReadClear p sp off shape s
  | .resetRelease k b => Sys2Proof.Machine.execResetRelease k b s
  | .fetchException x ecc mc => Sys2Proof.Machine.execFetchException x ecc mc s
  | .gateReadbackFault f n => Sys2Proof.Machine.execGateReadbackFault f n s
  | .vectorPeriodEnd c => Sys2Proof.Machine.execVectorPeriodEnd c s

end Sys2Proof.Machine
end

