-- ==== Sys2Proof/Machine/Pcie.lean ====
section
/-!
DEFINITION. What the host link's two functions present (R246 to R248), and the boundary-scan TAP (R480): fixed tables, and the
TAP's instruction register. The table of commands has no row for a configuration access or for the TAP's pins.
-/
namespace Sys2Proof.Machine

open Sys2Proof

/-! ### Identities (R246, R248) -/

/-- A base address register pair: size in bytes, prefetchable. -/
structure PciBar where
  bytes    : Nat
  prefetch : Bool
  deriving DecidableEq, Repr

/-- The capability structures that both functions carry. -/
inductive PciCap where
  | powerManagement | pciExpress | msix | aer | serialNumber | secondary | dataLinkFeature | phys16 | phys32 | phys64
  | laneMargining | device3 | vendorSpecific
  deriving DecidableEq, Repr

/-- The identity of a function; its BAR pairs are BAR0/1, BAR2/3 and BAR4/5. -/
structure PciFn where
  vendor   : BitVec 16
  device   : BitVec 16
  revision : BitVec 8
  classCode : BitVec 24
  bars     : List (Option PciBar)
  caps     : List PciCap
  deriving DecidableEq, Repr

/-- Every capability of R248, in its order. -/
def pciCaps : List PciCap :=
  [.powerManagement, .pciExpress, .msix, .aer, .serialNumber, .secondary, .dataLinkFeature, .phys16, .phys32, .phys64,
   .laneMargining, .device3, .vendorSpecific]

/-- PF0, or PF1 (R248). -/
def pciFn (pf1 : Bool) : PciFn :=
  { vendor := 0x1F2E, device := if pf1 then 0x5121 else 0x5120, revision := 0xA1, classCode := 0x118000
    bars := if pf1 then [some ⟨0x100000, false⟩, some ⟨0x10000, false⟩, none]
      else [some ⟨0x4000000, false⟩, some ⟨0x800000000, true⟩, some ⟨0x10000, false⟩]
    caps := pciCaps }

/-- VSEC ID of the Vendor-Specific Extended Capability, and what it holds: a copy of the ID register. -/
def State.vsec (s : State) : BitVec 16 × Word := (0x0001, s.rg 0)
/-- The Device Serial Number capability. -/
def serialNumber : BitVec 64 := Config.serial
/-- Max Payload Sizes in bytes, and Max Read Request Size as a completer (R246). -/
def maxPayloads : List Nat := [128, 256, 512]
def maxReadRequest : Nat := 4096
/-- Power states of both functions (R246): the spec gives neither an effect. -/
inductive PciPower where
  | d0 | d3hot
  deriving DecidableEq, Repr

/-- How a function answers a configuration request (R422): Request Retry Status until READY. -/
inductive CfgReply where
  | retry | answered
  deriving DecidableEq, Repr

/-- The answer to a configuration request that reaches the part. -/
def State.cfgReply (s : State) : CfgReply := if s.rst.ready then .answered else .retry

/-! ### The TAP (R480) -/

/-- IDCODE: version 0x1, part 0x5120, manufacturer field 0x2A7. -/
def tapIdcode : Word := 0x1512054F

/-- Loads an instruction into the TAP: the EXTEST instructions only while RST_N is low, else BYPASS. -/
def State.tapLoad (s : State) (i : TapInstr) : State :=
  { s with tap := if i.drives && !s.rst.low then .bypass else i }

/-- TRST_N, and the Test-Logic-Reset state, select IDCODE. -/
def State.tapReset (s : State) : State := { s with tap := .idcode }

/-- The balls of which the spec says what cell they carry. -/
inductive Ball where
  | channel (n : Chan) | railV (r : Rail) | railEnA (r : Rail) | railEnB (r : Rail) | railDis (r : Rail) | aux (a : Fin 16)
  | thermistor (q : Quad) | kenA (q : Quad) | kenB (q : Quad) | liftOk | nofault | syncOut | pcieLane (k : Fin 8)
  deriving DecidableEq, Repr

/-- A boundary cell: one that only observes, or one of the lanes that IEEE 1149.6 covers. -/
inductive Cell where
  | observe | pulse
  deriving DecidableEq, Repr

/-- The cell of a ball; none where it carries none. -/
def Ball.cell : Ball → Option Cell
  | .channel _ | .railV _ | .aux _ | .thermistor _ => none
  | .railEnA _ | .railEnB _ | .railDis _ | .kenA _ | .kenB _ | .liftOk | .nofault => some .observe
  | .syncOut | .pcieLane _ => some .pulse

/-- The TAP drives a ball: never one whose cell only observes. -/
def State.tapDrives (s : State) (b : Ball) : Bool := s.tap.drives && decide (b.cell = some .pulse)

/-- The data register between TDI and TDO, nearest TDO first, as Capture-DR loads it: one 0 under BYPASS, IDCODE; else the boundary
cells, whose order the spec does not give. -/
def State.tapCapture (s : State) (cells : List Bool) : List Bool := match s.tap with
  | .bypass => [false]
  | .idcode => (List.range 32).map fun i => tapIdcode.getLsbD i
  | _ => cells

/-- Shift-DR: what TDO gives, and the register after. -/
def tapShift (dr : List Bool) (tdi : Bool) : Bool × List Bool := (dr.headD tdi, dr.tail ++ [tdi])

end Sys2Proof.Machine
end

