-- ==== Sys2Proof/Machine/Wires.lean ====
section
/-!
DEFINITION. The balls of the two serial ports and of the safety path (R424, R427 to R431, R440 to R442, R445): what each carries
in a state, the clocks and lanes of a transfer, and frames of the service port as the register accesses they stand for.
-/
namespace Sys2Proof.Machine

open Sys2Proof

/-! ### Lanes (R427) -/

/-- Lanes of a width code. -/
def lanesOf (code : Nat) : Nat := 2 ^ (code % 4)
/-- What a byte puts on `w` lanes, clock by clock: the next `w` bits, the most significant on the highest lane. -/
def laneBits (w : Nat) (b : Byte) : List Nat := (List.range (8 / w)).map fun i => b.toNat / 2 ^ (8 - w * (i + 1)) % 2 ^ w
/-- The byte that the lanes carried. -/
def laneByte (w : Nat) (l : List Nat) : Byte := BitVec.ofNat 8 (l.foldl (fun m v => m * 2 ^ w + v) 0)
/-- Clocks of `n` bytes on the lanes of a width code. -/
def byteClocks (code n : Nat) : Nat := 8 * n / lanesOf code

/-! ### The card port (R428 to R431, R435) -/

/-- CP_CLK of device `d`: the frequency in MHz that is divided, and its divider. -/
def State.cpClk (s : State) (d : Nat) : Nat × Nat :=
  let div := s.rf (Off.cpDev d) 16 10
  if s.bypass then (400, (21 * div + 319) / 320) else (6400, div)
/-- Device code on CP_SEL (R429): that of the transfer that has the port, in the order of R436, and 15 while none runs. -/
def State.cpSel (s : State) : Nat :=
  if s.rst.held then 15
  else match s.cpSending with
    | some d => d
    | none =>
      let prefetch := match s.cp.want with
        | some k => s.lineWanted k
        | none => false
      if s.cpFree && (s.fillWaits || s.loadReads || s.cal.save.isSome || prefetch) then 0 else 15
/-- CP_SEL_EN_N is high. -/
def State.cpSelEnN (s : State) : Bool := decide (s.cpSel = 15)
/-- Delay in picoseconds from the rise of CP_CLK to the sample point for device `d`. -/
def State.cpSample (s : State) (d : Nat) : Nat := 625 * s.rf (Off.cpDev d) 8 4

/-- A phase of a transfer: its lanes, its clocks, and how many of them the part drives. -/
structure CpPhase where
  lanes  : Nat
  clocks : Nat
  driven : Nat
  deriving DecidableEq, Repr

/-- A phase of `n` whole bytes that the part drives, or in a read does not. -/
def bytePhase (code n : Nat) (drive : Bool) : CpPhase :=
  { lanes := lanesOf code, clocks := byteClocks code n, driven := if drive then byteClocks code n else 0 }

/-- The phases of a CPX transfer, from word 0 of its descriptor and its length (R438). -/
def Xfer.phases (x : Xfer) : List CpPhase :=
  (if flag x.w0 14 then [] else [bytePhase (fld x.w0 24 2) 1 true]) ++
    [bytePhase (fld x.w0 22 2) (fld x.w0 15 3) true,
     { lanes := lanesOf (fld x.w0 20 2), clocks := fld x.w0 9 5, driven := if x.write then fld x.w0 9 5 else 0 },
     bytePhase (fld x.w0 18 2) x.len x.write]

/-- The phases of a read of `n` bytes under the value `w` of CP_XIP; in continuous read the command is omitted, and the mode
byte fills the first dummy clocks. -/
def xipPhases (w : Word) (continuous : Bool) (n : Nat) : List CpPhase :=
  (if continuous then [] else [bytePhase (fld w 12 2) 1 true]) ++
    [bytePhase (fld w 10 2) (if flag w 14 then 4 else 3) true,
     { lanes := lanesOf (fld w 8 2), clocks := fld w 0 5, driven := if flag w 15 then byteClocks (fld w 8 2) 1 else 0 },
     bytePhase (fld w 6 2) n false]
/-- Clocks of a transfer. -/
def phaseClocks (l : List CpPhase) : Nat := l.foldl (fun m p => m + p.clocks) 0

/-- The phases of the next line fill, of 256 bytes, or of the read of its CRC entry, of 4 (R434). -/
def State.fillPhases (s : State) (crc : Bool) : List CpPhase :=
  let w := if s.rb Off.cpStat 30 then s.cp.xip.1 else s.rg Off.cpXip
  xipPhases w (s.rb Off.cpStat 30) (if crc then 4 else 256)

/-! ### Frames of the service port (R440 to R442) -/

/-- Lanes of a frame that begins now. -/
def State.spLanes (s : State) : Nat := if flag (s.wg Off.spCfg) 31 then 4 else 2
/-- Clocks of turnaround in a read. -/
def spTurnaround : Nat := 4
/-- The first byte of a frame: read, and window address. -/
def spFirst (b : Byte) : Bool × Nat := (b.getLsbD 7, b.toNat % 128)

/-- The register whose byte 3 is at address `a`, from the bytes that the frame has committed. -/
def spWord (got : Tbl Byte) (a : Nat) : Word :=
  Tbl.get 0 got a ++ Tbl.get 0 got (a - 1) ++ Tbl.get 0 got (a - 2) ++ Tbl.get 0 got (a - 3)
/-- The register writes of a write frame whose data bytes stand from address `a` on: a register changes with its byte 3, to the
bytes that the frame has committed to it. -/
def spWrites (a : Nat) (got : Tbl Byte) : List Byte → List (Nat × Word)
  | [] => []
  | b :: t =>
    let got := tblPut a b got
    (if a % 4 = 3 ∧ a < 0x20 then [(a - 3, spWord got a)] else []) ++ spWrites ((a + 1) % 128) got t
/-- A write frame: `bytes` are its complete data bytes. -/
def State.spWriteFrame (s : State) (a : Nat) (bytes : List Byte) : State :=
  (spWrites a [] bytes).foldl (fun s e => s.regWrite .sp .win e.1 e.2) s

/-- A register of the window as it stands. -/
def State.spLive (s : State) (off : Nat) : Word := match findReg (Space.rows .win) off with
  | some (r, ix) => s.view true r.id (ix.getD 0 0) (ix.getD 1 0) (s.wg off)
  | none => 0
/-- A read frame of `n` bytes from address `a` on: byte 0 of a register takes a snapshot of it, with which RC fields clear, and
bytes 1 to 3 come from it where the frame has it. -/
def State.spReadFrame (s : State) (a : Nat) (snaps : Tbl Word) : Nat → State × List Byte
  | 0 => (s, [])
  | n + 1 =>
    let off := a - a % 4
    let (s, w, snaps) :=
      if 0x20 ≤ a ∨ s.coldHeld then (s, 0, snaps)
      else if a % 4 = 0 then
        match s.readReg .sp .win off with
        | (t, .data w) => (t, w, tblPut off w snaps)
        | (t, _) => (t, 0, snaps)
      else (s, (Tbl.find snaps off).getD (s.spLive off), snaps)
    let (s, t) := s.spReadFrame ((a + 1) % 128) snaps n
    (s, BitVec.ofNat 8 (w.toNat / 2 ^ (8 * (a % 4))) :: t)

/-- What a frame puts on the lanes: their number, the clocks of turnaround that no side drives, and the bytes that the part drives. -/
structure SpOut where
  lanes : Nat
  idle  : Nat
  data  : List Byte
  deriving DecidableEq, Repr

/-- A frame from its first byte on (R440): in a write the bytes that follow, in a read `n` bytes after the turnaround. -/
def State.spFrame (s : State) (first : Byte) (bytes : List Byte) (n : Nat) : State × SpOut :=
  let (read, a) := spFirst first
  if read then
    let (t, l) := s.spReadFrame a [] n
    (t, { lanes := s.spLanes, idle := spTurnaround, data := l })
  else (s.spWriteFrame a bytes, { lanes := s.spLanes, idle := 0, data := [] })

/-! ### Who holds the pin (R447) -/

/-- What holds the needle of a channel. -/
inductive Claimant where
  | park | pmu | driver | load | termination | none
  deriving DecidableEq, Repr

/-- The claimant of channel `n` at an instant of the present CCLK: the first whose condition applies. -/
def State.claimant (s : State) (n : Nat) (t : Int) : Claimant :=
  let l := (s.ch n).lvlAt t
  if s.parkedCh n then .park
  else if s.pmuMode n ≠ 0 then .pmu
  else if l.isSome then .driver
  else if s.loadOn n l then .load
  else if flag (s.pinCfg n) 31 then .termination
  else .none

/-! ### Levels of the balls (R424) -/

/-- RAIL_EN_A, RAIL_EN_B and RAIL_DIS of rail `r`. -/
def State.railEnA (s : State) (r : Nat) : Bool := s.rb (Off.railStat r) 28
def State.railEnB (s : State) (r : Nat) : Bool := s.rb (Off.railStat r) 27
def State.railDis (s : State) (r : Nat) : Bool := s.rb (Off.railStat r) 26
/-- KEN_A and KEN_B of zone `q`. -/
def State.kenA (s : State) (q : Nat) : Bool := s.rb (Off.kzStat q) 28
def State.kenB (s : State) (q : Nat) : Bool := s.rb (Off.kzStat q) 27
/-- NOFAULT, which the core die and the warden hold low each (R327), and LIFT_OK. -/
def State.nofaultBall (s : State) : Bool := s.nofault && !s.ward.safeAct
def State.liftOkBall (s : State) : Bool := s.rb Off.tdStat 28
/-- The setpoint on RAIL_CTL of rail `r`, under its calibration items (R375): 0 V in reset. -/
def State.railCtl (s : State) (r : Nat) : Int :=
  if s.railState r = railOffSt then 0 else s.railDac r (s.railSetpt r)
/-- Aux output `a` is connected, and its code. -/
def State.auxBall (s : State) (a : Nat) : Option (BitVec 18) :=
  if s.rb (Off.auxCfg a) 31 || (decide (a < 4) && decide (s.kzState a ≠ 0)) then some (Tbl.get 0 s.auxOut a) else none
/-- CP_CLK (R424, R428): what it divides, and by how much; none while it is low, as in reset and between transfers. -/
def State.cpClkBall (s : State) : Option (Nat × Nat) := if s.cpSel = 15 then none else some (s.cpClk s.cpSel)
/-- The PCI Express transmitters leave electrical idle: link training has begun. -/
def State.pcieDrives (s : State) : Bool := s.mayTrain
/-- SYNC_OUT: high-impedance before READY. -/
def State.syncBall (s : State) : Option Bool := if s.rst.ready then s.syncOut else none
/-- The lanes of the service port may be driven: from the end of step 1 on. -/
def State.spDrives (s : State) : Bool := !s.coldHeld
/-- The open-drain SP_IRQ_N is held low (R445). -/
def State.spIrqBall (s : State) : Bool := s.spDrives && s.spIrqLow

end Sys2Proof.Machine
end

