-- ==== Sys2Proof/Machine/Time.lean ====
section
/-!
DEFINITION. What passes on an empty queue (DESIGN CHOICE, log 1): one CCLK, or one bypass cycle of 2 nominal CCLK while the
clocks are lost (R413); accesses held behind a full set of implicit-fill slots come back in a CCLK with a free slot (R147).
-/
namespace Sys2Proof.Machine

open Sys2Proof

/-- What sequencer `x` does in a CCLK besides its instruction: the copy, the waits, the issue of vectors. -/
def State.seqCycle (s : State) (x : Nat) : State :=
  if x < 16 then ((s.copyTick x).waitTick x).issueTick x else s.waitTick x

/-- Time and TSTAMP advance to CCLK `t`, and what belongs to one cycle ends with it (R6, R33, R250). -/
def State.pass (s : State) (t : Nat) : State :=
  { s with
    now := t
    tstamp := if s.rst.held then s.tstamp else s.tstamp + BitVec.ofNat 64 (4 * (t - s.now))
    steep := { s.steep with tickLeft := s.steep.tickLeft - (t - s.now) }
    wrote := []
    late := []
    marks := []
    pre := s.rcShown
    regOld := []
    retried := []
    admNow := 0
    qm := { s.qm with sentNow := [] } }

/-- One CCLK, or one bypass cycle of 2 nominal ones (R413): time passes, rail groups go on (R294, R295), setpoints reach 0
(R288), a SYNC instant and the starts of pin actions fall (R283, R362), and the sequencers go on. -/
def State.cclk (s : State) : State :=
  let s := ((s.tiuEnds.pass (s.now + if s.bypass then 2 else 1)).enter.arrive).tiuFalls
  let s := s.bootGo.loadGo.saveGo
  let s := (if s.vmWait then s else s.fillTick).drivers.sitesGo.railsGo.syncLoad.paStart
  s.each (s.seq.map (·.1)) fun x s => s.seqCycle x

/-- The step on an empty queue: commands that waited for others of the CCLK act first. -/
def State.idle (s : State) : State :=
  match s.behind, s.held with
  | c :: l, _ => { s with pending := c :: l, behind := [] }
  | [], [] => s.cclk
  | [], _ :: _ =>
    let s := s.cclk
    if s.mem.slots.length < 16 && !s.vmWait then { s with pending := s.held, held := [], retried := s.held } else s

end Sys2Proof.Machine
end

