-- ==== Sys2Proof/Safety.lean ====
section
/-!
DEFINITION. What counts as a safe part, in the terms that claims use: vector memory in canonical form, the latches that no
command clears, the park state of channels, the writes that are taken, and the instructions that may run.
-/
namespace Sys2Proof.Machine

open Sys2Proof

/-- Vector memory is in its canonical form: rising addresses, and no entry equal to what an unlisted address reads as. -/
def State.MemCanonical (s : State) : Prop := s.mem.wf = true

/-- The register images are in their canonical form: rising offsets, and no entry equal to its reset value. -/
def State.ImagesCanonical (s : State) : Prop :=
  tblWf resetPf0 s.reg = true ∧ tblWf resetPf1 s.sec = true ∧ tblWf resetWin s.win = true ∧ tblWf resetPf0 s.app = true

/-- F5 is latched in WD_F5 (R326). -/
def State.F5Latched (s : State) : Prop := flag (s.sg Off.wdF5) 31 = true

/-- The part is in F4 or F5 (R323, R326). -/
def State.InSafeState (s : State) : Prop := s.safe = true

/-- A reset is asserted (R418). -/
def State.InReset (s : State) : Prop := s.rst.held = true

/-- The driver and the load of channel `n` are off, as in its park state (R152). -/
def State.Undriven (s : State) (n : Nat) : Prop :=
  (s.ch n).lvl = none ∧ (s.ch n).steps = [] ∧ ∀ l, s.loadOn n l = false

/-! ### Register writes -/

/-- A write of party `p` to offset `off` is taken: no earlier access of the party is held for vector memory or waits for others of
the CCLK (R147, R463), the part is past READY or the register is in the service window (R422, R425), the party reaches the space (R459), safe state leaves it open (R324), and no
other write of the register came in the present CCLK, nor does one of an earlier party wait in it (R33). -/
def State.accepts (s : State) (p : Party) (sp : Space) (off : Nat) : Bool :=
  !s.partyHeld p && !s.partyBehind p && (decide (sp = .win) || s.rst.ready) && reaches p sp && !(decide (sp = .win) && s.coldHeld) &&
    (!s.safe || openInSafe sp off) && !s.outranked p sp off && s.wrote.all fun e => decide (e.2 ≠ regKey sp off)

/-- The state with the write of `off` by party `p` noted in its CCLK (R33). -/
def State.took (s : State) (p : Party) (sp : Space) (off : Nat) : State :=
  { s with wrote := s.wrote ++ [(rankOf p, regKey sp off)] }

/-! ### Instructions -/

/-- Sequencer `x` is about to execute the instruction of opcode `op` with bits `w`, and neither its fetch nor its operands
hold it up: it stands at a boundary and fetches that word (R58), the opcode is legal there (R64, R122), no register it uses
is pending (R107), and its reserved bits `rng` and values `vals` are clean (R64). -/
def State.mayRun (s : State) (x op : Nat) (w : BitVec 56) (rng : List (Nat × Nat)) (vals : List Nat) : Bool :=
  s.canRun x op w && opLegal x op && !((regsOf op w).any fun k => (s.sq x).pend.contains k) && (offBit w rng vals).isNone

/-- How an instruction command is coded: its sequencer, opcode, bits [55:0], what the control store reports, and the
reserved ranges and values that the word must avoid (R64). VEC and VECR look at theirs after SRC (R72). -/
structure Form where
  x    : Nat
  op   : Nat
  w    : BitVec 56
  mc   : Option Micro
  rsv  : List (Nat × Nat)
  vals : List Nat

/-- The coding of an instruction command; a CAP command names its own ACT. -/
def formOf (i : Instr) : Option Form :=
  let f (x op : Nat) (w : BitVec 56) (mc : Option Micro) (rsv : List (Nat × Nat)) (vals : List Nat := []) : Option Form :=
    some { x := x, op := op, w := w, mc := mc, rsv := rsv, vals := vals }
  match i with
  | .nop x w mc => f x 0x01 w mc [(0, 56)]
  | .steep x w mc => f x 0x02 w mc [(0, 56)]
  | .pour x w mc => f x 0x03 w mc [(0, 56)]
  | .halt x w mc => f x 0x04 w mc [(16, 40)]
  | .tret x w mc => f x 0x05 w mc [(1, 55)]
  | .vec x w mc _ => f x 0x10 w mc []
  | .vecr x w mc _ => f x 0x11 w mc []
  | .tset x w mc => f x 0x12 w mc ((8, 43) :: if w.getLsbD 51 then [(0, 8)] else [])
  | .sitem x w mc => f x 0x18 w mc (sitemRsv w) (sitemVals w)
  | .add x w mc => f x 0x20 w mc [(0, 44)]
  | .sub x w mc => f x 0x21 w mc [(0, 44)]
  | .and x w mc => f x 0x22 w mc [(0, 44)]
  | .or x w mc => f x 0x23 w mc [(0, 44)]
  | .xor x w mc => f x 0x24 w mc [(0, 44)]
  | .shl x w mc => f x 0x25 w mc [(0, 44)]
  | .shr x w mc => f x 0x26 w mc [(0, 44)]
  | .sar x w mc => f x 0x27 w mc [(0, 44)]
  | .cmp x w mc => f x 0x28 w mc [(0, 44), (52, 4)]
  | .mul x w mc => f x 0x29 w mc [(0, 44)]
  | .addi x w mc => f x 0x30 w mc [(32, 16)]
  | .subi x w mc => f x 0x31 w mc [(32, 16)]
  | .andi x w mc => f x 0x32 w mc [(32, 16)]
  | .ori x w mc => f x 0x33 w mc [(32, 16)]
  | .xori x w mc => f x 0x34 w mc [(32, 16)]
  | .shli x w mc => f x 0x35 w mc [(5, 27), (32, 16)]
  | .shri x w mc => f x 0x36 w mc [(5, 27), (32, 16)]
  | .sari x w mc => f x 0x37 w mc [(5, 27), (32, 16)]
  | .cmpi x w mc => f x 0x38 w mc [(32, 16), (52, 4)]
  | .movi x w mc => f x 0x40 w mc [(32, 20)]
  | .mov x w mc => f x 0x41 w mc [(0, 48)]
  | .mtlc x w mc => f x 0x42 w mc [(0, 48), (55, 1)]
  | .mflc x w mc => f x 0x43 w mc [(0, 48), (51, 1)]
  | .mfs x w mc => f x 0x44 w mc [(32, 20), (8, 24)] (if 20 ≤ ifld w 0 8 then [0] else [])
  | .ldv x w mc => f x 0x48 w mc [(32, 15)]
  | .stv x w mc => f x 0x49 w mc [(32, 15)]
  | .ovl x w mc => f x 0x4C w mc [(15, 17), (47, 5)]
  | .ovlw x w mc => f x 0x4D w mc [(0, 56)]
  | .jmp x w mc => f x 0x50 w mc (jumpRsv x w) (if 9 ≤ fA w then [48] else [])
  | .jf x w mc => f x 0x51 w mc ((48, 1) :: (24, 24) :: targetRsv x 0)
  | .je x w mc => f x 0x52 w mc ([(51, 5), (48, 2), (27, 21)] ++ targetRsv x 0)
  | .call x w mc => f x 0x54 w mc ((48, 4) :: jumpRsv x w)
  | .ret x w mc => f x 0x55 w mc [(0, 56)]
  | .loop x w mc => f x 0x58 w mc ((if w.getLsbD 51 then [(24, 24)] else []) ++ targetRsv x 0)
  | .endl x w mc => f x 0x59 w mc ((51, 5) :: (24, 24) :: targetRsv x 0)
  | .mloop x w mc _ => f x 0x5A w mc [(48, 3)]
  | .range x w mc => f x 0x60 w mc [(0, 47)]
      ((if ifld w 50 2 = 3 then [50] else []) ++ if 5 ≤ ifld w 47 3 then [47] else [])
  | .force x w mc => f x 0x61 w mc ((18, 29) :: if w.getLsbD 51 then [(0, 18)] else [])
  | .meas x w mc => f x 0x62 w mc [(40, 1), (24, 4)]
  | .capTrig x w mc => if ifld w 54 2 = 0 then f x 0x68 w mc (capRsv false) else none
  | .capArm x w mc => if ifld w 54 2 = 1 then f x 0x68 w mc (capRsv true) else none
  | .capClose x w mc => if ifld w 54 2 = 2 then f x 0x68 w mc (capRsv false) else none
  | .capDisarm x w mc => if ifld w 54 2 = 3 then f x 0x68 w mc (capRsv false) else none
  | .evs x w mc => f x 0x70 w mc [(3, 48), (52, 4)]
  | .evw x w mc => f x 0x71 w mc ((40, 9) :: if w.getLsbD 51 then [(0, 32)] else []) (if ifld w 32 8 = 0 then [32] else [])
  | .qpush x w mc => f x 0x78 w mc [(39, 5), (16, 16)] (if 15 < fD w + fB w then [44] else [])
  | .sfclr x w mc => f x 0x79 w mc (sfclrRsv w) (if fA w = 1 ∨ 4 ≤ fA w then [48] else [])
  | .rdr w mc => f 16 0xC0 w mc [(32, 16)]
  | .wrr w mc => f 16 0xC1 w mc [(32, 16)]
  | .waitc w mc => f 16 0xC2 w mc [(32, 19)]
  | .cpx w mc _ => f 16 0xC3 w mc [(52, 4), (0, 48)]
  | _ => none

/-- What the control store reports of an instruction command of sequencer `x` (R394, R398). -/
def State.microOf (s : State) (x : Nat) (mc : Option Micro) : MicroEnd := (s.seqhTouch x).micro x mc

/-- The state in which an instruction has its effect: SEQH's line is the most recently used (R434), the micro-PC and the
micro-stack stand as the microwords leave them, and corrected caddy words are counted (R341). -/
def State.began (s : State) (x : Nat) (mc : Option Micro) : State := (s.seqhTouch x).microSet x (s.microOf x mc)

/-- The CCLK of an instruction whose own routine takes `n`: those of a patched routine's microwords where one runs (R396). -/
def State.cost (s : State) (x : Nat) (mc : Option Micro) (n : Nat) : Nat :=
  if (s.microOf x mc).caddy then (s.microOf x mc).cclk else n

/-- The state `t` in which an instruction goes on into a wait; a patched routine's microwords end no earlier than their CCLK
(R396). -/
def State.stays (s : State) (x : Nat) (mc : Option Micro) (t : State) : State :=
  if (s.microOf x mc).caddy then t.setSq x { t.sq x with floor := t.now + (s.microOf x mc).cclk } else t

/-- An instruction raises an exception: the microwords of a patched routine take their CCLK before the trap entry (R396). -/
def State.raises (s : State) (x : Nat) (mc : Option Micro) (cause info : Nat) : State :=
  let b := s.began x mc
  let t := b.exception x cause info (b.sq x).pc
  if (s.microOf x mc).caddy then t.setSq x { t.sq x with readyAt := (t.sq x).readyAt + (s.microOf x mc).cclk } else t

/-- The instruction command has its effect: it may run, and its microwords reach END without a machine check (R394, R398). -/
def State.runs (s : State) (i : Instr) : Bool := match formOf i with
  | some f => s.mayRun f.x f.op f.w f.rsv f.vals && (s.microOf f.x f.mc).check.isNone && (s.microOf f.x f.mc).done
  | none => false

/-- One step leads from a state to another. -/
def State.Steps (s t : State) : Prop := step s = .next t

end Sys2Proof.Machine
end

