-- ==== Sys2Proof/Certificates/Slice0/Obligations.lean ====
section
/-!
DEFINITION. The statements about the model. A state `s` in a hypothesis is any state, reachable or not; a conclusion
`exec c s = .next t` with `t` written out says what command `c` does and, by the form of `t`, what it leaves alone.
-/
open Sys2Proof Sys2Proof.Machine

/-! ### The block: steps, the queue, invariants -/

/-- The step on a queue with a command in front is the meaning of that command on the state with the queue's rest. -/
def Obligations.StepRunsFront : Prop :=
  ∀ (c : Instr) (rest : List Instr) (s : State), s.pending = c :: rest → step s = exec c { s with pending := rest }

/-- On an empty queue, the commands that wait for others of the CCLK come back to the queue (R33, R38); else one CCLK passes,
or 2 in bypass, unless a reset follows from it. The queue stays empty where no access is held (the model's choice of a time
step, log 1). -/
def Obligations.EmptyQueueLetsTimePass : Prop :=
  ∀ s : State, s.pending = [] →
    (∀ c l, s.behind = c :: l → step s = .next { s with pending := c :: l, behind := [] }) ∧
    (s.behind = [] → ∃ t, step s = .next t ∧ (s.held = [] → t.pending = []) ∧
      (t.now = s.now + (if s.bypass then 2 else 1) ∨ t.InReset))

/-- After a cold reset: the part is in reset, vector memory and the images are canonical, neither F4 nor F5 is latched, every
channel is in its park state, and every sequencer is HALTED. -/
def Obligations.ResetMeetsInvariants : Prop :=
  State.reset.InReset ∧ State.reset.MemCanonical ∧ State.reset.ImagesCanonical ∧ ¬ State.reset.F5Latched ∧
    ¬ State.reset.InSafeState ∧ State.reset.pending = [] ∧
    (∀ n : Chan, State.reset.parkedCh n = true ∧ State.reset.Undriven n) ∧
    ∀ x : Sq, (State.reset.sq x).mode = .halted

/-- Every step keeps vector memory in its canonical form. -/
def Obligations.EveryStepKeepsMemoryCanonical : Prop :=
  ∀ s t : State, s.Steps t → s.MemCanonical → t.MemCanonical

/-- Every step keeps the register images of the three spaces, and the applied settings, in their canonical form: no register
is listed twice, and none is listed at its reset value. -/
def Obligations.EveryStepKeepsImagesCanonical : Prop :=
  ∀ s t : State, s.Steps t → s.ImagesCanonical → t.ImagesCanonical

/-- R326: the warden latches F5 in WD_F5. Once latched, no step changes WD_F5, not even a reset. -/
def Obligations.EveryStepKeepsF5Latched : Prop :=
  ∀ s t : State, s.Steps t → s.F5Latched → t.F5Latched ∧ t.sg Off.wdF5 = s.sg Off.wdF5

/-- No step leads from F4 or F5 back to service: a step from safe state ends in safe state or in a reset. -/
def Obligations.SafeStateEndsOnlyInReset : Prop :=
  ∀ s t : State, s.Steps t → s.InSafeState → t.InSafeState ∨ t.InReset

/-- A command leaves the queue behind it alone, and takes no time: the counts of CCLK move on an empty queue and at a reset
only (the model's choice, log 1). -/
def Obligations.CommandsLeaveQueueAndTime : Prop :=
  ∀ (c : Instr) (s t : State), exec c s = .next t → t.pending = s.pending ∧ (t.now = s.now ∨ t.InReset)

/-! ### The gate of register writes -/

/-- R324: in F4 and F5, past READY, every command that writes a register of PF0 BAR0 outside the fault unit block is
discarded whole: FU_CNT.WDISC counts it, the service port learns of its own, and nothing else changes. (A save that is asked
for is rejected beside, R389: `CalibrationTables`.) -/
def Obligations.SafeStateDiscardsWrites : Prop :=
  ∀ (c : Instr) (p : Party) (off : Nat) (v : Word) (s : State), writeOf c = some (p, .pf0, off, v) →
    s.partyHeld p = false → s.partyBehind p = false → s.rst.ready = true → reaches p .pf0 = true → s.safe = true →
    ¬ (0x30000 ≤ off ∧ off < 0x40000) → off ≠ Off.calSave → (findReg pf0Rows off).isSome = true →
    exec c s = .next (if p = .sp
      then (s.count Off.fuCnt 24 8 1).changeWg Off.spStat fun w => setFlag w 29 true
      else s.count Off.fuCnt 24 8 1)

/-- R422: before READY, a register write of PF0 or PF1 completes with Unsupported Request and changes no register. -/
def Obligations.WritesBeforeReady : Prop :=
  ∀ (c : Instr) (p : Party) (sp : Space) (off : Nat) (v : Word) (s : State), writeOf c = some (p, sp, off, v) →
    sp ≠ .win → s.partyHeld p = false → s.partyBehind p = false → s.rst.ready = false → exec c s = .next (s.answer p .unsupported)

/-- R33, R34: a write with RW or WO fields loses to a write of the same register that an earlier party issued in the same
CCLK: no RW or WO field is stored, WRLOST_A counts it for its party, and its W1C bits still act, but for bits that the part
set in this CCLK (R4). It waits while a write by an earlier party that will act before it is still to come. QHEAD_ADV and FU_SAFEREQ
never lose, nor do the reserved and read-only registers of AUX0 to AUX3, which have no field to lose (R34); TS_EDATA increments INDEX beside (R186). WRLOST_A has a saturating byte for each of PF1, the service port (whose
status learns of the loss), PF0 and SEQH; the warden never loses. -/
def Obligations.LaterPartyLosesWrite : Prop :=
  (∀ (c : Instr) (p : Party) (off : Nat) (v : Word) (s : State) (r : RegRow) (ix : List Nat),
    writeOf c = some (p, .pf0, off, v) → s.partyHeld p = false → s.partyBehind p = false → s.rst.ready = true →
    reaches p .pf0 = true → s.safe = false →
    findReg pf0Rows off = some (r, ix) → r.rw + r.wo ≠ 0 → (∀ a < 4, off ≠ Off.auxsite a ∧ off ≠ Off.auxCfg a ∧
      off ≠ Off.auxCode a) →
    off ≠ Off.qheadAdv → off ≠ Off.fuSafereq → (∀ k : Cl, off ≠ Off.tsEdata k) →
    (s.outranked p .pf0 off = true → exec c s = .next { s with
      behind := s.behind ++ [.registerWrite p .pf0 (BitVec.ofNat 26 off) .dword v] }) ∧
    (s.outranked p .pf0 off = false → (∃ e ∈ s.wrote, e.2 = off ∧ e.1 < rankOf p) →
      exec c s = .next ((s.lostWrite (rankOf p)).w1c .pf0 off r.w1c v))) ∧
  ∀ s : State, s.lostWrite (rankOf .pf1) = s.count Off.wrlostA 24 8 1 ∧
    s.lostWrite (rankOf .pf0) = s.count Off.wrlostA 8 8 1 ∧
    s.lostWrite (rankOf .seqh) = s.count Off.wrlostA 0 8 1 ∧
    s.lostWrite (rankOf .sp) = (s.count Off.wrlostA 16 8 1).changeWg Off.spStat (fun w => setFlag w 27 true) ∧
    s.lostWrite (rankOf .warden) = s


/-! ### Sites and clusters -/

/-- R14 to R17: a site map write whose condition holds is stored in its fields, and the warden's copy follows it (R313), with
POWERED of the sites that gain or lose the rail (R12); SITE_CLMASK and SITE_CNT follow in the next CCLK (`State.regNote`
keeps what they still show). One whose condition does not hold is discarded whole, counted in MAP_STAT.REJCNT and noticed. -/
def Obligations.SiteMapWrites : Prop :=
  (∀ (p : Party) (n : Chan) (v : Word) (s : State), s.accepts p .pf0 (Off.chsite n) = true →
    exec (.chsiteWrite p n v) s = .next (
      let u := s.took p .pf0 (Off.chsite n)
      if s.parkReq (n / 32) ∧ s.clParked (n / 32) ∧ s.f2Find (n / 32) = none ∧ ¬ s.bistDead (n / 32) then
        let t := u.regNote (Off.chsite n)
        State.gatesCheck { t.setRg (Off.chsite n) (v &&& 0x8000037F) with
          ward := { t.ward with chCopy := Tbl.set 0 t.ward.chCopy n (v &&& 0x8000037F) } }
      else (u.count Off.mapStat 0 16 1).noticeAt Off.mapStat)) ∧
  (∀ (p : Party) (r : Rail) (v : Word) (s : State), s.accepts p .pf0 (Off.railsite r) = true →
    exec (.railsiteWrite p r v) s = .next (
      let u := s.took p .pf0 (Off.railsite r)
      if s.railState r = railOffSt then
        let t := u.regNote (Off.railsite r)
        let t : State := { t.setRg (Off.railsite r) (v &&& 0x8000077F) with
          ward := { t.ward with railCopy := Tbl.set 0 t.ward.railCopy r (v &&& 0x8000077F) } }
        let t := (s.railSite r).elim t t.powerCheck
        ((t.railSite r).elim t t.powerCheck).gatesCheck
      else (u.count Off.mapStat 0 16 1).noticeAt Off.mapStat)) ∧
  (∀ (p : Party) (a : Fin 16) (v : Word) (s : State), s.accepts p .pf0 (Off.auxsite a) = true →
    exec (.auxsiteWrite p a v) s = .next (
      let u := s.took p .pf0 (Off.auxsite a)
      if a.val < 4 then u
      else if s.rb (Off.auxCfg a) 31 = false ∧ Tbl.get 0 s.auxOut a = 0 then
        ((u.regNote (Off.auxsite a)).setRg (Off.auxsite a) (v &&& 0x8000007F)).auxHoldSite a
      else (u.count Off.mapStat 0 16 1).noticeAt Off.mapStat))

/-- R19, R20, R31, R32: a write of SITE_CTL stores FAILACT, 0b11 as 0b10. EN = 1 enables the site, is held with ENPEND while
the site's shutdown runs, and is not applied in the CCLK of a fence; EN = 0 disables an enabled site, but for the CCLK of
its fence: no records of its open captures, its channels park, its supply ramps down and its aux outputs go to mid-scale. A write
of 1 to SITE_STAT.FENCED unfences the site, without its power; it is held with ENPEND while the shutdown runs, and does
nothing to a site that is not fenced, nor in the CCLK of the fence. -/
def Obligations.SiteControlWrites : Prop :=
  (∀ (p : Party) (k : Site) (v : Word) (s : State), s.accepts p .pf0 (Off.siteCtl k) = true →
    let u := (s.took p .pf0 (Off.siteCtl k)).setRf (Off.siteCtl k) 0 2 (if fld v 0 2 = 3 then 2 else fld v 0 2)
    ∀ c ∈ [Instr.siteEnable p k v, Instr.siteDisable p k v], exec c s = .next (
      if flag v 31 then
        if (s.st k).down then (u.setSt k { s.st k with heldEn := true }).enpend k
        else if s.enabled k ∨ (s.st k).fencedAt = some s.now then u
        else ((u.setRb (Off.siteCtl k) 31 true).setSt k { s.st k with enAt := some (s.now, false) }).auxSiteFree k
      else
        let u := (u.setSt k { s.st k with heldEn := false }).enpend k
        if s.enabled k ∧ (s.st k).fencedAt ≠ some s.now then
          let u := (u.setRb (Off.siteCtl k) 31 false).setSt k { u.st k with enAt := some (s.now, true) }
          let u := (List.range 16).foldl (fun u c => u.dropPieces c k) u
          (((u.siteChans k).foldl State.parkChan u).rampDown k true).auxSiteHold k
        else u)) ∧
  (∀ (p : Party) (k : Site) (v : Word) (s : State), s.accepts p .pf0 (Off.siteStat k) = true →
    exec (.siteUnfence p k v) s = .next (
      let u := s.took p .pf0 (Off.siteStat k)
      if flag v 31 = true ∧ s.fenced k = true ∧ (s.st k).fencedAt ≠ some s.now then
        if (s.st k).down then (u.setSt k { s.st k with heldUnf := true }).enpend k
        else (u.setRb (Off.siteStat k) 31 false).auxSiteFree k
      else u))

/-- R152, R153: a channel that enters its park state has its driver and load off, its PMU in FN with code 0 and range ±2 mA,
its four comparators OFF, its clamp bit clear and PARKED and SWOPEN set; no other channel's driver, mode or park state moves.
-/
def Obligations.ChannelParks : Prop :=
  ∀ (n : Chan) (s : State), s.parkedCh n = false →
    let t := s.parkChan n
    t.parkedCh n = true ∧ t.rb (chOff Off.chStat n) 30 = true ∧ t.Undriven n ∧
      t.pmuMode n = 0 ∧ t.pmuIr n = 3 ∧ t.pmuCode n = 0 ∧ (∀ k < 4, t.cmp n k = .off) ∧
      t.rb (Off.clClamp (n / 32)) (n % 32) = false ∧
      ∀ m : Chan, m ≠ n → t.ch m = s.ch m ∧ t.parkedCh m = s.parkedCh m ∧
        t.rg (chOff Off.chPmustat m) = s.rg (chOff Off.chPmustat m)

/-- R155 to R157: a write of CL_PARK stores WAKEEN and clears WAKEF by 1. Then a 1 to PARK of a cluster that is neither
parked nor parking stops its sequencer at the next instruction boundary and parks it with close cause 6; a 0 to PARK clears PARK, and sets ENPEND where parking has not completed, for
TICK to unpark; the 0 is discarded while the cluster holds an uncleared F2. R155, R321: once every channel has parked,
CL_PARK.PARKED sets and parking ends; the fence of an uncleared F2 of the cluster, and of each memory of the cluster and its
sequencer, has then taken full effect (DONE). -/
def Obligations.ClusterParks : Prop :=
  (∀ (p : Party) (c : Cl) (v : Word) (s : State), s.accepts p .pf0 (Off.clPark c) = true →
    let u := ((s.took p .pf0 (Off.clPark c)).w1c .pf0 (Off.clPark c) 4 v).setRb (Off.clPark c) 1 (flag v 1)
    ∀ x ∈ [Instr.clusterPark p c v, Instr.clusterUnpark p c v],
      (flag v 0 = true → u.parkReq c = false → u.clParked c = false → (s.cl c).parking = false →
        exec x s = .next (((u.setRb (Off.clPark c) 30 false).parkStop c).parkRest c 6)) ∧
      (flag v 0 = true → u.parkReq c = false → (u.clParked c = true ∨ (s.cl c).parking = true) →
        exec x s = .next ((u.setRb (Off.clPark c) 30 false).setRb (Off.clPark c) 0 true)) ∧
      (flag v 0 = true → u.parkReq c = true → exec x s = .next u) ∧
      (flag v 0 = false → (u.clF2 c = true ∨ u.parkReq c = false) → exec x s = .next u) ∧
      (flag v 0 = false → u.clF2 c = false → u.parkReq c = true → u.clParked c = true →
        exec x s = .next (u.setRb (Off.clPark c) 0 false)) ∧
      (flag v 0 = false → u.clF2 c = false → u.parkReq c = true → u.clParked c = false →
        exec x s = .next ((u.setRb (Off.clPark c) 0 false).setRb (Off.clPark c) 30 true))) ∧
  (∀ (c : Cl) (s : State), (s.cl c).parking = true →
    exec (.parkComplete c) s = .next (
      [c.val, 16 + c.val, 32 + c.val, 48 + c.val, 64 + c.val, 84 + c.val].foldl (fun t m => t.f2Done (0x8000 + m) true)
        (((s.setCl c { s.cl c with parking := false }).setRb (Off.clPark c) 31 true).f2Done c true)))

/-- R155: a cluster that parks has PARK set, its sequencer HALTED with no instruction waiting, its FIFO empty, and all 32
channels in their park state; no channel of another cluster changes. -/
def Obligations.ParkedClusterIsStill : Prop :=
  ∀ (c : Cl) (cause : Nat) (s : State),
    let t := s.parkCluster c cause
    t.parkReq c = true ∧ (t.cl c).parking = true ∧ (t.cl c).fifo = [] ∧ (t.cl c).strobes = [] ∧
      (t.sq c).mode = .halted ∧ (t.sq c).wait = .none ∧ (∀ i : Fin 32, t.parkedCh (32 * c + i) = true) ∧
      ∀ n : Chan, n / 32 ≠ c.val → t.ch n = s.ch n


/-! ### The steep -/

/-- R35, R37, R43: a tick comes when the steep period has run out. STEEP_NUM goes up by one, or is loaded by an accepted
re-phase (R283); the heartbeat toggles; the pour limit of the steep that ended runs from here, computed from its own values,
and it waits for POUR_DONE. It waits for a STEEP that retires in its CCLK,
which is on time (R38), and where work is late for commands that may end it (R43). Before that, the command
is no event. -/
def Obligations.TickBeginsSteep : Prop :=
  ∀ s : State,
    (s.ticking = true → s.steep.tickLeft = 0 → (s.steepComes || s.workComes) = false → ∃ t, exec .tick s = .next t ∧
      t.steep.num = s.sync.rephase.getD (s.steep.num + 1) ∧ t.steep.lastTick = s.now ∧ t.steep.hbAt = s.now ∧
      t.steep.lp = s.af Off.steep 0 24 * s.af Off.pourCtl 0 6 / 64 ∧ t.steep.limitOn = true ∧
      t.steep.hb = !s.steep.hb ∧ t.steep.ended = s.steep.ended ++ [(s.steep.num, s.now)] ∧ t.now = s.now) ∧
    (s.ticking = true → s.steep.tickLeft = 0 → (s.steepComes || s.workComes) = true →
      exec .tick s = .next { s with behind := s.behind ++ [.tick] }) ∧
    (¬ (s.ticking = true ∧ s.steep.tickLeft = 0) → exec .tick s = .next s)

/-- R39, R52 to R54: a sequencer still RUNNING at a tick has overrun. Under ABORT its cluster is fenced with cause 1, under
SLIP beyond SLIPMAX with cause 3, together with cause 2 in one fence where the pour limit of the steep before ends too; under
SLIP within SLIPMAX the tick slips; the records of both steeps then carry SLIP, and UNDERRUN where an underrun stalls the
sequencer (R145). One that has retired its STEEP ends the run of slips. Where the pour limit of the steep before ends at the same
tick, its fence with cause 2 comes beside (R320). A parked cluster is not judged. -/
def Obligations.TickJudgesSequencer : Prop :=
  ∀ (c : Cl) (n n1 : BitVec 64) (s : State),
    let late := s.steep.limitOn = true ∧ ∃ e ∈ s.steep.ended, s.clPoured c e.1 = false
    let slipped := fun f : BitVec 16 =>
      (((((s.setRb (Off.clSteepstat c) 0 true).count (Off.clSteepstat c) 16 16 1).count (Off.clSteepstat c) 1 4 1).noticeCl c
        (Off.clSteepstat c)).flagCl c n f).flagCl c n1 f
    let f := fSlip ||| if (s.sq c).stalled then fUnderrun else 0
    let o := Off.clSteepstat c
    let why := if flag (s.ap (Off.clSteep c)) 8 then 3 else 1
    (s.clOut c = true → (s.sq c).mode ≠ .yielded → s.judge c n n1 = s) ∧
    (s.clOut c = false → (s.sq c).mode = .running →
      (flag (s.ap (Off.clSteep c)) 8 = false ∨ s.rf (Off.clSteep c) 0 4 < s.rf o 1 4 + 1) →
      (late → s.judge c n n1 = s.fenceCluster c [(why, o), (2, o)]) ∧
      (¬ late → s.judge c n n1 = s.fenceCluster c [(why, o)])) ∧
    (s.clOut c = false → (s.sq c).mode = .running → flag (s.ap (Off.clSteep c)) 8 = true →
      s.rf o 1 4 + 1 ≤ s.rf (Off.clSteep c) 0 4 →
      (late → s.judge c n n1 = (slipped f).fenceCluster c [(2, o)]) ∧ (¬ late → s.judge c n n1 = slipped f)) ∧
    (s.clOut c = false → (s.sq c).mode = .yielded →
      (late → s.judge c n n1 = ((s.setRb o 0 false).setRf o 1 4 0).fenceCluster c [(2, o)]) ∧
      (¬ late → s.judge c n n1 = (s.setRb o 0 false).setRf o 1 4 0))

/-- R37: the heartbeat also toggles once 800,000 CCLK have passed since its last toggle. R42: a cluster that is not out
reaches CPOUR_DONE of its oldest ended steep once all its work has ended. R43: at the end of the pour limit every cluster
that has not reached it, in that CCLK at the latest, is fenced with cause 2: the command lets commands of its CCLK that may end
such work pass, and a tick, which judges the same limit. -/
def Obligations.PourWindowEvents : Prop :=
  (∀ s : State, s.rst.ready = true → s.steep.hbAt + 800000 ≤ s.now →
    exec .heartbeatToggle s =
      .next (State.hbSeen { s with steep := { s.steep with hb := !s.steep.hb, hbAt := s.now } })) ∧
  (∀ (c : Cl) (n : BitVec 64) (t : Nat) (l : List (BitVec 64 × Nat)) (s : State), s.steep.ended = (n, t) :: l →
    n ∉ (s.cl c).poured → s.clOut c = false →
    (s.clDone c n = true → exec (.clusterPourDone c) s = .next (s.setCl c { s.cl c with poured := (s.cl c).poured ++ [n] })) ∧
    (s.clDone c n = false → exec (.clusterPourDone c) s = .next s)) ∧
  (∀ s : State, s.steep.limitOn = true → s.steep.lastTick + s.steep.lp ≤ s.now →
    (s.workComes = true ∨ .tick ∈ s.waiting) → exec .pourLimitExpiry s = .next { s with behind := s.behind ++ [.pourLimitExpiry] }) ∧
  (∀ s : State, s.steep.limitOn = true → s.steep.lastTick + s.steep.lp ≤ s.now → s.workComes = false → .tick ∉ s.waiting →
    let u : State := { s with steep := { s.steep with limitOn := false } }
    exec .pourLimitExpiry s = .next (((List.range 16).filter fun c => !u.clOut c &&
      u.steep.ended.any fun e => !u.clPoured c e.1).foldl
        (fun u c => u.fenceCluster c [(2, Off.clSteepstat c)]) u))

/-- R42, R45, R47: POUR_DONE comes for the oldest ended steep alone, once every cluster that is not excluded has reached
CPOUR_DONE of it; it then commits every record of the steep, takes the steep off the list, lets the decisions that waited for it act (the
last of the steep's, each decision of another steep waiting on), but for sites fenced in the same CCLK (R31, R48), and lets a POUR that waits for the last ended steep retire. Before that, the command is no event. -/
def Obligations.PourDoneCommits : Prop :=
  ∀ (n : BitVec 64) (t : Nat) (l : List (BitVec 64 × Nat)) (s : State), s.steep.ended = (n, t) :: l →
    ((∃ c : Cl, n ∉ (s.cl c).poured ∧ s.clExcluded c = false) → exec .pourDone s = .next s) ∧
    ((∀ c : Cl, n ∈ (s.cl c).poured ∨ s.clExcluded c = true) → ∃ u, exec .pourDone s = .next u ∧
      u.steep.ended = l ∧ u.qm.staged = s.commitAll.qm.staged ∧
      (∀ (x : Sq) (v m : BitVec 128), ((s.sq x).due.filter fun e => e.1 = n).getLast? = some (n, v, m) →
        (u.sq x).due = (s.sq x).due.filter (fun e => e.1 ≠ n) ∧
        (∀ k : Site, (s.st k).fencedAt ≠ some s.now → (u.sq x).vUse.getLsbD k = v.getLsbD k ∧
          (u.sq x).cUse.getLsbD k = m.getLsbD k) ∧
        ∀ k : Site, (s.st k).fencedAt = some s.now → (u.sq x).vUse.getLsbD k = (s.sq x).vUse.getLsbD k ∧
          (u.sq x).cUse.getLsbD k = (s.sq x).cUse.getLsbD k) ∧
      ∀ x : Sq, (s.sq x).wait = .pour → l = [] → (u.sq x).wait = .none ∧ (u.sq x).pc = (s.sq x).pc + 1 ∧
        (u.sq x).readyAt = s.now + 1)

/-! ### Sequencer control and the instruction copy -/

/-- R62, R404, R125, R322: a write of SEQ_CTL or SEQH_CTL. STOP acts first, and RUN with it in one write is rejected and
counted; so is RUN of a sequencer that is not HALTED, of a cluster that is parked or parking, or while a patch loads. Else
RUN of a cluster sequencer starts at STARTPEND, and that of SEQH at once at SEQH_START. R63: a write of G (k below 16) or
of LC is stored while the sequencer is HALTED; else it is discarded, counted in SEQ_STAT.WREJ for a cluster sequencer. -/
def Obligations.SequencerControlWrites : Prop :=
  (∀ (p : Party) (c : Cl) (v : Word) (s : State), s.accepts p .pf0 (Off.seqCtl c) = true →
    let u := s.took p .pf0 (Off.seqCtl c)
    ∀ i ∈ [Instr.seqRun p c v, Instr.seqStop p c v],
      (flag v 0 = false → flag v 1 = false → exec i s = .next u) ∧
      (flag v 0 = false → flag v 1 = true → exec i s = .next (u.stopSeq c)) ∧
      (flag v 0 = true → flag v 1 = true → exec i s = .next ((u.stopSeq c).count (Off.seqStat c) 20 4 1)) ∧
      (flag v 0 = true → flag v 1 = false →
        (((s.sq c).mode ≠ .halted ∨ s.clOut c = true ∨ s.mcBusy = true) →
          exec i s = .next (u.count (Off.seqStat c) 20 4 1)) ∧
        ((s.sq c).mode = .halted → s.clOut c = false → s.mcBusy = false →
          exec i s = .next (u.setSq c { s.sq c with mode := .startPend })))) ∧
  (∀ (p : Party) (v : Word) (s : State), s.accepts p .pf0 Off.seqhCtl = true →
    let u := s.took p .pf0 Off.seqhCtl
    ∀ i ∈ [Instr.seqhRun p v, Instr.seqhStop p v],
      (flag v 0 = false → flag v 1 = false → exec i s = .next u) ∧
      (flag v 0 = false → flag v 1 = true → exec i s = .next (u.stopSeq 16)) ∧
      (flag v 0 = true → flag v 1 = true → exec i s = .next ((u.stopSeq 16).count Off.seqhStat 28 2 1)) ∧
      (flag v 0 = true → flag v 1 = false →
        (((s.sq 16).mode ≠ .halted ∨ s.mcBusy = true ∨ (s.f2Find 0x1000).isSome = true ∨ s.bistDead 16 = true) →
          exec i s = .next (u.count Off.seqhStat 28 2 1)) ∧
        ((s.sq 16).mode = .halted → s.mcBusy = false → s.f2Find 0x1000 = none → s.bistDead 16 = false →
          exec i s = .next (u.seqBegin 16 (s.rf Off.seqhStart 0 24))))) ∧
  (∀ (p : Party) (x : Sq) (k : Fin 24) (v : Word) (s : State),
    let off := if k.val < 16 then Off.seqG x k else Off.seqLc x (k - 16)
    s.accepts p .pf0 off = true →
    let u := s.took p .pf0 off
    ((s.sq x).mode = .halted → k.val < 16 → exec (.seqRegWrite p x k v) s = .next (u.setSq x ((s.sq x).setG k v))) ∧
    ((s.sq x).mode = .halted → 16 ≤ k.val → exec (.seqRegWrite p x k v) s = .next (u.setSq x ((s.sq x).setLc (k - 16) v))) ∧
    ((s.sq x).mode ≠ .halted → exec (.seqRegWrite p x k v) s =
      .next (if x.val < 16 then u.count (Off.seqStat x) 16 4 1 else u)))

/-- R56: at a reset all state of a sequencer is 0 but for its masks, which are all ones; a sequencer that starts gets the
same state, but keeps G and LC as they were, and takes its start index as PC. -/
def Obligations.SequencerStartState : Prop :=
  (∀ (x : Sq),
    let q := State.reset.sq x
    q.mode = .halted ∧ q.pc = 0 ∧ (∀ k, q.gr k = 0) ∧ (∀ k, q.lcr k = 0) ∧ q.stack = [] ∧ q.mtch = false ∧ q.zero = false ∧
      q.carry = false ∧ q.evt = false ∧ q.siteFail = 0 ∧ q.vmask = BitVec.allOnes 128 ∧ q.cmask = BitVec.allOnes 128 ∧
      q.tset = 0) ∧
  (∀ (x : Sq) (pc : Nat) (s : State),
    let q := (s.seqBegin x pc).sq x
    q.mode = .running ∧ q.pc = pc ∧ q.g = (s.sq x).g ∧ q.lc = (s.sq x).lc ∧ q.stack = [] ∧ q.mtch = false ∧
      q.zero = false ∧ q.carry = false ∧ q.evt = false ∧ q.siteFail = 0 ∧ q.vmask = BitVec.allOnes 128 ∧
      q.cmask = BitVec.allOnes 128 ∧ q.vUse = BitVec.allOnes 128 ∧ q.cUse = BitVec.allOnes 128 ∧ q.tset = 0 ∧
      q.vcnt = 0 ∧ q.pend = [] ∧ q.wait = .none)

/-- R59, R61: IDMA_CTL.GO starts a copy, and is rejected with IDMA_STAT.REJ where the sequencer is not HALTED, a copy runs,
or DST + LENM1 exceeds 32,767. A copy that has written its last word ends; an OVL that waits for it then starts its own. -/
def Obligations.InstructionCopy : Prop :=
  (∀ (p : Party) (c : Cl) (v : Word) (s : State), s.accepts p .pf0 (Off.idmaCtl c) = true →
    let u := s.took p .pf0 (Off.idmaCtl c)
    let dst := s.rf (Off.idmaDst c) 0 15
    let lenm1 := s.rf (Off.idmaLen c) 0 15
    (flag v 0 = false → exec (.idmaGo p c v) s = .next u) ∧
    (flag v 0 = true → ((s.sq c).mode ≠ .halted ∨ (s.sq c).copy ≠ none ∨ 32767 < dst + lenm1) →
      exec (.idmaGo p c v) s = .next (u.setRb (Off.idmaStat c) 29 true)) ∧
    (flag v 0 = true → (s.sq c).mode = .halted → (s.sq c).copy = none → dst + lenm1 ≤ 32767 →
      exec (.idmaGo p c v) s = .next (
        let r : Copy := { row := (s.rg (Off.idmaSrc c)).toNat, dst := dst, len := lenm1 + 1, wait := 79, done := 0 }
        (u.setSq c { s.sq c with copy := some r }).setRb (Off.idmaStat c) 31 true))) ∧
  (∀ (c : Cl) (r : Copy) (s : State), (s.sq c).copy = some r →
    let u := (s.setSq c { s.sq c with copy := none }).setRb (Off.idmaStat c) 31 false
    (r.done < r.len → exec (.idmaComplete c) s = .next s) ∧
    (r.len ≤ r.done → (∀ row dst len, (s.sq c).wait ≠ .ovl row dst len) → (s.sq c).wait ≠ .ovlw →
      exec (.idmaComplete c) s = .next u) ∧
    (r.len ≤ r.done → (s.sq c).wait = .ovlw → exec (.idmaComplete c) s = .next (u.retire c ((s.sq c).pc + 1) 1)) ∧
    (∀ row dst len, r.len ≤ r.done → (s.sq c).wait = .ovl row dst len →
      exec (.idmaComplete c) s = .next ((u.copyStart c row dst len).retire c ((s.sq c).pc + 1) 2)))

/-! ### Instructions -/

/-- R58, R64, R107, R122, R395, R398: before an instruction has its effect. Where the sequencer does not stand at a boundary
with that word fetched, the command is no event; then, in this order, an opcode that is illegal there raises ILLOP with the
opcode, a pending register stalls, a fault of the control store is a machine check, microwords that never reach END keep the sequencer in
the routine (R394), and a 1 in a reserved place raises RSVBIT with the lowest such bit. A machine check in the first microword leaves no
effect of the instruction. Exceptions are taken at the instruction's own index. (A RANGE or FORCE first waits for the power requests decided before it: `PmuInstructions`.) -/
def Obligations.InstructionGate : Prop :=
  ∀ (i : Instr) (f : Form) (s : State), formOf i = some f →
    (∀ x w mc, i = .range x w mc ∨ i = .force x w mc → s.admWaits x = false) →
    let u := s.seqhTouch f.x
    let b := s.began f.x f.mc
    let e := s.microOf f.x f.mc
    let q := s.sq f.x
    (s.canRun f.x f.op f.w = false → exec i s = .next s) ∧
    (s.canRun f.x f.op f.w = true → opLegal f.x f.op = false → exec i s = .next (u.exception f.x 0x01 f.op q.pc)) ∧
    (s.canRun f.x f.op f.w = true → opLegal f.x f.op = true →
      ((∃ k ∈ regsOf f.op f.w, k ∈ q.pend) → exec i s = .next (u.setSq f.x { q with wait := .pend })) ∧
      ((∀ k ∈ regsOf f.op f.w, k ∉ q.pend) →
        (∀ cause uaddr, e.check = some (cause, uaddr) →
          (∃ t, exec i s = .next (State.machineCheck t f.x f.op cause uaddr)) ∧
          (e.drove = 0 → exec i s = .next (b.machineCheck f.x f.op cause uaddr))) ∧
        (e.check = none → e.done = false → ∃ t, exec i s = .next t ∧ (t.sq f.x).wait = .micro) ∧
        (e.check = none → e.done = true → ∀ k, offBit f.w f.rsv f.vals = some k →
          exec i s = .next (s.raises f.x f.mc 0x02 k))))

/-- R80, R81, R85: the ALU. With a = G[RA] and b = G[RB] or IMM: the result goes to G[RD], ZERO says that it is 0, CARRY is
the carry out, the borrow, the last bit shifted out, or a high half that is not 0; CMP and CMPI write the two flags alone.
MUL costs 3 CCLK, the others 1, and a patched routine what its microwords take (R396). No other state of the sequencer changes but the index and the time of the next one. -/
def Obligations.AluResults : Prop :=
  ∀ (x : Sq) (w : BitVec 56) (mc : Option Micro) (s : State),
    let u := s.began x mc
    let q := u.sq x
    let a := q.gr (ifld w 48 4)
    let r := q.gr (ifld w 44 4)
    let m := BitVec.ofNat 32 (ifld w 0 32)
    let row (i : Instr) (v : Word) (c : Bool) (cost : Nat) : Prop := s.runs i = true →
      exec i s = .next ((u.setSq x { q.setG (ifld w 52 4) v with
        zero := decide (v = 0), carry := c }).retire x (q.pc + 1) (s.cost x mc cost))
    let flags (i : Instr) (b : Word) : Prop := s.runs i = true →
      exec i s = .next ((u.setSq x { q with
        zero := decide (a = b), carry := decide (a.toNat < b.toNat) }).retire x (q.pc + 1) (s.cost x mc 1))
    let both (reg imm : Word → Instr × Word × Bool) : Prop :=
      row (reg r).1 (reg r).2.1 (reg r).2.2 1 ∧ row (imm m).1 (imm m).2.1 (imm m).2.2 1
    both (fun b => (.add x w mc, a + b, decide ((a.toNat + b.toNat) / 2 ^ 32 = 1)))
      (fun b => (.addi x w mc, a + b, decide ((a.toNat + b.toNat) / 2 ^ 32 = 1))) ∧
    both (fun b => (.sub x w mc, a - b, decide (a.toNat < b.toNat))) (fun b => (.subi x w mc, a - b, decide (a.toNat < b.toNat))) ∧
    both (fun b => (.and x w mc, a &&& b, false)) (fun b => (.andi x w mc, a &&& b, false)) ∧
    both (fun b => (.or x w mc, a ||| b, false)) (fun b => (.ori x w mc, a ||| b, false)) ∧
    both (fun b => (.xor x w mc, a ^^^ b, false)) (fun b => (.xori x w mc, a ^^^ b, false)) ∧
    both (fun b => (.shl x w mc, BitVec.ofNat 32 (a.toNat * 2 ^ (b.toNat % 32)), (a.toNat * 2 ^ (b.toNat % 32)).testBit 32))
      (fun b => (.shli x w mc, BitVec.ofNat 32 (a.toNat * 2 ^ (b.toNat % 32)), (a.toNat * 2 ^ (b.toNat % 32)).testBit 32)) ∧
    both (fun b => (.shr x w mc, BitVec.ofNat 32 (a.toNat / 2 ^ (b.toNat % 32)), (2 * a.toNat).testBit (b.toNat % 32)))
      (fun b => (.shri x w mc, BitVec.ofNat 32 (a.toNat / 2 ^ (b.toNat % 32)), (2 * a.toNat).testBit (b.toNat % 32))) ∧
    both (fun b => (.sar x w mc, BitVec.ofInt 32 (a.toInt / 2 ^ (b.toNat % 32)), (2 * a.toNat).testBit (b.toNat % 32)))
      (fun b => (.sari x w mc, BitVec.ofInt 32 (a.toInt / 2 ^ (b.toNat % 32)), (2 * a.toNat).testBit (b.toNat % 32))) ∧
    row (.mul x w mc) (BitVec.ofNat 32 (a.toNat * r.toNat)) (decide (a.toNat * r.toNat / 2 ^ 32 ≠ 0)) 3 ∧
    flags (.cmp x w mc) r ∧ flags (.cmpi x w mc) m

/-- R65, R82, R83, R100, R122: NOP does nothing; MOVI, MOV, MTLC, MFLC and MFS move one register each and change no flag; a
read of STEEP_NUM or TSTAMP low by MFS also keeps its high word, and sources 4 to 15 and 19 read 0 in SEQH; SFCLR clears the
SITEFAIL bits of its operand, but for those that a fail sets in its CCLK (R4). -/
def Obligations.MovesAndClears : Prop :=
  (∀ (x : Sq) (w : BitVec 56) (mc : Option Micro) (s : State),
    let u := s.began x mc
    let q := u.sq x
    let done (i : Instr) (q' : SeqSt) (cost : Nat) : Prop :=
      s.runs i = true → exec i s = .next ((u.setSq x q').retire x (q.pc + 1) (s.cost x mc cost))
    (s.runs (.nop x w mc) = true → exec (.nop x w mc) s = .next (u.retire x (q.pc + 1) (s.cost x mc 1))) ∧
    done (.movi x w mc) (q.setG (ifld w 52 4) (BitVec.ofNat 32 (ifld w 0 32))) 1 ∧
    done (.mov x w mc) (q.setG (ifld w 52 4) (q.gr (ifld w 48 4))) 1 ∧
    done (.mtlc x w mc) (q.setLc (ifld w 52 3) (q.gr (ifld w 48 4))) 1 ∧
    done (.mflc x w mc) (q.setG (ifld w 52 4) (q.lcr (ifld w 48 3))) 1 ∧
    done (.mfs x w mc)
      ({ q with
          snapS := if ifld w 0 8 = 0 then BitVec.ofNat 32 (u.steep.num.toNat / 2 ^ 32) else q.snapS
          snapT := if ifld w 0 8 = 2 then BitVec.ofNat 32 (u.tstamp.toNat / 2 ^ 32) else q.snapT }.setG
        (ifld w 52 4) (u.special x (ifld w 0 8))) 2 ∧
    done (.sfclr x w mc) { q with
      siteFail := q.siteFail &&& ~~~(q.siteOperand w &&& ~~~(if q.failNow.1 = u.now then q.failNow.2 else 0)) } 2) ∧
  (∀ (x : Sq) (s : State),
    let q := s.sq x
    let b (v : Bool) : Nat := if v then 1 else 0
    s.special x 0 = BitVec.ofNat 32 s.steep.num.toNat ∧ s.special x 1 = q.snapS ∧
    s.special x 2 = BitVec.ofNat 32 s.tstamp.toNat ∧ s.special x 3 = q.snapT ∧
    (s.special x 16).toNat =
      b (decide (q.siteFail ≠ 0)) + 2 * b q.mtch + 4 * b q.zero + 8 * b q.carry + 16 * b q.evt ∧
    s.special x 17 = BitVec.ofNat 32 q.pc ∧ s.special x 18 = BitVec.ofNat 32 x ∧
    (x.val = 16 → s.special x 19 = 0 ∧ ∀ k, 4 ≤ k → k ≤ 15 → s.special x k = 0) ∧
    (x.val < 16 → s.special x 19 = q.vcnt ∧ ∀ k < 4, ∀ i < 32,
      (s.special x (4 + k)).getLsbD i = q.siteFail.getLsbD (32 * k + i) ∧
      (s.special x (8 + k)).getLsbD i = q.vmask.getLsbD (32 * k + i) ∧
      (s.special x (12 + k)).getLsbD i = q.cmask.getLsbD (32 * k + i)))

/-- R89 to R92, R110: branches. JMP jumps if its condition holds; CALL pushes the index of the next instruction, RET pops
one; a CALL with 16 entries raises STKOVF and a RET with none STKUND. JF without W tests the fails at once; with W it waits
until every strobe has resolved and then tests them. JE tests a latch and clears it with CLR, but for
one set in its CCLK (R111); a slot that is not enabled
raises EVSLOT. A register target counts 15 bits in a cluster sequencer and 24 in SEQH. No branch changes a flag. R93: LOOP
sets its counter, and jumps past the matching ENDL where the count is 0; ENDL takes one off its counter modulo 2^32 and jumps
back while it is not 0. Neither changes a flag. A patched routine costs what its microwords take (R396). -/
def Obligations.BranchesAndLoops : Prop :=
  (∀ (x : Sq) (w : BitVec 56) (mc : Option Micro) (s : State),
    let u := s.began x mc
    let q := u.sq x
    let target := ifld w 0 24
    let far := if w.getLsbD 47 then (q.gr (ifld w 52 4)).toNat % 2 ^ (if x.val < 16 then 15 else 24) else target
    let fail := (if w.getLsbD 50 then q.siteFail.getLsbD ((q.gr (ifld w 52 4)).toNat % 128) else decide (q.siteFail ≠ 0)) !=
      w.getLsbD 49
    let slot : Fin 8 := ⟨ifld w 24 3, Nat.mod_lt _ (by decide)⟩
    (s.runs (.jmp x w mc) = true →
      let holds := [true, q.zero, !q.zero, q.carry, !q.carry, q.mtch, !q.mtch, q.evt, !q.evt].getD (ifld w 48 4) false
      exec (.jmp x w mc) s = .next (if holds then u.retire x far (s.cost x mc 2) else u.retire x (q.pc + 1) (s.cost x mc 1))) ∧
    (s.runs (.call x w mc) = true → exec (.call x w mc) s = .next (
      if q.stack.length < 16 then (u.setSq x { q with stack := (q.pc + 1) :: q.stack }).retire x far (s.cost x mc 2)
      else s.raises x mc 0x0A 0)) ∧
    (s.runs (.ret x w mc) = true → q.stack = [] → exec (.ret x w mc) s = .next (s.raises x mc 0x0B 0)) ∧
    (∀ pc rest, s.runs (.ret x w mc) = true → q.stack = pc :: rest →
      exec (.ret x w mc) s = .next ((u.setSq x { q with stack := rest }).retire x pc (s.cost x mc 2))) ∧
    (s.runs (.jf x w mc) = true → w.getLsbD 51 = false →
      exec (.jf x w mc) s = .next (if fail then u.retire x target (s.cost x mc 2) else u.retire x (q.pc + 1) (s.cost x mc 1))) ∧
    (s.runs (.jf x w mc) = true → w.getLsbD 51 = true → exec (.jf x w mc) s = .next (s.stays x mc (u.setSq x { q with
      wait := .jfw (w.getLsbD 50) (w.getLsbD 49) ((q.gr (ifld w 52 4)).toNat % 128) target, readyAt := u.now + 2 }))) ∧
    (s.runs (.je x w mc) = true → exec (.je x w mc) s = .next (
      if u.rb (Off.evSel x slot) 31 = false then s.raises x mc 0x0F (2 ^ slot.val)
      else if flag (u.rg (Off.evLatch x)) slot = false then u.retire x (q.pc + 1) (s.cost x mc 1)
      else if w.getLsbD 50 then
        (u.setRg (Off.evLatch x) (u.rg (Off.evLatch x) &&&
          ~~~((1#32 <<< slot.val) &&& ~~~u.setNow (Off.evLatch x)))).retire x target (s.cost x mc 2)
      else u.retire x target (s.cost x mc 2)))) ∧
  (∀ (x : Sq) (sel neg : Bool) (site target : Nat) (s : State), (s.sq x).mode = .running → (s.sq x).readyAt ≤ s.now →
    (s.sq x).wait = .jfw sel neg site target →
    s.waitTick x = (if s.drained x then s.retire x
      (if (if sel then (s.sq x).siteFail.getLsbD site else decide ((s.sq x).siteFail ≠ 0)) != neg then target
        else (s.sq x).pc + 1) (if (s.sq x).readyAt = s.now then 0 else 1) else s)) ∧
  (∀ (x : Sq) (w : BitVec 56) (mc : Option Micro) (s : State),
    let u := s.began x mc
    let q := u.sq x
    let k := ifld w 48 3
    (s.runs (.loop x w mc) = true →
      let n := if w.getLsbD 51 then q.gr (ifld w 52 4) else BitVec.ofNat 32 (ifld w 24 24)
      exec (.loop x w mc) s = .next (
        if n = 0 then (u.setSq x (q.setLc k 0)).retire x (ifld w 0 24 + 1) (s.cost x mc 1)
        else ((u.setSq x (q.setLc k n)).loopIn x k).retire x (q.pc + 1) (s.cost x mc 1))) ∧
    (s.runs (.endl x w mc) = true →
      exec (.endl x w mc) s = .next (
        if (q.lcr k).toNat = 1 then ((u.setSq x (q.setLc k 0)).loopOut x k).retire x (q.pc + 1) (s.cost x mc 1)
        else ((u.setSq x (q.setLc k (q.lcr k - 1))).loopPass x k).retire x (ifld w 0 24) (s.cost x mc 1))))

/-- R97, R98, R117, R38: STEEP retires and yields until the tick; POUR retires where no ended steep waits for its POUR_DONE,
else it waits; HALT stores CODE with VALID, signals source 192 + x and halts; TRET restores the flags from SFLAGS, clears
TRAPACT and goes on at TRAP_PC + SKIP, or raises TRETOUT outside a handler. A STOP that waits acts at STEEP. -/
def Obligations.SteepHaltAndReturn : Prop :=
  ∀ (x : Sq) (w : BitVec 56) (mc : Option Micro) (s : State),
    let u := s.began x mc
    let q := u.sq x
    (s.runs (.steep x w mc) = true →
      let t := u.setSq x { q with pc := q.pc + 1, wait := .none, mode := .yielded, readyAt := u.now + 1 }
      exec (.steep x w mc) s = .next (s.stays x mc (if q.stopReq then t.haltSeq x else t))) ∧
    (s.runs (.pour x w mc) = true → exec (.pour x w mc) s = .next (
      if u.steep.ended = [] then u.retire x (q.pc + 1) (s.cost x mc 1) else s.stays x mc (u.setSq x { q with wait := .pour }))) ∧
    (s.runs (.halt x w mc) = true → exec (.halt x w mc) s = .next (
      let t := (u.change (Off.seqHalt x) fun _ => BitVec.ofNat 32 (2 ^ 31 + ifld w 0 16)).irq (192 + x)
      s.stays x mc ((t.setSq x { q with pc := q.pc + 1 }).haltSeq x))) ∧
    (s.runs (.tret x w mc) = true → u.trapAct x = false → exec (.tret x w mc) s = .next (s.raises x mc 0x13 0)) ∧
    (s.runs (.tret x w mc) = true → u.trapAct x = true → exec (.tret x w mc) s = .next (
      let f := u.rf (Off.trapStat x) 16 4
      ((u.setSq x { q with zero := f.testBit 0, carry := f.testBit 1, mtch := f.testBit 2, evt := f.testBit 3 }).setRb
        (Off.trapStat x) 31 false).retire x ((u.rg (Off.trapPc x)).toNat + ifld w 0 1) (s.cost x mc 2)))

/-- R114: trap entry, where no patch redirects its routine, sets TRAP_PC, the cause and TRAP_INFO, saves the four flags in SFLAGS,
sets TRAPACT and goes on at the handler 4 CCLK later; a patched one costs what its microwords take (R396), and one that fails is a
machine check (R398). G, LC, the stack, the masks, SITEFAIL and the timing set stay, and so does every other sequencer.
R118, R119, R124: an exception counts in TRAP_CNT. With EN = 1 outside a handler it is a trap. Else it halts the
sequencer with its cause, TRAP_PC and TRAP_INFO set: inside a handler the unit is fenced with both causes; with EN = 0
FETCHUE fences it, and any other cause raises a class F0 notice. -/
def Obligations.ExceptionsAndTraps : Prop :=
  (∀ (x : Sq) (cause info pc : Nat) (s : State), cause < 256 → info < 2 ^ 32 → pc < 2 ^ 24 → (s.sq x).stopReq = false →
    s.plainRom x = true →
    let t := s.trapEnter x cause info pc
    t.rf (Off.trapStat x) 0 8 = cause ∧ (t.rg (Off.trapPc x)).toNat = pc ∧ (t.rg (Off.trapInfo x)).toNat = info ∧
      (t.rf (Off.trapStat x) 16 4).testBit 0 = (s.sq x).zero ∧ (t.rf (Off.trapStat x) 16 4).testBit 1 = (s.sq x).carry ∧
      (t.rf (Off.trapStat x) 16 4).testBit 2 = (s.sq x).mtch ∧ (t.rf (Off.trapStat x) 16 4).testBit 3 = (s.sq x).evt ∧
      t.trapAct x = true ∧
      t.sq x = { s.sq x with
        pc := s.rf (Off.trapCtl x) 0 24, wait := .none, readyAt := s.now + 4, floor := 0, loops := [], locked := [],
        lockRows := [] } ∧
      ∀ y : Sq, y ≠ x → t.sq y = s.sq y) ∧
  (∀ (x : Sq) (cause info pc : Nat) (mc : Option Micro) (s : State),
    let e := s.routine x Config.trapRoutine mc
    (∀ why uaddr, e.check = some (why, uaddr) → s.trapEnter x cause info pc mc =
      (s.microSet x e).machineCheck x ((s.microSet x e).opAt x) why uaddr) ∧
    (e.check = none → e.done = true → s.trapEnter x cause info pc mc =
      (s.microSet x e).trapTake x cause info pc (if e.caddy then e.cclk else 4))) ∧
  (∀ (x : Sq) (cause info pc : Nat) (mc : Option Micro) (s : State),
    let u := s.count (Off.trapCnt x) 16 16 1
    let h := (u.trapNote x cause info pc).haltSeq x
    (s.trapEn x = true → s.trapAct x = false → s.exception x cause info pc mc = u.trapEnter x cause info pc mc) ∧
    (s.trapAct x = true → s.exception x cause info pc mc =
      h.fenceSeq x [(cause, Off.trapStat x), (s.rf (Off.trapStat x) 0 8, Off.trapStat x)]) ∧
    (s.trapEn x = false → s.trapAct x = false →
      (cause = 0x09 → s.exception x cause info pc mc = h.fenceSeq x [(cause, Off.trapStat x)]) ∧
      (cause ≠ 0x09 → s.exception x cause info pc mc = h.notice (if x.val < 16 then x else 0x1000) cause (Off.trapStat x))))

/-- R112, R115, R116: at a boundary or in an interruptible wait, with EN = 1 and outside a handler, the sequencer takes FNOTE
first, then the lowest enabled and latched slot that no EVW waits on; it counts and enters the trap at its own index. Else
nothing is taken. R58, R64, R118 to R120: at a boundary of a cluster sequencer, a fetch past the last index raises PCEND, one
of an undefined word raises ILLOP with its opcode, and one that the checker finds uncorrectable marks the word and raises
FETCHUE with its index; a fetch inside a copy's range waits. R341: a corrected word counts, and the fetch goes on with it. -/
def Obligations.InterruptsAndFetch : Prop :=
  (∀ (x : Sq) (s : State),
    let q := s.sq x
    let open_ := q.mode = .running ∧ q.readyAt ≤ s.now ∧ (q.wait = .none ∨ q.wait.interruptible = true) ∧
      s.trapEn x = true ∧ s.trapAct x = false
    let asks (k : Nat) := flag (s.rg (Off.evLatch x)) k = true ∧ flag (s.rg (Off.intCtl x)) k = true
    let slot (k : Nat) := asks k ∧ q.evwSlots.getLsbD k = false
    let u := s.count (Off.trapCnt x) 0 16 1
    (¬ open_ → exec (.interruptEntry x) s = .next s) ∧
    (open_ → asks 8 → exec (.interruptEntry x) s = .next (u.trapEnter x 0x28 q.fnSite q.pc)) ∧
    (∀ k < 8, open_ → ¬ asks 8 → slot k → (∀ j < k, ¬ slot j) →
      exec (.interruptEntry x) s = .next (u.trapEnter x (0x20 + k) (s.rf (Off.evSel x k) 0 10) q.pc)) ∧
    (¬ asks 8 → (∀ k < 8, ¬ slot k) → exec (.interruptEntry x) s = .next s)) ∧
  (∀ (c : Cl) (ecc : Ecc) (mc : Option Micro) (s : State),
    let q := s.sq c
    let m := Tbl.get sramZero q.sram q.pc
    let i := Instr.fetchException ⟨c.val, by omega⟩ ecc mc
    let v := if ecc = .corrected then s.corrected c (2 * q.pc) else s
    let raise (u : State) (cause info : Nat) : State := u.exception c cause info q.pc mc
    (s.atBoundary c = false → exec i s = .next s) ∧
    (s.atBoundary c = true →
      (32768 ≤ q.pc → exec i s = .next (raise s 0x03 0)) ∧
      (q.pc < 32768 → q.copyHolds q.pc = true → exec i s = .next s) ∧
      (q.pc < 32768 → q.copyHolds q.pc = false → (m.bad = true ∨ ecc = .uncorrectable) → exec i s = .next (raise
        ((v.setSq c { q with sram := Tbl.set sramZero q.sram q.pc { m with bad := true } }).uncorrected c (2 * q.pc))
        0x09 q.pc)) ∧
      (q.pc < 32768 → q.copyHolds q.pc = false → m.bad = false → ecc ≠ .uncorrectable →
        exec i s = .next (if opLegal c (m.w.toNat / 2 ^ 56) then v else raise v 0x01 (m.w.toNat / 2 ^ 56)))))

/-- R61, R84, R147, R343: LDV and STV address row (G[RA] + IMM) mod 2^32, and raise VPROT in the descriptor region. Vector memory answers no request while it recalibrates (R416). The end
of an LDV raises VUE for an uncorrectable row, else loads the half that H selects. The end of an STV waits for an
implicit-fill slot, is counted once while it waits, raises VUE where the row's word is uncorrectable, else stores G[RD] into
its 4 bytes and leaves every other byte of vector memory as it was. -/
def Obligations.LoadsAndStores : Prop :=
  (∀ (x : Sq) (w : BitVec 56) (mc : Option Micro) (store : Bool) (s : State),
    let u := s.began x mc
    let q := u.sq x
    let row := ((q.gr (ifld w 48 4)).toNat + ifld w 0 32) % 2 ^ 32
    let i := if store then Instr.stv x w mc else Instr.ldv x w mc
    s.runs i = true → exec i s = .next (
      if 0xFFC00000 ≤ row then s.raises x mc 0x05 row
      else s.stays x mc (u.setSq x { q with
        wait := .access store (ifld w 52 4) row (w.getLsbD 47) false, readyAt := u.now + 2 }))) ∧
  (∀ (x : Sq) (ecc : Ecc) (s : State), ((s.sq x).readyAt > s.now ∨ s.vmWait = true) →
    exec (.vmemAccessDone x ecc) s = .next s) ∧
  (∀ (x : Sq) (ecc : Ecc) (rd row : Nat) (hi waited : Bool) (s : State),
    (s.sq x).wait = .access false rd row hi waited → (s.sq x).readyAt ≤ s.now → s.vmWait = false →
    let u := s.rowSeen row ecc
    exec (.vmemAccessDone x ecc) s = .next (
      if (s.rowRead row ecc).ue then u.exception x 0x06 row (s.sq x).pc
      else (u.setSq x ((u.sq x).setG rd (rowHalf (s.rowRead row ecc).data hi))).retire x ((s.sq x).pc + 1) 1)) ∧
  (∀ (x : Sq) (ecc : Ecc) (rd row : Nat) (hi waited : Bool) (s : State),
    (s.sq x).wait = .access true rd row hi waited → (s.sq x).readyAt ≤ s.now → s.vmWait = false →
    let q := s.sq x
    let be : BitVec 8 := if hi then 0xF0 else 0x0F
    (s.writeEnd row be ecc = .waits → waited = true → exec (.vmemAccessDone x ecc) s = .next s) ∧
    (s.writeEnd row be ecc = .waits → waited = false → exec (.vmemAccessDone x ecc) s =
      .next ((s.setSq x { q with wait := .access true rd row hi true }).count Off.vmTrk 0 16 1)) ∧
    (s.writeEnd row be ecc = .rejected → exec (.vmemAccessDone x ecc) s =
      .next ((((s.uncorrected memVm row).poison row).count Off.miPwstat 16 16 1).exception x 0x06 row q.pc)) ∧
    (s.writeEnd row be ecc = .stored → ∃ t : State, exec (.vmemAccessDone x ecc) s = .next (t.retire x (q.pc + 1) 1) ∧
      ∀ a, t.mem.byte a =
        if 8 * row + (if hi then 4 else 0) ≤ a ∧ a < 8 * row + (if hi then 8 else 4)
        then BitVec.ofNat 8 ((q.gr rd).toNat / 2 ^ (8 * (a % 4))) else s.mem.byte a)) ∧
  ∀ (c : Cl) (w : BitVec 56) (mc : Option Micro) (s : State),
    let u := s.began c mc
    let q := u.sq c
    let x : Sq := ⟨c.val, by omega⟩
    let row := (q.gr (ifld w 52 4)).toNat
    let dst := ifld w 32 15
    let last := dst + ifld w 0 15
    (s.runs (.ovl x w mc) = true → exec (.ovl x w mc) s = .next (
      if 32767 < last then s.raises c mc 0x08 last
      else if dst ≤ q.pc ∧ q.pc ≤ last then s.raises c mc 0x07 dst
      else if q.copy = none then (u.copyStart c row dst (last - dst + 1)).retire c (q.pc + 1) (s.cost c mc 2)
      else s.stays c mc (u.setSq c { q with wait := .ovl row dst (last - dst + 1) }))) ∧
    (s.runs (.ovlw x w mc) = true → exec (.ovlw x w mc) s = .next (
      if q.copy = none then u.retire c (q.pc + 1) (s.cost c mc 1) else s.stays c mc (u.setSq c { q with wait := .ovlw })))

/-- R72 to R74: VEC and VECR check SRC first (VSRC with SRC, or with the pot's number), then the fields that SRC reserves
(RSVBIT), then every row they would read (VPROT with the first row in the descriptor region, in issue order). Else the run of
CNT + 1 vectors waits for its setup: rows from ROW, plus G[GB] with BR, in steps of 1 or 16; one row for VECR; a pot; or the
register pair as it stands. R77: TSET. R78, R79: SITEM;
R31, R48: its masks take no effect for a site fenced in the same CCLK; R47: while an ended steep waits for its POUR_DONE,
they take effect at that of the last one. `avail` tells of the rows that have arrived, and what the checker reports of each. -/
def Obligations.VectorInstructions : Prop :=
  ∀ (c : Cl) (w : BitVec 56) (mc : Option Micro) (avail : List Arrive) (s : State),
    let u := s.began c mc
    let q := u.sq c
    let x : Sq := ⟨c.val, by omega⟩
    let src := ifld w 48 2
    let n := ifld w 32 16 + 1
    let pot := ifld w 0 8
    let base := ((if w.getLsbD 51 then (q.gr (ifld w 52 4)).toNat else 0) + ifld w 0 32) % 2 ^ 32
    let step := if w.getLsbD 50 then 16 else 1
    let bad (single : Bool) := src = 3 ∨ (src = 2 ∧ (single = false ∨ ifld w 52 4 % 2 = 1)) ∨
      (src = 1 ∧ ¬ (pot < 64 ∧ u.potEn pot = true ∧ u.potOwner pot = (false, c.val)))
    let clean (single : Bool) := offBit w (if src = 1 then [(50, 2), (8, 24)] else if src = 2 then [(50, 2), (0, 32)]
      else if single then [(50, 1)] else []) [] = none
    let go (v : VSrc) (single : Bool) (setup : Nat) : State :=
      let j : Job := { src := v, k := 0, left := n, hold := false, zeros := false, avail := avail, stalled := false,
                       once := single, ml := none }
      s.stays c mc (u.setSq c { q with readyAt := u.now + setup, wait := .issue j })
    (∀ single : Bool,
      let i := if single then Instr.vecr x w mc avail else Instr.vec x w mc avail
      s.runs i = true →
        (bad single → exec i s = .next (s.raises c mc 0x04 (if src = 1 then 1 + 256 * pot else src))) ∧
        (∀ k, ¬ bad single → ¬ clean single → offBit w (vecRsv w single) [] = some k →
          exec i s = .next (s.raises c mc 0x02 k)) ∧
        (¬ bad single → clean single → src = 1 → exec i s = .next (go (.pot pot) single 2)) ∧
        (¬ bad single → clean single → src = 2 →
          exec i s = .next (go (.one (q.gr (ifld w 52 4 + 1) ++ q.gr (ifld w 52 4))) single 1)) ∧
        (clean single → src = 0 → (∀ k < (if single then 1 else n), (base + k * step) % 2 ^ 32 < 0xFFC00000) →
          exec i s = .next (go (.mem base step) single 2)) ∧
        (∀ k < (if single then 1 else n), clean single → src = 0 → 0xFFC00000 ≤ (base + k * step) % 2 ^ 32 →
          (∀ j < k, (base + j * step) % 2 ^ 32 < 0xFFC00000) →
          exec i s = .next (s.raises c mc 0x05 ((base + k * step) % 2 ^ 32)))) ∧
    (s.runs (.tset x w mc) = true → exec (.tset x w mc) s = .next ((u.setSq c { q with
      tset := BitVec.ofNat 8 (if w.getLsbD 51 then (q.gr (ifld w 52 4)).toNat else ifld w 0 8) }).retire c (q.pc + 1) (s.cost c mc 1))) ∧
    (s.runs (.sitem x w mc) = true →
      let v : BitVec 128 := [q.quad (ifld w 0 2), q.siteFail, BitVec.ofNat 128 (2 ^ ifld w 0 7), BitVec.allOnes 128].getD
        (ifld w 48 4) 0
      let op (m : BitVec 128) : BitVec 128 := [v, m ||| v, m &&& v, m &&& ~~~v].getD (ifld w 52 2) 0
      let vm := if w.getLsbD 54 then op q.vmask else q.vmask
      let cm := if w.getLsbD 55 then op q.cmask else q.cmask
      let q' := { q with
        vmask := vm, cmask := cm, carry := false
        zero := decide (∀ k : Site, u.siteIn k c = true → (w.getLsbD 54 = true → vm.getLsbD k = false) ∧
          (w.getLsbD 55 = true → cm.getLsbD k = false)) }
      (u.steep.ended = [] →
        exec (.sitem x w mc) s = .next ((u.setSq c (u.useMasks q' vm cm)).retire c (q.pc + 1) (s.cost c mc 2)) ∧
        (u.useMasks q' vm cm).vmask = vm ∧ (u.useMasks q' vm cm).cmask = cm ∧
        ∀ k : Site, (u.useMasks q' vm cm).vUse.getLsbD k =
            (if (u.st k).fencedAt = some u.now then q.vUse else vm).getLsbD k ∧
          (u.useMasks q' vm cm).cUse.getLsbD k = (if (u.st k).fencedAt = some u.now then q.cUse else cm).getLsbD k) ∧
      (∀ l a t, u.steep.ended = l ++ [(a, t)] →
        exec (.sitem x w mc) s = .next ((u.setSq c { q' with due := q.due ++ [(a, vm, cm)] }).retire c (q.pc + 1)
          (s.cost c mc 2))))

/-- R94: MLOOP clears MATCH; with a limit of 0 it issues nothing, a block that meets the descriptor region raises
VPROT, else its first pass waits for its setup. A pass resolves 64 CCLK after its last vector left the pins: one without a
failed compare sets MATCH and G[GT] and ends the loop, at once or after the pass that is being issued; the last pass of the
limit ends it too, and G[GT] is 0 once a loop has ended without a match (R63). R140 to R143: a stall ends once the row has arrived. An underrun begins where the issue stalls, the pins
idle and no gap runs yet: it is noted, and under HOLD the gap begins; under ABORT the instruction ends, the sequencer yields
with the gap of one CCLK, and a STOP that waits acts; fails of an MLOOP that ends so count for no later loop (R94). -/
def Obligations.MatchLoopsAndStalls : Prop :=
  (∀ (c : Cl) (w : BitVec 56) (mc : Option Micro) (avail : List Arrive) (s : State),
    let u := s.began c mc
    let q := u.sq c
    let i := Instr.mloop ⟨c.val, by omega⟩ w mc avail
    let gt := ifld w 44 4
    let base := ((if w.getLsbD 51 then (q.gr (ifld w 52 4)).toNat else 0) + ifld w 0 32) % 2 ^ 32
    let n := ifld w 32 12 + 1
    let q' := { q with mtch := false }
    s.runs i = true →
    (∀ k < n, 0xFFC00000 ≤ (base + k) % 2 ^ 32 → (∀ j < k, (base + j) % 2 ^ 32 < 0xFFC00000) →
      exec i s = .next (s.raises c mc 0x05 ((base + k) % 2 ^ 32))) ∧
    ((∀ k < n, (base + k) % 2 ^ 32 < 0xFFC00000) → (q.gr gt).toNat = 0 →
      exec i s = .next ((u.setSq c q').retire c (q.pc + 1) (s.cost c mc 3))) ∧
    ((∀ k < n, (base + k) % 2 ^ 32 < 0xFFC00000) → (q.gr gt).toNat ≠ 0 →
      let m : MLoop := { gt := gt, limit := (q.gr gt).toNat, base := base, cnt := n, pass := 1, done := 0, failed := [],
                         ended := [], hit := false }
      let j : Job := { src := .mem base 1, k := 0, left := n, hold := false, zeros := false, avail := avail,
                       stalled := false, once := false, ml := some m }
      exec i s = .next (s.stays c mc (u.setSq c { q' with readyAt := u.now + 2, wait := .issue j })))) ∧
  (∀ (c : Cl) (avail : List Arrive) (e : Nat) (l : List Nat) (j : Job) (m : MLoop) (s : State),
    (s.sq c).wait = .issue j → j.ml = some m → m.ended = e :: l →
    let p := m.done + 1
    let m' := { m with done := p, ended := l }
    let i := Instr.mloopPassResolve c avail
    let won := s.setSq c { (s.sq c).setG m.gt (BitVec.ofNat 32 p) with mtch := true }
    (s.now < e + 64 → exec i s = .next s) ∧
    (e + 64 ≤ s.now → p ∈ m.failed → p = m.limit → exec i s = .next (s.mlEnd c)) ∧
    (e + 64 ≤ s.now → p ∈ m.failed → p ≠ m.limit →
      exec i s = .next (s.setJob c { j with avail := avail, ml := some m' })) ∧
    (e + 64 ≤ s.now → p ∉ m.failed → (j.left = 0 ∨ j.k = 0) → exec i s = .next (won.mlEnd c)) ∧
    (e + 64 ≤ s.now → p ∉ m.failed → j.left ≠ 0 → j.k ≠ 0 →
      exec i s = .next (won.setJob c { j with ml := some { m' with hit := true } }))) ∧
  (∀ (c : Cl) (j : Job) (s : State), (s.sq c).wait = .issue j →
    (∀ avail, j.stalled = true → avail ≠ [] → (∀ p, j.src = .pot p → 0 < s.potLevel p) →
      exec (.vectorStallEnd c avail) s = .next (s.setJob c { j with stalled := false, avail := avail })) ∧
    (j.stalled = false → ∀ avail, exec (.vectorStallEnd c avail) s = .next s) ∧
    (¬ (j.stalled = true ∧ (s.cl c).idle = true ∧ (s.cl c).gapAt = none) → exec (.underrunStart c) s = .next s) ∧
    (j.stalled = true → (s.cl c).idle = true → (s.cl c).gapAt = none →
      let u := s.underrunNote c (match j.src with
        | .pot p => some p
        | _ => none)
      exec (.underrunStart c) s = .next (
        if flag (s.ap (Off.clUnderrunCtl c)) 16 then
          let v := ((u.passKill c).setSq c { (u.sq c).mlZero with wait := .none, mode := .yielded, abort := true }).unlockLoop c 8
          let t := (v.count (Off.clUnderrunGap c) 0 32 1).pieceGap c v.tstamp (v.tstamp + 4)
          if (u.sq c).stopReq then t.haltSeq c else t
        else u.setCl c { u.cl c with gapAt := some s.now }))) ∧
  (∀ (q : SeqSt) (j : Job) (m : MLoop), q.wait = .issue j → j.ml = some m → (q.mtch = false → q.mlZero = q.setG m.gt 0) ∧
    (q.mtch = true → q.mlZero = q))

/-- R68 to R70, R133: the state of a vector's code on an assigned channel: a hold vector keeps the drive state and turns a
compare into X; else the code's state under the set's map, made K or X by VMASK and X by CMASK or a MASK fail action, and K
is the previous applied state. R13: a role that may not drive turns a drive state into Z. -/
def Obligations.AppliedState : Prop :=
  ∀ (c : Cl) (i : Fin 32) (k : Site) (v : Vec) (s : State),
    let prev := (s.ch (32 * c + i)).prev
    let code := (v.row.getLsbD (2 * i.val + 1)).toNat * 2 + (v.row.getLsbD (2 * i.val)).toNat
    let smap := s.apAt v.steep (Off.tsSmap c v.tset.toNat)
    let m := fld smap (3 * code + (if flag (s.apAt v.steep (Off.clMapsel c)) i then 12 else 0)) 3
    (v.hold = true → s.vecState c i k v = (if prev.toNat < 3 then prev else 7)) ∧
    (v.hold = false → v.vmask.getLsbD k = false → s.vecState c i k v = (if m < 4 then prev else 7)) ∧
    (v.hold = false → v.vmask.getLsbD k = true → (v.cmask.getLsbD k = false ∨ s.vecMasked v k = true) → 4 ≤ m →
      s.vecState c i k v = 7) ∧
    (v.hold = false → v.vmask.getLsbD k = true → (m < 4 ∨ (v.cmask.getLsbD k = true ∧ s.vecMasked v k = false)) →
      s.vecState c i k v = (if m = 3 then prev else BitVec.ofNat 3 m)) ∧
    ∀ (n : Chan) (st : BitVec 3), s.gateState n st = (if st.toNat < 3 ∧ s.roleDrive n = false then 2 else st)

/-- R69, R75, R141, R188, R198: a vector starts 48 CCLK after its issue, or where the one before it ends if that is later;
else its chain begins anew, on a TCLK after the last. Before the CCLK of its start the command is no event; then it leaves
the FIFO, ends a gap, and reaches the capture engine and every channel of the cluster, except that an edge entry of its
timing set found lost (`ue`: found now) fences the cluster; it stays lost until it is rewritten. R341: the words of edge RAM that the
checker corrects (`fixed`) count. R75: at the end of a period without a vector behind it the pins idle. -/
def Obligations.VectorsAtThePins : Prop :=
  (∀ (c : Cl) (ue fixed : List Nat) (v : Vec) (e : Entry) (rest : List Entry) (s : State), (s.cl c).fifo = e :: rest → e.kind = .vec v →
    let due := (v.issued + 48) * 2500
    let chained := due ≤ (s.cl c).lastEnd
    let t := if chained then (s.cl c).lastEnd else max due (((s.cl c).lastEnd + 624) / 625 * 625)
    ((s.now + 1) * 2500 ≤ t → exec (.vectorApply ⟨c, ue, fixed⟩) s = .next s) ∧
    (t < (s.now + 1) * 2500 →
      let a := s.endCur c
      let b := (a.setCl c { a.cl c with
        fifo := rest, cur := some (v, t, t + a.period c v.tset.toNat v.steep), lastEnd := t + a.period c v.tset.toNat v.steep,
        idle := false, vids := (a.cl c).vids + 1, chain := if chained then (a.cl c).chain else t }).gapEnd c t
      let d := if 33554431 < b.periodRaw c v.tset.toNat v.steep then b.setRb (Off.tsErr c) 29 true else b
      exec (.vectorApply ⟨c, ue, fixed⟩) s = .next (fixed.foldl (fun u i => u.corrected (48 + c) (i % 65536)) (match ((if v.steep = d.steep.num then d.edgeLost else d.edgeGone) ++ ue).find? fun i =>
          i / 256 = 256 * c + v.tset.toNat with
        | some i => ((d.edgeKeep v.steep ue).uncorrected (48 + c) (i % 65536)).fenceCluster c [(0, Off.miStat (48 + c))]
        | none => (List.range 32).foldl (fun u i => u.chanApply c i v t (a.cl c).vids)
          (d.capVector c v t (t + a.period c v.tset.toNat v.steep) (a.cl c).vids))))) ∧
  ∀ (c : Cl) (s : State),
    let u := s.endCur c
    exec (.vectorPeriodEnd c) s = .next (
      if u.fifoEmpty c = true ∧ (u.cl c).cur = none then u.setCl c { u.cl c with idle := true } else u)

/-- R99, R164, R165, R192, R214: the oldest strobe of a channel that is due resolves. On a parked channel it counts for
nothing. A compare fails where CH or CL was UNK at E4, or anywhere from E4 to E5 for a window (UNKSTB), or its condition did not
hold: throughout the window, or at E4: CL for L, CH for H, neither for M. R23, R94: a counted fail sets SITEFAIL and takes the site's fail action, MASK (up to the POUR_DONE of the latest steep that failed) or FENCE;
inside an MLOOP it marks its pass instead. -/
def Obligations.StrobesResolve : Prop :=
  (∀ (c : Cl) (i : Fin 32) (obs : StrobeObs) (x : Strobe) (s : State),
    (s.cl c).strobes.find? (fun x => x.ch = 32 * c.val + i.val ∧ x.due ≤ s.now) = some x →
    let n := 32 * c.val + i.val
    let u := s.setCl c { s.cl c with strobes := (s.cl c).strobes.erase x }
    let cmp := (x.st = 4 ∨ x.st = 5 ∨ x.st = 6) ∧ (s.st x.site).masked s.now = false
    let last := if x.window then x.at5 else x.at4
    let unk := u.cmpIn n 0 2 x.at4 last = true ∨ u.cmpIn n 1 2 x.at4 last = true
    let pass := if x.window then obs.held else if x.st = 4 then obs.cl4 else if x.st = 5 then obs.ch4
      else !obs.ch4 && !obs.cl4
    let fail := cmp ∧ (unk ∨ pass = false)
    let t := if cmp ∧ unk then u.chFlag n 3 else u
    let d := t.strobeBits c x.vid i (decide fail) (if x.raw ∧ t.rawWantedOf c x.vid i then t.rawBits x obs else 0)
    exec (.strobeResolve c i obs) s = .next (
      if s.parkedCh n then u else if fail ∧ x.counts = true then d.countedFail c x else d)) ∧
  (∀ (c : Cl) (x : Strobe) (s : State), x.pass = 0 →
    let q := s.sq c
    let m : BitVec 128 := BitVec.ofNat 128 (2 ^ (x.site % 128))
    let u := s.setSq c { q with
      siteFail := q.siteFail ||| m, failNow := (s.now, if q.failNow.1 = s.now then q.failNow.2 ||| m else m) }
    x.site < 128 →
    (s.rf (Off.siteCtl x.site) 0 2 = 0 → s.countedFail c x = u) ∧
    (s.rf (Off.siteCtl x.site) 0 2 = 1 → s.fenced x.site = false → (s.st x.site).fencedAt ≠ some s.now →
      s.countedFail c x =
        (u.setSt x.site ((s.st x.site).maskChange s.now (some (match (s.st x.site).maskSteep with
          | some m => if x.steep < m then m else x.steep
          | none => x.steep)))).setRb (Off.siteStat x.site) 29 true) ∧
    (s.rf (Off.siteCtl x.site) 0 2 = 2 → s.countedFail c x = u.fenceSite x.site
      { cls := 3, src := 0x2000 + x.site, cause := 0, off := Off.siteStat x.site, site := some x.site, wd := false })) ∧
  ∀ (c : Cl) (x : Strobe) (j : Job) (m : MLoop) (s : State), x.pass ≠ 0 → x.pass ≠ passDead → (s.sq c).wait = .issue j →
    j.ml = some m → s.countedFail c x = s.setJob c { j with ml := some { m with failed := m.failed ++ [x.pass] } }

/-- R101 to R107, R372 to R374: RANGE, FORCE and MEAS check the channels, then the roles, then the power budget, and stop at
the first refusal with nothing filed. A RANGE is refused where the sum with it is above the budget and it raises the sum; a
FORCE where the sum is above the budget already; the refusal is a lost request where it would have been admitted without the
earlier ones of its CCLK (R34). Else the entry joins the FIFO; a MEAS makes G[RD] pending. A RANGE or FORCE waits for the
power requests of its CCLK that are decided before it (R33, R374). -/
def Obligations.PmuInstructions : Prop :=
  ∀ (c : Cl) (w : BitVec 56) (mc : Option Micro) (s : State),
    let x : Sq := ⟨c.val, by omega⟩
    let u := s.began c mc
    let q := u.sq c
    let mask := q.gr (ifld w 52 4)
    let bare (v : Word) := ∀ i < 32, v.getLsbD i = (mask.getLsbD i && (u.chSite (32 * c + i)).isNone)
    let mute (v : Word) := ∀ i < 32, v.getLsbD i = (mask.getLsbD i && !u.roleForce (32 * c + i))
    let free := ∀ i < 32, mask.getLsbD i = true → (u.chSite (32 * c + i)).isSome
    let able := ∀ i < 32, mask.getLsbD i = true → u.roleForce (32 * c + i) = true
    let lost (sum : Nat) : State := if sum - u.admNow ≤ u.budget
      then (u.count Off.wrlostB 16 16 1).setRb Off.wrlostB c true else u
    let refuse (sum : Nat) : State := s.stays c mc ((((lost sum).count Off.admStat 0 16 1).count (Off.clPmustat c) 16 16 1).exception
      c 0x0C (min 65535 ((sum + 3999) / 4000)) q.pc)
    (let i := Instr.range x w mc
     let mode := ifld w 50 2
     let ir := ifld w 47 3
     let t := u.pushEntry c (.range mask (BitVec.ofNat 2 mode) (BitVec.ofNat 3 ir)) 3
     (s.admWaits x = true → exec i s = .next { s with behind := s.behind ++ [i] }) ∧
     (s.runs i = true → s.admWaits x = false →
       (∀ v, bare v → v ≠ 0 → exec i s = .next (s.raises c mc 0x0E v.toNat)) ∧
       (∀ v, free → mode ≠ 0 → mute v → v ≠ 0 → exec i s = .next (s.raises c mc 0x0D v.toNat)) ∧
       (free → (mode = 0 ∨ able) → u.budget < t.admSum → u.admSum < t.admSum → exec i s = .next (refuse t.admSum)) ∧
       (free → (mode = 0 ∨ able) → (t.admSum ≤ u.budget ∨ t.admSum ≤ u.admSum) →
         exec i s = .next (({ t with admNow := t.admNow + (t.admSum - u.admSum) } : State).retire c (q.pc + 1)
           (s.cost c mc 3))))) ∧
    (let i := Instr.force x w mc
     let code : BitVec 18 := if w.getLsbD 51 then (q.gr (ifld w 47 4)).setWidth 18 else w.setWidth 18
     (s.admWaits x = true → exec i s = .next { s with behind := s.behind ++ [i] }) ∧
     (s.runs i = true → s.admWaits x = false →
       (∀ v, bare v → v ≠ 0 → exec i s = .next (s.raises c mc 0x0E v.toNat)) ∧
       (∀ v, free → mute v → v ≠ 0 → exec i s = .next (s.raises c mc 0x0D v.toNat)) ∧
       (free → able → u.budget < u.admSum → exec i s = .next (refuse u.admSum)) ∧
       (free → able → u.admSum ≤ u.budget →
         exec i s = .next ((u.pushEntry c (.force mask code) 3).retire c (q.pc + 1) (s.cost c mc 3))))) ∧
    (let i := Instr.meas x w mc
     let n := ifld w 41 5
     let m : Meas :=
       { ch := n, rd := ifld w 52 4, qid := if w.getLsbD 47 then some ((q.gr (ifld w 48 4)).setWidth 20) else none,
         cur := w.getLsbD 46, n := ifld w 28 12 + 1, set := ifld w 0 24, steep := u.steep.num, due := 0, sum := 0,
         count := 0, samples := [], recNo := 0, tsFirst := 0, started := 0, lost := false }
     s.runs i = true →
       (u.chSite (32 * c + n) = none → exec i s = .next (s.raises c mc 0x0E (2 ^ n))) ∧
       (∀ k, u.chSite (32 * c + n) = some k →
         exec i s = .next (((u.setSq c { q with pend := q.pend ++ [m.rd] }).pushEntry c (.meas m) 2).retire c (q.pc + 1)
           (s.cost c mc 2))))

/-- R96, R102, R104 to R106, R175, R179, R215, R272: an entry at the head of the FIFO whose turn has come leaves it. RANGE
acts on every selected channel that is not parked, leaves one whose role forbids force in FN, and counts one drop for the
entry; FORCE writes the code where no engine targets the channel and counts a drop for each engine that targets one of them. MEAS
settles for the longer of SET and the minimum of the range. An ADC with nothing in conversion starts the first MEAS that has
settled; a sample 400 CCLK after its start is corrected, summed and sent to the capture engine, and the last one writes
G[RD]. -/
def Obligations.PmuAtThePins : Prop :=
  (∀ (c : Cl) (e : Entry) (s : State), s.entryDue c = some e →
    let t := s.popEntry c
    (∀ mask (mode : BitVec 2) (ir : BitVec 3), e.kind = .range mask mode ir →
      let drop := ((List.range 32).filter fun i => mask.getLsbD i).any fun i =>
        t.parkedCh (32 * c + i) || (decide (mode ≠ 0) && !t.roleForce (32 * c + i))
      let u := if drop then t.count (Off.clPmustat c) 0 16 1 else t
      exec (.rangeApply c) s = .next (u.each (((List.range 32).filter fun i => mask.getLsbD i).map (32 * c.val + ·))
        fun n v => if v.parkedCh n then v
          else if mode ≠ 0 ∧ v.roleForce n = false then (if v.pmuMode n = 0 then v else v.pmuMove n 0 (v.pmuIr n))
          else (v.pmuMove n mode.toNat ir.toNat).pmuGate n)) ∧
    (∀ mask code, e.kind = .force mask code →
      let sel := ((List.range 32).filter fun i => mask.getLsbD i).map (32 * c.val + ·)
      let drop := sel.any fun n => t.parkedCh n || !t.roleForce n
      let u := if drop then t.count (Off.clPmustat c) 0 16 1 else t
      let hit := (List.range 16).filter fun k => u.weHolds k && sel.any fun n => (u.weChans k).contains n
      exec (.forceApply c) s = .next ((u.each hit fun k v => v.count (Off.weCnt k) 0 16 1).each sel
        fun n v => if v.parkedCh n || v.weHeld n then v
          else if v.roleForce n = false then (if v.pmuMode n = 0 then v else v.pmuMove n 0 (v.pmuIr n))
          else v.forceCode n code.toInt)) ∧
    (∀ m, e.kind = .meas m →
      let n := 32 * c.val + m.ch
      let wait := max m.set (minSettle (t.pmuMode n) (t.pmuIr n) m.cur)
      exec (.measApply c) s = .next (t.setCl c { t.cl c with
        settling := (t.cl c).settling ++ [{ m with due := t.now + wait }] }))) ∧
  (∀ (c : Cl) (s : State), s.entryDue c = none → ∀ i ∈ [Instr.rangeApply c, Instr.forceApply c, Instr.measApply c],
    exec i s = .next s) ∧
  (∀ (c : Cl) (i : Fin 32) (m : Meas) (l : List Meas) (s : State),
    (s.cl c).settling = m :: l → m.ch = i → m.due ≠ 0 → m.due ≤ s.now →
    (∀ m' ∈ l, m'.ch / 8 ≠ i / 8) → s.adcList c (i / 8) = [] →
    let t := s.setCl c { s.cl c with settling := l }
    exec (.measSettleEnd c i) s = .next (
      ((t.setAdc c (i / 8) [{ m with due := 0 }]).adcStart c (i / 8) 2).capSteepEnd c)) ∧
  (∀ (c : Cl) (k : Fin 4) (raw : Int) (m : Meas) (l : List Meas) (s : State),
    s.adcList c k = m :: l → m.qid = none →
    let code := s.adcCode (4 * c + k) raw
    let u := if calCode raw (s.calItem ((4 * c + k) / 16) (itemAdc (4 * c + k) 1))
        (s.calItem ((4 * c + k) / 16) (itemAdc (4 * c + k) 0)) = code then s
      else s.setRb (Off.chStat ((32 * c + m.ch) / 32) ((32 * c + m.ch) % 32)) 6 true
    let word := BitVec.ofNat 32 (u.pmuIr (32 * c + m.ch) * 2 ^ 24 + (if m.cur then 2 ^ 23 else 0) + m.ch * 2 ^ 18 +
      (BitVec.ofInt 18 code).toNat)
    let m' := { m with count := m.count + 1, sum := m.sum + code }
    let v := u.capSample c m' word
    (s.now < m.started + 400 → exec (.adcSampleDone c k raw) s = .next s) ∧
    (m.started + 400 ≤ s.now → m.count + 1 < m.n →
      exec (.adcSampleDone c k raw) s = .next ((v.setAdc c k ({ m' with started := v.now } :: l)).capSteepEnd c)) ∧
    (m.started + 400 ≤ s.now → m.n ≤ m.count + 1 →
      exec (.adcSampleDone c k raw) s = .next ((((v.setAdc c k l).measResult c m' (BitVec.ofInt 32 m'.sum)).adcStart c k
        (l.length + 1)).capSteepEnd c)))

/-! ### Capture and records -/

/-- R108, R199, R201, R417: CAP files its entry in one CCLK: TRIG, CLOSE, DISARM, and ARM with its list and step; an ARM of a
list that is not valid raises CAPLIST, and in bypass it files nothing. At the pins TRIG fires the CAP TRIG slots (with an
open or re-arming list it is counted), CLOSE closes the open segment with cause CLOSE, DISARM closes it and sends the list to
IDLE with SEGNUM at its last segment, and ARM does the same and arms the named list from its first segment. -/
def Obligations.CaptureCommands : Prop :=
  (∀ (c : Cl) (w : BitVec 56) (mc : Option Micro) (s : State),
    let u := s.began c mc
    let q := u.sq c
    let x : Sq := ⟨c.val, by omega⟩
    let l := ifld w 40 8
    let i := Instr.capArm x w mc
    (∀ p ∈ [(Instr.capTrig x w mc, EKind.capTrig), (.capClose x w mc, .capClose), (.capDisarm x w mc, .capDisarm)],
      s.runs p.1 = true → exec p.1 s = .next ((u.pushEntry c p.2 1).retire c (q.pc + 1) (s.cost c mc 1))) ∧
    (s.runs i = true →
      (8 ≤ l ∨ u.rb (Off.caplCfg c l) 31 = false → exec i s = .next (s.raises c mc 0x12 l)) ∧
      (l < 8 → u.rb (Off.caplCfg c l) 31 = true → exec i s = .next (
        (if u.rb Off.clkStat 30 then u else u.pushEntry c (.capArm l (w.setWidth 16)) 1).retire c (q.pc + 1) (s.cost c mc 1))))) ∧
  (∀ (c : Cl) (e : Entry) (s : State), s.entryDue c = some e →
    let t := s.popEntry c
    (e.kind = .capTrig → exec (.listTrigApply c) s = .next (t.capTrigger c 0 0 fun _ => true)) ∧
    (e.kind = .capClose → exec (.listCloseApply c) s = .next (t.closeSegment c 1 false false)) ∧
    (e.kind = .capDisarm → exec (.listDisarmApply c) s = .next (t.capDisarm c 1 false) ∧
      (∀ l, ((t.closeSegment c 1 true false).cap c).act = some l → l < 8 → (t.capDisarm c 1 false).capState c l = 0 ∧
        (t.capDisarm c 1 false).rf (Off.caplStat c l) 0 20 =
          (t.closeSegment c 1 true false).rf (Off.caplStat c l) 0 20 -
            if (t.closeSegment c 1 true false).capState c l = 1 ∨ (t.closeSegment c 1 true false).capState c l = 3 then 1
            else 0)) ∧
    (∀ l step, e.kind = .capArm l step →
      let u := t.capDisarm c 1 false
      let v := (((u.setCap c { u.cap c with
        act := some l, step := step, seg := none, piece := none, old := none, fired := [], dead := 0,
        truncAt := [] }).setRf (Off.caplStat c l) 0 20 0).capArmedNow c l).clampD c
      exec (.listArmApply c) s = .next v)) ∧
  (∀ (c : Cl) (s : State), s.entryDue c = none →
    ∀ i ∈ [Instr.listTrigApply c, .listCloseApply c, .listDisarmApply c, .listArmApply c], exec i s = .next s)

/-- R204: an accepted write of a list register is taken while the list is IDLE (its reserved bits read 0), and discarded with
CFGREJ and a notice otherwise. R229: CAP_GOV is taken at once unless HIGH is 0 or LOW is not below it; D then moves into its
bounds. R202: a list that has re-armed is ARMED again with the time from the close as its dead time. R220: under pressure
that has lasted 800 CCLK since the last rise, D rises. R205, R206: what a condition does at the active list of an engine:
each slot that it meets, in order, fires once where the list is ARMED and is counted in MISSCNT where it is OPEN or
re-arming. Nothing else changes, and with no active list nothing at all. -/
def Obligations.CaptureGovernor : Prop :=
  ((∀ (p : Party) (c : Cl) (l : Fin 8) (k : Fin 12) (v : Word) (s : State), s.accepts p .pf0 (Off.caplCfg c l + 4 * k) = true →
    let u := s.took p .pf0 (Off.caplCfg c l + 4 * k)
    let keep : Word := if k.val = 0 then 0xFF0FFFFF else if k.val = 1 then 0xFFFFFF else if k.val = 2 then 0xFFFFFFFF
      else if k.val = 3 then 0xF00FFFFF else 0xF00003FF
    exec (.caplConfigWrite p c l k v) s = .next (
      if u.capState c l = 0 then u.setRg (Off.caplCfg c l + 4 * k) (v &&& keep)
      else (u.setRb (Off.caplStat c l) 28 true).notice c 0 (Off.caplStat c l))) ∧
  (∀ (p : Party) (c : Cl) (v : Word) (s : State), s.accepts p .pf0 (Off.capGov c) = true →
    let u := s.took p .pf0 (Off.capGov c)
    let low := fld v 0 8
    let high := fld v 8 8
    exec (.capGovWrite p c v) s = .next (
      if high = 0 ∨ high ≤ low then u.notice c 0 (Off.capGov c)
      else ((u.setRg (Off.capGov c) (v &&& 0xFFFFF)).clampD c).capTouch c)) ∧
  (∀ (c : Cl) (l : Nat) (s : State), (s.cap c).act = some l →
    (s.capState c l = 3 → exec (.rearmComplete c) s = .next ((s.setCap c { s.cap c with
      dead := if (s.cap c).closedAt ≤ s.tstamp then (s.tstamp - (s.cap c).closedAt).toNat else 0, fired := [] }).capArmedNow c l)) ∧
    (s.capState c l ≠ 3 → exec (.rearmComplete c) s = .next s)) ∧
  (∀ (c : Cl) (s : State),
    (∀ t, (s.cap c).pressAt = some t → s.pressed c = true → t + 800 ≤ s.now → exec (.govRise c) s = .next (s.govRise c)) ∧
    (∀ t, (s.cap c).pressAt = some t → s.now < t + 800 → exec (.govRise c) s = .next s) ∧
    ((s.cap c).pressAt = none → exec (.govRise c) s = .next s)) ∧
  (∀ (c : Cl) (l : Nat) (s : State), (s.cap c).act = some l →
    let u := s.setCap c { s.cap c with pressAt := some s.now }
    let d := s.capD c
    let cfg := s.rg (Off.caplCfg c l)
    let rose (v : State) := ((v.count (Off.capGovstat c) 0 16 1).govSplit c).fire (0x905 + 8 * c.val)
    (d < fld cfg 24 4 → s.govRise c = rose (u.setRf (Off.capGovstat c) 28 4 (d + 1))) ∧
    (d = fld cfg 24 4 → fld cfg 28 2 = 1 → flag cfg 30 = true → s.capFolded c = false →
      s.govRise c = rose (u.setRb (Off.capGovstat c) 27 true)))) ∧
  (∀ (c : Cl) (ty due : Nat) (sel : Nat → Bool) (s : State),
    ((s.cap c).act = none → s.capTrigger c ty due sel = s) ∧
    (∀ l, (s.cap c).act = some l →
      let hit := (List.range 8).filter fun k =>
        s.rb (Off.caplTrg c l k) 31 && decide (s.rf (Off.caplTrg c l k) 28 3 = ty) && sel (s.rf (Off.caplTrg c l k) 0 10)
      (s.capState c l ≠ 1 → s.rf (Off.caplCnt c l) 16 16 + hit.length < 2 ^ 16 → l < 8 →
        (s.capTrigger c ty due sel).rf (Off.caplCnt c l) 16 16 = s.rf (Off.caplCnt c l) 16 16 + hit.length) ∧
      (s.capState c l = 1 → ∀ k, (∃ d, (k, d) ∈ ((s.capTrigger c ty due sel).cap c).fired) ↔
        (∃ d, (k, d) ∈ (s.cap c).fired) ∨ k ∈ hit) ∧
      (s.capTrigger c ty due sel).fault = s.fault ∧ (s.capTrigger c ty due sel).seq = s.seq))


/-! ### Events, results and SEQH's instructions -/

/-- R109: EVS pulses a source of its sequencer at once, or with P = 1 through the FIFO of a cluster; its entry fires it at
the pins. R110: EVW on a slot that is not enabled raises EVTIE with those slots; else it waits from its third CCLK on: once
all or any of its slots are latched it sets EVT, clears them with CLR but for one that fires a second time in its CCLK (R111; the
firing that ends the wait is the one that is cleared: the model's reading, log 89), and ends; a timeout ends it with EVT = 0. R113: QPUSH for a site that is not its cluster's raises QSITE; else its record takes its place
among those of its cluster and waits for the queue manager. -/
def Obligations.EventInstructions : Prop :=
  (∀ (x : Sq) (w : BitVec 56) (mc : Option Micro) (s : State),
    let u := s.began x mc
    let q := u.sq x
    let src := 0x800 + 8 * x.val + ifld w 0 3
    let slots := BitVec.ofNat 8 (ifld w 32 8)
    let tmo := (if w.getLsbD 51 then q.gr (ifld w 52 4) else BitVec.ofNat 32 (ifld w 0 32)).toNat
    (s.runs (.evs x w mc) = true →
      (x.val < 16 → w.getLsbD 51 = true →
        exec (.evs x w mc) s = .next ((u.pushEntry x (.evs src) 1).retire x (q.pc + 1) (s.cost x mc 1))) ∧
      (w.getLsbD 51 = false ∨ x.val = 16 → exec (.evs x w mc) s = .next ((u.fire src).retire x (q.pc + 1) (s.cost x mc 1)))) ∧
    (s.runs (.evw x w mc) = true →
      (∀ d : BitVec 8, (∀ k < 8, d.getLsbD k = (slots.getLsbD k && !u.rb (Off.evSel x k) 31)) →
        (d ≠ 0 → exec (.evw x w mc) s = .next (s.raises x mc 0x0F d.toNat)) ∧
        (d = 0 → exec (.evw x w mc) s = .next (s.stays x mc (u.setSq x { q with
          wait := .evw slots (w.getLsbD 50) (w.getLsbD 49) (u.now + 2) tmo, readyAt := u.now + 2 }))))) ∧
    (s.runs (.qpush x w mc) = true →
      let site := ifld w 32 7
      let n := ifld w 44 4
      (x.val < 16 → u.siteIn site x = false → exec (.qpush x w mc) s = .next (s.raises x mc 0x10 site)) ∧
      (x.val = 16 ∨ u.siteIn site x = true →
        let r : Rec :=
          { tsStart := u.tstamp, tsEnd := u.tstamp, dead := 0, site := BitVec.ofNat 7 site,
            segnum := BitVec.ofNat 20 (ifld w 0 16), src := BitVec.ofNat 8 (0x10 + x), decexp := 0,
            qid := (q.gr (ifld w 48 4)).setWidth 20, flags := 0, sthr := if x.val < 16 then u.stretchOf x u.steep.num else 0,
            body := (List.range (n + 1)).flatMap fun k => wordBytes (q.gr (ifld w 52 4 + k)), steep := u.steep.num,
            closing := false, made := (u.cl x).made }
        let t := u.setSq x { q with wait := .qpush r, readyAt := u.now + 3 + n }
        exec (.qpush x w mc) s = .next (s.stays x mc
          (if x.val < 16 then t.setCl x { t.cl x with made := (t.cl x).made + 1 } else t))))) ∧
  (∀ (x : Sq) (slots : BitVec 8) (all clr : Bool) (start tmo : Nat) (s : State),
    (s.sq x).wait = .evw slots all clr start tmo →
    let q := s.sq x
    let hit := slots &&& (s.rg (Off.evLatch x)).setWidth 8
    let holds := if all then hit = slots else hit ≠ 0
    (¬ holds → tmo ≠ 0 → start + tmo ≤ s.now →
      exec (.evwTimeout x) s = .next ((s.setSq x { q with evt := false }).retire x (q.pc + 1) 1)) ∧
    (holds ∨ tmo = 0 ∨ s.now < start + tmo → exec (.evwTimeout x) s = .next s) ∧
    (holds → q.mode = .running → q.readyAt ≤ s.now →
      let t := s.setSq x { q with evt := true }
      s.waitTick x = (if clr then t.setRg (Off.evLatch x) (s.rg (Off.evLatch x) &&&
          ~~~(hit.setWidth 32 &&& ~~~s.againNow (Off.evLatch x))) else t).retire x
        (q.pc + 1) (if q.readyAt = s.now then 0 else 1))) ∧
  (∀ (c : Cl) (e : Entry) (s : State), s.entryDue c = some e → ∀ src, e.kind = .evs src →
    exec (.evsEntryApply c) s = .next ((s.popEntry c).fire src))

/-- R122, R123: RDR and WRR on an offset (with bits [1:0] cleared) that no register has raise REGPROT with it; else they wait
for the access, which reads into G[RD] or writes, and retire. WAITC waits IMM, or G[GA], CCLK from the next one. R438, R439:
CPX waits while a transfer runs, in safe state and while vector memory answers nothing; a descriptor row that cannot be read
raises VUE; an invalid descriptor and a write of the card flash without FLWEN end at once with ERR 1 or 2 in W4; a read starts
its transfer, and one of code 0 waits while the flash is busy. Its end stores the bytes, writes W4 and retires the CPX. R434,
R437: a line that is fetched well is the newest; one whose CRC differs twice is bad. Polls come 10 µs apart; one that finds the
device ready ends the operation, and busy ones from the first on for 5 ms time it out, so that a save that runs fails. -/
def Obligations.CardPort : Prop :=
  (∀ (w : BitVec 56) (mc : Option Micro) (s : State),
    let u := s.began 16 mc
    let q := u.sq 16
    let off := (q.gr (ifld w 48 4) + BitVec.ofNat 32 (ifld w 0 32)).toNat / 4 * 4
    let wait (w : Wait) (at_ : Nat) : State := u.setSq 16 { q with wait := w, readyAt := at_ }
    (∀ i ∈ [Instr.rdr w mc, .wrr w mc], s.runs i = true → Space.mapped .pf0 off = false →
      exec i s = .next (s.raises 16 mc 0x14 off)) ∧
    (Space.mapped .pf0 off = true →
      (s.runs (.rdr w mc) = true → exec (.rdr w mc) s = .next (s.stays 16 mc <| wait (.regRead (ifld w 52 4) off) (u.now + 2))) ∧
      (s.runs (.wrr w mc) = true →
        exec (.wrr w mc) s = .next (s.stays 16 mc <| wait (.regWrite off (q.gr (ifld w 52 4))) (u.now + 2)))) ∧
    (s.runs (.waitc w mc) = true →
      let n := (if w.getLsbD 51 then q.gr (ifld w 52 4) else BitVec.ofNat 32 (ifld w 0 32)).toNat
      exec (.waitc w mc) s = .next (s.stays 16 mc <| wait (.waitc (u.now + 1 + n)) (u.now + 1)))) ∧
  (∀ s : State,
    let q := s.sq 16
    (∀ due, q.wait = .waitc due →
      exec .waitcExpiry s = .next (if due ≤ s.now then s.retire 16 (q.pc + 1) 0 else s)) ∧
    (s.readWaits .seqh .regAccessDone = true →
      exec .regAccessDone s = .next (s.putBehind .regAccessDone)) ∧
    (∀ off v, q.wait = .regWrite off v → q.readyAt ≤ s.now → s.readWaits .seqh .regAccessDone = false →
      exec .regAccessDone s = .next ((s.regWrite .seqh .pf0 off v).retire 16 (q.pc + 1) 0)) ∧
    (∀ rd off v t, q.wait = .regRead rd off → q.readyAt ≤ s.now → s.readWaits .seqh .regAccessDone = false → s.readReg .seqh .pf0 off = (t, .data v) →
      exec .regAccessDone s = .next ((t.setSq 16 ((t.sq 16).setG rd v)).retire 16 (q.pc + 1) 0))) ∧
  (∀ (w : BitVec 56) (mc : Option Micro) (ecc : List Ecc) (s : State), s.runs (.cpx w mc ecc) = true →
    let u := s.began 16 mc
    let q := u.sq 16
    let row := (q.gr (ifld w 48 4)).toNat
    let i := Instr.cpx w mc ecc
    (u.safe = true → exec i s = .next (s.stays 16 mc (u.setSq 16 { q with wait := .cpx row }))) ∧
    (u.safe = false → (u.cp.xfer.isSome = true ∨ u.vmWait = true) →
      exec i s = .next (s.stays 16 mc (u.setSq 16 { q with wait := .pend }))) ∧
    (u.safe = false → u.cp.xfer = none → u.vmWait = false → ∀ t bad, u.cpRows row ecc 3 = (t, some bad) →
      exec i s = .next (s.stays 16 mc (t.exception 16 0x06 bad q.pc))) ∧
    (u.safe = false → u.cp.xfer = none → u.vmWait = false → ∀ t, u.cpRows row ecc 3 = (t, none) →
      let w0 := rowHalf (t.mem.row (row % rowCount)) false
      let mid := t.mem.row ((row + 1) % rowCount)
      let w2 := rowHalf mid false
      let err := descErr w0 w2 (flag (t.sg Off.cpCfg) 0)
      (err ≠ 0 → exec i s = .next ((t.writeW4 row err 0).retire 16 (q.pc + 1) (s.cost 16 mc 1))) ∧
      (err = 0 → flag w0 27 = false → flag w0 26 = false →
        let v := if fld w0 28 4 = 0 then t.contEnd else t
        let x : Xfer :=
          { row := row, dev := fld w0 28 4, write := false, poll := false, tmo := false, ended := false, len := fld w2 0 13,
            buf := (rowHalf mid true).toNat, w0 := w0 }
        let z := State.cpBusy { v with cp := { v.cp with xfer := some x, polls := v.cp.polls ++ [] } }
        exec i s = .next (s.stays 16 mc (z.setSq 16 { z.sq 16 with wait := .cpx row }))))) ∧
  (∀ (data : List Byte) (x : Xfer) (s : State), s.cp.xfer = some x →
    (s.xferWaits x = true → ∀ tmo, exec (.cpTransferDone data tmo) s = .next s) ∧
    (x.write = false → x.poll = false → x.tmo = false → s.xferWaits x = false → s.vmWait = false →
      s.slotsFor ((List.range ((x.len + 7) / 8)).map fun i => (x.buf + i) % rowCount) = true →
      let t := (s.cpStore x.buf (padRows ((data ++ List.replicate (x.len - data.length) 0).take x.len))).writeW4 x.row 0 x.len
      let u := State.cpBusy { t with cp := { t.cp with
        xfer := none, polls := (t.cp.polls.filter fun p => decide (p.what ≠ .cpx)) ++ [] } }
      (u.retire 16 ((u.sq 16).pc + 1) 1).safe = false → (u.sq 16).wait = .cpx x.row →
      exec (.cpTransferDone data false) s = .next (u.retire 16 ((u.sq 16).pc + 1) 1))) ∧
  (∀ (data : List Row) (crc : Word) (s : State),
    (s.cpFree = true → s.fillWaits = true →
      exec (.seqhLineFill data crc) s = .next (s.lineFill ((s.sq 16).pc / 32) data crc)) ∧
    (∀ k, s.cp.want = some k → s.savePort = true → s.cal.save = none → s.lineWanted k = true →
      exec (.linePrefetch data crc) s = .next (s.lineFill k data crc)) ∧
    (∀ k, lineCrc data ≠ crc → k ∉ s.cp.retry → (s.lineFill k data crc).cp.lines = s.cp.lines ∧
      (s.lineFill k data crc).cp.bad = s.cp.bad ∧ (s.lineFill k data crc).cp.retry = k :: s.cp.retry) ∧
    (∀ k, lineCrc data ≠ crc → k ∈ s.cp.retry → (s.lineFill k data crc).cp.bad = insN k s.cp.bad ∧
      flag ((s.lineFill k data crc).rg Off.cpStat) 27 = true) ∧
    (∀ k, lineCrc data = crc → (s.lineFill k data crc).cp.lines =
      ((k, (data ++ List.replicate 32 0).take 32) :: s.cp.lines.filter fun e => e.1 ≠ k).take 16)) ∧
  (∀ s : State,
    (s.pollDue = none → ∀ busy, exec (.flashPoll busy) s = .next s) ∧
    (∀ p, s.pollDue = some p →
      let limit := p.limit.getD (s.now - 8000 + 4000000)
      exec (.flashPoll false) s = .next (s.pollEnd p) ∧
      (s.now < limit → exec (.flashPoll true) s = .next { s with cp := { s.cp with
        polls := s.cp.polls.map fun q => if q = p then { p with limit := some limit, next := s.now + 8000 } else q } }) ∧
      (limit ≤ s.now →
        let v := s.setRb Off.cpStat 28 true
        (p.what = .past → exec (.flashPoll true) s = .next (v.pollEnd p)) ∧
        (p.what = .cpx → exec (.flashPoll true) s = .next (State.pollEnd { v with cp := { v.cp with
          xfer := v.cp.xfer.map fun x => { x with tmo := true } } } p)) ∧
        (p.what = .save → (v.pollEnd p).cal.save.isSome = true →
          exec (.flashPoll true) s = .next (v.pollEnd p).saveFail))))

/-! ### Pots, vector memory, stored-data integrity -/

/-- R136, R137: POT_CFG. EN = 1 is accepted on a disabled pot whose ring has 2^10 to 2^26 rows and ends below the descriptor
region, and clears RD and WR; EN = 0 while its owner is halted, which ends what its rows held before a rewrite; else CFGREJ
is set and the pot stays.
POT_WR waits for the writes of rows before it and for the advance that a waveform engine of its CCLK makes; then it is taken on
an enabled pot where the level does not fall and fits the ring; else WRREJ is set, with a notice. R126,
R146, R147, R231, R343: BAR2. Before READY an access is unsupported, behind an earlier access of PF0 that waits it waits, and so
it does while vector memory answers no request (R416). A read of a descriptor
row aborts; one of another row gives what the row holds and leaves what such a read leaves. A write of a descriptor row is
discarded and counted; one that finds no fill slot waits, and PF0 behind it; one that meets a poisoned word is rejected and
logged with the header of its request; else the row is written. That a CCLK's advance goes first, and whether the message of a
logged error is sent, are the model's (log entries 23 and 91). -/
def Obligations.PotsAndBar2 : Prop :=
  (∀ (p : Party) (k : Fin 64) (v : Word) (s : State),
    (s.accepts p .pf0 (Off.potCfg k) = true →
      let u := s.took p .pf0 (Off.potCfg k)
      let w : Word := v &&& 0xCF1F0000
      let size := fld v 16 5
      let halted := if flag (u.rg (Off.potCfg k)) 30 then fld (u.rg (Off.weStat (fld (u.rg (Off.potCfg k)) 24 4))) 30 2 = 0
        else (u.sq (fld (u.rg (Off.potCfg k)) 24 4)).mode = .halted
      let ok := if flag (u.rg (Off.potCfg k)) 31 then flag v 31 = false ∧ halted
        else if flag v 31 then 10 ≤ size ∧ size ≤ 26 ∧ (u.rg (Off.potBase k)).toNat + 2 ^ size ≤ 0xFFC00000
        else halted
      (¬ ok → exec (.potCfgWrite p k v) s = .next (u.setRb (Off.potStat k) 28 true)) ∧
      (ok → flag v 31 = false → exec (.potCfgWrite p k v) s =
        .next ((if flag (u.rg (Off.potCfg k)) 31 then u.potForget k else u).setRg (Off.potCfg k) w)) ∧
      (ok → flag v 31 = true → exec (.potCfgWrite p k v) s =
        .next (((u.setRg (Off.potCfg k) w).setRg (Off.potRd k) 0).setRg (Off.potWr k) 0))) ∧
    (s.accepts p .pf0 (Off.potWr k) = true →
      let u := s.took p .pf0 (Off.potWr k)
      let rd := u.rg (Off.potRd k)
      let old := (u.rg (Off.potWr k) - rd).toNat
      let new := (v - rd).toNat
      let again := requeue p .pf0 (Off.potWr k) v
      let rows := u.held.any isBar2Write
      let moves := u.behind.any isBar2Write || u.waiting.any (u.advances k)
      (rows = true → exec (.potWrWrite p k v) s = .next { u with held := u.held ++ [again] }) ∧
      (rows = false → moves = true → exec (.potWrWrite p k v) s = .next (u.putBehind again)) ∧
      (rows = false → moves = false → exec (.potWrWrite p k v) s = .next (
        if flag (u.rg (Off.potCfg k)) 31 = true ∧ old ≤ new ∧ new ≤ 2 ^ fld (u.rg (Off.potCfg k)) 16 5
        then u.setRg (Off.potWr k) v
        else (u.setRb (Off.potStat k) 29 true).noticeAt (Off.potStat k))))) ∧
  (∀ (row : BitVec 32) (ecc : Ecc) (s : State),
    let r := row.toNat
    let late := s.partyHeld .pf0 || s.vmWait
    (late = true → exec (.bar2Read row ecc) s = .next { s with held := s.held ++ [.bar2Read row ecc] } ∧
      ∀ data be, exec (.bar2Write row data be ecc) s = .next { s with held := s.held ++ [.bar2Write row data be ecc] }) ∧
    (late = false → s.partyBehind .pf0 = true → exec (.bar2Read row ecc) s = .next (s.putBehind (.bar2Read row ecc)) ∧
      ∀ data be, exec (.bar2Write row data be ecc) s = .next (s.putBehind (.bar2Write row data be ecc))) ∧
    (late = false → s.partyBehind .pf0 = false → s.rst.ready = false → exec (.bar2Read row ecc) s = .next (s.answer .pf0 .unsupported) ∧
      ∀ data be, exec (.bar2Write row data be ecc) s = .next (s.answer .pf0 .unsupported)) ∧
    (late = false → s.partyBehind .pf0 = false → s.rst.ready = true → 0xFFC00000 ≤ r → exec (.bar2Read row ecc) s = .next (s.answer .pf0 .abort) ∧
      ∀ data be, exec (.bar2Write row data be ecc) s = .next ((s.count Off.qmStat2 24 8 1).irq 210)) ∧
    (late = false → s.partyBehind .pf0 = false → s.rst.ready = true → r < 0xFFC00000 →
      let d := s.rowRead r ecc
      let t := s.rowSeen r ecc
      let log (poison : Bool) (be : BitVec 8) (v : State) : State := State.fresh { v with qm := { v.qm with
        aer := v.qm.aer ++ [{ poison := poison, row := r, be := be, sent := Config.errReport v.freeCtr
                              dwords := (if be.toNat % 16 ≠ 0 then 1 else 0) + if 16 ≤ be.toNat then 1 else 0 }] } }
      let u := if d.ue then log true 0xFF t else t
      exec (.bar2Read row ecc) s = .next { u with bar2 := some (r, d.data, d.ue) } ∧
      (∀ data : Row, exec (.bar2Write row data 0 ecc) s = .next s) ∧
      (∀ (data : Row) (be : BitVec 8), be ≠ 0 →
        let v := s.potRewrite r
        let i := Instr.bar2Write row data be ecc
        (s.slotFree r = false → exec i s = .next (
          if s.retried.contains i then { v with held := v.held ++ [i], retried := v.retried.erase i }
          else ({ v with held := v.held ++ [i] } : State).count Off.vmTrk 0 16 1)) ∧
        (s.slotFree r = true → s.writeEnd r be ecc = .stored → exec i s = .next (v.writeRow r data be ecc)) ∧
        (s.slotFree r = true → be ≠ 0xFF → s.lineLive r = true → (r ∈ s.mem.bad ∨ ecc = .uncorrectable) →
          exec i s = .next (
            log false be (((v.uncorrected 82 r).poison r).count Off.miPwstat 16 16 1))))))

/-- R148: GO starts an explicit fill from BASE over LEN + 1 regions where none runs and it ends below the last 32 regions,
and else sets the reject flag. The engine takes a waiting implicit-fill region first, else the explicit fill's next, which CUR
then shows. It completes the region it works on: an implicit one is marked as initialised, an explicit one is overwritten with
the pattern from where the engine stands and loses its poison there, what was stored behind it stands (R149), and after the
last region the fill is done. R345, R346: the strainer of a memory takes its next word, notes a corrected one and reports an
uncorrectable one, and a bucket leaks one and takes up its setting when its period has passed. That a fill takes its pattern as
a region begins, and that CUR follows explicit fills only, is the model's choice (log entries 82 and 79). -/
def Obligations.FillsAndIntegrity : Prop :=
  (∀ (p : Party) (v : Word) (s : State), s.accepts p .pf0 Off.vmFillCtl = true →
    let u := s.took p .pf0 Off.vmFillCtl
    let base := u.rf Off.vmFillBase 0 15
    let last := base + u.rf Off.vmFillLen 0 15
    let t := u.setRb Off.vmFillStat 31 true
    (flag v 0 = false → exec (.fillGo p v) s = .next u) ∧
    (flag v 0 = true → (u.mem.fill.isSome = true ∨ 0x7FE0 ≤ last) →
      exec (.fillGo p v) s = .next (u.setRb Off.vmFillStat 29 true)) ∧
    (flag v 0 = true → u.mem.fill = none → last < 0x7FE0 → exec (.fillGo p v) s = .next
      (State.fillNext { t with mem := { t.mem with fill := some (base, last) } }))) ∧
  (∀ s : State,
    let start (u : State) (g : Nat) (explicit : Bool) : State := { u with mem := { u.mem with
      cur := some (g, explicit), pos := 0, curPat := s.rg Off.vmFillPatHi ++ s.rg Off.vmFillPatLo } }
    (s.mem.cur.isSome = true → s.fillNext = s) ∧
    (∀ f l, s.mem.cur = none → s.mem.slots = f :: l → s.fillNext = start s f.region false) ∧
    (∀ n last, s.mem.cur = none → s.mem.slots = [] → s.mem.fill = some (n, last) →
      s.fillNext = start (s.setRf Off.vmFillStat 0 15 n) n true) ∧
    (s.mem.slots = [] → s.mem.fill = none → s.fillNext = s)) ∧
  (∀ s : State,
    (s.vmWait = true ∨ s.mem.cur = none → exec .fillRegionComplete s = .next s) ∧
    (∀ g, s.vmWait = false → s.mem.cur = some (g, false) → exec .fillRegionComplete s =
      .next (State.fillNext { s with mem := { s.mem with
        init := insN g s.mem.init, slots := s.mem.slots.filter fun f => f.region ≠ g, cur := none } })) ∧
    (∀ g n last, s.vmWait = false → s.mem.cur = some (g, true) → s.mem.fill = some (n, last) →
      let reached (a : Nat) : Bool := decide (regionOf a = g ∧ s.mem.pos ≤ lineOf a)
      let m : MemSt := { s.mem with
        cells := s.mem.cells.filter fun c => !reached c.1
        pat := Tbl.set 0 s.mem.pat g s.mem.curPat
        bad := s.mem.bad.filter fun r => !reached (8 * r)
        pos := max s.mem.pos 16384
        cur := none
        init := insN g s.mem.init
        slots := s.mem.slots.filter fun f => f.region ≠ g }
      (n < last → exec .fillRegionComplete s =
        .next (State.fillNext { s with mem := { m with fill := some (n + 1, last) } })) ∧
      (last ≤ n → exec .fillRegionComplete s =
        .next (State.fillNext (State.setRf { s with mem := { m with fill := none } } Off.vmFillStat 30 2 1))))) ∧
  (∀ (m : Fin 101) (ecc : Ecc) (i : Nat) (lap : Bool) (s : State),
    let e := Tbl.get (0, none) s.strain m
    let from_ := e.2.getD s.now
    let u := if lap then s.setRg (Off.miLap m) (BitVec.ofNat 32 (min 0xFFFFFFFF ((s.now - from_) / 800))) else s
    let v := { u with strain := Tbl.set (0, none) u.strain m (i + 1, some (if lap then u.now else from_)) }
    s.strainNext m e.1 = some (i, lap) → v.strainBad m i = false → i ∉ v.strainLost m →
    exec (.strainerWord m ecc) s = .next (match ecc with
      | .ok => v
      | .corrected => v.corrected m i
      | .uncorrectable => (((v.strainMark m i).uncorrected m i).setRb (Off.miStat m) 29 true).notice (0x8000 + m) 2
          (Off.miStat m))) ∧
  (∀ (m : Fin 101) (s : State),
    let due := Tbl.get 0 s.leakAt m + max 1 (fld (s.ap (Off.miCfg m)) 0 16) * 800000
    let lv := s.rf (Off.miStat m) 16 8 - 1
    let u := (({ s with leakAt := Tbl.set 0 s.leakAt m due } : State).setRf (Off.miStat m) 16 8 lv).setAp (Off.miCfg m)
      (s.rg (Off.miCfg m))
    (s.now < due → exec (.bucketLeak m) s = .next s) ∧
    (due ≤ s.now → exec (.bucketLeak m) s =
      .next (if lv = 0 then { u with disarmed := u.disarmed.filter (· ≠ m.val) } else u)))

/-! ### Pins and the event fabric -/

/-- R167 to R172: comparator k of an unparked channel whose input comes to LOW or HIGH shows it, and a safety monitor's UNK
time ends; from a known level a selected edge sets its flag, pulses its source and fires the capture slots that name it; HIGH at
a safety monitor trips. On a parked channel that is watched, a selected edge of comparators 0 and 1 is a wake edge, but for the
first resolution out of UNK (R157). A monitor UNK for 10 µs trips (R168). A clamp that acts shows in CL_CLAMP and CH_STAT,
pulses its source and flags the site's records (R178), also where a trip of its CCLK has parked the channel (R455); that of an
aux output shows in AUX_STAT, as long as it acts (R297). TS_EDATA reads or writes
the entry at INDEX, which increments (R186, R187). -/
def Obligations.PinReports : Prop :=
  (∀ (n : Chan) (k : Fin 4) (new : Cmp) (s : State),
    let i := Instr.comparatorTransition n k new
    let t := s.setSide n k new
    let edge := (new = .high ∧ nbit (t.cmpCfg n k / 4 % 4) 0 = true) ∨ (new = .low ∧ nbit (t.cmpCfg n k / 4 % 4) 1 = true)
    let cl := n.val / 32
    let at_ := n.val % 32
    (new = .off → exec i s = .next s) ∧
    (new ≠ .off → t.parkedCh n = true →
      (2 ≤ k.val ∨ (t.wakes n = true ∧ new = .unk) → exec i s = .next t) ∧
      (k.val < 2 → t.wakes n = false → exec i s = .next (t.setWatch n k new)) ∧
      (k.val < 2 → t.wakes n = true → new ≠ .unk →
        let u := t.setWatch n k new
        let sees := t.watchOf n k ≠ .unk ∧ t.watchOf n k ≠ new ∧ u.cmpEn n k = true ∧ edge
        let v := ((u.setRb (Off.chCmpstat cl at_) (8 + k) true).setRb (Off.clPark cl) 2 true).fire (0x901 + 8 * cl)
        (¬ sees → exec i s = .next u) ∧
        (sees → exec i s = .next (if v.rb (Off.clPark cl) 1 then v.clUnpark cl else v)))) ∧
    (new ≠ .off → t.parkedCh n = false →
      (new = .unk ∨ t.cmpEn n k = false ∨ t.cmp n k = new ∨ t.cmp n k = .off → exec i s = .next t) ∧
      (new ≠ .unk → t.cmpEn n k = true → t.cmp n k ≠ new → t.cmp n k ≠ .off →
        let u := (t.setCmp n k new).setUnkAt n k none
        let v := if t.cmp n k ≠ .unk ∧ edge then
            ((u.setRb (Off.chCmpstat cl at_) (8 + k) true).fire (evCmp n k)).capTrigger cl 2
              (s.now * 2500 + 16 * 625) fun sel => decide (sel % 128 = at_ + 32 * k)
          else u
        exec i s = .next (if 2 ≤ k.val ∧ new = .high ∧ flag (v.ap (Off.chMoncfg cl at_)) 31 = true then v.monTrip n
          else v)))) ∧
  (∀ (n : Chan) (k : Fin 2) (t : Nat) (s : State),
    (if k = 0 then (s.ch n).unkAt.1 else (s.ch n).unkAt.2) = some t →
    exec (.unkTimeout n k) s = .next (
      if flag (s.ap (Off.chMoncfg (n.val / 32) (n.val % 32))) 31 = true ∧ t + 8000 ≤ s.now ∧ s.cmp n (2 + k) = .unk
      then (s.setUnkAt n (2 + k) none).monTrip n else s)) ∧
  (∀ (n : Chan) (acts : Bool) (s : State),
    let cl := n.val / 32
    let site (u : State) : State := match u.chSite n with
      | some k => u.flagSite k u.steep.num fClamp
      | none => u
    (s.parkedCh n = true → flag (s.setNow (Off.chStat cl (n % 32))) 31 = false →
      exec (.clampEngage (.chan n) acts) s = .next s) ∧
    (s.parkedCh n = true → flag (s.setNow (Off.chStat cl (n % 32))) 31 = true →
      exec (.clampEngage (.chan n) true) s =
        .next (site ((s.setRb (Off.chStat cl (n % 32)) 7 true).fire (0x902 + 8 * cl)))) ∧
    (s.parkedCh n = false →
      exec (.clampEngage (.chan n) false) s = .next (s.setRb (Off.clClamp cl) (n % 32) false) ∧
      (let u := ((s.setRb (Off.clClamp cl) (n % 32) true).setRb (Off.chStat cl (n % 32)) 7 true).fire (0x902 + 8 * cl)
       exec (.clampEngage (.chan n) true) s = .next (site u))) ∧
    ∀ a : Fin 16,
      let rest := s.auxClamps.filter (· ≠ a.val)
      exec (.clampEngage (.aux a) false) s = .next { s with auxClamps := rest ++ [] } ∧
      exec (.clampEngage (.aux a) true) s =
        .next (State.setRb { s with auxClamps := rest ++ [a.val] } (Off.auxStat a) 30 true)) ∧
  (∀ (p : Party) (c : Cl) (s : State), s.partyHeld p = false → s.partyBehind p = false → reaches p .pf0 = true →
    s.rst.ready = true →
    let i := s.rf (Off.tsEaddr c) 0 16
    let w := Tbl.get 0 (if s.rb (Off.tsEaddr c) 31 then s.edgeApp else s.edge) (65536 * c + i)
    exec (.tsEdataRead p c) s = .next ((s.answer p (.data w)).setRf (Off.tsEaddr c) 0 16 (i + 1))) ∧
  (∀ (p : Party) (c : Cl) (v : Word) (s : State), s.accepts p .pf0 (Off.tsEdata c) = true →
    let u := s.took p .pf0 (Off.tsEdata c)
    let i := u.rf (Off.tsEaddr c) 0 16
    let k := 65536 * c.val + i
    let keep : Word := if i % 8 = 6 then 7 else 0xFFFFFF
    let step (z : State) : State := z.setRf (Off.tsEaddr c) 0 16 (z.rf (Off.tsEaddr c) 0 16 + 1)
    exec (.tsEdataWrite p c v) s = .next (step (
      if u.rb (Off.tsEaddr c) 31 then u.setRb (Off.tsErr c) 28 true
      else if i % 8 = 7 then u
      else
        let z := u.lateNote (edgeOff k)
        State.soil { z with edge := Tbl.set 0 z.edge k (v &&& keep), edgeBad := z.edgeBad.filter (· ≠ k) } (edgeOff k))))

/-- R358 to R360: EC_CFG and EC_PROD. PF1 and the service port may write any channel; PF0 and SEQH one that is not
secured, as its owner allows, and a new owner does so from the next CCLK on; neither of them changes SEC or EXPORT, and FENCE
needs a site as owner. A rejected write is counted, with a notice; an accepted one is stored. R351: the pulses in the channels
and on their way stand as they are, and those on their way are judged as they arrive: a channel takes in a pulse of a source
that one of its producers names and enables, where EN is 1, under what is stored before the writes of that CCLK. -/
def Obligations.EventChannelWrites : Prop :=
  (∀ (p : Party) (k : Ec) (j : Fin 5) (v : Word) (s : State), s.accepts p .pf0 (Off.ecCfg k + 4 * j) = true →
    let u := s.took p .pf0 (Off.ecCfg k + 4 * j)
    let w := u.rg (Off.ecCfg k)
    let was := u.regBack.rg (Off.ecCfg k)
    let owner := fld was 20 3
    let site := fld was 0 7
    let high := p = .pf1 ∨ p = .sp
    let low := p = .pf0 ∨ p = .seqh
    let may := high ∨ (flag was 30 = false ∧ ((owner = 0 ∧ p = .pf0) ∨
      (owner = 2 ∧ (p = .seqh ∨ (p = .pf0 ∧ (u.sq 16).mode = .halted))) ∨
      (owner = 3 ∧ low ∧ (u.sq site).mode = .halted) ∨ (owner = 4 ∧ low ∧ u.enabled site = false)))
    let fits := j.val = 0 → (high ∨ fld v 29 2 = fld w 29 2) ∧ (flag v 28 = true → fld v 20 3 = 4)
    let t := u.regNote (Off.ecCfg k + 4 * j)
    exec (.ecConfigWrite p k j v) s = .next (
      if may ∧ fits then
        (if j.val = 0 then t.setRg (Off.ecCfg k) (v &&& 0xF070007F)
        else t.setRg (Off.ecProd k (j - 1)) (v &&& 0x8FFF8FFF))
      else (u.count Off.evStat 16 8 1).notice (0xE000 + k) 0 Off.evStat)) ∧
  (∀ (src hc : Nat) (near : Nat → Bool) (s : State),
    let b := s.regBack
    let t := s.inject src hc near
    ({ t with pulses := s.pulses } : State) = s ∧
    ∀ y : Pulse, y ∈ t.pulses ↔ y ∈ s.pulses ∨
      ((y.ch, y.prod) ∈ b.producers src ∧ near y.ch = true ∧ b.rb (Off.ecCfg y.ch) 31 = true ∧ y.at_ = s.now ∧ y.hc = hc ∧
        y.cfg = b.rg (Off.ecCfg y.ch)))

/-- R350: EV_SW pulses the selected software sources one CCLK later. R351, R352, R356, R357: a channel passes the pulses that
reached it in one CCLK as one, with the most hops of them: it counts, sets its flag, reaches its consumers in the next CCLK
unless secured, fences the owner's site where FENCE says so, and pulses on with one hop more. A pulse that has passed eight
channels is refused. Without one the command does nothing. R362: a pin action's hold ends at its time, and its channel follows
what is left. -/
def Obligations.EventPulsesAndPinActions : Prop :=
  (∀ (p : Party) (v : Word) (s : State), s.accepts p .pf0 Off.evSw = true →
    let u := s.took p .pf0 Off.evSw
    exec (.evSwPulse p v) s = .next { u with transit := u.transit ++ ((List.range 16).filter fun i => flag v i).map fun i =>
      { src := 0xB80 + i, hc := 0, at_ := s.now + 1, quad := none } }) ∧
  (∀ (k : Ec) (at_ : Nat) (s : State),
    let due := s.pulses.filter fun y => decide (y.ch = k.val) && decide (y.at_ < s.now)
    (due = [] → exec (.eventPass k) s = .next s) ∧
    ((∀ y ∈ due, at_ ≤ y.at_) → (∃ y ∈ due, y.at_ = at_) →
      let t := { s with pulses := s.pulses.filter fun y => !(decide (y.ch = k.val) && decide (y.at_ = at_)) }
      let live := due.filter fun y => decide (y.at_ = at_) && flag y.cfg 31
      let u := if live.any fun y => decide (8 ≤ y.hc) then
          ((t.setRb Off.evStat 31 true).setRf Off.evStat 0 10 k).notice (0xE000 + k) 1 Off.evStat
        else t
      let pass := live.filter fun y => decide (y.hc < 8)
      (pass = [] → exec (.eventPass k) s = .next u) ∧
      (∀ y l, pass = y :: l → exec (.eventPass k) s = .next (
        u.evPass k (l.foldl (fun m z => max m z.hc) y.hc) (pass.map (·.prod)).dedup.length y.cfg)))) ∧
  (∀ (k hc n : Nat) (cfg : Word) (s : State),
    let u := ((s.count (Off.ecCnt k) 0 16 1).count (Off.ecCnt k) 16 16 (n - 1)).setRb (Off.evflag (k / 32)) (k % 32) true
    let v := if flag cfg 30 = true ∧ flag cfg 29 = false then (if u.watched k then u.setRb Off.evStat 30 true else u)
      else { u with reach := u.reach ++ [k] }
    let site := fld cfg 0 7
    s.evPass k hc n cfg = (if flag cfg 28 = true ∧ fld cfg 20 3 = 4 then v.fenceSite site
      { cls := 3, src := 0xE000 + k, cause := 0, off := Off.siteStat site, site := some site, wd := false }
      else v).pulse (0xC00 + k) (hc + 1)) ∧
  (∀ (slot : Fin 64) (s : State),
    (∀ h, s.holds.find? (fun h => h.slot = slot.val ∧ h.on ∧ h.stop < 4 * s.now + 4) = some h →
      exec (.pinActionHoldEnd slot) s =
        .next (State.paDrive { s with holds := s.holds.erase h } (s.paChan slot) (h.stop * 625))) ∧
    ((∀ h ∈ s.holds, h.slot = slot.val → h.on = true → 4 * s.now + 4 ≤ h.stop) →
      exec (.pinActionHoldEnd slot) s = .next s))

/-! ### Time-interval units, waveform engines, alignment -/

/-- R252 to R266, R269: a TIU. TIU_CMD: ABORT ends a run without a record, after the edges of its CCLK (R264), and rejects a
GO beside it; GO begins a run where the configuration admits it, else it is rejected with a notice. Its other registers are
written in IDLE only. An edge that EDGE does not select, or of a comparator that is parked, in UNK or OFF, or does not make
that transition in the CCLK, is no edge of a path (R252). A shot starts on the first
prescaled start edge and stops on prescaled stop edge SCNTM1 + 1: its value is the difference of the two times, 0 with UNDER
where that is not positive, and the run has overflowed where 2^40 TCLK lie between them. A prescaled edge within 3 TCLK of the
one before it on its path sets FASTIN (R255). In signed mode a start takes the latest stop edge that stands at most WIN before
it (R260), and one in its own bin ends the shot with 0; otherwise only a stop edge in its own bin counts with it (R258); the edge
that fires the start counts on no stop path (R254). The last shot of a run ends it as its CCLK ends (R264). A shot is armed
again 16 CCLK later. A code-density test starts in IDLE and gives a width for each bin; it fails with fewer than
160 bins in use or one above 4,000 fs. -/
def Obligations.TimeIntervals : Prop :=
  (∀ (p : Party) (t : Fin 8) (v : Word) (s : State), s.accepts p .pf0 (Off.tiuCmd t) = true →
    let u := s.took p .pf0 (Off.tiuCmd t)
    let reject (z : State) : State := (z.setRb (Off.tiuStat t) 28 true).noticeAt (Off.tiuStat t)
    ∀ i ∈ [Instr.tiuGo p t v, .tiuAbort p t v], exec i s = .next (
      if flag v 1 = true ∧ u.tiuState t = 1 ∧ u.waiting.any (u.tiuEdgeComes t) = true
      then u.putBehind (requeue p .pf0 (Off.tiuCmd t) v)
      else if flag v 1 then (if flag v 0 then reject (u.tiuFinish t .abort) else u.tiuFinish t .abort)
      else if flag v 0 then (if u.tiuGoOk t then u.tiuBegin t else reject u)
      else u)) ∧
  (∀ (p : Party) (t : Fin 8) (k : Fin 6) (v : Word) (s : State),
    let off := [Off.tiuCfg t, Off.tiuStart t, Off.tiuStop t, Off.tiuN t, Off.tiuWin t, Off.tiuRoute t].getD k 0
    let keep : Word := [0xC700FFFF, 0x7FFF, 0x7FFF, 0xFFFFFF, 0xFFFF, 0x87FFFFFF].getD k 0
    s.accepts p .pf0 off = true →
    let u := s.took p .pf0 off
    exec (.tiuConfigWrite p t k v) s = .next (
      if u.tiuState t = 0 then u.setRg off (v &&& keep) else u.setRb (Off.tiuStat t) 27 true)) ∧
  (∀ (t : Fin 8) (tclk : Nat) (e : TiuEdge) (s : State),
    (s.tiuQual t false e.rising = true →
      exec (.tiuStartEdge t tclk e) s = .next (s.tiuStart t (s.tiuTime t false tclk e.bin))) ∧
    (s.tiuQual t true e.rising = true →
      exec (.tiuStopEdge t tclk e) s = .next (s.tiuStop t (s.tiuTime t true tclk e.bin))) ∧
    (s.tiuQual t false e.rising = false → exec (.tiuStartEdge t tclk e) s = .next (
      if s.tiuMoves t false then s.putBehind (.tiuStartEdge t tclk e) else s)) ∧
    (s.tiuQual t true e.rising = false → exec (.tiuStopEdge t tclk e) s = .next (
      if s.tiuMoves t true then s.putBehind (.tiuStopEdge t tclk e) else s))) ∧
  (∀ (t : Fin 8) (e : TiuTime) (s : State),
    let q := s.tu t
    let presc := prescOf (s.rf (Off.tiuCfg t) 24 3)
    let signed := s.rb (Off.tiuCfg t) 30
    let y := if e.slow then s.setTu t { q with slow := true } else s
    let near (v : State) (stop : Bool) (last : Option TiuTime) : Bool := match last with
      | some l => decide (v.edgeFs t stop e - v.edgeFs t stop l ≤ 937500)
      | none => false
    let seen (v : State) (fast : Bool) : State :=
      if fast then (v.setTu t { v.tu t with fastNow := true, fast := true }).setRb (Off.tiuStat t) 23 true else v
    (s.tiuState t ≠ 1 ∨ q.armed = false → s.tiuStart t e = s ∧ s.tiuStop t e = s) ∧
    (s.tiuState t = 1 → q.armed = true →
      (q.preA + 1 < presc → s.tiuStart t e = y.setTu t { y.tu t with preA := q.preA + 1 }) ∧
      (presc ≤ q.preA + 1 →
        let z := seen y (near y false q.lastA)
        let v := { z.tu t with preA := 0, lastA := some e }
        let u := z.setTu t { v with
          started := true, start := e, preB := 0, stops := 0, tsFirst := some (q.tsFirst.getD (z.edgeStamp t e.tclk)) }
        (q.started = true → s.tiuStart t e = z.setTu t v) ∧ (q.started = false → s.tiuStart t e = u.tiuFired t e)) ∧
      (q.started = false →
        let z := if signed then seen y (near y true q.lastB) else y
        s.tiuStop t e = z.setTu t { z.tu t with
          latest := (e.into (z.tu t).latest).take 2, lastB := if signed then some e else (z.tu t).lastB }) ∧
      (q.started = true → q.start.spot = e.spot → s.tiuStop t e = (
        if s.tiuSame t then y else if signed then y.tiuShot t e.tclk 0 true else y.tiuStopped t e)) ∧
      (q.started = true → q.start.spot ≠ e.spot → e.before q.start = false → s.tiuStop t e = y.tiuStopped t e) ∧
      (q.started = true → q.start.spot ≠ e.spot → e.before q.start = true → signed = false → s.tiuStop t e = y)) ∧
    (let last := s.tiuLatest t e
     let gap (l : TiuTime) := s.edgeFs t false e - s.edgeFs t true l
     let win := (s.rf (Off.tiuWin t) 0 16 : Int) * 312500
     (last = none → s.tiuFired t e = s) ∧
     (∀ l, last = some l → l.spot = e.spot →
       s.tiuFired t e = if signed then s.tiuShot t l.tclk 0 true else s.tiuStopped t l) ∧
     (∀ l, last = some l → l.spot ≠ e.spot → (signed = false ∨ win < gap l) → s.tiuFired t e = s) ∧
     (∀ l, last = some l → l.spot ≠ e.spot → signed = true → gap l ≤ win →
       s.tiuFired t e = s.tiuShot t l.tclk (s.edgeFs t true l - s.edgeFs t false e) false)) ∧
    (q.preB + 1 < presc → s.tiuStopped t e = s.setTu t { q with preB := q.preB + 1 }) ∧
    (presc ≤ q.preB + 1 →
      let z := seen s (near s true q.lastB)
      let u := z.setTu t { z.tu t with preB := 0, lastB := some e, stops := q.stops + 1 }
      let x := u.edgeFs t true e - u.edgeFs t false q.start
      (q.start.tclk + 2 ^ 40 ≤ e.tclk → s.tiuStopped t e = u.tiuFinish t .ovr) ∧
      (e.tclk < q.start.tclk + 2 ^ 40 → q.stops + 1 ≤ u.rf (Off.tiuCfg t) 0 16 → s.tiuStopped t e = u) ∧
      (e.tclk < q.start.tclk + 2 ^ 40 → u.rf (Off.tiuCfg t) 0 16 < q.stops + 1 → 0 < x →
        s.tiuStopped t e = u.tiuShot t e.tclk x false) ∧
      (e.tclk < q.start.tclk + 2 ^ 40 → u.rf (Off.tiuCfg t) 0 16 < q.stops + 1 → x ≤ 0 →
        s.tiuStopped t e = u.tiuShot t e.tclk 0 true)) ∧
    (∀ (x : Int) (under : Bool), s.rf (Off.tiuN t) 0 24 ≤ s.rf (Off.tiuCount t) 0 25 →
      s.tiuShot t e.tclk x under =
        s.setTu t { q with armed := false, started := false, ending := some (e.tclk, x, under) })) ∧
  (∀ (t : Fin 8) (s : State),
    let q := s.tu t
    (exec (.tiuShotArm t) s = .next (if s.tiuState t = 1 ∧ q.armed = false ∧ q.rearm ≤ s.now
      then s.setTu t { q with armed := true, started := false, preA := 0, preB := 0, stops := 0, latest := [],
                              lastA := none, lastB := none, fastNow := false } else s)) ∧
    (exec (.tiuOverflow t) s = .next (if q.started then s.tiuFinish t .ovr else s))) ∧
  (∀ (p : Party) (t : Fin 8) (v : Word) (s : State), s.accepts p .pf0 (Off.tiuCalctl t) = true →
    let u := (s.took p .pf0 (Off.tiuCalctl t)).setRg (Off.tiuCalctl t) (v &&& 2)
    exec (.tiuCalGo p t v) s = .next (
      if flag v 0 = false then u
      else if u.tiuState t = 0 then (u.setRf (Off.tiuStat t) 30 2 3).setRb (Off.tiuCalstat t) 31 true
      else u.setRb (Off.tiuCalstat t) 28 true)) ∧
  (∀ (t : Fin 8) (hits : List Nat) (s : State),
    let ws := (List.range 256).map fun b => min 65535 ((hits.getD b 0 * 312500 + 2 ^ 19) / 2 ^ 20)
    let used := (ws.filter (0 < ·)).length
    let top := ws.foldl max 0
    let c := Off.tiuCalstat t
    let z := s.setRf (Off.tiuStat t) 30 2 0
    let u := z.change c fun w => setFld (setFld (setFlag (setFlag w 31 false) 30 true) 16 9 used) 0 16 top
    (s.tiuState t ≠ 3 → exec (.tiuCalDone t hits) s = .next s) ∧
    (s.tiuState t = 3 → 160 ≤ used → top ≤ 4000 → exec (.tiuCalDone t hits) s = .next (u.setTu t { u.tu t with
      cd := some ((ws.zipIdx.filter fun e => 0 < e.1).map fun e => (e.2, e.1)) })) ∧
    (s.tiuState t = 3 → used < 160 ∨ 4000 < top →
      exec (.tiuCalDone t hits) s = .next ((u.setRb c 29 true).noticeAt c)))

/-- R273, R277 to R279: a waveform engine. WE_CTL: GO on a valid configuration arms it, with TRIG 0 it starts at once; STOP
ends it at its next update and rejects a GO beside it. Its other registers are written in IDLE only. An armed engine whose
start has come plays from 16 CCLK later; an update before its time does nothing, and one with a STOP ends the play; a stalled
engine resumes where the missing sample is there or vector memory answers for it (R416). R281 to R284: SYNC_CMD sends a pulse at the next tick and arms SYNC_IN; a
pulse that is not armed for, or comes at most 64 TCLK after the last instant, is counted. One of a measurement joins its
samples; one of a re-phase on a quiet part sets the SYNC instant 64 TCLK later, by its phase unwrapped toward MEAN, and a busy
part rejects it. -/
def Obligations.WaveAndSync : Prop :=
  (∀ (p : Party) (w : Fin 16) (v : Word) (s : State), s.accepts p .pf0 (Off.weCtl w) = true →
    let u := s.took p .pf0 (Off.weCtl w)
    let reject (z : State) : State := (z.setRb (Off.weStat w) 28 true).noticeAt (Off.weStat w)
    let stopped := if u.weState w = 0 then u else u.setWv w { u.wv w with stop := true }
    let armed := (u.setRf (Off.weStat w) 30 2 1).setRf (Off.weStat w) 16 3 (u.rf (Off.weCfg w) 20 3)
    ∀ i ∈ [Instr.weGo p w v, .weStop p w v], exec i s = .next (
      if flag v 1 then (if flag v 0 then reject stopped else stopped)
      else if flag v 0 = false then u
      else if u.weGoOk w then armed.setWv w { u.wv w with
        phase := 0x1000000, idx := 0, play := 0, potRow := [], memRow := none, hist := [], jump := false, stop := false, out := 0
        start := if u.rf (Off.weCfg w) 27 2 = 0 then some u.now else none }
      else reject u)) ∧
  (∀ (p : Party) (w : Fin 16) (k : Fin 5) (v : Word) (s : State),
    let off := [Off.weCfg w, Off.weTgt w, Off.weChmask w, Off.weRate w, Off.weStep w].getD k 0
    let keep : Word := [0xFC7FFFFF, 0x8000000F, 0xFFFFFFFF, 0xFFFFF, 0xFFFFFFFF].getD k 0
    s.accepts p .pf0 off = true →
    let u := s.took p .pf0 off
    exec (.weConfigWrite p w ⟨k.val, by omega⟩ v) s = .next (
      if u.weState w = 0 then u.setRg off (v &&& keep) else u.setRb (Off.weStat w) 23 true)) ∧
  (∀ (w : Fin 16) (s : State),
    (∀ t, (s.wv w).start = some t → s.weState w = 1 → exec (.weStart w) s =
      .next ((s.setWv w { s.wv w with start := none, nextAt := t + 16 }).setRf (Off.weStat w) 30 2 2)) ∧
    ((s.wv w).start = none ∨ s.weState w ≠ 1 → exec (.weStart w) s = .next s) ∧
    (∀ rows, s.weState w < 2 ∨ s.now < (s.wv w).nextAt → exec (.weUpdate w rows) s = .next s) ∧
    (∀ rows, 2 ≤ s.weState w → (s.wv w).nextAt ≤ s.now → (s.wv w).stop = true →
      exec (.weUpdate w rows) s = .next (s.weEnd w (s.rb (Off.weCfg w) 30))) ∧
    (∀ rows, s.weState w = 3 → (s.wv w).nextAt ≤ s.now → (s.wv w).stop = false →
      exec (.weUpdate w rows) s = .next (s.setWv w { s.wv w with
        nextAt := (s.wv w).nextAt + s.rf (Off.weRate w) 0 20 })) ∧
    (∀ rows t, s.weState w = 2 → (s.wv w).nextAt ≤ s.now → (s.wv w).stop = false → (s.wv w).phase < 0x1000000 →
      s.rb (Off.weCfg w) 31 = false → (s.wv w).hist.head? = some t →
      let u := s.setWv w { s.wv w with nextAt := (s.wv w).nextAt + s.rf (Off.weRate w) 0 20 }
      exec (.weUpdate w rows) s = .next (State.weWrite (u.setWv w { u.wv w with
        out := t, phase := (s.wv w).phase + (s.rg (Off.weStep w)).toNat }) w t.toInt)) ∧
    (let here := ∀ p, s.wePlace w = some p →
       let k := s.rf (Off.weSega w p.seg) 0 6
       if s.rb (Off.weSegb w p.seg) 31
       then (Tbl.find (s.wv w).potRow k).isSome = true ∨ (0 < s.potLevel k ∧ s.vmWait = false)
       else s.vmWait = false ∨ (p.idx % 2 = 1 ∧ ∃ x y, (s.wv w).memRow = some (s.weRow w p, x, y))
     (s.weState w = 3 → here → exec (.weSampleArrive w) s = .next (s.setRf (Off.weStat w) 30 2 2)) ∧
     (s.weState w ≠ 3 ∨ ¬ here → exec (.weSampleArrive w) s = .next s))) ∧
  (∀ (p : Party) (v : Word) (s : State), s.accepts p .pf0 Off.syncCmd = true →
    let u := s.took p .pf0 Off.syncCmd
    let sent := if flag v 1 = false then u
      else if u.rb Off.syncCfg 31 then { u with sync := { u.sync with send := true } } else u.setRb Off.syncStat 27 true
    let left := if sent.rb Off.syncCfg 30 then sent.rf Off.skCfg 24 8 + 1 else 1
    ∀ i ∈ [Instr.syncSend p v, .syncArm p v], exec i s = .next (
      if flag v 0 = false ∨ sent.rb Off.clkStat 30 = true then sent
      else State.setRb { sent with sync := { sent.sync with left := left, samples := [] } } Off.syncStat 30 true)) ∧
  (∀ (k : Fin 4) (a : Fin 625) (s : State),
    let e := 4 * s.now + k
    let i := Instr.syncPulse ⟨625 * k + a, by omega⟩
    let near := ∃ t, s.sync.lastAt = some t ∧ (e < t + 64 ∨ (e = t + 64 ∧ a.val = 0))
    let shift := unwrapPhase (2 * (s.rf Off.skStat 0 9 : Nat)) (a.val : Int) - (a.val : Int)
    let at_ := if 0 < shift then e + 63 else if shift < 0 then e + 65 else e + 64
    let t (l : Nat) := { s with sync := { s.sync with lastAt := some l } }
    (s.rb Off.syncStat 30 = false ∨ near → exec i s = .next (s.count Off.syncStat 0 8 1)) ∧
    (s.rb Off.syncStat 30 = true → ¬ near → s.rb Off.syncCfg 30 = true →
      exec i s = .next ((t (e + 64)).syncMeasure (a.val : Int))) ∧
    (s.rb Off.syncStat 30 = true → ¬ near → s.rb Off.syncCfg 30 = false → (t at_).syncQuiet = true →
      exec i s = .next (State.setRb { s with sync := { s.sync with
        lastAt := some at_, left := 0, loadAt := some ((at_ + 3) / 4), grid := (s.sync.grid + at_) % 4 } }
        Off.syncStat 30 false)) ∧
    (s.rb Off.syncStat 30 = true → ¬ near → s.rb Off.syncCfg 30 = false → (t at_).syncQuiet = false →
      exec i s = .next (((t at_).setRb Off.syncStat 27 true).noticeAt Off.syncStat)))

/-! ### Rails, site power, aux outputs, kettle -/

/-- R287 to R294, R326: a rail. VSET and VMAX are taken as the nearest valid code, with SAT where it differs, and rejected
where VSET would exceed VMAX; CFG is taken in OFF only. The confirmed enable starts the ramp; 50 µs without it is an enable
fault, an overdue ramp a ramp fault, a current limit that lasted IDLY an overcurrent trip, a voltage above VMAX an
overvoltage one, each once while it lasts. A measurement shows V and I, and a ramp down that has reached 0 V below 0.2 V starts the discharge. A
settled ramp is UP. A discharge ends after 10 µs low; 10 ms of it is reported once. An enable that reads high 2 µs after it
was driven low takes the part to F5. -/
def Obligations.Rails : Prop :=
  (∀ (p : Party) (r : Rail) (v : Word) (s : State),
    let c := signed 18 (fld v 0 18)
    let d := clampI 0 96000 c
    let w := BitVec.ofNat 32 d.toNat
    let reject (z : State) : State := (z.setRb (Off.railStat r) 20 true).notice (0x4000 + r) 0 (Off.railStat r) (z.railSite r)
    (s.accepts p .pf0 (Off.railVset r) = true →
      let u := s.took p .pf0 (Off.railVset r)
      let t := if d = c then u else u.setRb (Off.railStat r) 19 true
      let z := t.setRg (Off.railVset r) w
      exec (.railVsetWrite p r v) s = .next (
        if t.rf (Off.railVmax r) 0 18 < d.toNat then
          (t.setRb (Off.railStat r) 20 true).notice (0x4000 + r) 0 (Off.railStat r) (t.railSite r)
        else if (z.railState r = 2 ∨ z.railState r = 3) ∧ (z.rl r).target ≠ d.toNat then z.railAim r else z)) ∧
    (s.accepts p .pf0 (Off.railVmax r) = true →
      let u := s.took p .pf0 (Off.railVmax r)
      let t := if d = c then u else u.setRb (Off.railStat r) 19 true
      exec (.railVmaxWrite p r v) s = .next (
        if d.toNat < t.rf (Off.railVset r) 0 18 then
          (t.setRb (Off.railStat r) 20 true).notice (0x4000 + r) 0 (Off.railStat r) (t.railSite r)
        else t.setRg (Off.railVmax r) w)) ∧
    (s.accepts p .pf0 (Off.railCfg r) = true →
      let u := s.took p .pf0 (Off.railCfg r)
      exec (.railCfgWrite p r v) s = .next (if u.railState r = 0 then u.setRg (Off.railCfg r) (v &&& 0xFFFF3FFF)
        else reject u))) ∧
  (∀ (r : Rail) (s : State),
    let q := s.rl r
    let st := s.railState r
    let up := max 1 (s.rf (Off.railRamp r) 0 16)
    (st = 1 → s.railGrant r = true →
      let t := ((s.setRl r { q with bgrant := true, bLowAt := none, since := s.now }).setRb (Off.railStat r) 27 true).setRb
        (Off.railStat r) 28 true
      let u := t.setRf (Off.railStat r) 29 3 2
      exec (.railEnableConfirm r) s = .next (State.railAim (u.setRl r { u.rl r with acc := 0, accAt := u.now }) r)) ∧
    (st ≠ 1 ∨ s.railGrant r = false → exec (.railEnableConfirm r) s = .next s) ∧
    (exec (.railEnfail r) s = .next (if st = 1 ∧ q.since + 40000 ≤ s.now then s.railFault r 3 else s)) ∧
    (exec (.railRampfail r) s = .next (
      if st = 2 ∧ q.since + (s.rf (Off.railVset r) 0 18 * 800 + (up - 1)) / up + 800000 ≤ s.now then s.railFault r 4 else s)) ∧
    (∀ t, q.tolAt = some t → st = 2 → max t (s.railReach r) + s.rf (Off.railTime r) 16 16 ≤ s.now →
      let u := (s.railHold r).setRf (Off.railStat r) 29 3 3
      exec (.railSettled r) s = .next (State.railMoved (u.setRl r { u.rl r with since := u.now, tolAt := none }) r)) ∧
    (q.tolAt = none ∨ st ≠ 2 → exec (.railSettled r) s = .next s) ∧
    (∀ t, q.ilimAt = some t → exec (.railOcTrip r) s = .next (
      if t + s.rf (Off.railTime r) 0 16 ≤ s.now ∧ q.ocDone = false
      then (s.setRl r { q with ocDone := true }).railFault r 2 else s)) ∧
    (q.ilimAt = none → exec (.railOcTrip r) s = .next s) ∧
    (∀ t, q.lowAt = some t → st = 5 → t + 8000 ≤ s.now → exec (.railDischDone r) s =
      .next (State.railMoved ((s.setRl r { q with since := s.now, lowAt := some s.now }).setRf (Off.railStat r) 29 3 0) r)) ∧
    (exec (.railDtmo r) s = .next (if st = 5 ∧ q.since + 8000000 ≤ s.now ∧ q.dtmo = false then
        let v := (s.setRl r { q with dtmo := true }).setRf (Off.railStat r) 21 3 5
        v.f2 { cls := 2, src := 0x4000 + r, cause := 5, off := Off.railStat r, site := v.railSite r, wd := false } true
      else s))) ∧
  (∀ (r : Rail) (v i : Int) (s : State),
    let vc := clampI 0 96000 (s.railVCode r v)
    let ic := clampI (-131072) 131071 (s.railICode r i)
    let t := (s.setRg (Off.railV r) ((BitVec.ofInt 18 vc).setWidth 32)).setRg (Off.railI r) ((BitVec.ofInt 18 ic).setWidth 32)
    let lim := t.railLive r && decide (t.rf (Off.railIlim r) 0 18 ≤ ic.natAbs)
    let high := t.railLive r && decide ((t.rf (Off.railVmax r) 0 18 : Int) < vc)
    let since (b : Bool) (x : Option Nat) : Option Nat := if b then some (x.getD s.now) else none
    let u := (t.setRl r { t.rl r with
      ilimAt := since lim (t.rl r).ilimAt
      ovNow := high
      ocDone := lim && (t.rl r).ocDone
      tolAt := since (decide (t.railState r = 2) && t.railInTol r) (t.rl r).tolAt
      lowAt := if t.railState r = 0 then (t.rl r).lowAt
        else since (decide (t.railState r = 5) && t.railLow r) (t.rl r).lowAt }).setRb (Off.railStat r) 25 lim
    let z := if high = true ∧ (t.rl r).ovNow = false then u.railFault r 1 else u
    exec (.railMeasure r v i) s = .next (
      if z.railState r = 4 ∧ z.railAcc r = 0 ∧ signed 18 (z.rf (Off.railV r) 0 18) < 3200
      then (z.railDisch r).railMoved r else z)) ∧
  (∀ (e : Enable) (t : Nat) (s : State), s.lowSince e = some t →
    (s.now < t + 1600 → exec (.stuckEnable e) s = .next s) ∧
    (t + 1600 ≤ s.now →
      let ev (src off : Nat) (wd : Bool) : Ev := { cls := 5, src := src, cause := 1, off := off, site := none, wd := wd }
      (∀ r, e = .railA r →
        let z := (s.unwatch e).setRb (Off.railStat r) 28 true
        exec (.stuckEnable e) s =
          .next (z.enterF5 { ev (0x4000 + r) (Off.railStat r) false with site := z.railSite r } 1)) ∧
      (∀ r, e = .railB r →
        let z := (s.unwatch e).setRb (Off.railStat r) 27 true
        exec (.stuckEnable e) s = .next (z.enterF5 { ev (0x4000 + r) Off.wdF5 true with site := z.railSite r } 1)) ∧
      (∀ q, e = .kenA q → exec (.stuckEnable e) s = .next (((s.unwatch e).setRb (Off.kzStat q) 28 true).enterF5
        (ev (0x5000 + q) (Off.kzStat q) false) 1)) ∧
      (∀ q, e = .kenB q → exec (.stuckEnable e) s = .next (((s.unwatch e).setRb (Off.kzStat q) 27 true).enterF5
        (ev (0x5000 + q) Off.wdF5 true) 1))))

/-- R293, R295, R297 to R299: SITE_PWR. REQ = 1 is refused with the first condition that fails (1 site, 2 rails, 3 touchdown, 4
power budget), and else a site that has no request powers up, or waits until it is off; REQ = 0 ramps it down.
MODE of an aux output is taken while it is off, and AUX_CODE of a free output is taken as the nearest valid code and drives
it; a waveform engine's output discards it. R300 to R304: KZ_TH is taken in OFF only; a zone whose enables are
confirmed runs from the next update;
50 µs without it is an enable fault, a thermistor above 2 MΩ open, one below 50 Ω shorted; a stopping zone lets KEN_A fall
after its delay. R306 to R308: CONTACT and LIFT_REQ act on their edges; SETTLED follows CONTACT after TD_SETTLE CCLK; CONTACT
lost with a rail energized is an unexpected lift, which fences every enabled site. -/
def Obligations.SitePowerAndTouchdown : Prop :=
  (∀ (p : Party) (k : Site) (v : Word) (s : State), s.accepts p .pf0 (Off.sitePwr k) = true →
    let o := Off.sitePwr k
    let a := s.took p .pf0 o
    let u := a.setRg o (a.rg o &&& ~~~(v &&& 0x800 &&& ~~~a.setNow o))
    let more := 80000 * ((u.siteRails k).filter fun r => !u.railCounts r).length
    let c1 := u.enabled k = false ∨ u.fenced k = true
    let c2 := u.siteRails k = [] ∨ ∃ r ∈ u.siteRails k, u.railReady r = false
    let c3 := u.rb Off.tdStat 30 = false ∨ u.rb Off.tdStat 29 = true
    let c4 := u.budget < u.admSum + more
    let refuse (n : Nat) : State :=
      let z := (u.setRb o 11 true).setRf o 8 3 n
      (if n = 4 then z.count Off.admStat 0 16 1 else z).notice 0xF000 n o (some k)
    ∀ i ∈ [Instr.sitePowerRequest p k v, .sitePowerRelease p k v],
      (flag v 31 = true → c1 → exec i s = .next (refuse 1)) ∧
      (flag v 31 = true → ¬ c1 → c2 → exec i s = .next (refuse 2)) ∧
      (flag v 31 = true → ¬ c1 → ¬ c2 → c3 → exec i s = .next (refuse 3)) ∧
      (flag v 31 = true → ¬ c1 → ¬ c2 → ¬ c3 → c4 → exec i s = .next (refuse 4)) ∧
      (flag v 31 = true → ¬ c1 → ¬ c2 → ¬ c3 → ¬ c4 → u.rb o 31 = true → exec i s = .next u) ∧
      (flag v 31 = true → ¬ c1 → ¬ c2 → ¬ c3 → ¬ c4 → u.rb o 31 = false →
        let y := ({ u with admNow := u.admNow + more } : State).setRb o 31 true
        let z := y.setSt k { u.st k with pwrAt := some u.now }
        exec i s = .next (if z.siteOff k = true ∧ z.siteFalling k = false then (z.setPst k 1).upGroups k
          else (z.setSt k { z.st k with heldPwr := true }).enpend k)) ∧
      (flag v 31 = false →
        exec i s = .next (if u.rb o 31 = true ∨ u.siteOff k = false then u.rampDown k true else u))) ∧
  (∀ (p : Party) (a : Fin 16) (v : Word) (s : State),
    (s.accepts p .pf0 (Off.auxCfg a) = true →
      let u := s.took p .pf0 (Off.auxCfg a)
      (a.val < 4 → exec (.auxCfgWrite p a v) s = .next u) ∧
      (4 ≤ a.val →
        let live := u.rb (Off.auxCfg a) 31
        let z := (if live = false then u.setRb (Off.auxCfg a) 30 (flag v 30)
          else if flag v 30 = u.rb (Off.auxCfg a) 30 then u else u.setRb (Off.auxStat a) 28 true).setRb (Off.auxCfg a) 31
            (flag v 31)
        exec (.auxCfgWrite p a v) s = .next (if flag v 31 = false then z.setAuxOut a 0 else if live then z
          else z.auxDrive a (signed 18 (z.rf (Off.auxCode a) 0 18))))) ∧
    (s.accepts p .pf0 (Off.auxCode a) = true →
      let u := s.took p .pf0 (Off.auxCode a)
      let d := auxClamp a (signed 18 (fld v 0 18))
      let z := if d = signed 18 (fld v 0 18) then u else u.setRb (Off.auxStat a) 29 true
      (a.val < 4 → exec (.auxCodeWrite p a v) s = .next u) ∧
      (4 ≤ a.val → u.weOnAux a = true → exec (.auxCodeWrite p a v) s = .next (u.count (Off.auxStat a) 0 16 1)) ∧
      (4 ≤ a.val → u.weOnAux a = false → exec (.auxCodeWrite p a v) s =
        .next ((z.setRg (Off.auxCode a) ((BitVec.ofInt 18 d).setWidth 32)).auxDrive a d)))) ∧
  (∀ (p : Party) (q : Quad) (v : Word) (s : State),
    (s.accepts p .pf0 (Off.kzTh q) = true →
      let u := s.took p .pf0 (Off.kzTh q)
      exec (.kzThWrite p q v) s = .next (if u.kzState q = 0 then u.setRg (Off.kzTh q) (v &&& 0xFFFF1FFF) else u)) ∧
    (s.accepts p .pf0 (Off.kzCtl q) = true →
      let a := s.took p .pf0 (Off.kzCtl q)
      let u := (a.setRf (Off.kzCtl q) 0 16 (fld v 0 16)).setRb (Off.kzCtl q) 30 (flag v 30)
      let bad := u.rf (Off.kzTh q) 16 16 = 0 ∨ u.rf (Off.kzTh q) 0 13 = 0 ∨ u.rf (Off.kzOut q) 0 17 = 0 ∨
        u.rb (Off.kzStat q) 26 = true ∨ (u.f2Find (0x5000 + q)).isSome = true
      ∀ i ∈ [Instr.kzEnable p q v, .kzDisable p q v], exec i s = .next (
        if flag v 31 = false then (u.kzStop q).setRb (Off.kzStat q) 29 false
        else if bad then u.setRb (Off.kzStat q) 22 true
        else if u.kzState q = 0 then u.kzStart q
        else if u.kzState q = 3 then u.setRb (Off.kzStat q) 29 true
        else u))) ∧
  (∀ (q : Quad) (s : State),
    let z := s.kz q
    let st := s.kzState q
    (exec (.kzEnableConfirm q) s = .next (if st = 1 ∧ s.kzGrant q = true then
      ((s.setKz q { z with bgrant := true, bLowAt := none }).setRb (Off.kzStat q) 27 true).setRb (Off.kzStat q) 28 true
      else s)) ∧
    (exec (.kzEnfail q) s = .next (
      if st = 1 ∧ ¬ (z.ena = true ∧ z.bgrant = true) ∧ z.since + 40000 ≤ s.now then s.zoneFault q 4 else s)) ∧
    (∀ t, z.stopAt = some t → exec (.kzStopDelay q) s = .next (if st = 3 ∧ t ≤ s.now then s.kenLow q else s)) ∧
    (z.stopAt = none → exec (.kzStopDelay q) s = .next s) ∧
    (st ≠ 3 ∨ z.ena = true → exec (.kzOff q) s = .next s) ∧
    (st = 3 → z.ena = false →
      let u := (s.setKzState q 0).f2Done (0x5000 + q) true
      let w := u.setRb (Off.kzStat q) 29 false
      exec (.kzOff q) s = .next (
        if u.rb (Off.kzStat q) 29 = true ∧ w.rb (Off.kzStat q) 26 = false ∧ w.f2Find (0x5000 + q) = none
        then w.kzStart q else w)) ∧
    (∀ ohms,
      let w := if st = 1 ∧ z.ena = true ∧ z.bgrant = true then (s.setKz q { z with since := s.now }).setKzState q 2 else s
      let live (x : State) := x.kzState q = 1 ∨ x.kzState q = 2
      (2000000 < ohms → exec (.kzUpdate q ohms) s = .next (if live w then w.zoneFault q 2 else w)) ∧
      (ohms < 50 → exec (.kzUpdate q ohms) s = .next (if live w then w.zoneFault q 3 else w)) ∧
      (50 ≤ ohms → ohms ≤ 2000000 →
        let u := w.kzTemp q ohms
        exec (.kzUpdate q ohms) s = .next (
          if live w ∧ signed 16 (u.rf (Off.kzTmax q) 0 16) < signed 16 (u.rf (Off.kzStat q) 0 16) then u.zoneFault q 1
          else if u.kzState q = 2 then u.kzRun q else u)))) ∧
  (∀ s : State,
    let b := s.rb Off.tdStat
    (exec .contactRise s = .next (if b 31 then s
      else (State.fire ({ s with contactAt := some s.now }.setRb Off.tdStat 31 true) 0x88A).wardContact)) ∧
    (b 31 = false → exec .contactFall s = .next s) ∧
    (b 31 = true →
      let u := State.fire ({ s with contactAt := none }.setRb Off.tdStat 31 false) 0x88B
      let v := if u.rb Off.tdStat 30 then (u.setRb Off.tdStat 30 false).fire 0x88D else u
      let w := (((v.setRb Off.tdStat 27 true).count Off.tdCnt 16 16 1).fire 0x890).hist
        { cls := 3, src := 0xC000, cause := 0, off := Off.tdStat, site := none, wd := false } false
      ((∀ r < 64, v.energized r = false) → exec .contactFall s = .next v.contactLost) ∧
      ((∃ r < 64, v.energized r = true) → exec .contactFall s = .next (State.contactLost (if w.safe then w
        else w.each ((List.range 128).filter fun k => w.enabled k) fun k z => z.fenceOnly k)))) ∧
    (∀ t, s.contactAt = some t → exec .tdSettled s = .next (
      if t + (s.rg Off.tdSettle).toNat ≤ s.now ∧ b 30 = false then (s.setRb Off.tdStat 30 true).fire 0x88C else s)) ∧
    (b 29 = true → exec .liftReqRise s = .next s) ∧
    (b 29 = false →
      let u := (s.setRb Off.tdStat 29 true).count Off.tdCnt 0 16 1
      exec .liftReqRise s = .next (((u.each ((List.range 16).filter fun a => (u.auxSite a).isSome) fun a z =>
        z.setAuxOut a 0).each (List.range 128) fun k z => (z.powerUndo k 3).rampDown k true).liftOk)) ∧
    (b 29 = false → exec .liftReqFall s = .next s) ∧
    (b 29 = true →
      let u := s.setRb Off.tdStat 29 false
      exec .liftReqFall s = .next (if u.safe = true ∨ u.rb Off.tdStat 28 = false then u
        else (u.setRb Off.tdStat 28 false).fire 0x88F)))

/-! ### The warden and the fault unit -/

/-- R311 to R318, R324, R326, R328, R330, R337, R365: the warden. While its slices run, a ring message shows which of them do
and that they agree; a silent slice or a heartbeat that stays away is its safe action; slices that differ, and a gate or a copy of a site's
assignment that differs, are F5. A sample above a limit is a violation, once for each request; a thermistor of protection below its limit,
above 2 MΩ or below 50 Ω likewise. ESTOP_N is noted, and from READY on it is F4 and the safe action. Only PF1 writes a limit:
a tighter one at any time, a looser one while the rail or the zone is off or the site disabled, else the write is rejected.
100 ms after F4 the permits are removed. R321, R329, R331: FU_SAFEREQ with its key and GO takes the part to F4 in the name of
the writer; without the key CLRREJ is set. FU_F2CLR removes the F2 of the source it names once that is done, else CLRREJ is
set. FU_HCLR empties the history queue unless an entry stands in its window. -/
def Obligations.WardenAndFaultUnit : Prop :=
  ((∀ s : State,
    let ev (src cause off : Nat) : Ev := { cls := 4, src := src, cause := cause, off := off, site := none, wd := true }
    let bit (z : State) (i : Nat) (b : Bool) : State := z.setSg Off.wdStat (setFlag (z.sg Off.wdStat) i b)
    let f5 := s.sg Off.wdF5
    (s.ward.granting = false →
      ∀ i ∈ [Instr.wardenRingMessage, .sliceSilent 0, .sliceDisagree, .heartbeatTimeout 0], exec i s = .next s) ∧
    (s.ward.granting = true →
      exec .wardenRingMessage s = .next (bit (s.setSg Off.wdStat (setFld (s.sg Off.wdStat) 28 4 s.ward.alive.toNat)) 27
        (!(flag f5 31 && decide (fld f5 28 3 = 2)))) ∧
      exec .sliceDisagree s = .next ((bit s 27 false).enterF5 (ev 0xA004 2 Off.wdF5) 2) ∧
      (∀ q : Quad, s.ward.alive.getLsbD q = true → exec (.sliceSilent q) s = .next (
        (bit { s with ward := { s.ward with alive := s.ward.alive &&& ~~~(1#4 <<< q.val) } } (28 + q) false).wardenSafe
          (ev (0xA000 + q) 0 Off.wdStat))) ∧
      (∀ q : Quad, s.ward.alive.getLsbD q = false → exec (.sliceSilent q) s = .next s) ∧
      (∀ q : Quad, exec (.heartbeatTimeout q) s = .next (
        if s.steep.hbAt + 908800 < s.now ∧ flag (s.sg Off.wdStat) 26 = true then
          (bit s 26 false).wardenSafe (ev (0xA000 + q) 0 Off.wdStat) else s)) ∧
      (∀ (f : PermitPath) (n : Chan), f ≠ .railCopy →
        exec (.gateReadbackFault f n) s =
          .next (s.enterF5 { ev (0x3000 + n.val) 3 Off.wdF5 with site := s.chSite n } 3)) ∧
      (∀ n : Chan, n.val < 64 →
        exec (.gateReadbackFault .railCopy n) s =
          .next (s.enterF5 { ev (0x4000 + n.val) 3 Off.wdF5 with site := s.railSite n } 3))) ∧
    (s.ward.granting = false → ∀ (f : PermitPath) (n : Chan), exec (.gateReadbackFault f n) s = .next s) ∧
    (∀ (r : Rail) (v i : Int),
      let t := { s with ward := { s.ward with railV := Tbl.set 0 s.ward.railV r v } }
      let bad := ((t.limit (Off.wlRvmax r)).toNat : Int) < v ∨ (t.limit (Off.wlRimax r)).toNat < i.natAbs
      exec (.wardenSample r v i) s =
        .next (if bad ∧ (s.rl r).viol = false then (t.violRail r).gatesCheck else t.gatesCheck)) ∧
    (∀ (q : Quad) (ohms : Nat), exec (.wardenThprotSample q ohms) s = .next (
      if (ohms < (s.limit (Off.wlZone q)).toNat ∨ 2000000 < ohms ∨ ohms < 50) ∧ (s.kz q).viol = false
      then s.violZone q else s)) ∧
    (s.fault.estop = true → exec .estop s = .next s) ∧
    (s.fault.estop = false →
      let u := (bit { s with fault := { s.fault with estop := true } } 25 true).setRb Off.fuStat 28 true
      let w := u.enterF4 { cls := 4, src := 0xD000, cause := 0, off := Off.fuStat, site := none, wd := false }
      exec .estop s = .next (if s.rst.ready = false then u
        else (bit { w with ward := { w.ward with safeAct := true } } 23 true).wardenAll)) ∧
    (s.fault.f4 = false ∨ s.fault.swept = true ∨ s.now < s.fault.f4At + 80000000 → exec .f4PermitTimeout s = .next s) ∧
    (s.fault.f4 = true → s.fault.swept = false → s.fault.f4At + 80000000 ≤ s.now →
      exec .f4PermitTimeout s = .next s.permitSweep) ∧
    (∀ (q : Quad) second ue1 ue2, exec (.limitCopyCompare q second ue1 ue2) s = .next (s.limitCompare q second ue1 ue2)) ∧
    (∀ (q : Quad), s.ward.err1.getLsbD q = false → s.ward.err2.getLsbD q = false → ∃ t : State,
      s.limitCompare q [] true true = (t.enterF5 (ev 0xA005 4 Off.wdF5) 4).permitsCheck ∧ t.fault = s.fault ∧ t.reg = s.reg)) ∧
  (∀ (p : Party) (v : Word) (s : State),
    let reject (z : State) : State := (z.changeSg Off.wdViol fun w => satAdd w 16 8 1).pirq 4
    let store (z : State) (off : Nat) (w : Word) : State :=
      let y := z.setSg off w
      let copies := (List.range 4).foldl (fun t q => Tbl.set 0 t (lim2Key q off) w) y.ward.lim2
      State.permitsCheck { y with ward := { y.ward with lim2 := copies } }
    (∀ off : BitVec 20, s.accepts p .pf1 off.toNat = true →
      let u := s.took p .pf1 off.toNat
      let i := Instr.wardenLimitWrite p off v
      let o := off.toNat
      (p ≠ .pf1 → exec i s = .next u) ∧
      (p = .pf1 → o < 0x200 → exec i s = .next (
        if (v &&& 0x3FFFF).toNat ≤ (u.limit o).toNat ∨ u.railState (o / 8) = 0 then store u o (v &&& 0x3FFFF) else reject u)) ∧
      (p = .pf1 → 0x400 ≤ o → o < 0x410 → exec i s = .next (
        if (u.limit o).toNat ≤ (v &&& 0x1FFFFF).toNat ∨ u.kzState ((o - 0x400) / 4) = 0 then store u o (v &&& 0x1FFFFF)
        else reject u)) ∧
      (p = .pf1 → 0x800 ≤ o → o < 0xA00 → exec i s = .next (
        if v &&& 3 &&& ~~~(u.limit o) = 0 ∨ u.enabled ((o - 0x800) / 4) = false then store u o (v &&& 3) else reject u))) ∧
    (s.accepts p .pf1 Off.wlTbnd = true →
      let u := s.took p .pf1 Off.wlTbnd
      let calm := u.allRailsOff && (List.range 16).all fun c => u.clParked c
      exec (.wlTbndWrite p v) s = .next (if p ≠ .pf1 then u
        else if signed 16 (u.sf Off.wlTbnd 0 16) ≤ signed 16 (fld v 0 16) ∨ calm then u.setSg Off.wlTbnd (v &&& 0xFFFF)
        else reject u)))) ∧
  (∀ (p : Party) (v : Word) (s : State),
    (s.accepts p .pf0 Off.fuSafereq = true →
      let u := s.took p .pf0 Off.fuSafereq
      let src := match p with
        | .pf1 => 0xD003
        | .sp => 0xD002
        | _ => 0xD001
      exec (.safeRequest p v) s = .next (if fld v 16 16 ≠ 0x5AFE then u.setRb Off.fuStat 2 true
        else if flag v 0 then u.enterF4 { cls := 4, src := src, cause := 0, off := Off.fuStat, site := none, wd := false }
        else u)) ∧
    (s.accepts p .pf0 Off.fuF2clr = true →
      let u := s.took p .pf0 Off.fuF2clr
      (∀ k, u.f2Find (fld v 0 16) = some k → (Tbl.get F2.none u.fault.f2 k).done = true →
        exec (.f2Clear p v) s = .next { u with fault := { u.fault with f2 := Tbl.drop u.fault.f2 k } }) ∧
      (∀ k, u.f2Find (fld v 0 16) = some k → (Tbl.get F2.none u.fault.f2 k).done = false →
        exec (.f2Clear p v) s = .next (u.setRb Off.fuStat 2 true)) ∧
      (u.f2Find (fld v 0 16) = none → exec (.f2Clear p v) s = .next (u.setRb Off.fuStat 2 true))) ∧
    (s.accepts p .pf0 Off.fuHclr = true →
      let u := s.took p .pf0 Off.fuHclr
      exec (.historyClear p v) s = .next (if flag v 0 = true ∧ u.fault.frozen = none
        then { u with fault := { u.fault with hist := [], order := [] } } else u)))


/-! ### Temperatures and calibration -/

/-- R363 to R366, R370, R371: a power interval shows the power of each domain, its peak and their sum. An update of model A
steps its nodes from the domain powers and TBND and shows its temperatures, after a tick of its CCLK (R367), and enters F4 for
the first quadrant at 120 °C or more, else for the hottest point of the chip; in F4 or F5 only where the threshold was not
reached before. An update of model B steps its nodes and shows its temperatures; ten updates in a row more than 6 °C from model
A set DIFF and count, and where no quadrant had it an F2 is raised for the first, ten that agree clear it; at 124 °C the warden
takes its safe action, once while it is held. That a command may report a temperature in place of a node's is the model's
choice (log entry 75). -/
def Obligations.Temperatures : Prop :=
  (∀ (mw : List (BitVec 16)) (s : State), mw.length = 40 →
    ∃ t, exec (.powerInterval mw) s = .next t ∧
      (∀ k < 40, fld (t.rg (Off.pwrDom k)) 0 16 = (mw[k]?.getD 0).toNat ∧
        fld (t.rg (Off.pwrDom k)) 16 16 = max (s.rf (Off.pwrDom k) 16 16) (mw[k]?.getD 0).toNat) ∧
      ((mw.map (·.toNat)).sum < 2 ^ 16 → (t.rg Off.pwrTotal).toNat = (mw.map (·.toNat)).sum) ∧
      t.fault = s.fault ∧ t.seq = s.seq ∧ t.mem = s.mem ∧ t.ward = s.ward) ∧
  (∀ (ta : List (Option (BitVec 16))) (tmem tmax : Option (BitVec 16)) (s : State),
    let mw : List (BitVec 16) := (List.range 40).map fun k => (s.rg (Off.pwrDom k)).setWidth 16
    let nodes := (List.range 96).map fun i => Config.nodeA i s.nodesA mw (s.rg Off.thmCfg)
    let at_ (p : Nat) : BitVec 16 := hottest ((idxs 96 fun i => Config.placeA i = p).map fun i => nodes.getD i 0)
    let show_ (z : State) (q : Nat) : State := z.setRg (Off.thmTa q) (((ta.getD q none).getD (at_ q)).setWidth 32)
    let u := (show_ (show_ (show_ (show_ { s with nodesA := nodes } 0) 1) 2) 3).setRg Off.thmChip
      (tmem.getD (at_ 4) ++ tmax.getD (hottest nodes))
    let ev (off : Nat) : Ev := { cls := 4, src := 0xB000, cause := 0, off := off, site := none, wd := false }
    let i := Instr.modelAUpdate ta tmem tmax
    let late := s.waiting.any isTick
    let was := s.safe = true ∧ ((∃ q < 4, 1920 ≤ s.tgov q) ∨ 1920 ≤ temp (s.rf Off.thmChip 0 16))
    (late = true → exec i s = .next (s.putBehind i)) ∧
    (late = false → was → exec i s = .next u) ∧
    (∀ q < 4, late = false → ¬ was → 1920 ≤ u.tgov q → (∀ r < q, u.tgov r < 1920) →
      exec i s = .next (u.enterF4 (ev (Off.thmTa q)))) ∧
    (late = false → ¬ was → (∀ q < 4, u.tgov q < 1920) →
      exec i s = .next (if 1920 ≤ temp (u.rf Off.thmChip 0 16) then u.enterF4 (ev Off.thmChip) else u))) ∧
  (∀ (tb : List (Option (BitVec 16))) (s : State),
    let nodes := (List.range 24).map fun i => Config.nodeB i s.nodesB (Config.supplyB s.freeCtr) (s.sg Off.wlTbnd)
    let show_ (z : State) (q : Nat) : State := z.setRg (Off.thmTb q)
      (((tb.getD q none).getD (Config.tempB q ((nodes.drop (6 * q)).take 6))).setWidth 32)
    let v := (show_ (show_ (show_ (show_ (State.fresh { s with nodesB := nodes }) 0) 1) 2) 3).diffAll
    let hot (z : State) : Bool := (List.range 4).any fun q => decide (1984 ≤ temp (z.rf (Off.thmTb q) 0 16))
    exec (.modelBUpdate tb) s = .next (
      if hot v = true ∧ ¬ (v.ward.safeAct = true ∧ hot s = true) then
        v.wardenSafe { cls := 4, src := 0xB001, cause := 0, off := Off.wdStat, site := none, wd := true }
      else v)) ∧
  (∀ s : State,
    let v := (((s.diffStep 0).diffStep 1).diffStep 2).diffStep 3
    let set (z : State) (q : Nat) := z.rb (Off.thmQstat q) 31 = true
    ((∃ q < 4, set s q) ∨ (∀ q < 4, ¬ set v q) → s.diffAll = v) ∧
    (∀ q < 4, (∀ r < 4, ¬ set s r) → set v q → (∀ r < q, ¬ set v r) →
      s.diffAll = v.f2 { cls := 2, src := 0xB002, cause := 0, off := Off.thmQstat q, site := none, wd := false } true)) ∧
  (∀ (q : Quad) (s : State),
    let far := 96 < (temp (s.rf (Off.thmTb q) 0 16) - temp (s.rf (Off.thmTa q) 0 16)).natAbs
    let run := Tbl.get (0, 0) s.diffRun q
    let now := if far then (min 10 (run.1 + 1), 0) else (0, min 10 (run.2 + 1))
    let u := { s with diffRun := Tbl.set (0, 0) s.diffRun q now }
    (now.1 < 10 → now.2 < 10 → s.diffStep q = u) ∧
    (now.1 = 10 → s.rb (Off.thmQstat q) 31 = false →
      s.diffStep q = (u.setRb (Off.thmQstat q) 31 true).count Off.thmStat 0 16 1) ∧
    (now.2 = 10 → s.rb (Off.thmQstat q) 31 = true → s.diffStep q = u.setRb (Off.thmQstat q) 31 false))

/-- R380, R385, R387, R389, R390: CAL_UDATA and CAL_FDATA read the item at their INDEX (0 past the last one), CAL_UDATA
writes it unless a save runs, and INDEX increments. CAL_SAVE starts a save of the copy not in use; while one runs, without a
valid flash, and in safe state (where the write is discarded as R324 says) it is rejected. Each erase and program of a save
begins when the port is its own (R436), with its poll; the end of a save, read back after the last of them, makes the copy the
one in use, or fails with a notice. A background measurement starts on the path whose turn it is, and its end moves the residual out
of the path's correction, within 16 units, with a notice where it would go beyond. -/
def Obligations.CalibrationTables : Prop :=
  (∀ (p : Party) (s : State), s.partyHeld p = false → s.partyBehind p = false → reaches p .pf0 = true → s.rst.ready = true →
    let next (z : State) (o : Nat) : State := z.setRf o 0 15 (z.rf o 0 15 + 1)
    let iu := s.rf Off.calUaddr 0 15
    let if_ := s.rf Off.calFaddr 0 15
    exec (.calUdataRead p) s = .next (next (s.answer p (.data (
      if iu < itemCount then (Tbl.get 0 s.cal.utab iu).setWidth 32 else 0))) Off.calUaddr) ∧
    exec (.calFdataRead p) s = .next (next (s.answer p (.data (
      if if_ < itemCount then (s.factoryHalf if_).setWidth 32 else 0))) Off.calFaddr)) ∧
  (∀ (p : Party) (v : Word) (s : State),
    (s.accepts p .pf0 Off.calUdata = true →
      let u := s.took p .pf0 Off.calUdata
      let i := u.rf Off.calUaddr 0 15
      let w := if u.cal.save.isSome then u.setRb Off.calStat 22 true
        else if i < itemCount then
          let z := u.lateNote (userOff i)
          { z with cal := { z.cal with utab := Tbl.set 0 z.cal.utab i (v.setWidth 16) } }
        else u
      exec (.calUdataWrite p v) s = .next (w.setRf Off.calUaddr 0 15 (w.rf Off.calUaddr 0 15 + 1))) ∧
    (s.safe = false → s.accepts p .pf0 Off.calSave = true →
      let u := s.took p .pf0 Off.calSave
      let use := u.rf Off.calStat 30 2
      exec (.calSave p v) s = .next (if flag v 0 = false then u
        else if u.cal.save.isSome = true ∨ u.cp.hdr = none then u.setRb Off.calStat 24 true
        else
          let v : Save :=
            { toB := decide (use = 1), seq := if use = 0 then 1 else u.rg Off.calSeq + 1, left := saveOps, busy := false }
          (State.setRb { u with cal := { u.cal with save := some v } } Off.calStat 26 true).saveGo)) ∧
    (s.safe = true → s.rst.ready = true → s.partyHeld p = false → s.partyBehind p = false → reaches p .pf0 = true → p ≠ .sp →
      flag v 0 = true → exec (.calSave p v) s = .next ((s.count Off.fuCnt 24 8 1).setRb Off.calStat 24 true))) ∧
  (∀ s : State,
    (∀ ok, s.cal.save = none → exec (.calSaveDone ok) s = .next s) ∧
    (s.cal.save = none → s.saveGo = s) ∧
    (∀ v, s.cal.save = some v →
      let u := State.setRb { s with cal := { s.cal with save := none } } Off.calStat 26 false
      let go := 0 < v.left ∧ v.busy = false ∧ s.savePort = true
      let z := { s.contEnd with cal := { s.cal with save := some { v with busy := true } } }
      (¬ go → s.saveGo = s) ∧
      (go → s.saveGo = State.cpBusy { z with cp := { z.cp with
        polls := z.cp.polls ++ [{ dev := 0, what := .save, limit := none, next := s.now + 8000 }] } }) ∧
      (0 < v.left ∨ s.savePort = false → ∀ ok, exec (.calSaveDone ok) s = .next s) ∧
      (v.left = 0 → s.savePort = true →
        exec (.calSaveDone true) s = .next
          (((u.setRf Off.calStat 30 2 (if v.toB then 2 else 1)).setRg Off.calSeq v.seq).setRb Off.calStat 25 true) ∧
        exec (.calSaveDone false) s = .next ((u.setRb Off.calStat 24 true).noticeAt Off.calStat)))) ∧
  (∀ (c : Cl) (i : Fin 32) (strobe : Bool) (s : State),
    let go := s.rst.ready = true ∧ s.rb Off.calCtl 31 = true ∧ (s.cl c).bg = none ∧
      s.bgTurn c = some (2 * i.val + if strobe then 1 else 0)
    (go → exec (.bgCalStart c i strobe) s = .next
      ((s.setCl c { s.cl c with bg := some (i.val, strobe, s.now) }).setRb (Off.chStat c i) 30 true)) ∧
    (¬ go → exec (.bgCalStart c i strobe) s = .next s)) ∧
  (∀ (c : Cl) (r : Int) (i : Nat) (strobe : Bool) (t : Nat) (s : State), (s.cl c).bg = some (i, strobe, t) →
    (s.now < t + 400 → exec (.bgCalDone c r) s = .next s) ∧
    (t + 400 ≤ s.now →
      let n := 32 * c.val + i
      let z := s.setCl c { s.cl c with bg := none, bgNext := (2 * i + (if strobe then 1 else 0) + 1) % 64 }
      let u := if z.parkedCh n then z else z.setRb (Off.chStat c i) 30 false
      let v := signed 8 (u.rf (Off.calCstat n) (if strobe then 16 else 24) 8) - r
      let b := max (-16) (min 16 v)
      let w := u.setRf (Off.calCstat n) (if strobe then 16 else 24) 8 (unsigned 8 b)
      let y := if b = v then w else (w.setRb (Off.calCstat n) 8 true).noticeAt (Off.calCstat n) (w.chSite n)
      exec (.bgCalDone c r) s = .next (y.setCh n (if strobe then { y.ch n with stbAt := some y.now }
        else { y.ch n with drvAt := some y.now }))))

/-! ### Result queues -/

/-- R25, R28, R234, R236, R237, R239: a record that is offered. In safe state, and for a fenced or disabled site where no
capture engine offers it, it is gone; for a queue whose descriptor is lost it is dropped, for a disabled one discarded, each
counted. A record and a move wait for a QHEAD_ADV of their CCLK, whose room counts (R236). Before its steep's turn it goes to the holdover area, and a closing record so behind one of its queue; in turn, with
nothing of its queue held over, it is placed where there is room, dropped with OVF under DROP or where it closes, and else it
waits. A descriptor that was never written answers NOTINIT, which counts (R146). R30, R113, R226, R265: QPUSH retires with its
record, or raises QOFF; a MEAS, a capture engine and a TIU file their oldest; none passes an older record of its cluster and
queue, and a closing one behind an older that waits for room is dropped (R239). A record whose rows find no implicit-fill slot waits for one (R147). A move out of the holdover area does the same for
the first record that may move, as it then stands in vector memory (R245). Nothing moves while vector memory recalibrates
(R416). -/
def Obligations.RecordAcceptance : Prop :=
  (∀ (r : Rec) (ecc : Ecc) (s : State),
    let q := r.qid.toNat
    let v := s.descCache ecc
    let u := if v.lineLive (0xFFC00000 + 4 * q) then v else v.count Off.vmNotinit 0 32 1
    let gone := 16 ≤ r.src.toNat ∧ (u.fenced r.site.toNat = true ∨ u.enabled r.site.toNat = false)
    let ahead := u.qm.hold.any fun x => x.rcd.qid = r.qid
    let early := u.mayPlace r.steep = false ∨ (ahead = true ∧ r.closing = true)
    let fits (l : List Nat) := u.slotsFor l = true
    (s.safe = true → s.fileRec r ecc = s) ∧
    (s.safe = false → u.qBad q = false →
      (gone → s.fileRec r ecc = u) ∧
      (¬ gone → u.qEn q = false →
        u.fileEnd r = .off ∧ s.fileRec r ecc = ((u.count Off.qmStat 0 16 1).irq 210).noticeQ q Off.qmStat) ∧
      (¬ gone → u.qEn q = true → early → u.holdRoom r.units = true → fits (u.holdPlan r.units) →
        u.fileEnd r = .filed ∧ s.fileRec r ecc = (u.holdPut (u.flagged r)).holdStat) ∧
      (¬ gone → u.qEn q = true → early → u.holdRoom r.units = false →
        u.fileEnd r = if r.closing then .lost else .waits) ∧
      (¬ gone → u.qEn q = true → u.mayPlace r.steep = true → ahead = true → r.closing = false →
        u.fileEnd r = .waits ∧ s.fileRec r ecc = u) ∧
      (¬ gone → u.qEn q = true → u.mayPlace r.steep = true → ahead = false →
        (u.qRoom q r.units = true → fits (u.ringPlan q r.units) →
          u.fileEnd r = .filed ∧ s.fileRec r ecc = u.placeRec q r r.bytes) ∧
        (u.qRoom q r.units = false → (u.qDrop q = true ∨ r.closing = true) →
          let t := u.setQWord q 1 (setFlag (u.qWord q 1) 30 true)
          u.fileEnd r = .lost ∧ s.fileRec r ecc = ((t.count Off.qmStat 16 16 1).irq 210).noticeQ q Off.qmStat) ∧
        (u.qRoom q r.units = false → u.qDrop q = false → r.closing = false →
          u.fileEnd r = .waits ∧ s.fileRec r ecc = u))) ∧
    (s.safe = false → ¬ gone → u.qBad q = true → q ∈ u.qm.badSeen →
      (u.f2Find (0x7000 + q % 0x1000)).isSome = true → s.fileRec r ecc = (u.count Off.qmStat 16 16 1).irq 210)) ∧
  (∀ (o : Offer) (s : State),
    (s.vmWait = true → exec (.recordAccept o) s = .next s ∧ exec .holdoverMove s = .next s) ∧
    (s.vmWait = false → s.headComes = true →
      exec (.recordAccept o) s = .next (s.putBehind (.recordAccept o)) ∧
      exec .holdoverMove s = .next (s.putBehind .holdoverMove))) ∧
  (∀ (x : Sq) (o : Offer) (r₀ : Rec) (s : State), o.src = .qpush x → s.vmWait = false → s.headComes = false →
    (s.sq x).wait = .qpush r₀ →
    let q := s.sq x
    let r := s.pushFinal x r₀
    let i := Instr.recordAccept o
    let late := q.mode ≠ .running ∨ s.now < q.readyAt ∨ (x.val < 16 ∧ s.olderWaits x r₀.made r₀.qid.toNat = true)
    (late → exec i s = .next s) ∧
    (¬ late →
      (s.fileEnd r = .waits → exec i s = .next s) ∧
      (s.fileEnd r = .slot → exec i s = .next (s.slotHold i)) ∧
      (s.fileEnd r = .off →
        exec i s = .next ((s.queueUe r.qid.toNat o.desc).exception x 0x11 r.qid.toNat q.pc)) ∧
      (s.fileEnd r = .filed ∨ s.fileEnd r = .lost →
        exec i s = .next ((s.fileRec r o.desc).retire x (q.pc + 1) 0)))) ∧
  (∀ (c : Cl) (o : Offer) (s : State), s.vmWait = false → s.headComes = false →
    let i := Instr.recordAccept o
    (∀ r rest, o.src = .meas c → (s.cl c).out = r :: rest →
      (s.olderWaits c r.made r.qid.toNat = true ∨ s.fileEnd r = .waits → exec i s = .next s) ∧
      (s.olderWaits c r.made r.qid.toNat = false → s.fileEnd r = .slot → exec i s = .next (s.slotHold i)) ∧
      (s.olderWaits c r.made r.qid.toNat = false → s.fileEnd r ≠ .waits → s.fileEnd r ≠ .slot →
        exec i s = .next (State.fileRec (s.setCl c { s.cl c with out := rest }) r o.desc))) ∧
    (o.src = .meas c → (s.cl c).out = [] → exec i s = .next s) ∧
    (∀ p k, o.src = .capture c → s.capOffer c = some (p, k) →
      let r := s.pieceRec c p k
      let older := s.olderWaits c p.made r.qid.toNat
      let a := s.capWords c r o.words
      (older = true → exec i s = .next (((s.queueUe r.qid.toNat o.desc).dropRec r.qid.toNat).capFiled c k p)) ∧
      (older = false → s.fileEnd r = .waits → exec i s = .next s) ∧
      (older = false → s.fileEnd r = .slot → exec i s = .next (s.slotHold i)) ∧
      (older = false → (a.1.cap c).lost = [] → s.fileEnd r ≠ .waits → s.fileEnd r ≠ .slot →
        exec i s = .next ((a.1.fileRec a.2 o.desc).capFiled c k p))) ∧
    (o.src = .capture c → s.capOffer c = none → exec i s = .next s)) ∧
  (∀ (t : Fin 8) (o : Offer) (s : State), o.src = .tiu t → s.vmWait = false → s.headComes = false →
    let r := s.tiuRec t
    let i := Instr.recordAccept o
    (s.tiuState t ≠ 2 → exec i s = .next s) ∧
    (s.tiuState t = 2 → s.fileEnd r = .waits → exec i s = .next s) ∧
    (s.tiuState t = 2 → s.fileEnd r = .slot → exec i s = .next (s.slotHold i)) ∧
    (s.tiuState t = 2 → s.fileEnd r = .filed → exec i s = .next ((s.fileRec r o.desc).setRf (Off.tiuStat t) 30 2 0)) ∧
    (s.tiuState t = 2 → (s.fileEnd r = .off ∨ s.fileEnd r = .lost) →
      exec i s = .next (((s.fileRec r o.desc).setRb (Off.tiuStat t) 26 true).setRf (Off.tiuStat t) 30 2 0))) ∧
  (∀ s : State, s.vmWait = false → s.headComes = false →
    (s.qm.hold = [] → exec .holdoverMove s = .next s) ∧
    (∀ h rest, s.qm.hold = h :: rest → s.mayPlace h.rcd.steep = true → s.qBad h.rcd.qid.toNat = false →
      s.lineLive (0xFFC00000 + 4 * h.rcd.qid.toNat) = true →
      let q := h.rcd.qid.toNat
      let r := (s.holdRead h).1
      let rows := s.holdEcc h
      let t := State.descCache { s with qm := { s.qm with hold := rest } } .ok
      let done (z : State) : State :=
        State.holdStat { z with qm := { z.qm with moving := z.qm.hold.any fun h => z.mayPlace h.rcd.steep } }
      let n := h.rcd.units
      (s.qEn q = false → exec .holdoverMove s = .next (done ((t.offRec q).recLost r))) ∧
      (s.qEn q = true → s.qRoom q n = true → s.slotsFor (s.ringPlan q n) = true →
        exec .holdoverMove s = .next (done (((t.rowsSeen rows).freshBy rows.length).placeRec q r (s.holdRead h).2))) ∧
      (s.qEn q = true → s.qRoom q n = false → s.qDrop q = true →
        exec .holdoverMove s = .next (done ((t.dropRec q).recLost r)))))

/-- R231 to R234, R238, R240 to R245, R249, R251: a write of the descriptor window is stored where the rules of its word
allow, and else counted with a notice; enabling a queue clears its indices. HEAD advances by ADV up to what the reader may
take. The holdover area moves only while it is empty, and below the descriptor region. A DMA engine serves the first queue of
its order while the link is up and it is not halted, and halts where a row is uncorrectable; a queue with nothing to copy leaves
the order. With the link up, pending
messages leave; it comes up from step 7 of power-up on, with REFCLK and PERST_N released (R414, R422). -/
def Obligations.QueuesAndLink : Prop :=
  (∀ (p : Party) (k : Fin 8) (v : Word) (s : State), s.accepts p .pf0 (Off.qdW k) = true →
    let z := s.took p .pf0 (Off.qdW k)
    let u := z.descCache .ok
    let q := z.rf Off.qdSel 0 20
    let i := Instr.qdWrite p k v
    let reject := ((u.count Off.qmStat2 8 8 1).irq 210).noticeQ q Off.qmStat2
    z.qBad q = false → z.lineLive (0xFFC00000 + 4 * q) = true → z.slotsFor [0xFFC00000 + 4 * q + k.val / 2] = true →
      (z.qEn q = false → k.val = 0 → flag v 31 = true →
        (fld v 17 5 < 7 ∨ 22 < fld v 17 5 ∨ 0xFFC00000 * 8 < z.qBase q + 32 * 2 ^ fld v 17 5 → exec i s = .next reject) ∧
        (7 ≤ fld v 17 5 → fld v 17 5 ≤ 22 → z.qBase q + 32 * 2 ^ fld v 17 5 ≤ 0xFFC00000 * 8 →
          let w := u.setQWord q 0 v
          exec i s = .next ((((w.setQIdx q 4 0).setQIdx q 5 0).setQIdx q 6 0).setQIdx q 7 0).touchOpen)) ∧
      (z.qEn q = true → (k.val = 2 ∨ k.val = 3) → exec i s = .next reject) ∧
      (z.qEn q = true → k.val = 0 → (v ^^^ z.qWord q 0) &&& 0x6FFE0000 ≠ 0 → exec i s = .next reject) ∧
      (k.val = 2 → z.qEn q = false → exec i s = .next (u.setQWord q 2 v).touchOpen) ∧
      (k.val = 3 → z.qEn q = false → exec i s = .next (u.setQWord q 3 (v &&& 0xFFFFF)).touchOpen) ∧
      (4 ≤ k.val → exec i s = .next u.touchOpen)) ∧
  (∀ (p : Party) (v : Word) (s : State),
    (s.accepts p .pf0 Off.qheadAdv = true →
      let z := s.took p .pf0 Off.qheadAdv
      let u := z.descCache .ok
      let q := fld v 12 20
      let adv := fld v 0 12
      let limit := idxDiff (z.qIdx q (if z.qHost q then 7 else 5)) (z.qIdx q 4)
      z.qBad q = false → z.lineLive (0xFFC00000 + 4 * q) = true →
      exec (.qheadAdv p v) s = .next (if z.qEn q = false ∨ limit < adv
        then ((u.count Off.qmStat2 0 8 1).irq 210).noticeQ q Off.qmStat2
        else (u.setQIdx q 4 (z.qIdx q 4 + adv)).touchOpen)) ∧
    (s.accepts p .pf0 Off.qmHoldBase = true →
      let u := s.took p .pf0 Off.qmHoldBase
      let n := u.rf Off.qmHoldLen 0 15
      exec (.qmHoldWrite p false v) s = .next (if u.rf Off.qmHoldStat 0 21 = 0 ∧ (n = 0 ∨ fld v 0 15 + n ≤ 0x7FE0)
        then u.setRg Off.qmHoldBase (BitVec.ofNat 32 (fld v 0 15)) else (u.count Off.qmStat2 8 8 1).irq 210)) ∧
    (s.accepts p .pf0 Off.qmHoldLen = true →
      let u := s.took p .pf0 Off.qmHoldLen
      let n := fld v 0 15
      exec (.qmHoldWrite p true v) s = .next (if u.rf Off.qmHoldStat 0 21 = 0 ∧ (n = 0 ∨ u.rf Off.qmHoldBase 0 15 + n ≤ 0x7FE0)
        then u.setRg Off.qmHoldLen (BitVec.ofNat 32 n) else (u.count Off.qmStat2 8 8 1).irq 210))) ∧
  (∀ (e : Fin 64) (ecc : List Ecc) (s : State),
    (s.vmWait = true ∨ s.linkOk = false ∨ s.dmaHalted e = true → exec (.dmaCopy e ecc) s = .next s) ∧
    (Tbl.get [] s.qm.order e = [] → exec (.dmaCopy e ecc) s = .next s) ∧
    (∀ q rest, Tbl.get [] s.qm.order e = q :: rest → s.linkOk = true → s.dmaHalted e = false → s.qBad q = false →
      s.vmWait = false → s.lineLive (0xFFC00000 + 4 * q) = true →
      let t := State.descCache { s with qm := { s.qm with order := Tbl.set [] s.qm.order e rest } } .ok
      let i := s.qIdx q 7
      (s.qEn q = false ∨ i = s.qIdx q 5 → exec (.dmaCopy e ecc) s = .next t) ∧
      (∀ u j bad, s.qEn q = true → i ≠ s.qIdx q 5 → t.dmaLoop e q i ecc (idxDiff (s.qIdx q 5) i) = (u, j, bad) →
        exec (.dmaCopy e ecc) s = .next (match bad with
          | none => u.dmaUpdate q j
          | some r => (if j = i then u else u.dmaUpdate q j).dmaHalt e q r)))) ∧
  (∀ s : State,
    exec (.linkDown true) s = .next { s with qm := { s.qm with bme := false } } ∧
    exec (.linkDown false) s = .next { s with qm := { s.qm with link := false, mode := none } } ∧
    (let may := s.rst.held = false ∧ 7 ≤ s.rf Off.rstStat 16 4 ∧ s.rb Off.clkStat 29 = true ∧ s.qm.perst = false
      let m := Config.linkTrained s.freeCtr
      (may → exec .linkUp s = .next { s with freeCtr := s.freeCtr + 1, qm := { s.qm with
        link := true, mode := some { m with flit := m.flit || decide (m.rate = .g64) }, bme := true,
        msix := s.qm.msix ++ s.qm.msixPend, msixPend := [] } }) ∧
      (¬ may → exec .linkUp s = .next s)))

/-! ### Patches, clocks, resets -/

/-- R404, R405: MCP_CTL. A load or a clear is rejected with a notice while a sequencer is not HALTED, a load runs, or in safe
state; CLEAR prevails over GO. Each reading of the image comes when its source answers (R416, R436) and is judged; between them
no match register is enabled and no patch is shown. R406 to R417: a loss of REFCLK or of PLLA's lock
changes the clock to the oscillator; past READY it also sets the loss flag and counts. A new lock ends bypass with its band,
a lock that has not come in 150 µs is counted and tried again. The relock completes the F2 with a notice. PLLB is locked
while the oven is ready. CLK_OUT is taken while every cluster is parked, and its delay moves one step at a time, 1 µs apart. -/
def Obligations.PatchesAndClocks : Prop :=
  (∀ (p : Party) (v : Word) (flash : FlashRead) (s : State), s.accepts p .pf1 Off.mcpCtl = true →
    let u := s.took p .pf1 Off.mcpCtl
    let busy := (List.range 17).any (fun x => decide ((u.sq x).mode ≠ .halted)) || u.mc.load.isSome || u.safe
    let reject := (u.setRb Off.mcLstat 28 true).noticeAt Off.mcLstat
    let mem := flag (u.sg Off.mcpSrc) 0
    (p ≠ .pf1 → exec (.patchLoad p v flash) s = .next u ∧ exec (.patchClear p v) s = .next u) ∧
    (p = .pf1 → (flag v 0 = true ∨ flag v 1 = true) → busy = true →
      exec (.patchLoad p v flash) s = .next reject ∧ exec (.patchClear p v) s = .next reject) ∧
    (p = .pf1 → flag v 1 = true → busy = false → ∀ i ∈ [Instr.patchLoad p v flash, .patchClear p v],
      exec i s = .next (u.mcZero.setRb Off.mcLstat 30 true).mcSweep) ∧
    (p = .pf1 → flag v 1 = false → flag v 0 = true → busy = false →
      let l : Load := { mem := mem, second := false, image := if mem then none else some flash }
      exec (.patchLoad p v flash) s = .next
      ((State.setRb { u with mc := { u.mc with load := some l } } Off.mcLstat 31 true).setRb Off.mcLstat 26 mem))) ∧
  (∀ (l : Load) (flash : FlashRead) (s : State),
    let r := if l.mem then s.memImage (s.sg Off.mcpRow).toNat else (s.setRb Off.cpStat 30 false, flash)
    let over_ := State.setRb { r.1 with mc := { r.1.mc with load := none } } Off.mcLstat 31 false
    (∀ cause, readPatch r.1.romver r.2 = .inr cause →
      s.passOne l flash = (over_.mcInval cause).mcSweep ∧ s.passTwo l flash = r.1.mcTorn.mcSweep) ∧
    (∀ a, readPatch r.1.romver r.2 = .inl a →
      let z := r.1.each (List.range 32) fun k z => z.setRb (Off.mcMatch k) 31 false
      s.passOne l flash = State.setRg (State.setRf { z with mc := { z.mc with load := some { l with second := true } } }
        Off.mcver 0 16 0) Off.mccrc 0 ∧
      s.passTwo l flash = ((over_.mcLoad a).setRb Off.mcLstat 30 true).mcSweep)) ∧
  (∀ (flash : FlashRead) (s : State),
    (s.mc.load = none → s.loadGo = s ∧ exec (.patchLoadDone flash) s = .next s) ∧
    (∀ l, s.mc.load = some l →
      let can := if l.mem then s.vmWait = false else s.loadPort = true
      let t := s.passOne l (l.image.getD flash)
      (l.second = true ∨ ¬ can → s.loadGo = s) ∧
      (l.second = false → can → l.mem = true → s.loadGo = s.passOne l { bytes := [], err := true }) ∧
      (∀ f, l.second = false → can → l.mem = false → l.image = some f → s.loadGo = s.passOne l f) ∧
      (¬ can → exec (.patchLoadDone flash) s = .next s) ∧
      (can → l.second = true → exec (.patchLoadDone flash) s = .next (s.passTwo l flash)) ∧
      (can → l.second = false → t.mc.load = none → exec (.patchLoadDone flash) s = .next t) ∧
      (∀ k, can → l.second = false → t.mc.load = some k → exec (.patchLoadDone flash) s = .next (t.passTwo k flash)))) ∧
  (∀ s : State,
    let b := s.rb Off.clkStat
    (b 29 = false → exec .refclkLoss s = .next s) ∧
    (b 29 = true → exec .refclkLoss s = .next (if s.rst.ready then s.clockLoss true else s.unlock true)) ∧
    (b 31 = false ∨ b 29 = false → exec .pllaLockLoss s = .next s) ∧
    (b 31 = true → b 29 = true → exec .pllaLockLoss s = .next (if s.rst.ready then s.clockLoss false else s.unlock false)) ∧
    (b 29 = true → exec .refclkPresent s = .next s) ∧
    (b 29 = false →
      let u := (s.setRb Off.clkStat 29 true).setRb Off.tiuTbstat 30 true
      exec .refclkPresent s = .next (if u.rb Off.clkStat 31 then u
        else { u with clk := { u.clk with lockAt := some u.now } })) ∧
    (∀ band, s.clk.lockAt.isSome = true → s.rst.boot.isSome = true → b 29 = true →
      let u := { s with
        clk := { s.clk with lockAt := none, relockAt := if s.rst.ready then some s.now else none }
        sync := { s.sync with fresh := false } }
      let w := if u.rst.ready then u else u.setRf Off.rstStat 16 4 7
      exec (.pllaLock band) s = .next (((w.setRb Off.clkStat 31 true).setRb Off.clkStat 30 false).setRf Off.clkStat 16 4
        band.toNat)) ∧
    (∀ band, s.clk.lockAt = none ∨ b 29 = false → exec (.pllaLock band) s = .next s) ∧
    (∀ t, s.clk.lockAt = some t →
      (t + 120000 ≤ s.now → s.rst.boot.isSome = true → b 29 = true →
        let u := State.count { s with clk := { s.clk with lockAt := some s.now } } Off.clkStat 8 8 1
        exec .pllaLockTimeout s = .next (if s.rst.ready then u.notice 0x9000 3 Off.clkStat else u)) ∧
      (s.now < t + 120000 → exec .pllaLockTimeout s = .next s)) ∧
    (s.clk.relockAt = none → exec .relockComplete s = .next s) ∧
    (s.clk.relockAt.isSome = true → exec .relockComplete s = .next (
      (((State.setRb { s with clk := { s.clk with relockAt := none } } Off.clkStat 28 true).f2Done 0x9000 true).f2Done 0x9002
        true).notice 0x9000 2 Off.clkStat)) ∧
    exec .ovoReadyRise s = .next (if s.rst.held = true ∨ s.rst.loaded = false then s
      else (s.setRf Off.pllbStat 29 3 7).setRb Off.tiuTbstat 31 true) ∧
    (s.rb Off.pllbStat 31 = false → exec .ovoReadyFall s = .next s) ∧
    (s.rb Off.pllbStat 31 = true → ∃ bit : Nat, (bit = 29 ∨ bit = 30) ∧
      let u := ((s.setRb Off.pllbStat 31 false).setRb Off.tiuTbstat 31 false).setRb Off.pllbStat bit false
      exec .ovoReadyFall s = .next ((({ u with freeCtr := u.freeCtr + 1 } : State).each (List.range 8) fun t z =>
        if z.tiuState t = 1 ∧ z.rb (Off.tiuCfg t) 31 = true then z.tiuFinish t .tbloss else z).notice 0x9001 1 Off.pllbStat))) ∧
  (∀ (refclk : Bool) (s : State),
    let t := s.unlock refclk
    flag (t.rg Off.clkStat) 31 = false ∧ flag (t.rg Off.clkStat) 30 = true ∧
    (refclk = true → flag (t.rg Off.clkStat) 29 = false ∧ flag (t.rg Off.tiuTbstat) 30 = false ∧ t.clk.lockAt = none) ∧ t.clk.relockAt = none ∧
    (refclk = false → t.clk.lockAt = some s.now)) ∧
  (∀ (p : Party) (k : Fin 6) (v : Word) (s : State), s.accepts p .pf0 (Off.clkOut k) = true →
    let u := s.took p .pf0 (Off.clkOut k)
    let parked := (List.range 16).all fun c => u.clParked c
    let w := setFld (u.rg (Off.clkOut k)) 0 6 (fld v 0 6)
    let w' := if k.val = 0 ∨ k.val = 3 then setFlag w 31 (flag v 31) else w
    let now := (Tbl.find u.clk.delay k.val).getD (u.af (Off.clkOut k) 0 6)
    (parked = false → exec (.clkOutWrite p k v) s = .next ((u.setRb Off.clkStat 26 true).notice 0x9000 0 Off.clkStat)) ∧
    (parked = true → exec (.clkOutWrite p k v) s = .next
      (State.setShadow { u with clk := { u.clk with delay := tblPut k.val now u.clk.delay } } (Off.clkOut k) w'))) ∧
  (∀ (k : Fin 6) (s : State),
    let goal := fld (s.ap (Off.clkOut k)) 0 6
    (Tbl.find s.clk.delay k.val = none → exec (.clkDelayStep k) s = .next s) ∧
    (∀ d, Tbl.find s.clk.delay k.val = some d →
      let e := if d < goal then d + 1 else if goal < d then d - 1 else d
      (s.now < Tbl.get 0 s.clk.stepAt k → exec (.clkDelayStep k) s = .next s) ∧
      (Tbl.get 0 s.clk.stepAt k ≤ s.now → exec (.clkDelayStep k) s = .next { s with clk := { s.clk with
        stepAt := if e = d then s.clk.stepAt else Tbl.set 0 s.clk.stepAt k (s.now + 800)
        delay := if e ≠ goal ∨ Off.clkOut k ∈ s.dirty then tblPut k.val e s.clk.delay else Tbl.drop s.clk.delay k.val } })))

/-- R418 to R423: a cold reset and a full reset leave the state of reset, but for what lies outside the part, the warden's
latch of F5 and the oven's warm-up, and, under a full reset, for a program or erase of the card flash that is in progress;
RST_STAT names the cause and the step that power-up starts from; RST_N does no more under a cold one, and holds the reset where
it is low as the cold one ends (R419). PERST_N takes the link, Bus Master Enable, the error log and the MSI-X tables, and holds the link
until it is released. RST_REQ asks for a full reset with its
key, one request at a time, and 2 µs later it comes. The release starts power-up, which waits for a program or erase in progress
(R421), and READY follows once PLLA has locked, with tick 0. -/
def Obligations.Resets : Prop :=
  (∀ (cause step : Nat) (s : State),
    let t := s.resetTo cause step
    t.pending = s.pending ∧ t.sg Off.wdF5 = s.sg Off.wdF5 ∧ t.mem = State.reset.mem ∧ t.seq = State.reset.seq ∧
    t.clu = State.reset.clu ∧ t.chan = State.reset.chan ∧ t.fault = State.reset.fault ∧
    t.rst = { State.reset.rst with cold := decide (cause < 2), low := s.rst.low } ∧ (cause < 2 → t.cp.polls = []) ∧
    ((∃ x ∈ s.cp.polls, x.dev = 0) → 2 ≤ cause → t.cp.polls.length = (s.cp.polls.filter fun x => x.dev = 0).length) ∧
    t.qm.hostMem = s.qm.hostMem ∧ t.qm.perst = s.qm.perst ∧ t.clk.warm = s.clk.warm + s.now ∧
    (cause < 8 → step < 16 → fld (t.rg Off.rstStat) 24 3 = cause ∧ fld (t.rg Off.rstStat) 16 4 = step ∧
      flag (t.rg Off.rstStat) 31 = false) ∧
    (∀ o, o ≠ Off.rstStat → t.rg o = State.reset.rg o)) ∧
  (∀ s : State,
    (∀ supply, exec (.coldReset supply) s = .next (s.resetTo (if supply then 1 else 0) 1)) ∧
    (let u := { s with rst := { s.rst with low := true } }
     exec .fullReset s = .next (if s.rst.held = true ∧ s.rst.cold = true then u else u.resetTo 2 2)) ∧
    exec .pcieReset s = .next (if s.rst.held then { s with qm := { s.qm with perst := true } }
      else { s with
        qm := { s.qm with link := false, mode := none, bme := false, aer := [], perst := true }
        win := s.win.filter fun e => decide (e.1 < 0x10000) }) ∧
    (s.rst.reqAt = none → exec .resetDelayExpiry s = .next s) ∧
    (∀ t cause, s.rst.reqAt = some (t, cause) →
      exec .resetDelayExpiry s = .next (if t + 1600 ≤ s.now then s.resetTo cause.toNat 2 else s)) ∧
    (∀ b : Boot, exec (.resetRelease .pcie b) s = .next { s with qm := { s.qm with perst := false } } ∧
      (let u := { s with rst := { s.rst with cold := false } }
       exec (.resetRelease .cold b) s = .next (if ¬ (s.rst.held = true ∧ s.rst.cold = true) then s
         else if s.rst.low then u.setRf Off.rstStat 16 4 2 else u.powerUp b)) ∧
      (let u := { s with rst := { s.rst with low := false } }
       exec (.resetRelease .full b) s = .next (if s.rst.held = true ∧ s.rst.cold = false then u.powerUp b else u))) ∧
    (∀ b, s.rst.boot = some b → s.rst.held = false → s.rst.loaded = true → s.rst.ready = false →
      s.rb Off.clkStat 31 = true → exec .ready s = .next (s.readyUp b)) ∧
    (s.rst.boot = none ∨ s.rst.held = true ∨ s.rst.loaded = false ∨ s.rst.ready = true ∨ s.rb Off.clkStat 31 = false → exec .ready s = .next s)) ∧
  (∀ (p : Party) (v : Word) (s : State), s.accepts p .pf1 Off.rstReq = true →
    let u := s.took p .pf1 Off.rstReq
    exec (.rstRequest p v) s = .next (
      if fld v 16 16 ≠ 0xB007 then u.noticeAt Off.rstReq
      else if flag v 0 = true ∧ u.rst.reqAt = none then
        { u with rst := { u.rst with reqAt := some (u.now, if p = .sp then 3 else 4) } }
      else u)) ∧
  (∀ (b : Boot) (s : State),
    let u := { s with rst := { s.rst with held := false, relAt := s.now, boot := some b, loaded := false } }
    let t := s.powerUp b
    (u.flashBusy = true → t = u) ∧
    (u.flashBusy = false → t.rst = { u.rst with loaded := true } ∧ fld (t.rg Off.rstStat) 16 4 = 6))

/-! ### Register accesses and the service port -/

/-- R2, R4, R33, R49, R457 to R463: register accesses. A request of PF0 or PF1 that is neither an aligned dword nor two of them
at an 8-byte-aligned address changes no register and is counted; of two dwords the lower comes first. An access behind one of
its party that waits waits too; an access before READY is not answered, and one of a space that the party does not reach does
nothing. A write that the register takes does what the register does with the value: a setting stores its RW fields in the
shadow copy, and clears the W1C bits that carry 1 and that the part has not set in the same CCLK. A read answers the party; one
that an earlier party's read of the CCLK comes before waits for it; an RC read returns the register as it stood before the part
changed it in the CCLK, and leaves the fields set that were so set; SEQH raises REGPROT outside the mapped blocks. The read of the low word of STEEP_NUM keeps the high word for that party. P1W_DATA
reaches the register that P1W_PTR addresses as PF1. -/
def Obligations.RegisterAccess : Prop :=
  (∀ (p : Party) (off : BitVec 26) (shape : Shape) (v : Word) (s : State), p = .pf0 ∨ p = .pf1 →
    (shape = .other ∨ (shape = .dword ∧ off.toNat % 4 ≠ 0) ∨ ((∃ hi, shape = .dwords hi) ∧ off.toNat % 8 ≠ 0)) →
    s.partyHeld p = false → s.partyBehind p = false → ∀ sp,
    (s.rst.ready = true → exec (.registerWrite p sp off shape v) s = .next (s.count Off.regErr 16 8 1)) ∧
    (s.rst.ready = false → exec (.registerWrite p sp off shape v) s = .next (s.answer p .unsupported)) ∧
    ∀ i ∈ [Instr.lowWordRead p sp off shape, .readClear p sp off shape], sp ≠ .win → s.rst.ready = true →
      reaches p sp = true → s.readWaits p i = false → exec i s = .next ((s.count Off.regErr 16 8 1).answer p .abort)) ∧
  (∀ (p : Party) (sp : Space) (off : BitVec 26) (shape : Shape) (v : Word) (s : State),
    let first := s.partyHeld p = false ∧ s.partyBehind p = false
    let own := s.readReg p sp off.toNat
    (∀ i ∈ [Instr.lowWordRead p sp off shape, .readClear p sp off shape],
      (s.partyHeld p = true → exec i s = .next { s with held := s.held ++ [i] }) ∧
      (s.partyHeld p = false → s.partyBehind p = true → exec i s = .next (s.putBehind i)) ∧
      (first → sp ≠ .win → s.rst.ready = false → exec i s = .next (s.answer p .unsupported)) ∧
      (first → sp = .win ∨ s.rst.ready = true → reaches p sp = false → exec i s = .next s) ∧
      (first → sp = .win → reaches p sp = true → s.coldHeld = true → exec i s = .next (s.answer p (.data 0))) ∧
      (first → (if sp = .win then s.coldHeld = false else s.rst.ready = true) → reaches p sp = true →
        (s.readWaits p i = true → exec i s = .next (s.putBehind i)) ∧
        (s.readWaits p i = false → badShape p off.toNat shape = false →
          ((∀ hi, shape ≠ .dwords hi) → exec i s = .next (own.1.answer p own.2)) ∧
          (∀ hi, shape = .dwords hi →
            let high := own.1.readReg p sp (off.toNat + 4)
            exec i s = .next (high.1.answer p (pairOut own.2 high.2)))))) ∧
    (badShape p off.toNat shape = false → ∀ hi, shape = .dwords hi → exec (.registerWrite p sp off shape v) s =
      .next ((s.regWrite p sp off.toNat v).regWrite p sp (off.toNat + 4) hi)) ∧
    (badShape p off.toNat shape = false → (∀ hi, shape ≠ .dwords hi) →
      (s.partyHeld p = true →
        exec (.registerWrite p sp off shape v) s = .next { s with held := s.held ++ [.registerWrite p sp off .dword v] }) ∧
      (s.accepts p sp off.toNat = true → (findReg (Space.rows sp) off.toNat).isSome →
        (p = .seqh → sp = .pf0 → Space.mapped .pf0 off.toNat = true) → (sp = .pf1 → off.toNat ≠ Off.p1wData) →
        (sp = .pf0 → off.toNat ≠ Off.calSave ∧ ∀ c : Fin 16, off.toNat ≠ Off.tsEdata c) →
        exec (.registerWrite p sp off shape v) s = .next ((s.took p sp off.toNat).writeReg p sp off.toNat v))) ∧
    (first → s.rst.ready = true → p = .seqh → sp = .pf0 → Space.mapped .pf0 off.toNat = false →
      exec (.registerWrite p sp off .dword v) s = .next (s.exception 16 0x14 off.toNat (s.sq 16).pc))) ∧
  (∀ (p : Party) (off : BitVec 26) (v : Word) (r : RegRow) (ix : List Nat) (s : State),
    findReg pf0Rows off.toNat = some (r, ix) →
    let u := s.took p .pf0 off.toNat
    let rw := BitVec.ofNat 32 r.rw
    let rc := BitVec.ofNat 32 r.rc
    let mark := s.marks.find? fun m => m.off = off.toNat
    let sees := s.view (secureParty p) r.id (ix.getD 0 0) (ix.getD 1 0) (s.rg off.toNat)
    let kept := s.setRg off.toNat ((s.rg off.toNat &&& ~~~rc) ||| (((mark.map (·.new)).getD 0) &&& rc))
    let was (m : Mark) : Word := match s.pre.find? fun e => e.1 = off.toNat with
      | some e => e.2
      | none => if rcUnits.contains off.toNat then sees else m.was
    (isSetting r.id = true → r.id ≠ .steep → r.id ≠ .pourCtl → r.id ≠ .clSteep → s.accepts p .pf0 off.toNat = true →
      (p = .seqh → Space.mapped .pf0 off.toNat = true) → off.toNat % 4 = 0 →
      exec (.registerWrite p .pf0 off .dword v) s = .next (u.setShadow off.toNat
        ((u.rg off.toNat &&& ~~~rw &&& ~~~(v &&& BitVec.ofNat 32 r.w1c &&& ~~~s.setNow off.toNat)) ||| (v &&& rw)))) ∧
    (r.rc ≠ 0 → s.rcActs (secureParty p) r (ix.getD 0 0) = true → reaches p .pf0 = true → s.partyHeld p = false →
      s.partyBehind p = false → s.rst.ready = true → off.toNat % 4 = 0 → (p = .seqh → Space.mapped .pf0 off.toNat = true) →
      s.readWaits p (.readClear p .pf0 off .dword) = false →
      exec (.readClear p .pf0 off .dword) s = .next (({ kept with
        marks := kept.marks.map fun m => if m.off = off.toNat then { m with was := m.was &&& ~~~rc } else m } : State).answer p
        (.data (match mark with
          | some m => (was m &&& ~~~rc) ||| (m.was &&& rc)
          | none => sees))))) ∧
  (∀ (p : Party) (s : State), s.partyHeld p = false → s.partyBehind p = false → reaches p .pf0 = true → s.rst.ready = true →
    let hi := BitVec.ofNat 32 (s.steep.num.toNat / 2 ^ 32)
    exec (.lowWordRead p .pf0 (BitVec.ofNat 26 Off.steepNumLo) .dword) s = .next (
      ({ s with snap := tblPut (rankOf p) (Off.steepNumLo, hi) s.snap } : State).answer p
        (.data (BitVec.ofNat 32 s.steep.num.toNat))) ∧
    (∀ v, Tbl.find s.snap (rankOf p) = some (Off.steepNumLo, v) →
      exec (.lowWordRead p .pf0 (BitVec.ofNat 26 Off.steepNumHi) .dword) s = .next (s.answer p (.data v)))) ∧
  (∀ s : State,
    let at_ := 4 * fld (s.sg Off.p1wPtr) 2 24
    let step (z : State) : State := z.setSg Off.p1wPtr (if flag (z.sg Off.p1wPtr) 31
      then setFld (z.sg Off.p1wPtr) 2 24 (fld (z.sg Off.p1wPtr) 2 24 + 1) else z.sg Off.p1wPtr)
    let own := s.readBase .pf1 .pf0 at_
    (s.partyHeld .pf1 = false → s.partyBehind .pf1 = false → s.rst.ready = true →
      (s.readWaits .pf1 .p1wDataRead = true → exec .p1wDataRead s = .next (s.putBehind .p1wDataRead)) ∧
      (s.readWaits .pf1 .p1wDataRead = false → exec .p1wDataRead s = .next ((step own.1).answer .pf1 own.2))) ∧
    (∀ v, s.accepts .pf1 .pf1 Off.p1wData = true →
      let t := (s.took .pf1 .pf1 Off.p1wData).regWriteBase .pf1 .pf0 at_ v true
      (s.p1wWaits .pf1 = true → exec (.p1wDataWrite v) s =
        .next (s.putBehind (.registerWrite .pf1 .pf1 (BitVec.ofNat 26 Off.p1wData) .dword v))) ∧
      (s.p1wWaits .pf1 = false → exec (.p1wDataWrite v) s =
        .next (if t.partyHeld .pf1 || t.partyBehind .pf1 then t else step t))))

/-- R442 to R444: the service port. SP_CMD makes a safe-state request (kept until READY before it) or a full reset, each under
its own key, and sets ERR on another one. SP_PTR and SP_DATA start an access once READY, at a mapped offset, while none runs;
its end clears BUSY and sets DONE, a write through INC moves on, a read puts the value in SP_DATA, and a read that an earlier
party's RC read of the CCLK comes before waits for it; one that is refused changes nothing else. A framing error is counted,
and flagged unless the frame had fewer than the 8 bits of its first byte, which no command says: the model leaves it open (log
entry 91). -/
def Obligations.ServicePort : Prop :=
  (∀ (v : Word) (s : State), s.accepts .sp .win Off.spCmd = true →
    let u := s.took .sp .win Off.spCmd
    let key := fld v 16 16
    let safe := if flag v 0 = true ∧ key = 0x5AFE
      then (if u.rst.ready then u.safeFrom 0xD002 else { u with rst := { u.rst with safeReq := true } }) else u
    let asked := if flag v 1 = true ∧ key = 0xB007 ∧ safe.rst.reqAt = none
      then { safe with rst := { safe.rst with reqAt := some (safe.now, 3) } } else safe
    let wrong := (key ≠ 0x5AFE ∧ key ≠ 0xB007) ∨ (flag v 0 = true ∧ key ≠ 0x5AFE) ∨ (flag v 1 = true ∧ key ≠ 0xB007)
    ∀ i ∈ [Instr.spCmdSafe v, .spCmdRst v],
      (¬ wrong → exec i s = .next asked) ∧
      (wrong → exec i s = .next (asked.changeWg Off.spStat fun w => setFlag w 29 true))) ∧
  (∀ (v : Word) (s : State),
    let err (z : State) : State := z.changeWg Off.spStat fun w => setFlag w 29 true
    let start (z : State) (write : Bool) (data : Word) : State :=
      let sec := flag (z.wg Off.spPtr) 31
      let off := 4 * fld (z.wg Off.spPtr) 2 24
      if z.rst.ready = false ∨ Space.mapped (if sec then .pf1 else .pf0) off = false then err z
      else State.changeWg { z with spp := { z.spp with busy := some (write, sec, off, data), start := z.now } } Off.spStat
        fun w => setFlag w 31 true
    let refused (ptr : Word) := s.rst.ready = false ∨
      Space.mapped (if flag ptr 31 then .pf1 else .pf0) (4 * fld ptr 2 24) = false
    (s.accepts .sp .win Off.spPtr = true →
      let u := s.took .sp .win Off.spPtr
      let z := u.setWg Off.spPtr (v &&& 0xE3FFFFFC)
      exec (.spPtrWrite v) s = .next (if u.spp.busy.isSome = true ∨ (flag v 29 = true ∧ refused v) then err u
        else if flag v 29 then start z false 0 else z)) ∧
    (s.accepts .sp .win Off.spData = true →
      let u := s.took .sp .win Off.spData
      exec (.spDataWrite v) s = .next (if u.spp.busy.isSome = true ∨ refused (u.wg Off.spPtr) then err u
        else start (u.setWg Off.spData v) true v)) ∧
    (s.partyHeld .sp = false → s.partyBehind .sp = false → s.coldHeld = false →
      let u := s.answer .sp (.data (s.wg Off.spData))
      let ptr := s.wg Off.spPtr
      exec .spDataRead s = .next (if flag ptr 30 = true ∧ flag ptr 29 = true ∧ s.spp.busy = none
        then start (u.setWg Off.spPtr (setFld ptr 2 24 (fld ptr 2 24 + 1))) false 0 else u))) ∧
  (∀ s : State,
    let bit (z : State) (i : Nat) (b : Bool) : State := z.changeWg Off.spStat fun w => setFlag w i b
    let done (z : State) : State := bit (bit z 31 false) 30 true
    let u := { s with spp := { s.spp with busy := none } }
    let i := Instr.spAccessDone
    (s.readWaits .sp i = true → exec i s = .next (s.putBehind i)) ∧
    (s.spp.busy = none → exec i s = .next s) ∧
    (∀ sec off data, s.spp.busy = some (true, sec, off, data) →
      let z := u.regWrite .sp (if sec then .pf1 else .pf0) off data
      exec i s = .next (done (if flag (z.wg Off.spPtr) 30
        then z.setWg Off.spPtr (setFld (z.wg Off.spPtr) 2 24 (fld (z.wg Off.spPtr) 2 24 + 1)) else z))) ∧
    (∀ sec off data t w, s.spp.busy = some (false, sec, off, data) → s.readWaits .sp i = false →
      u.readReg .sp (if sec then .pf1 else .pf0) off = (t, .data w) → exec i s = .next (done (t.setWg Off.spData w))) ∧
    (s.coldHeld = true → exec .spFrameError s = .next s) ∧
    (s.coldHeld = false →
      let z := s.changeWg Off.spStat fun w => satAdd w 0 16 1
      exec .spFrameError s = .next (State.changeWg { z with freeCtr := z.freeCtr + 1 } Off.spStat
        fun w => setFlag w 28 (flag w 28 || !Config.shortFrame s.freeCtr))))
end

