-- ==== Sys2Proof/Laws/Bits.lean ====
section
/-!
SUPPORT. Fields and flags of a word after a field or a flag has been written.
-/
namespace Sys2Proof.Machine

open Sys2Proof

theorem setFld_getLsbD (w : Word) (lo len v i : Nat) (hi : i < 32) :
    (setFld w lo len v).getLsbD i =
      if lo ≤ i ∧ i < lo + len then v.testBit (i - lo) else w.getLsbD i := by
  have h1 : ((2 ^ len - 1) <<< lo).testBit i = decide (lo ≤ i ∧ i < lo + len) := by
    rw [Nat.testBit_shiftLeft, Nat.testBit_two_pow_sub_one]
    by_cases h : lo ≤ i <;> simp [h]; omega
  have h2 : ((v % 2 ^ len) <<< lo).testBit i = (decide (lo ≤ i ∧ i < lo + len) && v.testBit (i - lo)) := by
    rw [Nat.testBit_shiftLeft, Nat.testBit_mod_two_pow]
    by_cases h : lo ≤ i
    · by_cases h' : i < lo + len
      · have : i - lo < len := by omega
        simp [h, h', this]
      · have : ¬ i - lo < len := by omega
        simp [h', this]
    · simp [h]
  simp only [setFld, BitVec.getLsbD_or, BitVec.getLsbD_and, BitVec.getLsbD_not, BitVec.getLsbD_ofNat, hi, decide_true,
    Bool.true_and, h1, h2]
  by_cases h : lo ≤ i ∧ i < lo + len <;> simp [h]

theorem fld_testBit (w : Word) (lo len i : Nat) : (fld w lo len).testBit i = (decide (i < len) && w.getLsbD (lo + i)) := by
  simp [fld, Nat.testBit_mod_two_pow, Nat.testBit_shiftRight, BitVec.getLsbD]

theorem fld_lt (w : Word) (lo len : Nat) : fld w lo len < 2 ^ len := Nat.mod_lt _ (Nat.two_pow_pos len)

/-- Reading back the field that was written. -/
theorem fld_setFld (w : Word) (lo len v : Nat) (h : lo + len ≤ 32) : fld (setFld w lo len v) lo len = v % 2 ^ len := by
  apply Nat.eq_of_testBit_eq
  intro i
  rw [fld_testBit, Nat.testBit_mod_two_pow]
  by_cases hi : i < len
  · rw [setFld_getLsbD _ _ _ _ _ (by omega)]
    have : lo ≤ lo + i ∧ lo + i < lo + len := by omega
    simp [hi, this]
  · simp [hi]

/-- A field that does not meet the one written keeps its value. -/
theorem fld_setFld_apart (w : Word) (lo len v a n : Nat) (ha : a + n ≤ 32) (h : a + n ≤ lo ∨ lo + len ≤ a) :
    fld (setFld w lo len v) a n = fld w a n := by
  apply Nat.eq_of_testBit_eq
  intro i
  rw [fld_testBit, fld_testBit]
  by_cases hi : i < n
  · rw [setFld_getLsbD _ _ _ _ _ (by omega)]
    have : ¬(lo ≤ a + i ∧ a + i < lo + len) := by omega
    simp [hi, this]
  · simp [hi]

@[simp] theorem flag_setFlag (w : Word) (i : Nat) (b : Bool) (h : i < 32) : flag (setFlag w i b) i = b := by
  rw [flag, setFlag, setFld_getLsbD _ _ _ _ _ h]; cases b <;> simp

theorem flag_setFlag_ne (w : Word) (i j : Nat) (b : Bool) (h : j ≠ i) : flag (setFlag w i b) j = flag w j := by
  by_cases hj : j < 32
  · rw [flag, setFlag, setFld_getLsbD _ _ _ _ _ hj]
    rw [if_neg (by omega), flag]
  · simp [flag, BitVec.getLsbD_of_ge _ _ (Nat.le_of_not_lt hj)]

theorem flag_setFld_apart (w : Word) (lo len v j : Nat) (h : j < lo ∨ lo + len ≤ j) : flag (setFld w lo len v) j = flag w j := by
  by_cases hj : j < 32
  · rw [flag, setFld_getLsbD _ _ _ _ _ hj]
    have : ¬(lo ≤ j ∧ j < lo + len) := by omega
    simp [this, flag]
  · simp [flag, BitVec.getLsbD_of_ge _ _ (Nat.le_of_not_lt hj)]

theorem fld_setFlag_apart (w : Word) (i : Nat) (b : Bool) (a n : Nat) (ha : a + n ≤ 32) (h : a + n ≤ i ∨ i + 1 ≤ a) :
    fld (setFlag w i b) a n = fld w a n := fld_setFld_apart w i 1 _ a n ha h

/-- A saturating counter after an addition. -/
theorem fld_satAdd (w : Word) (lo len n : Nat) (h : lo + len ≤ 32) :
    fld (satAdd w lo len n) lo len = min (2 ^ len - 1) (fld w lo len + n) := by
  rw [satAdd, fld_setFld _ _ _ _ h]
  exact Nat.mod_eq_of_lt (Nat.lt_of_le_of_lt (Nat.min_le_left _ _) (Nat.sub_lt (Nat.two_pow_pos len) Nat.one_pos))

theorem fld_satAdd_apart (w : Word) (lo len n a m : Nat) (ha : a + m ≤ 32) (h : a + m ≤ lo ∨ lo + len ≤ a) :
    fld (satAdd w lo len n) a m = fld w a m := fld_setFld_apart w lo len _ a m ha h

theorem flag_satAdd_apart (w : Word) (lo len n j : Nat) (h : j < lo ∨ lo + len ≤ j) :
    flag (satAdd w lo len n) j = flag w j := flag_setFld_apart w lo len _ j h

/-- A bit after a write of 1s to W1C bits. -/
theorem flag_w1c (w v m : Word) (j : Nat) : flag (w &&& ~~~(v &&& m)) j = (flag w j && !(flag v j && flag m j)) := by
  by_cases hj : j < 32
  · simp [flag, hj]
  · simp [flag, BitVec.getLsbD_of_ge _ _ (Nat.le_of_not_lt hj)]

end Sys2Proof.Machine
end

