-- ==== Sys2Proof/Laws/Table.lean ====
section
/-!
SUPPORT. Reading a sparse table after writing it, and the canonical form that every write keeps.
-/
namespace Sys2Proof.Machine

variable {α : Type}

@[simp] theorem tblGet_nil (d : Nat → α) (k : Nat) : tblGet d [] k = d k := rfl

@[simp] theorem tblGet_tblPut_same (d : Nat → α) (k : Nat) (v : α) (t : List (Nat × α)) :
    tblGet d (tblPut k v t) k = v := by
  induction t with
  | nil => simp [tblPut, tblGet]
  | cons e t ih =>
    obtain ⟨i, w⟩ := e
    by_cases h : i < k
    · simp [tblPut, h, tblGet, Nat.ne_of_lt h, ih]
    · by_cases h' : i = k <;> simp [tblPut, h, h', tblGet]

theorem tblGet_tblPut_ne (d : Nat → α) {k j : Nat} (v : α) (t : List (Nat × α)) (h : j ≠ k) :
    tblGet d (tblPut k v t) j = tblGet d t j := by
  induction t with
  | nil => simp [tblPut, tblGet, Ne.symm h]
  | cons e t ih =>
    obtain ⟨i, w⟩ := e
    by_cases hi : i < k
    · simp [tblPut, hi, tblGet, ih]
    · by_cases h' : i = k
      · subst h'; simp [tblPut, tblGet, Ne.symm h]
      · simp [tblPut, hi, h', tblGet, Ne.symm h]

@[simp] theorem tblGet_drop_same (d : Nat → α) (k : Nat) (t : List (Nat × α)) :
    tblGet d (Tbl.drop t k) k = d k := by
  induction t with
  | nil => rfl
  | cons e t ih =>
    obtain ⟨i, w⟩ := e
    by_cases h : i = k
    · simpa [Tbl.drop, h] using ih
    · simpa [Tbl.drop, h, tblGet] using ih

theorem tblGet_drop_ne (d : Nat → α) {k j : Nat} (t : List (Nat × α)) (h : j ≠ k) :
    tblGet d (Tbl.drop t k) j = tblGet d t j := by
  induction t with
  | nil => rfl
  | cons e t ih =>
    obtain ⟨i, w⟩ := e
    by_cases hi : i = k
    · subst hi; simpa [Tbl.drop, tblGet, Ne.symm h] using ih
    · by_cases hj : i = j
      · subst hj; simp [Tbl.drop, tblGet, h]
      · simpa [Tbl.drop, hi, tblGet, hj] using ih

/-- Reading back what was written. -/
@[simp] theorem tblGet_tblSet_same [DecidableEq α] (d : Nat → α) (t : List (Nat × α)) (k : Nat) (v : α) :
    tblGet d (tblSet d t k v) k = v := by
  by_cases h : v = d k <;> simp [tblSet, h]

/-- A write leaves every other index alone. -/
theorem tblGet_tblSet_ne [DecidableEq α] (d : Nat → α) (t : List (Nat × α)) {k j : Nat} (v : α) (h : j ≠ k) :
    tblGet d (tblSet d t k v) j = tblGet d t j := by
  by_cases hv : v = d k
  · simp [tblSet, hv, tblGet_drop_ne d t h]
  · simp [tblSet, hv, tblGet_tblPut_ne d v t h]

/-- Reading any index after a write. -/
theorem tblGet_tblSet [DecidableEq α] (d : Nat → α) (t : List (Nat × α)) (k j : Nat) (v : α) :
    tblGet d (tblSet d t k v) j = if j = k then v else tblGet d t j := by
  by_cases h : j = k
  · subst h; simp
  · simp [h, tblGet_tblSet_ne d t v h]

@[simp] theorem tblGet_set_same [DecidableEq α] (d : α) (t : List (Nat × α)) (k : Nat) (v : α) :
    Tbl.get d (Tbl.set d t k v) k = v := by simp [Tbl.get, Tbl.set]

theorem tblGet_set_ne [DecidableEq α] (d : α) (t : List (Nat × α)) {k j : Nat} (v : α) (h : j ≠ k) :
    Tbl.get d (Tbl.set d t k v) j = Tbl.get d t j := by
  simp [Tbl.get, Tbl.set, tblGet_tblSet_ne _ t v h]

theorem tblGet_set [DecidableEq α] (d : α) (t : List (Nat × α)) (k j : Nat) (v : α) :
    Tbl.get d (Tbl.set d t k v) j = if j = k then v else Tbl.get d t j := by
  simp [Tbl.get, Tbl.set, tblGet_tblSet]

/-! ### The canonical form -/

theorem tblRising_none {b : Nat} {t : List (Nat × α)} (h : tblRising (some b) t = true) : tblRising none t = true := by
  cases t with
  | nil => rfl
  | cons e t => obtain ⟨i, w⟩ := e; simp only [tblRising, Bool.and_eq_true] at h; simp [tblRising, h.2]

theorem tblRising_mono {a b : Nat} {t : List (Nat × α)} (hab : a ≤ b) (h : tblRising (some b) t = true) :
    tblRising (some a) t = true := by
  cases t with
  | nil => rfl
  | cons e t =>
    obtain ⟨i, w⟩ := e
    simp only [tblRising, Bool.and_eq_true, decide_eq_true_eq] at h
    simp only [tblRising, Bool.and_eq_true, decide_eq_true_eq]
    exact ⟨by omega, h.2⟩

theorem tblRising_filter (p : Nat × α → Bool) {b : Option Nat} {t : List (Nat × α)} (h : tblRising b t = true) :
    tblRising b (t.filter p) = true := by
  induction t generalizing b with
  | nil => exact h
  | cons e t ih =>
    obtain ⟨i, w⟩ := e
    simp only [tblRising, Bool.and_eq_true] at h
    by_cases hp : p (i, w) = true
    · simp only [List.filter_cons, hp, if_true, tblRising, Bool.and_eq_true]
      exact ⟨h.1, ih h.2⟩
    · simp only [List.filter_cons, hp, if_false, Bool.false_eq_true]
      cases b with
      | none => exact ih (tblRising_none h.2)
      | some j => exact ih (tblRising_mono (Nat.le_of_lt (by simpa using h.1)) h.2)

theorem tblRising_tblPut {b : Option Nat} {t : List (Nat × α)} {k : Nat} (v : α) (h : tblRising b t = true)
    (hb : ∀ j, b = some j → j < k) : tblRising b (tblPut k v t) = true := by
  induction t generalizing b with
  | nil => cases b with
    | none => rfl
    | some j => simp [tblPut, tblRising, hb j rfl]
  | cons e t ih =>
    obtain ⟨i, w⟩ := e
    simp only [tblRising, Bool.and_eq_true] at h
    by_cases hi : i < k
    · simp only [tblPut, hi, if_true, tblRising, Bool.and_eq_true]
      exact ⟨h.1, ih h.2 (by intro j hj; cases hj; exact hi)⟩
    · by_cases hik : i = k
      · subst hik; simp only [tblPut, Nat.lt_irrefl, if_false, if_true, tblRising, Bool.and_eq_true]
        exact ⟨h.1, h.2⟩
      · simp only [tblPut, hi, hik, if_false, tblRising, Bool.and_eq_true, decide_eq_true_eq]
        refine ⟨?_, by omega, h.2⟩
        cases b with
        | none => rfl
        | some j => simpa using hb j rfl

theorem tblLean_iff [DecidableEq α] (d : Nat → α) (t : List (Nat × α)) :
    tblLean d t = true ↔ ∀ e ∈ t, e.2 ≠ d e.1 := by
  induction t with
  | nil => simp [tblLean]
  | cons e t ih => obtain ⟨i, w⟩ := e; simp [tblLean, ih]

theorem mem_tblPut {t : List (Nat × α)} {k : Nat} {v : α} {e : Nat × α} (h : e ∈ tblPut k v t) : e = (k, v) ∨ e ∈ t := by
  induction t with
  | nil => simpa [tblPut] using h
  | cons x t ih =>
    obtain ⟨i, w⟩ := x
    by_cases hi : i < k
    · simp only [tblPut, hi, if_true, List.mem_cons] at h
      rcases h with h | h
      · simp [h]
      · rcases ih h with h | h <;> simp [h]
    · by_cases hik : i = k
      · simp only [tblPut, hik, if_false, if_true, Nat.lt_irrefl, List.mem_cons] at h
        rcases h with h | h <;> simp [h]
      · simp only [tblPut, hi, hik, if_false, List.mem_cons] at h
        rcases h with h | h | h <;> simp [h]

/-- Every write keeps the canonical form. -/
theorem tblWf_tblSet [DecidableEq α] {d : Nat → α} {t : List (Nat × α)} (k : Nat) (v : α) (h : tblWf d t = true) :
    tblWf d (tblSet d t k v) = true := by
  simp only [tblWf, Bool.and_eq_true, tblLean_iff] at h ⊢
  by_cases hv : v = d k
  · simp only [tblSet, hv, if_true]
    exact ⟨tblRising_filter _ h.1, fun e he => h.2 e (List.mem_of_mem_filter he)⟩
  · simp only [tblSet, hv, if_false]
    refine ⟨tblRising_tblPut v h.1 (by simp), fun e he => ?_⟩
    rcases mem_tblPut he with rfl | he
    · exact hv
    · exact h.2 e he

/-- Taking entries out keeps the canonical form. -/
theorem tblWf_filter [DecidableEq α] {d : Nat → α} {t : List (Nat × α)} (p : Nat × α → Bool) (h : tblWf d t = true) :
    tblWf d (t.filter p) = true := by
  simp only [tblWf, Bool.and_eq_true, tblLean_iff] at h ⊢
  exact ⟨tblRising_filter _ h.1, fun e he => h.2 e (List.mem_of_mem_filter he)⟩

theorem map_tblPut {β : Type} (f : α → β) (k : Nat) (v : α) (t : List (Nat × α)) :
    (tblPut k v t).map (fun e => (e.1, f e.2)) = tblPut k (f v) (t.map fun e => (e.1, f e.2)) := by
  induction t with
  | nil => rfl
  | cons e t ih =>
    obtain ⟨i, w⟩ := e
    by_cases hi : i < k
    · simp [tblPut, hi, ih]
    · by_cases h' : i = k <;> simp [tblPut, hi, h']

@[simp] theorem find_tblPut_same (k : Nat) (v : α) (t : List (Nat × α)) : Tbl.find (tblPut k v t) k = some v := by
  rw [Tbl.find, map_tblPut, tblGet_tblPut_same]

theorem find_tblPut_ne {k j : Nat} (v : α) (t : List (Nat × α)) (h : j ≠ k) : Tbl.find (tblPut k v t) j = Tbl.find t j := by
  rw [Tbl.find, map_tblPut, tblGet_tblPut_ne _ _ _ h]; rfl

end Sys2Proof.Machine
end

