-- ==== Sys2Proof/Laws/State.lean ====
section
/-!
SUPPORT. What each update of the state leaves: one lemma per field and update, and what each accessor reads after it.
-/
namespace Sys2Proof.Machine

open Sys2Proof

variable (s : State)

/-! ### setRg -/

@[simp] theorem State.setRg_pending (o : Nat) (w : Word) : (s.setRg o w).pending = s.pending := rfl
@[simp] theorem State.setRg_now (o : Nat) (w : Word) : (s.setRg o w).now = s.now := rfl
@[simp] theorem State.setRg_tstamp (o : Nat) (w : Word) : (s.setRg o w).tstamp = s.tstamp := rfl
@[simp] theorem State.setRg_sec (o : Nat) (w : Word) : (s.setRg o w).sec = s.sec := rfl
@[simp] theorem State.setRg_win (o : Nat) (w : Word) : (s.setRg o w).win = s.win := rfl
@[simp] theorem State.setRg_app (o : Nat) (w : Word) : (s.setRg o w).app = s.app := rfl
@[simp] theorem State.setRg_appPrev (o : Nat) (w : Word) : (s.setRg o w).appPrev = s.appPrev := rfl
@[simp] theorem State.setRg_dirty (o : Nat) (w : Word) : (s.setRg o w).dirty = s.dirty := rfl
@[simp] theorem State.setRg_late (o : Nat) (w : Word) : (s.setRg o w).late = s.late := rfl
@[simp] theorem State.setRg_edge (o : Nat) (w : Word) : (s.setRg o w).edge = s.edge := rfl
@[simp] theorem State.setRg_edgeApp (o : Nat) (w : Word) : (s.setRg o w).edgeApp = s.edgeApp := rfl
@[simp] theorem State.setRg_edgePrev (o : Nat) (w : Word) : (s.setRg o w).edgePrev = s.edgePrev := rfl
@[simp] theorem State.setRg_edgeBad (o : Nat) (w : Word) : (s.setRg o w).edgeBad = s.edgeBad := rfl
@[simp] theorem State.setRg_edgeLost (o : Nat) (w : Word) : (s.setRg o w).edgeLost = s.edgeLost := rfl
@[simp] theorem State.setRg_edgeGone (o : Nat) (w : Word) : (s.setRg o w).edgeGone = s.edgeGone := rfl
@[simp] theorem State.setRg_snap (o : Nat) (w : Word) : (s.setRg o w).snap = s.snap := rfl
@[simp] theorem State.setRg_rdata (o : Nat) (w : Word) : (s.setRg o w).rdata = s.rdata := rfl
@[simp] theorem State.setRg_bar2 (o : Nat) (w : Word) : (s.setRg o w).bar2 = s.bar2 := rfl
@[simp] theorem State.setRg_wrote (o : Nat) (w : Word) : (s.setRg o w).wrote = s.wrote := rfl
@[simp] theorem State.setRg_marks (o : Nat) (w : Word) : (s.setRg o w).marks = s.marks := rfl
@[simp] theorem State.setRg_pre (o : Nat) (w : Word) : (s.setRg o w).pre = s.pre := rfl
@[simp] theorem State.setRg_regOld (o : Nat) (w : Word) : (s.setRg o w).regOld = s.regOld := rfl
@[simp] theorem State.setRg_behind (o : Nat) (w : Word) : (s.setRg o w).behind = s.behind := rfl
@[simp] theorem State.setRg_reach (o : Nat) (w : Word) : (s.setRg o w).reach = s.reach := rfl
@[simp] theorem State.setRg_tap (o : Nat) (w : Word) : (s.setRg o w).tap = s.tap := rfl
@[simp] theorem State.setRg_admNow (o : Nat) (w : Word) : (s.setRg o w).admNow = s.admNow := rfl
@[simp] theorem State.setRg_held (o : Nat) (w : Word) : (s.setRg o w).held = s.held := rfl
@[simp] theorem State.setRg_retried (o : Nat) (w : Word) : (s.setRg o w).retried = s.retried := rfl
@[simp] theorem State.setRg_steep (o : Nat) (w : Word) : (s.setRg o w).steep = s.steep := rfl
@[simp] theorem State.setRg_seq (o : Nat) (w : Word) : (s.setRg o w).seq = s.seq := rfl
@[simp] theorem State.setRg_clu (o : Nat) (w : Word) : (s.setRg o w).clu = s.clu := rfl
@[simp] theorem State.setRg_chan (o : Nat) (w : Word) : (s.setRg o w).chan = s.chan := rfl
@[simp] theorem State.setRg_site (o : Nat) (w : Word) : (s.setRg o w).site = s.site := rfl
@[simp] theorem State.setRg_rail (o : Nat) (w : Word) : (s.setRg o w).rail = s.rail := rfl
@[simp] theorem State.setRg_zone (o : Nat) (w : Word) : (s.setRg o w).zone = s.zone := rfl
@[simp] theorem State.setRg_auxOut (o : Nat) (w : Word) : (s.setRg o w).auxOut = s.auxOut := rfl
@[simp] theorem State.setRg_contactAt (o : Nat) (w : Word) : (s.setRg o w).contactAt = s.contactAt := rfl
@[simp] theorem State.setRg_auxClamps (o : Nat) (w : Word) : (s.setRg o w).auxClamps = s.auxClamps := rfl
@[simp] theorem State.setRg_fault (o : Nat) (w : Word) : (s.setRg o w).fault = s.fault := rfl
@[simp] theorem State.setRg_ward (o : Nat) (w : Word) : (s.setRg o w).ward = s.ward := rfl
@[simp] theorem State.setRg_pulses (o : Nat) (w : Word) : (s.setRg o w).pulses = s.pulses := rfl
@[simp] theorem State.setRg_transit (o : Nat) (w : Word) : (s.setRg o w).transit = s.transit := rfl
@[simp] theorem State.setRg_holds (o : Nat) (w : Word) : (s.setRg o w).holds = s.holds := rfl
@[simp] theorem State.setRg_mem (o : Nat) (w : Word) : (s.setRg o w).mem = s.mem := rfl
@[simp] theorem State.setRg_potOld (o : Nat) (w : Word) : (s.setRg o w).potOld = s.potOld := rfl
@[simp] theorem State.setRg_strain (o : Nat) (w : Word) : (s.setRg o w).strain = s.strain := rfl
@[simp] theorem State.setRg_leakAt (o : Nat) (w : Word) : (s.setRg o w).leakAt = s.leakAt := rfl
@[simp] theorem State.setRg_disarmed (o : Nat) (w : Word) : (s.setRg o w).disarmed = s.disarmed := rfl
@[simp] theorem State.setRg_qm (o : Nat) (w : Word) : (s.setRg o w).qm = s.qm := rfl
@[simp] theorem State.setRg_tiu (o : Nat) (w : Word) : (s.setRg o w).tiu = s.tiu := rfl
@[simp] theorem State.setRg_we (o : Nat) (w : Word) : (s.setRg o w).we = s.we := rfl
@[simp] theorem State.setRg_sync (o : Nat) (w : Word) : (s.setRg o w).sync = s.sync := rfl
@[simp] theorem State.setRg_nodesA (o : Nat) (w : Word) : (s.setRg o w).nodesA = s.nodesA := rfl
@[simp] theorem State.setRg_nodesB (o : Nat) (w : Word) : (s.setRg o w).nodesB = s.nodesB := rfl
@[simp] theorem State.setRg_diffRun (o : Nat) (w : Word) : (s.setRg o w).diffRun = s.diffRun := rfl
@[simp] theorem State.setRg_cal (o : Nat) (w : Word) : (s.setRg o w).cal = s.cal := rfl
@[simp] theorem State.setRg_mc (o : Nat) (w : Word) : (s.setRg o w).mc = s.mc := rfl
@[simp] theorem State.setRg_clk (o : Nat) (w : Word) : (s.setRg o w).clk = s.clk := rfl
@[simp] theorem State.setRg_rst (o : Nat) (w : Word) : (s.setRg o w).rst = s.rst := rfl
@[simp] theorem State.setRg_cp (o : Nat) (w : Word) : (s.setRg o w).cp = s.cp := rfl
@[simp] theorem State.setRg_spp (o : Nat) (w : Word) : (s.setRg o w).spp = s.spp := rfl
@[simp] theorem State.setRg_freeCtr (o : Nat) (w : Word) : (s.setRg o w).freeCtr = s.freeCtr := rfl
@[simp] theorem State.setRg_acc_sg (o : Nat) (w : Word) (k : Nat) : (s.setRg o w).sg k = s.sg k := rfl
@[simp] theorem State.setRg_acc_wg (o : Nat) (w : Word) (k : Nat) : (s.setRg o w).wg k = s.wg k := rfl
@[simp] theorem State.setRg_acc_ap (o : Nat) (w : Word) (k : Nat) : (s.setRg o w).ap k = s.ap k := rfl
@[simp] theorem State.setRg_acc_sq (o : Nat) (w : Word) (k : Nat) : (s.setRg o w).sq k = s.sq k := rfl
@[simp] theorem State.setRg_acc_cl (o : Nat) (w : Word) (k : Nat) : (s.setRg o w).cl k = s.cl k := rfl
@[simp] theorem State.setRg_acc_ch (o : Nat) (w : Word) (k : Nat) : (s.setRg o w).ch k = s.ch k := rfl
@[simp] theorem State.setRg_acc_st (o : Nat) (w : Word) (k : Nat) : (s.setRg o w).st k = s.st k := rfl
@[simp] theorem State.setRg_acc_rl (o : Nat) (w : Word) (k : Nat) : (s.setRg o w).rl k = s.rl k := rfl
@[simp] theorem State.setRg_acc_kz (o : Nat) (w : Word) (k : Nat) : (s.setRg o w).kz k = s.kz k := rfl
@[simp] theorem State.setRg_acc_tu (o : Nat) (w : Word) (k : Nat) : (s.setRg o w).tu k = s.tu k := rfl
@[simp] theorem State.setRg_acc_wv (o : Nat) (w : Word) (k : Nat) : (s.setRg o w).wv k = s.wv k := rfl
@[simp] theorem State.setRg_acc_sf (o : Nat) (w : Word) (k a m : Nat) : (s.setRg o w).sf k a m = s.sf k a m := rfl
@[simp] theorem State.setRg_acc_af (o : Nat) (w : Word) (k a m : Nat) : (s.setRg o w).af k a m = s.af k a m := rfl

/-! ### setSg -/

@[simp] theorem State.setSg_pending (o : Nat) (w : Word) : (s.setSg o w).pending = s.pending := rfl
@[simp] theorem State.setSg_now (o : Nat) (w : Word) : (s.setSg o w).now = s.now := rfl
@[simp] theorem State.setSg_tstamp (o : Nat) (w : Word) : (s.setSg o w).tstamp = s.tstamp := rfl
@[simp] theorem State.setSg_reg (o : Nat) (w : Word) : (s.setSg o w).reg = s.reg := rfl
@[simp] theorem State.setSg_win (o : Nat) (w : Word) : (s.setSg o w).win = s.win := rfl
@[simp] theorem State.setSg_app (o : Nat) (w : Word) : (s.setSg o w).app = s.app := rfl
@[simp] theorem State.setSg_appPrev (o : Nat) (w : Word) : (s.setSg o w).appPrev = s.appPrev := rfl
@[simp] theorem State.setSg_dirty (o : Nat) (w : Word) : (s.setSg o w).dirty = s.dirty := rfl
@[simp] theorem State.setSg_late (o : Nat) (w : Word) : (s.setSg o w).late = s.late := rfl
@[simp] theorem State.setSg_edge (o : Nat) (w : Word) : (s.setSg o w).edge = s.edge := rfl
@[simp] theorem State.setSg_edgeApp (o : Nat) (w : Word) : (s.setSg o w).edgeApp = s.edgeApp := rfl
@[simp] theorem State.setSg_edgePrev (o : Nat) (w : Word) : (s.setSg o w).edgePrev = s.edgePrev := rfl
@[simp] theorem State.setSg_edgeBad (o : Nat) (w : Word) : (s.setSg o w).edgeBad = s.edgeBad := rfl
@[simp] theorem State.setSg_edgeLost (o : Nat) (w : Word) : (s.setSg o w).edgeLost = s.edgeLost := rfl
@[simp] theorem State.setSg_edgeGone (o : Nat) (w : Word) : (s.setSg o w).edgeGone = s.edgeGone := rfl
@[simp] theorem State.setSg_snap (o : Nat) (w : Word) : (s.setSg o w).snap = s.snap := rfl
@[simp] theorem State.setSg_rdata (o : Nat) (w : Word) : (s.setSg o w).rdata = s.rdata := rfl
@[simp] theorem State.setSg_bar2 (o : Nat) (w : Word) : (s.setSg o w).bar2 = s.bar2 := rfl
@[simp] theorem State.setSg_wrote (o : Nat) (w : Word) : (s.setSg o w).wrote = s.wrote := rfl
@[simp] theorem State.setSg_marks (o : Nat) (w : Word) : (s.setSg o w).marks = s.marks := rfl
@[simp] theorem State.setSg_pre (o : Nat) (w : Word) : (s.setSg o w).pre = s.pre := rfl
@[simp] theorem State.setSg_regOld (o : Nat) (w : Word) : (s.setSg o w).regOld = s.regOld := rfl
@[simp] theorem State.setSg_behind (o : Nat) (w : Word) : (s.setSg o w).behind = s.behind := rfl
@[simp] theorem State.setSg_reach (o : Nat) (w : Word) : (s.setSg o w).reach = s.reach := rfl
@[simp] theorem State.setSg_tap (o : Nat) (w : Word) : (s.setSg o w).tap = s.tap := rfl
@[simp] theorem State.setSg_admNow (o : Nat) (w : Word) : (s.setSg o w).admNow = s.admNow := rfl
@[simp] theorem State.setSg_held (o : Nat) (w : Word) : (s.setSg o w).held = s.held := rfl
@[simp] theorem State.setSg_retried (o : Nat) (w : Word) : (s.setSg o w).retried = s.retried := rfl
@[simp] theorem State.setSg_steep (o : Nat) (w : Word) : (s.setSg o w).steep = s.steep := rfl
@[simp] theorem State.setSg_seq (o : Nat) (w : Word) : (s.setSg o w).seq = s.seq := rfl
@[simp] theorem State.setSg_clu (o : Nat) (w : Word) : (s.setSg o w).clu = s.clu := rfl
@[simp] theorem State.setSg_chan (o : Nat) (w : Word) : (s.setSg o w).chan = s.chan := rfl
@[simp] theorem State.setSg_site (o : Nat) (w : Word) : (s.setSg o w).site = s.site := rfl
@[simp] theorem State.setSg_rail (o : Nat) (w : Word) : (s.setSg o w).rail = s.rail := rfl
@[simp] theorem State.setSg_zone (o : Nat) (w : Word) : (s.setSg o w).zone = s.zone := rfl
@[simp] theorem State.setSg_auxOut (o : Nat) (w : Word) : (s.setSg o w).auxOut = s.auxOut := rfl
@[simp] theorem State.setSg_contactAt (o : Nat) (w : Word) : (s.setSg o w).contactAt = s.contactAt := rfl
@[simp] theorem State.setSg_auxClamps (o : Nat) (w : Word) : (s.setSg o w).auxClamps = s.auxClamps := rfl
@[simp] theorem State.setSg_fault (o : Nat) (w : Word) : (s.setSg o w).fault = s.fault := rfl
@[simp] theorem State.setSg_ward (o : Nat) (w : Word) : (s.setSg o w).ward = s.ward := rfl
@[simp] theorem State.setSg_pulses (o : Nat) (w : Word) : (s.setSg o w).pulses = s.pulses := rfl
@[simp] theorem State.setSg_transit (o : Nat) (w : Word) : (s.setSg o w).transit = s.transit := rfl
@[simp] theorem State.setSg_holds (o : Nat) (w : Word) : (s.setSg o w).holds = s.holds := rfl
@[simp] theorem State.setSg_mem (o : Nat) (w : Word) : (s.setSg o w).mem = s.mem := rfl
@[simp] theorem State.setSg_potOld (o : Nat) (w : Word) : (s.setSg o w).potOld = s.potOld := rfl
@[simp] theorem State.setSg_strain (o : Nat) (w : Word) : (s.setSg o w).strain = s.strain := rfl
@[simp] theorem State.setSg_leakAt (o : Nat) (w : Word) : (s.setSg o w).leakAt = s.leakAt := rfl
@[simp] theorem State.setSg_disarmed (o : Nat) (w : Word) : (s.setSg o w).disarmed = s.disarmed := rfl
@[simp] theorem State.setSg_qm (o : Nat) (w : Word) : (s.setSg o w).qm = s.qm := rfl
@[simp] theorem State.setSg_tiu (o : Nat) (w : Word) : (s.setSg o w).tiu = s.tiu := rfl
@[simp] theorem State.setSg_we (o : Nat) (w : Word) : (s.setSg o w).we = s.we := rfl
@[simp] theorem State.setSg_sync (o : Nat) (w : Word) : (s.setSg o w).sync = s.sync := rfl
@[simp] theorem State.setSg_nodesA (o : Nat) (w : Word) : (s.setSg o w).nodesA = s.nodesA := rfl
@[simp] theorem State.setSg_nodesB (o : Nat) (w : Word) : (s.setSg o w).nodesB = s.nodesB := rfl
@[simp] theorem State.setSg_diffRun (o : Nat) (w : Word) : (s.setSg o w).diffRun = s.diffRun := rfl
@[simp] theorem State.setSg_cal (o : Nat) (w : Word) : (s.setSg o w).cal = s.cal := rfl
@[simp] theorem State.setSg_mc (o : Nat) (w : Word) : (s.setSg o w).mc = s.mc := rfl
@[simp] theorem State.setSg_clk (o : Nat) (w : Word) : (s.setSg o w).clk = s.clk := rfl
@[simp] theorem State.setSg_rst (o : Nat) (w : Word) : (s.setSg o w).rst = s.rst := rfl
@[simp] theorem State.setSg_cp (o : Nat) (w : Word) : (s.setSg o w).cp = s.cp := rfl
@[simp] theorem State.setSg_spp (o : Nat) (w : Word) : (s.setSg o w).spp = s.spp := rfl
@[simp] theorem State.setSg_freeCtr (o : Nat) (w : Word) : (s.setSg o w).freeCtr = s.freeCtr := rfl
@[simp] theorem State.setSg_acc_rg (o : Nat) (w : Word) (k : Nat) : (s.setSg o w).rg k = s.rg k := rfl
@[simp] theorem State.setSg_acc_wg (o : Nat) (w : Word) (k : Nat) : (s.setSg o w).wg k = s.wg k := rfl
@[simp] theorem State.setSg_acc_ap (o : Nat) (w : Word) (k : Nat) : (s.setSg o w).ap k = s.ap k := rfl
@[simp] theorem State.setSg_acc_sq (o : Nat) (w : Word) (k : Nat) : (s.setSg o w).sq k = s.sq k := rfl
@[simp] theorem State.setSg_acc_cl (o : Nat) (w : Word) (k : Nat) : (s.setSg o w).cl k = s.cl k := rfl
@[simp] theorem State.setSg_acc_ch (o : Nat) (w : Word) (k : Nat) : (s.setSg o w).ch k = s.ch k := rfl
@[simp] theorem State.setSg_acc_st (o : Nat) (w : Word) (k : Nat) : (s.setSg o w).st k = s.st k := rfl
@[simp] theorem State.setSg_acc_rl (o : Nat) (w : Word) (k : Nat) : (s.setSg o w).rl k = s.rl k := rfl
@[simp] theorem State.setSg_acc_kz (o : Nat) (w : Word) (k : Nat) : (s.setSg o w).kz k = s.kz k := rfl
@[simp] theorem State.setSg_acc_tu (o : Nat) (w : Word) (k : Nat) : (s.setSg o w).tu k = s.tu k := rfl
@[simp] theorem State.setSg_acc_wv (o : Nat) (w : Word) (k : Nat) : (s.setSg o w).wv k = s.wv k := rfl
@[simp] theorem State.setSg_acc_rf (o : Nat) (w : Word) (k a m : Nat) : (s.setSg o w).rf k a m = s.rf k a m := rfl
@[simp] theorem State.setSg_acc_rb (o : Nat) (w : Word) (k a : Nat) : (s.setSg o w).rb k a = s.rb k a := rfl
@[simp] theorem State.setSg_acc_af (o : Nat) (w : Word) (k a m : Nat) : (s.setSg o w).af k a m = s.af k a m := rfl

/-! ### setWg -/

@[simp] theorem State.setWg_pending (o : Nat) (w : Word) : (s.setWg o w).pending = s.pending := rfl
@[simp] theorem State.setWg_now (o : Nat) (w : Word) : (s.setWg o w).now = s.now := rfl
@[simp] theorem State.setWg_tstamp (o : Nat) (w : Word) : (s.setWg o w).tstamp = s.tstamp := rfl
@[simp] theorem State.setWg_reg (o : Nat) (w : Word) : (s.setWg o w).reg = s.reg := rfl
@[simp] theorem State.setWg_sec (o : Nat) (w : Word) : (s.setWg o w).sec = s.sec := rfl
@[simp] theorem State.setWg_app (o : Nat) (w : Word) : (s.setWg o w).app = s.app := rfl
@[simp] theorem State.setWg_appPrev (o : Nat) (w : Word) : (s.setWg o w).appPrev = s.appPrev := rfl
@[simp] theorem State.setWg_dirty (o : Nat) (w : Word) : (s.setWg o w).dirty = s.dirty := rfl
@[simp] theorem State.setWg_late (o : Nat) (w : Word) : (s.setWg o w).late = s.late := rfl
@[simp] theorem State.setWg_edge (o : Nat) (w : Word) : (s.setWg o w).edge = s.edge := rfl
@[simp] theorem State.setWg_edgeApp (o : Nat) (w : Word) : (s.setWg o w).edgeApp = s.edgeApp := rfl
@[simp] theorem State.setWg_edgePrev (o : Nat) (w : Word) : (s.setWg o w).edgePrev = s.edgePrev := rfl
@[simp] theorem State.setWg_edgeBad (o : Nat) (w : Word) : (s.setWg o w).edgeBad = s.edgeBad := rfl
@[simp] theorem State.setWg_edgeLost (o : Nat) (w : Word) : (s.setWg o w).edgeLost = s.edgeLost := rfl
@[simp] theorem State.setWg_edgeGone (o : Nat) (w : Word) : (s.setWg o w).edgeGone = s.edgeGone := rfl
@[simp] theorem State.setWg_snap (o : Nat) (w : Word) : (s.setWg o w).snap = s.snap := rfl
@[simp] theorem State.setWg_rdata (o : Nat) (w : Word) : (s.setWg o w).rdata = s.rdata := rfl
@[simp] theorem State.setWg_bar2 (o : Nat) (w : Word) : (s.setWg o w).bar2 = s.bar2 := rfl
@[simp] theorem State.setWg_wrote (o : Nat) (w : Word) : (s.setWg o w).wrote = s.wrote := rfl
@[simp] theorem State.setWg_marks (o : Nat) (w : Word) : (s.setWg o w).marks = s.marks := rfl
@[simp] theorem State.setWg_pre (o : Nat) (w : Word) : (s.setWg o w).pre = s.pre := rfl
@[simp] theorem State.setWg_regOld (o : Nat) (w : Word) : (s.setWg o w).regOld = s.regOld := rfl
@[simp] theorem State.setWg_behind (o : Nat) (w : Word) : (s.setWg o w).behind = s.behind := rfl
@[simp] theorem State.setWg_reach (o : Nat) (w : Word) : (s.setWg o w).reach = s.reach := rfl
@[simp] theorem State.setWg_tap (o : Nat) (w : Word) : (s.setWg o w).tap = s.tap := rfl
@[simp] theorem State.setWg_admNow (o : Nat) (w : Word) : (s.setWg o w).admNow = s.admNow := rfl
@[simp] theorem State.setWg_held (o : Nat) (w : Word) : (s.setWg o w).held = s.held := rfl
@[simp] theorem State.setWg_retried (o : Nat) (w : Word) : (s.setWg o w).retried = s.retried := rfl
@[simp] theorem State.setWg_steep (o : Nat) (w : Word) : (s.setWg o w).steep = s.steep := rfl
@[simp] theorem State.setWg_seq (o : Nat) (w : Word) : (s.setWg o w).seq = s.seq := rfl
@[simp] theorem State.setWg_clu (o : Nat) (w : Word) : (s.setWg o w).clu = s.clu := rfl
@[simp] theorem State.setWg_chan (o : Nat) (w : Word) : (s.setWg o w).chan = s.chan := rfl
@[simp] theorem State.setWg_site (o : Nat) (w : Word) : (s.setWg o w).site = s.site := rfl
@[simp] theorem State.setWg_rail (o : Nat) (w : Word) : (s.setWg o w).rail = s.rail := rfl
@[simp] theorem State.setWg_zone (o : Nat) (w : Word) : (s.setWg o w).zone = s.zone := rfl
@[simp] theorem State.setWg_auxOut (o : Nat) (w : Word) : (s.setWg o w).auxOut = s.auxOut := rfl
@[simp] theorem State.setWg_contactAt (o : Nat) (w : Word) : (s.setWg o w).contactAt = s.contactAt := rfl
@[simp] theorem State.setWg_auxClamps (o : Nat) (w : Word) : (s.setWg o w).auxClamps = s.auxClamps := rfl
@[simp] theorem State.setWg_fault (o : Nat) (w : Word) : (s.setWg o w).fault = s.fault := rfl
@[simp] theorem State.setWg_ward (o : Nat) (w : Word) : (s.setWg o w).ward = s.ward := rfl
@[simp] theorem State.setWg_pulses (o : Nat) (w : Word) : (s.setWg o w).pulses = s.pulses := rfl
@[simp] theorem State.setWg_transit (o : Nat) (w : Word) : (s.setWg o w).transit = s.transit := rfl
@[simp] theorem State.setWg_holds (o : Nat) (w : Word) : (s.setWg o w).holds = s.holds := rfl
@[simp] theorem State.setWg_mem (o : Nat) (w : Word) : (s.setWg o w).mem = s.mem := rfl
@[simp] theorem State.setWg_potOld (o : Nat) (w : Word) : (s.setWg o w).potOld = s.potOld := rfl
@[simp] theorem State.setWg_strain (o : Nat) (w : Word) : (s.setWg o w).strain = s.strain := rfl
@[simp] theorem State.setWg_leakAt (o : Nat) (w : Word) : (s.setWg o w).leakAt = s.leakAt := rfl
@[simp] theorem State.setWg_disarmed (o : Nat) (w : Word) : (s.setWg o w).disarmed = s.disarmed := rfl
@[simp] theorem State.setWg_qm (o : Nat) (w : Word) : (s.setWg o w).qm = s.qm := rfl
@[simp] theorem State.setWg_tiu (o : Nat) (w : Word) : (s.setWg o w).tiu = s.tiu := rfl
@[simp] theorem State.setWg_we (o : Nat) (w : Word) : (s.setWg o w).we = s.we := rfl
@[simp] theorem State.setWg_sync (o : Nat) (w : Word) : (s.setWg o w).sync = s.sync := rfl
@[simp] theorem State.setWg_nodesA (o : Nat) (w : Word) : (s.setWg o w).nodesA = s.nodesA := rfl
@[simp] theorem State.setWg_nodesB (o : Nat) (w : Word) : (s.setWg o w).nodesB = s.nodesB := rfl
@[simp] theorem State.setWg_diffRun (o : Nat) (w : Word) : (s.setWg o w).diffRun = s.diffRun := rfl
@[simp] theorem State.setWg_cal (o : Nat) (w : Word) : (s.setWg o w).cal = s.cal := rfl
@[simp] theorem State.setWg_mc (o : Nat) (w : Word) : (s.setWg o w).mc = s.mc := rfl
@[simp] theorem State.setWg_clk (o : Nat) (w : Word) : (s.setWg o w).clk = s.clk := rfl
@[simp] theorem State.setWg_rst (o : Nat) (w : Word) : (s.setWg o w).rst = s.rst := rfl
@[simp] theorem State.setWg_cp (o : Nat) (w : Word) : (s.setWg o w).cp = s.cp := rfl
@[simp] theorem State.setWg_spp (o : Nat) (w : Word) : (s.setWg o w).spp = s.spp := rfl
@[simp] theorem State.setWg_freeCtr (o : Nat) (w : Word) : (s.setWg o w).freeCtr = s.freeCtr := rfl
@[simp] theorem State.setWg_acc_rg (o : Nat) (w : Word) (k : Nat) : (s.setWg o w).rg k = s.rg k := rfl
@[simp] theorem State.setWg_acc_sg (o : Nat) (w : Word) (k : Nat) : (s.setWg o w).sg k = s.sg k := rfl
@[simp] theorem State.setWg_acc_ap (o : Nat) (w : Word) (k : Nat) : (s.setWg o w).ap k = s.ap k := rfl
@[simp] theorem State.setWg_acc_sq (o : Nat) (w : Word) (k : Nat) : (s.setWg o w).sq k = s.sq k := rfl
@[simp] theorem State.setWg_acc_cl (o : Nat) (w : Word) (k : Nat) : (s.setWg o w).cl k = s.cl k := rfl
@[simp] theorem State.setWg_acc_ch (o : Nat) (w : Word) (k : Nat) : (s.setWg o w).ch k = s.ch k := rfl
@[simp] theorem State.setWg_acc_st (o : Nat) (w : Word) (k : Nat) : (s.setWg o w).st k = s.st k := rfl
@[simp] theorem State.setWg_acc_rl (o : Nat) (w : Word) (k : Nat) : (s.setWg o w).rl k = s.rl k := rfl
@[simp] theorem State.setWg_acc_kz (o : Nat) (w : Word) (k : Nat) : (s.setWg o w).kz k = s.kz k := rfl
@[simp] theorem State.setWg_acc_tu (o : Nat) (w : Word) (k : Nat) : (s.setWg o w).tu k = s.tu k := rfl
@[simp] theorem State.setWg_acc_wv (o : Nat) (w : Word) (k : Nat) : (s.setWg o w).wv k = s.wv k := rfl
@[simp] theorem State.setWg_acc_rf (o : Nat) (w : Word) (k a m : Nat) : (s.setWg o w).rf k a m = s.rf k a m := rfl
@[simp] theorem State.setWg_acc_rb (o : Nat) (w : Word) (k a : Nat) : (s.setWg o w).rb k a = s.rb k a := rfl
@[simp] theorem State.setWg_acc_sf (o : Nat) (w : Word) (k a m : Nat) : (s.setWg o w).sf k a m = s.sf k a m := rfl
@[simp] theorem State.setWg_acc_af (o : Nat) (w : Word) (k a m : Nat) : (s.setWg o w).af k a m = s.af k a m := rfl

/-! ### setAp -/

@[simp] theorem State.setAp_pending (o : Nat) (w : Word) : (s.setAp o w).pending = s.pending := rfl
@[simp] theorem State.setAp_now (o : Nat) (w : Word) : (s.setAp o w).now = s.now := rfl
@[simp] theorem State.setAp_tstamp (o : Nat) (w : Word) : (s.setAp o w).tstamp = s.tstamp := rfl
@[simp] theorem State.setAp_reg (o : Nat) (w : Word) : (s.setAp o w).reg = s.reg := rfl
@[simp] theorem State.setAp_sec (o : Nat) (w : Word) : (s.setAp o w).sec = s.sec := rfl
@[simp] theorem State.setAp_win (o : Nat) (w : Word) : (s.setAp o w).win = s.win := rfl
@[simp] theorem State.setAp_appPrev (o : Nat) (w : Word) : (s.setAp o w).appPrev = s.appPrev := rfl
@[simp] theorem State.setAp_dirty (o : Nat) (w : Word) : (s.setAp o w).dirty = s.dirty := rfl
@[simp] theorem State.setAp_late (o : Nat) (w : Word) : (s.setAp o w).late = s.late := rfl
@[simp] theorem State.setAp_edge (o : Nat) (w : Word) : (s.setAp o w).edge = s.edge := rfl
@[simp] theorem State.setAp_edgeApp (o : Nat) (w : Word) : (s.setAp o w).edgeApp = s.edgeApp := rfl
@[simp] theorem State.setAp_edgePrev (o : Nat) (w : Word) : (s.setAp o w).edgePrev = s.edgePrev := rfl
@[simp] theorem State.setAp_edgeBad (o : Nat) (w : Word) : (s.setAp o w).edgeBad = s.edgeBad := rfl
@[simp] theorem State.setAp_edgeLost (o : Nat) (w : Word) : (s.setAp o w).edgeLost = s.edgeLost := rfl
@[simp] theorem State.setAp_edgeGone (o : Nat) (w : Word) : (s.setAp o w).edgeGone = s.edgeGone := rfl
@[simp] theorem State.setAp_snap (o : Nat) (w : Word) : (s.setAp o w).snap = s.snap := rfl
@[simp] theorem State.setAp_rdata (o : Nat) (w : Word) : (s.setAp o w).rdata = s.rdata := rfl
@[simp] theorem State.setAp_bar2 (o : Nat) (w : Word) : (s.setAp o w).bar2 = s.bar2 := rfl
@[simp] theorem State.setAp_wrote (o : Nat) (w : Word) : (s.setAp o w).wrote = s.wrote := rfl
@[simp] theorem State.setAp_marks (o : Nat) (w : Word) : (s.setAp o w).marks = s.marks := rfl
@[simp] theorem State.setAp_pre (o : Nat) (w : Word) : (s.setAp o w).pre = s.pre := rfl
@[simp] theorem State.setAp_regOld (o : Nat) (w : Word) : (s.setAp o w).regOld = s.regOld := rfl
@[simp] theorem State.setAp_behind (o : Nat) (w : Word) : (s.setAp o w).behind = s.behind := rfl
@[simp] theorem State.setAp_reach (o : Nat) (w : Word) : (s.setAp o w).reach = s.reach := rfl
@[simp] theorem State.setAp_tap (o : Nat) (w : Word) : (s.setAp o w).tap = s.tap := rfl
@[simp] theorem State.setAp_admNow (o : Nat) (w : Word) : (s.setAp o w).admNow = s.admNow := rfl
@[simp] theorem State.setAp_held (o : Nat) (w : Word) : (s.setAp o w).held = s.held := rfl
@[simp] theorem State.setAp_retried (o : Nat) (w : Word) : (s.setAp o w).retried = s.retried := rfl
@[simp] theorem State.setAp_steep (o : Nat) (w : Word) : (s.setAp o w).steep = s.steep := rfl
@[simp] theorem State.setAp_seq (o : Nat) (w : Word) : (s.setAp o w).seq = s.seq := rfl
@[simp] theorem State.setAp_clu (o : Nat) (w : Word) : (s.setAp o w).clu = s.clu := rfl
@[simp] theorem State.setAp_chan (o : Nat) (w : Word) : (s.setAp o w).chan = s.chan := rfl
@[simp] theorem State.setAp_site (o : Nat) (w : Word) : (s.setAp o w).site = s.site := rfl
@[simp] theorem State.setAp_rail (o : Nat) (w : Word) : (s.setAp o w).rail = s.rail := rfl
@[simp] theorem State.setAp_zone (o : Nat) (w : Word) : (s.setAp o w).zone = s.zone := rfl
@[simp] theorem State.setAp_auxOut (o : Nat) (w : Word) : (s.setAp o w).auxOut = s.auxOut := rfl
@[simp] theorem State.setAp_contactAt (o : Nat) (w : Word) : (s.setAp o w).contactAt = s.contactAt := rfl
@[simp] theorem State.setAp_auxClamps (o : Nat) (w : Word) : (s.setAp o w).auxClamps = s.auxClamps := rfl
@[simp] theorem State.setAp_fault (o : Nat) (w : Word) : (s.setAp o w).fault = s.fault := rfl
@[simp] theorem State.setAp_ward (o : Nat) (w : Word) : (s.setAp o w).ward = s.ward := rfl
@[simp] theorem State.setAp_pulses (o : Nat) (w : Word) : (s.setAp o w).pulses = s.pulses := rfl
@[simp] theorem State.setAp_transit (o : Nat) (w : Word) : (s.setAp o w).transit = s.transit := rfl
@[simp] theorem State.setAp_holds (o : Nat) (w : Word) : (s.setAp o w).holds = s.holds := rfl
@[simp] theorem State.setAp_mem (o : Nat) (w : Word) : (s.setAp o w).mem = s.mem := rfl
@[simp] theorem State.setAp_potOld (o : Nat) (w : Word) : (s.setAp o w).potOld = s.potOld := rfl
@[simp] theorem State.setAp_strain (o : Nat) (w : Word) : (s.setAp o w).strain = s.strain := rfl
@[simp] theorem State.setAp_leakAt (o : Nat) (w : Word) : (s.setAp o w).leakAt = s.leakAt := rfl
@[simp] theorem State.setAp_disarmed (o : Nat) (w : Word) : (s.setAp o w).disarmed = s.disarmed := rfl
@[simp] theorem State.setAp_qm (o : Nat) (w : Word) : (s.setAp o w).qm = s.qm := rfl
@[simp] theorem State.setAp_tiu (o : Nat) (w : Word) : (s.setAp o w).tiu = s.tiu := rfl
@[simp] theorem State.setAp_we (o : Nat) (w : Word) : (s.setAp o w).we = s.we := rfl
@[simp] theorem State.setAp_sync (o : Nat) (w : Word) : (s.setAp o w).sync = s.sync := rfl
@[simp] theorem State.setAp_nodesA (o : Nat) (w : Word) : (s.setAp o w).nodesA = s.nodesA := rfl
@[simp] theorem State.setAp_nodesB (o : Nat) (w : Word) : (s.setAp o w).nodesB = s.nodesB := rfl
@[simp] theorem State.setAp_diffRun (o : Nat) (w : Word) : (s.setAp o w).diffRun = s.diffRun := rfl
@[simp] theorem State.setAp_cal (o : Nat) (w : Word) : (s.setAp o w).cal = s.cal := rfl
@[simp] theorem State.setAp_mc (o : Nat) (w : Word) : (s.setAp o w).mc = s.mc := rfl
@[simp] theorem State.setAp_clk (o : Nat) (w : Word) : (s.setAp o w).clk = s.clk := rfl
@[simp] theorem State.setAp_rst (o : Nat) (w : Word) : (s.setAp o w).rst = s.rst := rfl
@[simp] theorem State.setAp_cp (o : Nat) (w : Word) : (s.setAp o w).cp = s.cp := rfl
@[simp] theorem State.setAp_spp (o : Nat) (w : Word) : (s.setAp o w).spp = s.spp := rfl
@[simp] theorem State.setAp_freeCtr (o : Nat) (w : Word) : (s.setAp o w).freeCtr = s.freeCtr := rfl
@[simp] theorem State.setAp_acc_rg (o : Nat) (w : Word) (k : Nat) : (s.setAp o w).rg k = s.rg k := rfl
@[simp] theorem State.setAp_acc_sg (o : Nat) (w : Word) (k : Nat) : (s.setAp o w).sg k = s.sg k := rfl
@[simp] theorem State.setAp_acc_wg (o : Nat) (w : Word) (k : Nat) : (s.setAp o w).wg k = s.wg k := rfl
@[simp] theorem State.setAp_acc_sq (o : Nat) (w : Word) (k : Nat) : (s.setAp o w).sq k = s.sq k := rfl
@[simp] theorem State.setAp_acc_cl (o : Nat) (w : Word) (k : Nat) : (s.setAp o w).cl k = s.cl k := rfl
@[simp] theorem State.setAp_acc_ch (o : Nat) (w : Word) (k : Nat) : (s.setAp o w).ch k = s.ch k := rfl
@[simp] theorem State.setAp_acc_st (o : Nat) (w : Word) (k : Nat) : (s.setAp o w).st k = s.st k := rfl
@[simp] theorem State.setAp_acc_rl (o : Nat) (w : Word) (k : Nat) : (s.setAp o w).rl k = s.rl k := rfl
@[simp] theorem State.setAp_acc_kz (o : Nat) (w : Word) (k : Nat) : (s.setAp o w).kz k = s.kz k := rfl
@[simp] theorem State.setAp_acc_tu (o : Nat) (w : Word) (k : Nat) : (s.setAp o w).tu k = s.tu k := rfl
@[simp] theorem State.setAp_acc_wv (o : Nat) (w : Word) (k : Nat) : (s.setAp o w).wv k = s.wv k := rfl
@[simp] theorem State.setAp_acc_rf (o : Nat) (w : Word) (k a m : Nat) : (s.setAp o w).rf k a m = s.rf k a m := rfl
@[simp] theorem State.setAp_acc_rb (o : Nat) (w : Word) (k a : Nat) : (s.setAp o w).rb k a = s.rb k a := rfl
@[simp] theorem State.setAp_acc_sf (o : Nat) (w : Word) (k a m : Nat) : (s.setAp o w).sf k a m = s.sf k a m := rfl

/-! ### setSq -/

@[simp] theorem State.setSq_pending (x : Nat) (v : SeqSt) : (s.setSq x v).pending = s.pending := rfl
@[simp] theorem State.setSq_now (x : Nat) (v : SeqSt) : (s.setSq x v).now = s.now := rfl
@[simp] theorem State.setSq_tstamp (x : Nat) (v : SeqSt) : (s.setSq x v).tstamp = s.tstamp := rfl
@[simp] theorem State.setSq_reg (x : Nat) (v : SeqSt) : (s.setSq x v).reg = s.reg := rfl
@[simp] theorem State.setSq_sec (x : Nat) (v : SeqSt) : (s.setSq x v).sec = s.sec := rfl
@[simp] theorem State.setSq_win (x : Nat) (v : SeqSt) : (s.setSq x v).win = s.win := rfl
@[simp] theorem State.setSq_app (x : Nat) (v : SeqSt) : (s.setSq x v).app = s.app := rfl
@[simp] theorem State.setSq_appPrev (x : Nat) (v : SeqSt) : (s.setSq x v).appPrev = s.appPrev := rfl
@[simp] theorem State.setSq_dirty (x : Nat) (v : SeqSt) : (s.setSq x v).dirty = s.dirty := rfl
@[simp] theorem State.setSq_late (x : Nat) (v : SeqSt) : (s.setSq x v).late = s.late := rfl
@[simp] theorem State.setSq_edge (x : Nat) (v : SeqSt) : (s.setSq x v).edge = s.edge := rfl
@[simp] theorem State.setSq_edgeApp (x : Nat) (v : SeqSt) : (s.setSq x v).edgeApp = s.edgeApp := rfl
@[simp] theorem State.setSq_edgePrev (x : Nat) (v : SeqSt) : (s.setSq x v).edgePrev = s.edgePrev := rfl
@[simp] theorem State.setSq_edgeBad (x : Nat) (v : SeqSt) : (s.setSq x v).edgeBad = s.edgeBad := rfl
@[simp] theorem State.setSq_edgeLost (x : Nat) (v : SeqSt) : (s.setSq x v).edgeLost = s.edgeLost := rfl
@[simp] theorem State.setSq_edgeGone (x : Nat) (v : SeqSt) : (s.setSq x v).edgeGone = s.edgeGone := rfl
@[simp] theorem State.setSq_snap (x : Nat) (v : SeqSt) : (s.setSq x v).snap = s.snap := rfl
@[simp] theorem State.setSq_rdata (x : Nat) (v : SeqSt) : (s.setSq x v).rdata = s.rdata := rfl
@[simp] theorem State.setSq_bar2 (x : Nat) (v : SeqSt) : (s.setSq x v).bar2 = s.bar2 := rfl
@[simp] theorem State.setSq_wrote (x : Nat) (v : SeqSt) : (s.setSq x v).wrote = s.wrote := rfl
@[simp] theorem State.setSq_marks (x : Nat) (v : SeqSt) : (s.setSq x v).marks = s.marks := rfl
@[simp] theorem State.setSq_pre (x : Nat) (v : SeqSt) : (s.setSq x v).pre = s.pre := rfl
@[simp] theorem State.setSq_regOld (x : Nat) (v : SeqSt) : (s.setSq x v).regOld = s.regOld := rfl
@[simp] theorem State.setSq_behind (x : Nat) (v : SeqSt) : (s.setSq x v).behind = s.behind := rfl
@[simp] theorem State.setSq_reach (x : Nat) (v : SeqSt) : (s.setSq x v).reach = s.reach := rfl
@[simp] theorem State.setSq_tap (x : Nat) (v : SeqSt) : (s.setSq x v).tap = s.tap := rfl
@[simp] theorem State.setSq_admNow (x : Nat) (v : SeqSt) : (s.setSq x v).admNow = s.admNow := rfl
@[simp] theorem State.setSq_held (x : Nat) (v : SeqSt) : (s.setSq x v).held = s.held := rfl
@[simp] theorem State.setSq_retried (x : Nat) (v : SeqSt) : (s.setSq x v).retried = s.retried := rfl
@[simp] theorem State.setSq_steep (x : Nat) (v : SeqSt) : (s.setSq x v).steep = s.steep := rfl
@[simp] theorem State.setSq_clu (x : Nat) (v : SeqSt) : (s.setSq x v).clu = s.clu := rfl
@[simp] theorem State.setSq_chan (x : Nat) (v : SeqSt) : (s.setSq x v).chan = s.chan := rfl
@[simp] theorem State.setSq_site (x : Nat) (v : SeqSt) : (s.setSq x v).site = s.site := rfl
@[simp] theorem State.setSq_rail (x : Nat) (v : SeqSt) : (s.setSq x v).rail = s.rail := rfl
@[simp] theorem State.setSq_zone (x : Nat) (v : SeqSt) : (s.setSq x v).zone = s.zone := rfl
@[simp] theorem State.setSq_auxOut (x : Nat) (v : SeqSt) : (s.setSq x v).auxOut = s.auxOut := rfl
@[simp] theorem State.setSq_contactAt (x : Nat) (v : SeqSt) : (s.setSq x v).contactAt = s.contactAt := rfl
@[simp] theorem State.setSq_auxClamps (x : Nat) (v : SeqSt) : (s.setSq x v).auxClamps = s.auxClamps := rfl
@[simp] theorem State.setSq_fault (x : Nat) (v : SeqSt) : (s.setSq x v).fault = s.fault := rfl
@[simp] theorem State.setSq_ward (x : Nat) (v : SeqSt) : (s.setSq x v).ward = s.ward := rfl
@[simp] theorem State.setSq_pulses (x : Nat) (v : SeqSt) : (s.setSq x v).pulses = s.pulses := rfl
@[simp] theorem State.setSq_transit (x : Nat) (v : SeqSt) : (s.setSq x v).transit = s.transit := rfl
@[simp] theorem State.setSq_holds (x : Nat) (v : SeqSt) : (s.setSq x v).holds = s.holds := rfl
@[simp] theorem State.setSq_mem (x : Nat) (v : SeqSt) : (s.setSq x v).mem = s.mem := rfl
@[simp] theorem State.setSq_potOld (x : Nat) (v : SeqSt) : (s.setSq x v).potOld = s.potOld := rfl
@[simp] theorem State.setSq_strain (x : Nat) (v : SeqSt) : (s.setSq x v).strain = s.strain := rfl
@[simp] theorem State.setSq_leakAt (x : Nat) (v : SeqSt) : (s.setSq x v).leakAt = s.leakAt := rfl
@[simp] theorem State.setSq_disarmed (x : Nat) (v : SeqSt) : (s.setSq x v).disarmed = s.disarmed := rfl
@[simp] theorem State.setSq_qm (x : Nat) (v : SeqSt) : (s.setSq x v).qm = s.qm := rfl
@[simp] theorem State.setSq_tiu (x : Nat) (v : SeqSt) : (s.setSq x v).tiu = s.tiu := rfl
@[simp] theorem State.setSq_we (x : Nat) (v : SeqSt) : (s.setSq x v).we = s.we := rfl
@[simp] theorem State.setSq_sync (x : Nat) (v : SeqSt) : (s.setSq x v).sync = s.sync := rfl
@[simp] theorem State.setSq_nodesA (x : Nat) (v : SeqSt) : (s.setSq x v).nodesA = s.nodesA := rfl
@[simp] theorem State.setSq_nodesB (x : Nat) (v : SeqSt) : (s.setSq x v).nodesB = s.nodesB := rfl
@[simp] theorem State.setSq_diffRun (x : Nat) (v : SeqSt) : (s.setSq x v).diffRun = s.diffRun := rfl
@[simp] theorem State.setSq_cal (x : Nat) (v : SeqSt) : (s.setSq x v).cal = s.cal := rfl
@[simp] theorem State.setSq_mc (x : Nat) (v : SeqSt) : (s.setSq x v).mc = s.mc := rfl
@[simp] theorem State.setSq_clk (x : Nat) (v : SeqSt) : (s.setSq x v).clk = s.clk := rfl
@[simp] theorem State.setSq_rst (x : Nat) (v : SeqSt) : (s.setSq x v).rst = s.rst := rfl
@[simp] theorem State.setSq_cp (x : Nat) (v : SeqSt) : (s.setSq x v).cp = s.cp := rfl
@[simp] theorem State.setSq_spp (x : Nat) (v : SeqSt) : (s.setSq x v).spp = s.spp := rfl
@[simp] theorem State.setSq_freeCtr (x : Nat) (v : SeqSt) : (s.setSq x v).freeCtr = s.freeCtr := rfl
@[simp] theorem State.setSq_acc_rg (x : Nat) (v : SeqSt) (k : Nat) : (s.setSq x v).rg k = s.rg k := rfl
@[simp] theorem State.setSq_acc_sg (x : Nat) (v : SeqSt) (k : Nat) : (s.setSq x v).sg k = s.sg k := rfl
@[simp] theorem State.setSq_acc_wg (x : Nat) (v : SeqSt) (k : Nat) : (s.setSq x v).wg k = s.wg k := rfl
@[simp] theorem State.setSq_acc_ap (x : Nat) (v : SeqSt) (k : Nat) : (s.setSq x v).ap k = s.ap k := rfl
@[simp] theorem State.setSq_acc_cl (x : Nat) (v : SeqSt) (k : Nat) : (s.setSq x v).cl k = s.cl k := rfl
@[simp] theorem State.setSq_acc_ch (x : Nat) (v : SeqSt) (k : Nat) : (s.setSq x v).ch k = s.ch k := rfl
@[simp] theorem State.setSq_acc_st (x : Nat) (v : SeqSt) (k : Nat) : (s.setSq x v).st k = s.st k := rfl
@[simp] theorem State.setSq_acc_rl (x : Nat) (v : SeqSt) (k : Nat) : (s.setSq x v).rl k = s.rl k := rfl
@[simp] theorem State.setSq_acc_kz (x : Nat) (v : SeqSt) (k : Nat) : (s.setSq x v).kz k = s.kz k := rfl
@[simp] theorem State.setSq_acc_tu (x : Nat) (v : SeqSt) (k : Nat) : (s.setSq x v).tu k = s.tu k := rfl
@[simp] theorem State.setSq_acc_wv (x : Nat) (v : SeqSt) (k : Nat) : (s.setSq x v).wv k = s.wv k := rfl
@[simp] theorem State.setSq_acc_rf (x : Nat) (v : SeqSt) (k a m : Nat) : (s.setSq x v).rf k a m = s.rf k a m := rfl
@[simp] theorem State.setSq_acc_rb (x : Nat) (v : SeqSt) (k a : Nat) : (s.setSq x v).rb k a = s.rb k a := rfl
@[simp] theorem State.setSq_acc_sf (x : Nat) (v : SeqSt) (k a m : Nat) : (s.setSq x v).sf k a m = s.sf k a m := rfl
@[simp] theorem State.setSq_acc_af (x : Nat) (v : SeqSt) (k a m : Nat) : (s.setSq x v).af k a m = s.af k a m := rfl

/-! ### setCl -/

@[simp] theorem State.setCl_pending (x : Nat) (v : CluSt) : (s.setCl x v).pending = s.pending := rfl
@[simp] theorem State.setCl_now (x : Nat) (v : CluSt) : (s.setCl x v).now = s.now := rfl
@[simp] theorem State.setCl_tstamp (x : Nat) (v : CluSt) : (s.setCl x v).tstamp = s.tstamp := rfl
@[simp] theorem State.setCl_reg (x : Nat) (v : CluSt) : (s.setCl x v).reg = s.reg := rfl
@[simp] theorem State.setCl_sec (x : Nat) (v : CluSt) : (s.setCl x v).sec = s.sec := rfl
@[simp] theorem State.setCl_win (x : Nat) (v : CluSt) : (s.setCl x v).win = s.win := rfl
@[simp] theorem State.setCl_app (x : Nat) (v : CluSt) : (s.setCl x v).app = s.app := rfl
@[simp] theorem State.setCl_appPrev (x : Nat) (v : CluSt) : (s.setCl x v).appPrev = s.appPrev := rfl
@[simp] theorem State.setCl_dirty (x : Nat) (v : CluSt) : (s.setCl x v).dirty = s.dirty := rfl
@[simp] theorem State.setCl_late (x : Nat) (v : CluSt) : (s.setCl x v).late = s.late := rfl
@[simp] theorem State.setCl_edge (x : Nat) (v : CluSt) : (s.setCl x v).edge = s.edge := rfl
@[simp] theorem State.setCl_edgeApp (x : Nat) (v : CluSt) : (s.setCl x v).edgeApp = s.edgeApp := rfl
@[simp] theorem State.setCl_edgePrev (x : Nat) (v : CluSt) : (s.setCl x v).edgePrev = s.edgePrev := rfl
@[simp] theorem State.setCl_edgeBad (x : Nat) (v : CluSt) : (s.setCl x v).edgeBad = s.edgeBad := rfl
@[simp] theorem State.setCl_edgeLost (x : Nat) (v : CluSt) : (s.setCl x v).edgeLost = s.edgeLost := rfl
@[simp] theorem State.setCl_edgeGone (x : Nat) (v : CluSt) : (s.setCl x v).edgeGone = s.edgeGone := rfl
@[simp] theorem State.setCl_snap (x : Nat) (v : CluSt) : (s.setCl x v).snap = s.snap := rfl
@[simp] theorem State.setCl_rdata (x : Nat) (v : CluSt) : (s.setCl x v).rdata = s.rdata := rfl
@[simp] theorem State.setCl_bar2 (x : Nat) (v : CluSt) : (s.setCl x v).bar2 = s.bar2 := rfl
@[simp] theorem State.setCl_wrote (x : Nat) (v : CluSt) : (s.setCl x v).wrote = s.wrote := rfl
@[simp] theorem State.setCl_marks (x : Nat) (v : CluSt) : (s.setCl x v).marks = s.marks := rfl
@[simp] theorem State.setCl_pre (x : Nat) (v : CluSt) : (s.setCl x v).pre = s.pre := rfl
@[simp] theorem State.setCl_regOld (x : Nat) (v : CluSt) : (s.setCl x v).regOld = s.regOld := rfl
@[simp] theorem State.setCl_behind (x : Nat) (v : CluSt) : (s.setCl x v).behind = s.behind := rfl
@[simp] theorem State.setCl_reach (x : Nat) (v : CluSt) : (s.setCl x v).reach = s.reach := rfl
@[simp] theorem State.setCl_tap (x : Nat) (v : CluSt) : (s.setCl x v).tap = s.tap := rfl
@[simp] theorem State.setCl_admNow (x : Nat) (v : CluSt) : (s.setCl x v).admNow = s.admNow := rfl
@[simp] theorem State.setCl_held (x : Nat) (v : CluSt) : (s.setCl x v).held = s.held := rfl
@[simp] theorem State.setCl_retried (x : Nat) (v : CluSt) : (s.setCl x v).retried = s.retried := rfl
@[simp] theorem State.setCl_steep (x : Nat) (v : CluSt) : (s.setCl x v).steep = s.steep := rfl
@[simp] theorem State.setCl_seq (x : Nat) (v : CluSt) : (s.setCl x v).seq = s.seq := rfl
@[simp] theorem State.setCl_chan (x : Nat) (v : CluSt) : (s.setCl x v).chan = s.chan := rfl
@[simp] theorem State.setCl_site (x : Nat) (v : CluSt) : (s.setCl x v).site = s.site := rfl
@[simp] theorem State.setCl_rail (x : Nat) (v : CluSt) : (s.setCl x v).rail = s.rail := rfl
@[simp] theorem State.setCl_zone (x : Nat) (v : CluSt) : (s.setCl x v).zone = s.zone := rfl
@[simp] theorem State.setCl_auxOut (x : Nat) (v : CluSt) : (s.setCl x v).auxOut = s.auxOut := rfl
@[simp] theorem State.setCl_contactAt (x : Nat) (v : CluSt) : (s.setCl x v).contactAt = s.contactAt := rfl
@[simp] theorem State.setCl_auxClamps (x : Nat) (v : CluSt) : (s.setCl x v).auxClamps = s.auxClamps := rfl
@[simp] theorem State.setCl_fault (x : Nat) (v : CluSt) : (s.setCl x v).fault = s.fault := rfl
@[simp] theorem State.setCl_ward (x : Nat) (v : CluSt) : (s.setCl x v).ward = s.ward := rfl
@[simp] theorem State.setCl_pulses (x : Nat) (v : CluSt) : (s.setCl x v).pulses = s.pulses := rfl
@[simp] theorem State.setCl_transit (x : Nat) (v : CluSt) : (s.setCl x v).transit = s.transit := rfl
@[simp] theorem State.setCl_holds (x : Nat) (v : CluSt) : (s.setCl x v).holds = s.holds := rfl
@[simp] theorem State.setCl_mem (x : Nat) (v : CluSt) : (s.setCl x v).mem = s.mem := rfl
@[simp] theorem State.setCl_potOld (x : Nat) (v : CluSt) : (s.setCl x v).potOld = s.potOld := rfl
@[simp] theorem State.setCl_strain (x : Nat) (v : CluSt) : (s.setCl x v).strain = s.strain := rfl
@[simp] theorem State.setCl_leakAt (x : Nat) (v : CluSt) : (s.setCl x v).leakAt = s.leakAt := rfl
@[simp] theorem State.setCl_disarmed (x : Nat) (v : CluSt) : (s.setCl x v).disarmed = s.disarmed := rfl
@[simp] theorem State.setCl_qm (x : Nat) (v : CluSt) : (s.setCl x v).qm = s.qm := rfl
@[simp] theorem State.setCl_tiu (x : Nat) (v : CluSt) : (s.setCl x v).tiu = s.tiu := rfl
@[simp] theorem State.setCl_we (x : Nat) (v : CluSt) : (s.setCl x v).we = s.we := rfl
@[simp] theorem State.setCl_sync (x : Nat) (v : CluSt) : (s.setCl x v).sync = s.sync := rfl
@[simp] theorem State.setCl_nodesA (x : Nat) (v : CluSt) : (s.setCl x v).nodesA = s.nodesA := rfl
@[simp] theorem State.setCl_nodesB (x : Nat) (v : CluSt) : (s.setCl x v).nodesB = s.nodesB := rfl
@[simp] theorem State.setCl_diffRun (x : Nat) (v : CluSt) : (s.setCl x v).diffRun = s.diffRun := rfl
@[simp] theorem State.setCl_cal (x : Nat) (v : CluSt) : (s.setCl x v).cal = s.cal := rfl
@[simp] theorem State.setCl_mc (x : Nat) (v : CluSt) : (s.setCl x v).mc = s.mc := rfl
@[simp] theorem State.setCl_clk (x : Nat) (v : CluSt) : (s.setCl x v).clk = s.clk := rfl
@[simp] theorem State.setCl_rst (x : Nat) (v : CluSt) : (s.setCl x v).rst = s.rst := rfl
@[simp] theorem State.setCl_cp (x : Nat) (v : CluSt) : (s.setCl x v).cp = s.cp := rfl
@[simp] theorem State.setCl_spp (x : Nat) (v : CluSt) : (s.setCl x v).spp = s.spp := rfl
@[simp] theorem State.setCl_freeCtr (x : Nat) (v : CluSt) : (s.setCl x v).freeCtr = s.freeCtr := rfl
@[simp] theorem State.setCl_acc_rg (x : Nat) (v : CluSt) (k : Nat) : (s.setCl x v).rg k = s.rg k := rfl
@[simp] theorem State.setCl_acc_sg (x : Nat) (v : CluSt) (k : Nat) : (s.setCl x v).sg k = s.sg k := rfl
@[simp] theorem State.setCl_acc_wg (x : Nat) (v : CluSt) (k : Nat) : (s.setCl x v).wg k = s.wg k := rfl
@[simp] theorem State.setCl_acc_ap (x : Nat) (v : CluSt) (k : Nat) : (s.setCl x v).ap k = s.ap k := rfl
@[simp] theorem State.setCl_acc_sq (x : Nat) (v : CluSt) (k : Nat) : (s.setCl x v).sq k = s.sq k := rfl
@[simp] theorem State.setCl_acc_ch (x : Nat) (v : CluSt) (k : Nat) : (s.setCl x v).ch k = s.ch k := rfl
@[simp] theorem State.setCl_acc_st (x : Nat) (v : CluSt) (k : Nat) : (s.setCl x v).st k = s.st k := rfl
@[simp] theorem State.setCl_acc_rl (x : Nat) (v : CluSt) (k : Nat) : (s.setCl x v).rl k = s.rl k := rfl
@[simp] theorem State.setCl_acc_kz (x : Nat) (v : CluSt) (k : Nat) : (s.setCl x v).kz k = s.kz k := rfl
@[simp] theorem State.setCl_acc_tu (x : Nat) (v : CluSt) (k : Nat) : (s.setCl x v).tu k = s.tu k := rfl
@[simp] theorem State.setCl_acc_wv (x : Nat) (v : CluSt) (k : Nat) : (s.setCl x v).wv k = s.wv k := rfl
@[simp] theorem State.setCl_acc_rf (x : Nat) (v : CluSt) (k a m : Nat) : (s.setCl x v).rf k a m = s.rf k a m := rfl
@[simp] theorem State.setCl_acc_rb (x : Nat) (v : CluSt) (k a : Nat) : (s.setCl x v).rb k a = s.rb k a := rfl
@[simp] theorem State.setCl_acc_sf (x : Nat) (v : CluSt) (k a m : Nat) : (s.setCl x v).sf k a m = s.sf k a m := rfl
@[simp] theorem State.setCl_acc_af (x : Nat) (v : CluSt) (k a m : Nat) : (s.setCl x v).af k a m = s.af k a m := rfl

/-! ### setCh -/

@[simp] theorem State.setCh_pending (x : Nat) (v : ChanSt) : (s.setCh x v).pending = s.pending := rfl
@[simp] theorem State.setCh_now (x : Nat) (v : ChanSt) : (s.setCh x v).now = s.now := rfl
@[simp] theorem State.setCh_tstamp (x : Nat) (v : ChanSt) : (s.setCh x v).tstamp = s.tstamp := rfl
@[simp] theorem State.setCh_reg (x : Nat) (v : ChanSt) : (s.setCh x v).reg = s.reg := rfl
@[simp] theorem State.setCh_sec (x : Nat) (v : ChanSt) : (s.setCh x v).sec = s.sec := rfl
@[simp] theorem State.setCh_win (x : Nat) (v : ChanSt) : (s.setCh x v).win = s.win := rfl
@[simp] theorem State.setCh_app (x : Nat) (v : ChanSt) : (s.setCh x v).app = s.app := rfl
@[simp] theorem State.setCh_appPrev (x : Nat) (v : ChanSt) : (s.setCh x v).appPrev = s.appPrev := rfl
@[simp] theorem State.setCh_dirty (x : Nat) (v : ChanSt) : (s.setCh x v).dirty = s.dirty := rfl
@[simp] theorem State.setCh_late (x : Nat) (v : ChanSt) : (s.setCh x v).late = s.late := rfl
@[simp] theorem State.setCh_edge (x : Nat) (v : ChanSt) : (s.setCh x v).edge = s.edge := rfl
@[simp] theorem State.setCh_edgeApp (x : Nat) (v : ChanSt) : (s.setCh x v).edgeApp = s.edgeApp := rfl
@[simp] theorem State.setCh_edgePrev (x : Nat) (v : ChanSt) : (s.setCh x v).edgePrev = s.edgePrev := rfl
@[simp] theorem State.setCh_edgeBad (x : Nat) (v : ChanSt) : (s.setCh x v).edgeBad = s.edgeBad := rfl
@[simp] theorem State.setCh_edgeLost (x : Nat) (v : ChanSt) : (s.setCh x v).edgeLost = s.edgeLost := rfl
@[simp] theorem State.setCh_edgeGone (x : Nat) (v : ChanSt) : (s.setCh x v).edgeGone = s.edgeGone := rfl
@[simp] theorem State.setCh_snap (x : Nat) (v : ChanSt) : (s.setCh x v).snap = s.snap := rfl
@[simp] theorem State.setCh_rdata (x : Nat) (v : ChanSt) : (s.setCh x v).rdata = s.rdata := rfl
@[simp] theorem State.setCh_bar2 (x : Nat) (v : ChanSt) : (s.setCh x v).bar2 = s.bar2 := rfl
@[simp] theorem State.setCh_wrote (x : Nat) (v : ChanSt) : (s.setCh x v).wrote = s.wrote := rfl
@[simp] theorem State.setCh_marks (x : Nat) (v : ChanSt) : (s.setCh x v).marks = s.marks := rfl
@[simp] theorem State.setCh_pre (x : Nat) (v : ChanSt) : (s.setCh x v).pre = s.pre := rfl
@[simp] theorem State.setCh_regOld (x : Nat) (v : ChanSt) : (s.setCh x v).regOld = s.regOld := rfl
@[simp] theorem State.setCh_behind (x : Nat) (v : ChanSt) : (s.setCh x v).behind = s.behind := rfl
@[simp] theorem State.setCh_reach (x : Nat) (v : ChanSt) : (s.setCh x v).reach = s.reach := rfl
@[simp] theorem State.setCh_tap (x : Nat) (v : ChanSt) : (s.setCh x v).tap = s.tap := rfl
@[simp] theorem State.setCh_admNow (x : Nat) (v : ChanSt) : (s.setCh x v).admNow = s.admNow := rfl
@[simp] theorem State.setCh_held (x : Nat) (v : ChanSt) : (s.setCh x v).held = s.held := rfl
@[simp] theorem State.setCh_retried (x : Nat) (v : ChanSt) : (s.setCh x v).retried = s.retried := rfl
@[simp] theorem State.setCh_steep (x : Nat) (v : ChanSt) : (s.setCh x v).steep = s.steep := rfl
@[simp] theorem State.setCh_seq (x : Nat) (v : ChanSt) : (s.setCh x v).seq = s.seq := rfl
@[simp] theorem State.setCh_clu (x : Nat) (v : ChanSt) : (s.setCh x v).clu = s.clu := rfl
@[simp] theorem State.setCh_site (x : Nat) (v : ChanSt) : (s.setCh x v).site = s.site := rfl
@[simp] theorem State.setCh_rail (x : Nat) (v : ChanSt) : (s.setCh x v).rail = s.rail := rfl
@[simp] theorem State.setCh_zone (x : Nat) (v : ChanSt) : (s.setCh x v).zone = s.zone := rfl
@[simp] theorem State.setCh_auxOut (x : Nat) (v : ChanSt) : (s.setCh x v).auxOut = s.auxOut := rfl
@[simp] theorem State.setCh_contactAt (x : Nat) (v : ChanSt) : (s.setCh x v).contactAt = s.contactAt := rfl
@[simp] theorem State.setCh_auxClamps (x : Nat) (v : ChanSt) : (s.setCh x v).auxClamps = s.auxClamps := rfl
@[simp] theorem State.setCh_fault (x : Nat) (v : ChanSt) : (s.setCh x v).fault = s.fault := rfl
@[simp] theorem State.setCh_ward (x : Nat) (v : ChanSt) : (s.setCh x v).ward = s.ward := rfl
@[simp] theorem State.setCh_pulses (x : Nat) (v : ChanSt) : (s.setCh x v).pulses = s.pulses := rfl
@[simp] theorem State.setCh_transit (x : Nat) (v : ChanSt) : (s.setCh x v).transit = s.transit := rfl
@[simp] theorem State.setCh_holds (x : Nat) (v : ChanSt) : (s.setCh x v).holds = s.holds := rfl
@[simp] theorem State.setCh_mem (x : Nat) (v : ChanSt) : (s.setCh x v).mem = s.mem := rfl
@[simp] theorem State.setCh_potOld (x : Nat) (v : ChanSt) : (s.setCh x v).potOld = s.potOld := rfl
@[simp] theorem State.setCh_strain (x : Nat) (v : ChanSt) : (s.setCh x v).strain = s.strain := rfl
@[simp] theorem State.setCh_leakAt (x : Nat) (v : ChanSt) : (s.setCh x v).leakAt = s.leakAt := rfl
@[simp] theorem State.setCh_disarmed (x : Nat) (v : ChanSt) : (s.setCh x v).disarmed = s.disarmed := rfl
@[simp] theorem State.setCh_qm (x : Nat) (v : ChanSt) : (s.setCh x v).qm = s.qm := rfl
@[simp] theorem State.setCh_tiu (x : Nat) (v : ChanSt) : (s.setCh x v).tiu = s.tiu := rfl
@[simp] theorem State.setCh_we (x : Nat) (v : ChanSt) : (s.setCh x v).we = s.we := rfl
@[simp] theorem State.setCh_sync (x : Nat) (v : ChanSt) : (s.setCh x v).sync = s.sync := rfl
@[simp] theorem State.setCh_nodesA (x : Nat) (v : ChanSt) : (s.setCh x v).nodesA = s.nodesA := rfl
@[simp] theorem State.setCh_nodesB (x : Nat) (v : ChanSt) : (s.setCh x v).nodesB = s.nodesB := rfl
@[simp] theorem State.setCh_diffRun (x : Nat) (v : ChanSt) : (s.setCh x v).diffRun = s.diffRun := rfl
@[simp] theorem State.setCh_cal (x : Nat) (v : ChanSt) : (s.setCh x v).cal = s.cal := rfl
@[simp] theorem State.setCh_mc (x : Nat) (v : ChanSt) : (s.setCh x v).mc = s.mc := rfl
@[simp] theorem State.setCh_clk (x : Nat) (v : ChanSt) : (s.setCh x v).clk = s.clk := rfl
@[simp] theorem State.setCh_rst (x : Nat) (v : ChanSt) : (s.setCh x v).rst = s.rst := rfl
@[simp] theorem State.setCh_cp (x : Nat) (v : ChanSt) : (s.setCh x v).cp = s.cp := rfl
@[simp] theorem State.setCh_spp (x : Nat) (v : ChanSt) : (s.setCh x v).spp = s.spp := rfl
@[simp] theorem State.setCh_freeCtr (x : Nat) (v : ChanSt) : (s.setCh x v).freeCtr = s.freeCtr := rfl
@[simp] theorem State.setCh_acc_rg (x : Nat) (v : ChanSt) (k : Nat) : (s.setCh x v).rg k = s.rg k := rfl
@[simp] theorem State.setCh_acc_sg (x : Nat) (v : ChanSt) (k : Nat) : (s.setCh x v).sg k = s.sg k := rfl
@[simp] theorem State.setCh_acc_wg (x : Nat) (v : ChanSt) (k : Nat) : (s.setCh x v).wg k = s.wg k := rfl
@[simp] theorem State.setCh_acc_ap (x : Nat) (v : ChanSt) (k : Nat) : (s.setCh x v).ap k = s.ap k := rfl
@[simp] theorem State.setCh_acc_sq (x : Nat) (v : ChanSt) (k : Nat) : (s.setCh x v).sq k = s.sq k := rfl
@[simp] theorem State.setCh_acc_cl (x : Nat) (v : ChanSt) (k : Nat) : (s.setCh x v).cl k = s.cl k := rfl
@[simp] theorem State.setCh_acc_st (x : Nat) (v : ChanSt) (k : Nat) : (s.setCh x v).st k = s.st k := rfl
@[simp] theorem State.setCh_acc_rl (x : Nat) (v : ChanSt) (k : Nat) : (s.setCh x v).rl k = s.rl k := rfl
@[simp] theorem State.setCh_acc_kz (x : Nat) (v : ChanSt) (k : Nat) : (s.setCh x v).kz k = s.kz k := rfl
@[simp] theorem State.setCh_acc_tu (x : Nat) (v : ChanSt) (k : Nat) : (s.setCh x v).tu k = s.tu k := rfl
@[simp] theorem State.setCh_acc_wv (x : Nat) (v : ChanSt) (k : Nat) : (s.setCh x v).wv k = s.wv k := rfl
@[simp] theorem State.setCh_acc_rf (x : Nat) (v : ChanSt) (k a m : Nat) : (s.setCh x v).rf k a m = s.rf k a m := rfl
@[simp] theorem State.setCh_acc_rb (x : Nat) (v : ChanSt) (k a : Nat) : (s.setCh x v).rb k a = s.rb k a := rfl
@[simp] theorem State.setCh_acc_sf (x : Nat) (v : ChanSt) (k a m : Nat) : (s.setCh x v).sf k a m = s.sf k a m := rfl
@[simp] theorem State.setCh_acc_af (x : Nat) (v : ChanSt) (k a m : Nat) : (s.setCh x v).af k a m = s.af k a m := rfl

/-! ### setSt -/

@[simp] theorem State.setSt_pending (x : Nat) (v : SiteSt) : (s.setSt x v).pending = s.pending := rfl
@[simp] theorem State.setSt_now (x : Nat) (v : SiteSt) : (s.setSt x v).now = s.now := rfl
@[simp] theorem State.setSt_tstamp (x : Nat) (v : SiteSt) : (s.setSt x v).tstamp = s.tstamp := rfl
@[simp] theorem State.setSt_reg (x : Nat) (v : SiteSt) : (s.setSt x v).reg = s.reg := rfl
@[simp] theorem State.setSt_sec (x : Nat) (v : SiteSt) : (s.setSt x v).sec = s.sec := rfl
@[simp] theorem State.setSt_win (x : Nat) (v : SiteSt) : (s.setSt x v).win = s.win := rfl
@[simp] theorem State.setSt_app (x : Nat) (v : SiteSt) : (s.setSt x v).app = s.app := rfl
@[simp] theorem State.setSt_appPrev (x : Nat) (v : SiteSt) : (s.setSt x v).appPrev = s.appPrev := rfl
@[simp] theorem State.setSt_dirty (x : Nat) (v : SiteSt) : (s.setSt x v).dirty = s.dirty := rfl
@[simp] theorem State.setSt_late (x : Nat) (v : SiteSt) : (s.setSt x v).late = s.late := rfl
@[simp] theorem State.setSt_edge (x : Nat) (v : SiteSt) : (s.setSt x v).edge = s.edge := rfl
@[simp] theorem State.setSt_edgeApp (x : Nat) (v : SiteSt) : (s.setSt x v).edgeApp = s.edgeApp := rfl
@[simp] theorem State.setSt_edgePrev (x : Nat) (v : SiteSt) : (s.setSt x v).edgePrev = s.edgePrev := rfl
@[simp] theorem State.setSt_edgeBad (x : Nat) (v : SiteSt) : (s.setSt x v).edgeBad = s.edgeBad := rfl
@[simp] theorem State.setSt_edgeLost (x : Nat) (v : SiteSt) : (s.setSt x v).edgeLost = s.edgeLost := rfl
@[simp] theorem State.setSt_edgeGone (x : Nat) (v : SiteSt) : (s.setSt x v).edgeGone = s.edgeGone := rfl
@[simp] theorem State.setSt_snap (x : Nat) (v : SiteSt) : (s.setSt x v).snap = s.snap := rfl
@[simp] theorem State.setSt_rdata (x : Nat) (v : SiteSt) : (s.setSt x v).rdata = s.rdata := rfl
@[simp] theorem State.setSt_bar2 (x : Nat) (v : SiteSt) : (s.setSt x v).bar2 = s.bar2 := rfl
@[simp] theorem State.setSt_wrote (x : Nat) (v : SiteSt) : (s.setSt x v).wrote = s.wrote := rfl
@[simp] theorem State.setSt_marks (x : Nat) (v : SiteSt) : (s.setSt x v).marks = s.marks := rfl
@[simp] theorem State.setSt_pre (x : Nat) (v : SiteSt) : (s.setSt x v).pre = s.pre := rfl
@[simp] theorem State.setSt_regOld (x : Nat) (v : SiteSt) : (s.setSt x v).regOld = s.regOld := rfl
@[simp] theorem State.setSt_behind (x : Nat) (v : SiteSt) : (s.setSt x v).behind = s.behind := rfl
@[simp] theorem State.setSt_reach (x : Nat) (v : SiteSt) : (s.setSt x v).reach = s.reach := rfl
@[simp] theorem State.setSt_tap (x : Nat) (v : SiteSt) : (s.setSt x v).tap = s.tap := rfl
@[simp] theorem State.setSt_admNow (x : Nat) (v : SiteSt) : (s.setSt x v).admNow = s.admNow := rfl
@[simp] theorem State.setSt_held (x : Nat) (v : SiteSt) : (s.setSt x v).held = s.held := rfl
@[simp] theorem State.setSt_retried (x : Nat) (v : SiteSt) : (s.setSt x v).retried = s.retried := rfl
@[simp] theorem State.setSt_steep (x : Nat) (v : SiteSt) : (s.setSt x v).steep = s.steep := rfl
@[simp] theorem State.setSt_seq (x : Nat) (v : SiteSt) : (s.setSt x v).seq = s.seq := rfl
@[simp] theorem State.setSt_clu (x : Nat) (v : SiteSt) : (s.setSt x v).clu = s.clu := rfl
@[simp] theorem State.setSt_chan (x : Nat) (v : SiteSt) : (s.setSt x v).chan = s.chan := rfl
@[simp] theorem State.setSt_rail (x : Nat) (v : SiteSt) : (s.setSt x v).rail = s.rail := rfl
@[simp] theorem State.setSt_zone (x : Nat) (v : SiteSt) : (s.setSt x v).zone = s.zone := rfl
@[simp] theorem State.setSt_auxOut (x : Nat) (v : SiteSt) : (s.setSt x v).auxOut = s.auxOut := rfl
@[simp] theorem State.setSt_contactAt (x : Nat) (v : SiteSt) : (s.setSt x v).contactAt = s.contactAt := rfl
@[simp] theorem State.setSt_auxClamps (x : Nat) (v : SiteSt) : (s.setSt x v).auxClamps = s.auxClamps := rfl
@[simp] theorem State.setSt_fault (x : Nat) (v : SiteSt) : (s.setSt x v).fault = s.fault := rfl
@[simp] theorem State.setSt_ward (x : Nat) (v : SiteSt) : (s.setSt x v).ward = s.ward := rfl
@[simp] theorem State.setSt_pulses (x : Nat) (v : SiteSt) : (s.setSt x v).pulses = s.pulses := rfl
@[simp] theorem State.setSt_transit (x : Nat) (v : SiteSt) : (s.setSt x v).transit = s.transit := rfl
@[simp] theorem State.setSt_holds (x : Nat) (v : SiteSt) : (s.setSt x v).holds = s.holds := rfl
@[simp] theorem State.setSt_mem (x : Nat) (v : SiteSt) : (s.setSt x v).mem = s.mem := rfl
@[simp] theorem State.setSt_potOld (x : Nat) (v : SiteSt) : (s.setSt x v).potOld = s.potOld := rfl
@[simp] theorem State.setSt_strain (x : Nat) (v : SiteSt) : (s.setSt x v).strain = s.strain := rfl
@[simp] theorem State.setSt_leakAt (x : Nat) (v : SiteSt) : (s.setSt x v).leakAt = s.leakAt := rfl
@[simp] theorem State.setSt_disarmed (x : Nat) (v : SiteSt) : (s.setSt x v).disarmed = s.disarmed := rfl
@[simp] theorem State.setSt_qm (x : Nat) (v : SiteSt) : (s.setSt x v).qm = s.qm := rfl
@[simp] theorem State.setSt_tiu (x : Nat) (v : SiteSt) : (s.setSt x v).tiu = s.tiu := rfl
@[simp] theorem State.setSt_we (x : Nat) (v : SiteSt) : (s.setSt x v).we = s.we := rfl
@[simp] theorem State.setSt_sync (x : Nat) (v : SiteSt) : (s.setSt x v).sync = s.sync := rfl
@[simp] theorem State.setSt_nodesA (x : Nat) (v : SiteSt) : (s.setSt x v).nodesA = s.nodesA := rfl
@[simp] theorem State.setSt_nodesB (x : Nat) (v : SiteSt) : (s.setSt x v).nodesB = s.nodesB := rfl
@[simp] theorem State.setSt_diffRun (x : Nat) (v : SiteSt) : (s.setSt x v).diffRun = s.diffRun := rfl
@[simp] theorem State.setSt_cal (x : Nat) (v : SiteSt) : (s.setSt x v).cal = s.cal := rfl
@[simp] theorem State.setSt_mc (x : Nat) (v : SiteSt) : (s.setSt x v).mc = s.mc := rfl
@[simp] theorem State.setSt_clk (x : Nat) (v : SiteSt) : (s.setSt x v).clk = s.clk := rfl
@[simp] theorem State.setSt_rst (x : Nat) (v : SiteSt) : (s.setSt x v).rst = s.rst := rfl
@[simp] theorem State.setSt_cp (x : Nat) (v : SiteSt) : (s.setSt x v).cp = s.cp := rfl
@[simp] theorem State.setSt_spp (x : Nat) (v : SiteSt) : (s.setSt x v).spp = s.spp := rfl
@[simp] theorem State.setSt_freeCtr (x : Nat) (v : SiteSt) : (s.setSt x v).freeCtr = s.freeCtr := rfl
@[simp] theorem State.setSt_acc_rg (x : Nat) (v : SiteSt) (k : Nat) : (s.setSt x v).rg k = s.rg k := rfl
@[simp] theorem State.setSt_acc_sg (x : Nat) (v : SiteSt) (k : Nat) : (s.setSt x v).sg k = s.sg k := rfl
@[simp] theorem State.setSt_acc_wg (x : Nat) (v : SiteSt) (k : Nat) : (s.setSt x v).wg k = s.wg k := rfl
@[simp] theorem State.setSt_acc_ap (x : Nat) (v : SiteSt) (k : Nat) : (s.setSt x v).ap k = s.ap k := rfl
@[simp] theorem State.setSt_acc_sq (x : Nat) (v : SiteSt) (k : Nat) : (s.setSt x v).sq k = s.sq k := rfl
@[simp] theorem State.setSt_acc_cl (x : Nat) (v : SiteSt) (k : Nat) : (s.setSt x v).cl k = s.cl k := rfl
@[simp] theorem State.setSt_acc_ch (x : Nat) (v : SiteSt) (k : Nat) : (s.setSt x v).ch k = s.ch k := rfl
@[simp] theorem State.setSt_acc_rl (x : Nat) (v : SiteSt) (k : Nat) : (s.setSt x v).rl k = s.rl k := rfl
@[simp] theorem State.setSt_acc_kz (x : Nat) (v : SiteSt) (k : Nat) : (s.setSt x v).kz k = s.kz k := rfl
@[simp] theorem State.setSt_acc_tu (x : Nat) (v : SiteSt) (k : Nat) : (s.setSt x v).tu k = s.tu k := rfl
@[simp] theorem State.setSt_acc_wv (x : Nat) (v : SiteSt) (k : Nat) : (s.setSt x v).wv k = s.wv k := rfl
@[simp] theorem State.setSt_acc_rf (x : Nat) (v : SiteSt) (k a m : Nat) : (s.setSt x v).rf k a m = s.rf k a m := rfl
@[simp] theorem State.setSt_acc_rb (x : Nat) (v : SiteSt) (k a : Nat) : (s.setSt x v).rb k a = s.rb k a := rfl
@[simp] theorem State.setSt_acc_sf (x : Nat) (v : SiteSt) (k a m : Nat) : (s.setSt x v).sf k a m = s.sf k a m := rfl
@[simp] theorem State.setSt_acc_af (x : Nat) (v : SiteSt) (k a m : Nat) : (s.setSt x v).af k a m = s.af k a m := rfl

/-! ### setRl -/

@[simp] theorem State.setRl_pending (x : Nat) (v : RailSt) : (s.setRl x v).pending = s.pending := rfl
@[simp] theorem State.setRl_now (x : Nat) (v : RailSt) : (s.setRl x v).now = s.now := rfl
@[simp] theorem State.setRl_tstamp (x : Nat) (v : RailSt) : (s.setRl x v).tstamp = s.tstamp := rfl
@[simp] theorem State.setRl_reg (x : Nat) (v : RailSt) : (s.setRl x v).reg = s.reg := rfl
@[simp] theorem State.setRl_sec (x : Nat) (v : RailSt) : (s.setRl x v).sec = s.sec := rfl
@[simp] theorem State.setRl_win (x : Nat) (v : RailSt) : (s.setRl x v).win = s.win := rfl
@[simp] theorem State.setRl_app (x : Nat) (v : RailSt) : (s.setRl x v).app = s.app := rfl
@[simp] theorem State.setRl_appPrev (x : Nat) (v : RailSt) : (s.setRl x v).appPrev = s.appPrev := rfl
@[simp] theorem State.setRl_dirty (x : Nat) (v : RailSt) : (s.setRl x v).dirty = s.dirty := rfl
@[simp] theorem State.setRl_late (x : Nat) (v : RailSt) : (s.setRl x v).late = s.late := rfl
@[simp] theorem State.setRl_edge (x : Nat) (v : RailSt) : (s.setRl x v).edge = s.edge := rfl
@[simp] theorem State.setRl_edgeApp (x : Nat) (v : RailSt) : (s.setRl x v).edgeApp = s.edgeApp := rfl
@[simp] theorem State.setRl_edgePrev (x : Nat) (v : RailSt) : (s.setRl x v).edgePrev = s.edgePrev := rfl
@[simp] theorem State.setRl_edgeBad (x : Nat) (v : RailSt) : (s.setRl x v).edgeBad = s.edgeBad := rfl
@[simp] theorem State.setRl_edgeLost (x : Nat) (v : RailSt) : (s.setRl x v).edgeLost = s.edgeLost := rfl
@[simp] theorem State.setRl_edgeGone (x : Nat) (v : RailSt) : (s.setRl x v).edgeGone = s.edgeGone := rfl
@[simp] theorem State.setRl_snap (x : Nat) (v : RailSt) : (s.setRl x v).snap = s.snap := rfl
@[simp] theorem State.setRl_rdata (x : Nat) (v : RailSt) : (s.setRl x v).rdata = s.rdata := rfl
@[simp] theorem State.setRl_bar2 (x : Nat) (v : RailSt) : (s.setRl x v).bar2 = s.bar2 := rfl
@[simp] theorem State.setRl_wrote (x : Nat) (v : RailSt) : (s.setRl x v).wrote = s.wrote := rfl
@[simp] theorem State.setRl_marks (x : Nat) (v : RailSt) : (s.setRl x v).marks = s.marks := rfl
@[simp] theorem State.setRl_pre (x : Nat) (v : RailSt) : (s.setRl x v).pre = s.pre := rfl
@[simp] theorem State.setRl_regOld (x : Nat) (v : RailSt) : (s.setRl x v).regOld = s.regOld := rfl
@[simp] theorem State.setRl_behind (x : Nat) (v : RailSt) : (s.setRl x v).behind = s.behind := rfl
@[simp] theorem State.setRl_reach (x : Nat) (v : RailSt) : (s.setRl x v).reach = s.reach := rfl
@[simp] theorem State.setRl_tap (x : Nat) (v : RailSt) : (s.setRl x v).tap = s.tap := rfl
@[simp] theorem State.setRl_admNow (x : Nat) (v : RailSt) : (s.setRl x v).admNow = s.admNow := rfl
@[simp] theorem State.setRl_held (x : Nat) (v : RailSt) : (s.setRl x v).held = s.held := rfl
@[simp] theorem State.setRl_retried (x : Nat) (v : RailSt) : (s.setRl x v).retried = s.retried := rfl
@[simp] theorem State.setRl_steep (x : Nat) (v : RailSt) : (s.setRl x v).steep = s.steep := rfl
@[simp] theorem State.setRl_seq (x : Nat) (v : RailSt) : (s.setRl x v).seq = s.seq := rfl
@[simp] theorem State.setRl_clu (x : Nat) (v : RailSt) : (s.setRl x v).clu = s.clu := rfl
@[simp] theorem State.setRl_chan (x : Nat) (v : RailSt) : (s.setRl x v).chan = s.chan := rfl
@[simp] theorem State.setRl_site (x : Nat) (v : RailSt) : (s.setRl x v).site = s.site := rfl
@[simp] theorem State.setRl_zone (x : Nat) (v : RailSt) : (s.setRl x v).zone = s.zone := rfl
@[simp] theorem State.setRl_auxOut (x : Nat) (v : RailSt) : (s.setRl x v).auxOut = s.auxOut := rfl
@[simp] theorem State.setRl_contactAt (x : Nat) (v : RailSt) : (s.setRl x v).contactAt = s.contactAt := rfl
@[simp] theorem State.setRl_auxClamps (x : Nat) (v : RailSt) : (s.setRl x v).auxClamps = s.auxClamps := rfl
@[simp] theorem State.setRl_fault (x : Nat) (v : RailSt) : (s.setRl x v).fault = s.fault := rfl
@[simp] theorem State.setRl_ward (x : Nat) (v : RailSt) : (s.setRl x v).ward = s.ward := rfl
@[simp] theorem State.setRl_pulses (x : Nat) (v : RailSt) : (s.setRl x v).pulses = s.pulses := rfl
@[simp] theorem State.setRl_transit (x : Nat) (v : RailSt) : (s.setRl x v).transit = s.transit := rfl
@[simp] theorem State.setRl_holds (x : Nat) (v : RailSt) : (s.setRl x v).holds = s.holds := rfl
@[simp] theorem State.setRl_mem (x : Nat) (v : RailSt) : (s.setRl x v).mem = s.mem := rfl
@[simp] theorem State.setRl_potOld (x : Nat) (v : RailSt) : (s.setRl x v).potOld = s.potOld := rfl
@[simp] theorem State.setRl_strain (x : Nat) (v : RailSt) : (s.setRl x v).strain = s.strain := rfl
@[simp] theorem State.setRl_leakAt (x : Nat) (v : RailSt) : (s.setRl x v).leakAt = s.leakAt := rfl
@[simp] theorem State.setRl_disarmed (x : Nat) (v : RailSt) : (s.setRl x v).disarmed = s.disarmed := rfl
@[simp] theorem State.setRl_qm (x : Nat) (v : RailSt) : (s.setRl x v).qm = s.qm := rfl
@[simp] theorem State.setRl_tiu (x : Nat) (v : RailSt) : (s.setRl x v).tiu = s.tiu := rfl
@[simp] theorem State.setRl_we (x : Nat) (v : RailSt) : (s.setRl x v).we = s.we := rfl
@[simp] theorem State.setRl_sync (x : Nat) (v : RailSt) : (s.setRl x v).sync = s.sync := rfl
@[simp] theorem State.setRl_nodesA (x : Nat) (v : RailSt) : (s.setRl x v).nodesA = s.nodesA := rfl
@[simp] theorem State.setRl_nodesB (x : Nat) (v : RailSt) : (s.setRl x v).nodesB = s.nodesB := rfl
@[simp] theorem State.setRl_diffRun (x : Nat) (v : RailSt) : (s.setRl x v).diffRun = s.diffRun := rfl
@[simp] theorem State.setRl_cal (x : Nat) (v : RailSt) : (s.setRl x v).cal = s.cal := rfl
@[simp] theorem State.setRl_mc (x : Nat) (v : RailSt) : (s.setRl x v).mc = s.mc := rfl
@[simp] theorem State.setRl_clk (x : Nat) (v : RailSt) : (s.setRl x v).clk = s.clk := rfl
@[simp] theorem State.setRl_rst (x : Nat) (v : RailSt) : (s.setRl x v).rst = s.rst := rfl
@[simp] theorem State.setRl_cp (x : Nat) (v : RailSt) : (s.setRl x v).cp = s.cp := rfl
@[simp] theorem State.setRl_spp (x : Nat) (v : RailSt) : (s.setRl x v).spp = s.spp := rfl
@[simp] theorem State.setRl_freeCtr (x : Nat) (v : RailSt) : (s.setRl x v).freeCtr = s.freeCtr := rfl
@[simp] theorem State.setRl_acc_rg (x : Nat) (v : RailSt) (k : Nat) : (s.setRl x v).rg k = s.rg k := rfl
@[simp] theorem State.setRl_acc_sg (x : Nat) (v : RailSt) (k : Nat) : (s.setRl x v).sg k = s.sg k := rfl
@[simp] theorem State.setRl_acc_wg (x : Nat) (v : RailSt) (k : Nat) : (s.setRl x v).wg k = s.wg k := rfl
@[simp] theorem State.setRl_acc_ap (x : Nat) (v : RailSt) (k : Nat) : (s.setRl x v).ap k = s.ap k := rfl
@[simp] theorem State.setRl_acc_sq (x : Nat) (v : RailSt) (k : Nat) : (s.setRl x v).sq k = s.sq k := rfl
@[simp] theorem State.setRl_acc_cl (x : Nat) (v : RailSt) (k : Nat) : (s.setRl x v).cl k = s.cl k := rfl
@[simp] theorem State.setRl_acc_ch (x : Nat) (v : RailSt) (k : Nat) : (s.setRl x v).ch k = s.ch k := rfl
@[simp] theorem State.setRl_acc_st (x : Nat) (v : RailSt) (k : Nat) : (s.setRl x v).st k = s.st k := rfl
@[simp] theorem State.setRl_acc_kz (x : Nat) (v : RailSt) (k : Nat) : (s.setRl x v).kz k = s.kz k := rfl
@[simp] theorem State.setRl_acc_tu (x : Nat) (v : RailSt) (k : Nat) : (s.setRl x v).tu k = s.tu k := rfl
@[simp] theorem State.setRl_acc_wv (x : Nat) (v : RailSt) (k : Nat) : (s.setRl x v).wv k = s.wv k := rfl
@[simp] theorem State.setRl_acc_rf (x : Nat) (v : RailSt) (k a m : Nat) : (s.setRl x v).rf k a m = s.rf k a m := rfl
@[simp] theorem State.setRl_acc_rb (x : Nat) (v : RailSt) (k a : Nat) : (s.setRl x v).rb k a = s.rb k a := rfl
@[simp] theorem State.setRl_acc_sf (x : Nat) (v : RailSt) (k a m : Nat) : (s.setRl x v).sf k a m = s.sf k a m := rfl
@[simp] theorem State.setRl_acc_af (x : Nat) (v : RailSt) (k a m : Nat) : (s.setRl x v).af k a m = s.af k a m := rfl

/-! ### setKz -/

@[simp] theorem State.setKz_pending (x : Nat) (v : ZoneSt) : (s.setKz x v).pending = s.pending := rfl
@[simp] theorem State.setKz_now (x : Nat) (v : ZoneSt) : (s.setKz x v).now = s.now := rfl
@[simp] theorem State.setKz_tstamp (x : Nat) (v : ZoneSt) : (s.setKz x v).tstamp = s.tstamp := rfl
@[simp] theorem State.setKz_reg (x : Nat) (v : ZoneSt) : (s.setKz x v).reg = s.reg := rfl
@[simp] theorem State.setKz_sec (x : Nat) (v : ZoneSt) : (s.setKz x v).sec = s.sec := rfl
@[simp] theorem State.setKz_win (x : Nat) (v : ZoneSt) : (s.setKz x v).win = s.win := rfl
@[simp] theorem State.setKz_app (x : Nat) (v : ZoneSt) : (s.setKz x v).app = s.app := rfl
@[simp] theorem State.setKz_appPrev (x : Nat) (v : ZoneSt) : (s.setKz x v).appPrev = s.appPrev := rfl
@[simp] theorem State.setKz_dirty (x : Nat) (v : ZoneSt) : (s.setKz x v).dirty = s.dirty := rfl
@[simp] theorem State.setKz_late (x : Nat) (v : ZoneSt) : (s.setKz x v).late = s.late := rfl
@[simp] theorem State.setKz_edge (x : Nat) (v : ZoneSt) : (s.setKz x v).edge = s.edge := rfl
@[simp] theorem State.setKz_edgeApp (x : Nat) (v : ZoneSt) : (s.setKz x v).edgeApp = s.edgeApp := rfl
@[simp] theorem State.setKz_edgePrev (x : Nat) (v : ZoneSt) : (s.setKz x v).edgePrev = s.edgePrev := rfl
@[simp] theorem State.setKz_edgeBad (x : Nat) (v : ZoneSt) : (s.setKz x v).edgeBad = s.edgeBad := rfl
@[simp] theorem State.setKz_edgeLost (x : Nat) (v : ZoneSt) : (s.setKz x v).edgeLost = s.edgeLost := rfl
@[simp] theorem State.setKz_edgeGone (x : Nat) (v : ZoneSt) : (s.setKz x v).edgeGone = s.edgeGone := rfl
@[simp] theorem State.setKz_snap (x : Nat) (v : ZoneSt) : (s.setKz x v).snap = s.snap := rfl
@[simp] theorem State.setKz_rdata (x : Nat) (v : ZoneSt) : (s.setKz x v).rdata = s.rdata := rfl
@[simp] theorem State.setKz_bar2 (x : Nat) (v : ZoneSt) : (s.setKz x v).bar2 = s.bar2 := rfl
@[simp] theorem State.setKz_wrote (x : Nat) (v : ZoneSt) : (s.setKz x v).wrote = s.wrote := rfl
@[simp] theorem State.setKz_marks (x : Nat) (v : ZoneSt) : (s.setKz x v).marks = s.marks := rfl
@[simp] theorem State.setKz_pre (x : Nat) (v : ZoneSt) : (s.setKz x v).pre = s.pre := rfl
@[simp] theorem State.setKz_regOld (x : Nat) (v : ZoneSt) : (s.setKz x v).regOld = s.regOld := rfl
@[simp] theorem State.setKz_behind (x : Nat) (v : ZoneSt) : (s.setKz x v).behind = s.behind := rfl
@[simp] theorem State.setKz_reach (x : Nat) (v : ZoneSt) : (s.setKz x v).reach = s.reach := rfl
@[simp] theorem State.setKz_tap (x : Nat) (v : ZoneSt) : (s.setKz x v).tap = s.tap := rfl
@[simp] theorem State.setKz_admNow (x : Nat) (v : ZoneSt) : (s.setKz x v).admNow = s.admNow := rfl
@[simp] theorem State.setKz_held (x : Nat) (v : ZoneSt) : (s.setKz x v).held = s.held := rfl
@[simp] theorem State.setKz_retried (x : Nat) (v : ZoneSt) : (s.setKz x v).retried = s.retried := rfl
@[simp] theorem State.setKz_steep (x : Nat) (v : ZoneSt) : (s.setKz x v).steep = s.steep := rfl
@[simp] theorem State.setKz_seq (x : Nat) (v : ZoneSt) : (s.setKz x v).seq = s.seq := rfl
@[simp] theorem State.setKz_clu (x : Nat) (v : ZoneSt) : (s.setKz x v).clu = s.clu := rfl
@[simp] theorem State.setKz_chan (x : Nat) (v : ZoneSt) : (s.setKz x v).chan = s.chan := rfl
@[simp] theorem State.setKz_site (x : Nat) (v : ZoneSt) : (s.setKz x v).site = s.site := rfl
@[simp] theorem State.setKz_rail (x : Nat) (v : ZoneSt) : (s.setKz x v).rail = s.rail := rfl
@[simp] theorem State.setKz_auxOut (x : Nat) (v : ZoneSt) : (s.setKz x v).auxOut = s.auxOut := rfl
@[simp] theorem State.setKz_contactAt (x : Nat) (v : ZoneSt) : (s.setKz x v).contactAt = s.contactAt := rfl
@[simp] theorem State.setKz_auxClamps (x : Nat) (v : ZoneSt) : (s.setKz x v).auxClamps = s.auxClamps := rfl
@[simp] theorem State.setKz_fault (x : Nat) (v : ZoneSt) : (s.setKz x v).fault = s.fault := rfl
@[simp] theorem State.setKz_ward (x : Nat) (v : ZoneSt) : (s.setKz x v).ward = s.ward := rfl
@[simp] theorem State.setKz_pulses (x : Nat) (v : ZoneSt) : (s.setKz x v).pulses = s.pulses := rfl
@[simp] theorem State.setKz_transit (x : Nat) (v : ZoneSt) : (s.setKz x v).transit = s.transit := rfl
@[simp] theorem State.setKz_holds (x : Nat) (v : ZoneSt) : (s.setKz x v).holds = s.holds := rfl
@[simp] theorem State.setKz_mem (x : Nat) (v : ZoneSt) : (s.setKz x v).mem = s.mem := rfl
@[simp] theorem State.setKz_potOld (x : Nat) (v : ZoneSt) : (s.setKz x v).potOld = s.potOld := rfl
@[simp] theorem State.setKz_strain (x : Nat) (v : ZoneSt) : (s.setKz x v).strain = s.strain := rfl
@[simp] theorem State.setKz_leakAt (x : Nat) (v : ZoneSt) : (s.setKz x v).leakAt = s.leakAt := rfl
@[simp] theorem State.setKz_disarmed (x : Nat) (v : ZoneSt) : (s.setKz x v).disarmed = s.disarmed := rfl
@[simp] theorem State.setKz_qm (x : Nat) (v : ZoneSt) : (s.setKz x v).qm = s.qm := rfl
@[simp] theorem State.setKz_tiu (x : Nat) (v : ZoneSt) : (s.setKz x v).tiu = s.tiu := rfl
@[simp] theorem State.setKz_we (x : Nat) (v : ZoneSt) : (s.setKz x v).we = s.we := rfl
@[simp] theorem State.setKz_sync (x : Nat) (v : ZoneSt) : (s.setKz x v).sync = s.sync := rfl
@[simp] theorem State.setKz_nodesA (x : Nat) (v : ZoneSt) : (s.setKz x v).nodesA = s.nodesA := rfl
@[simp] theorem State.setKz_nodesB (x : Nat) (v : ZoneSt) : (s.setKz x v).nodesB = s.nodesB := rfl
@[simp] theorem State.setKz_diffRun (x : Nat) (v : ZoneSt) : (s.setKz x v).diffRun = s.diffRun := rfl
@[simp] theorem State.setKz_cal (x : Nat) (v : ZoneSt) : (s.setKz x v).cal = s.cal := rfl
@[simp] theorem State.setKz_mc (x : Nat) (v : ZoneSt) : (s.setKz x v).mc = s.mc := rfl
@[simp] theorem State.setKz_clk (x : Nat) (v : ZoneSt) : (s.setKz x v).clk = s.clk := rfl
@[simp] theorem State.setKz_rst (x : Nat) (v : ZoneSt) : (s.setKz x v).rst = s.rst := rfl
@[simp] theorem State.setKz_cp (x : Nat) (v : ZoneSt) : (s.setKz x v).cp = s.cp := rfl
@[simp] theorem State.setKz_spp (x : Nat) (v : ZoneSt) : (s.setKz x v).spp = s.spp := rfl
@[simp] theorem State.setKz_freeCtr (x : Nat) (v : ZoneSt) : (s.setKz x v).freeCtr = s.freeCtr := rfl
@[simp] theorem State.setKz_acc_rg (x : Nat) (v : ZoneSt) (k : Nat) : (s.setKz x v).rg k = s.rg k := rfl
@[simp] theorem State.setKz_acc_sg (x : Nat) (v : ZoneSt) (k : Nat) : (s.setKz x v).sg k = s.sg k := rfl
@[simp] theorem State.setKz_acc_wg (x : Nat) (v : ZoneSt) (k : Nat) : (s.setKz x v).wg k = s.wg k := rfl
@[simp] theorem State.setKz_acc_ap (x : Nat) (v : ZoneSt) (k : Nat) : (s.setKz x v).ap k = s.ap k := rfl
@[simp] theorem State.setKz_acc_sq (x : Nat) (v : ZoneSt) (k : Nat) : (s.setKz x v).sq k = s.sq k := rfl
@[simp] theorem State.setKz_acc_cl (x : Nat) (v : ZoneSt) (k : Nat) : (s.setKz x v).cl k = s.cl k := rfl
@[simp] theorem State.setKz_acc_ch (x : Nat) (v : ZoneSt) (k : Nat) : (s.setKz x v).ch k = s.ch k := rfl
@[simp] theorem State.setKz_acc_st (x : Nat) (v : ZoneSt) (k : Nat) : (s.setKz x v).st k = s.st k := rfl
@[simp] theorem State.setKz_acc_rl (x : Nat) (v : ZoneSt) (k : Nat) : (s.setKz x v).rl k = s.rl k := rfl
@[simp] theorem State.setKz_acc_tu (x : Nat) (v : ZoneSt) (k : Nat) : (s.setKz x v).tu k = s.tu k := rfl
@[simp] theorem State.setKz_acc_wv (x : Nat) (v : ZoneSt) (k : Nat) : (s.setKz x v).wv k = s.wv k := rfl
@[simp] theorem State.setKz_acc_rf (x : Nat) (v : ZoneSt) (k a m : Nat) : (s.setKz x v).rf k a m = s.rf k a m := rfl
@[simp] theorem State.setKz_acc_rb (x : Nat) (v : ZoneSt) (k a : Nat) : (s.setKz x v).rb k a = s.rb k a := rfl
@[simp] theorem State.setKz_acc_sf (x : Nat) (v : ZoneSt) (k a m : Nat) : (s.setKz x v).sf k a m = s.sf k a m := rfl
@[simp] theorem State.setKz_acc_af (x : Nat) (v : ZoneSt) (k a m : Nat) : (s.setKz x v).af k a m = s.af k a m := rfl

/-! ### setTu -/

@[simp] theorem State.setTu_pending (x : Nat) (v : TiuSt) : (s.setTu x v).pending = s.pending := rfl
@[simp] theorem State.setTu_now (x : Nat) (v : TiuSt) : (s.setTu x v).now = s.now := rfl
@[simp] theorem State.setTu_tstamp (x : Nat) (v : TiuSt) : (s.setTu x v).tstamp = s.tstamp := rfl
@[simp] theorem State.setTu_reg (x : Nat) (v : TiuSt) : (s.setTu x v).reg = s.reg := rfl
@[simp] theorem State.setTu_sec (x : Nat) (v : TiuSt) : (s.setTu x v).sec = s.sec := rfl
@[simp] theorem State.setTu_win (x : Nat) (v : TiuSt) : (s.setTu x v).win = s.win := rfl
@[simp] theorem State.setTu_app (x : Nat) (v : TiuSt) : (s.setTu x v).app = s.app := rfl
@[simp] theorem State.setTu_appPrev (x : Nat) (v : TiuSt) : (s.setTu x v).appPrev = s.appPrev := rfl
@[simp] theorem State.setTu_dirty (x : Nat) (v : TiuSt) : (s.setTu x v).dirty = s.dirty := rfl
@[simp] theorem State.setTu_late (x : Nat) (v : TiuSt) : (s.setTu x v).late = s.late := rfl
@[simp] theorem State.setTu_edge (x : Nat) (v : TiuSt) : (s.setTu x v).edge = s.edge := rfl
@[simp] theorem State.setTu_edgeApp (x : Nat) (v : TiuSt) : (s.setTu x v).edgeApp = s.edgeApp := rfl
@[simp] theorem State.setTu_edgePrev (x : Nat) (v : TiuSt) : (s.setTu x v).edgePrev = s.edgePrev := rfl
@[simp] theorem State.setTu_edgeBad (x : Nat) (v : TiuSt) : (s.setTu x v).edgeBad = s.edgeBad := rfl
@[simp] theorem State.setTu_edgeLost (x : Nat) (v : TiuSt) : (s.setTu x v).edgeLost = s.edgeLost := rfl
@[simp] theorem State.setTu_edgeGone (x : Nat) (v : TiuSt) : (s.setTu x v).edgeGone = s.edgeGone := rfl
@[simp] theorem State.setTu_snap (x : Nat) (v : TiuSt) : (s.setTu x v).snap = s.snap := rfl
@[simp] theorem State.setTu_rdata (x : Nat) (v : TiuSt) : (s.setTu x v).rdata = s.rdata := rfl
@[simp] theorem State.setTu_bar2 (x : Nat) (v : TiuSt) : (s.setTu x v).bar2 = s.bar2 := rfl
@[simp] theorem State.setTu_wrote (x : Nat) (v : TiuSt) : (s.setTu x v).wrote = s.wrote := rfl
@[simp] theorem State.setTu_marks (x : Nat) (v : TiuSt) : (s.setTu x v).marks = s.marks := rfl
@[simp] theorem State.setTu_pre (x : Nat) (v : TiuSt) : (s.setTu x v).pre = s.pre := rfl
@[simp] theorem State.setTu_regOld (x : Nat) (v : TiuSt) : (s.setTu x v).regOld = s.regOld := rfl
@[simp] theorem State.setTu_behind (x : Nat) (v : TiuSt) : (s.setTu x v).behind = s.behind := rfl
@[simp] theorem State.setTu_reach (x : Nat) (v : TiuSt) : (s.setTu x v).reach = s.reach := rfl
@[simp] theorem State.setTu_tap (x : Nat) (v : TiuSt) : (s.setTu x v).tap = s.tap := rfl
@[simp] theorem State.setTu_admNow (x : Nat) (v : TiuSt) : (s.setTu x v).admNow = s.admNow := rfl
@[simp] theorem State.setTu_held (x : Nat) (v : TiuSt) : (s.setTu x v).held = s.held := rfl
@[simp] theorem State.setTu_retried (x : Nat) (v : TiuSt) : (s.setTu x v).retried = s.retried := rfl
@[simp] theorem State.setTu_steep (x : Nat) (v : TiuSt) : (s.setTu x v).steep = s.steep := rfl
@[simp] theorem State.setTu_seq (x : Nat) (v : TiuSt) : (s.setTu x v).seq = s.seq := rfl
@[simp] theorem State.setTu_clu (x : Nat) (v : TiuSt) : (s.setTu x v).clu = s.clu := rfl
@[simp] theorem State.setTu_chan (x : Nat) (v : TiuSt) : (s.setTu x v).chan = s.chan := rfl
@[simp] theorem State.setTu_site (x : Nat) (v : TiuSt) : (s.setTu x v).site = s.site := rfl
@[simp] theorem State.setTu_rail (x : Nat) (v : TiuSt) : (s.setTu x v).rail = s.rail := rfl
@[simp] theorem State.setTu_zone (x : Nat) (v : TiuSt) : (s.setTu x v).zone = s.zone := rfl
@[simp] theorem State.setTu_auxOut (x : Nat) (v : TiuSt) : (s.setTu x v).auxOut = s.auxOut := rfl
@[simp] theorem State.setTu_contactAt (x : Nat) (v : TiuSt) : (s.setTu x v).contactAt = s.contactAt := rfl
@[simp] theorem State.setTu_auxClamps (x : Nat) (v : TiuSt) : (s.setTu x v).auxClamps = s.auxClamps := rfl
@[simp] theorem State.setTu_fault (x : Nat) (v : TiuSt) : (s.setTu x v).fault = s.fault := rfl
@[simp] theorem State.setTu_ward (x : Nat) (v : TiuSt) : (s.setTu x v).ward = s.ward := rfl
@[simp] theorem State.setTu_pulses (x : Nat) (v : TiuSt) : (s.setTu x v).pulses = s.pulses := rfl
@[simp] theorem State.setTu_transit (x : Nat) (v : TiuSt) : (s.setTu x v).transit = s.transit := rfl
@[simp] theorem State.setTu_holds (x : Nat) (v : TiuSt) : (s.setTu x v).holds = s.holds := rfl
@[simp] theorem State.setTu_mem (x : Nat) (v : TiuSt) : (s.setTu x v).mem = s.mem := rfl
@[simp] theorem State.setTu_potOld (x : Nat) (v : TiuSt) : (s.setTu x v).potOld = s.potOld := rfl
@[simp] theorem State.setTu_strain (x : Nat) (v : TiuSt) : (s.setTu x v).strain = s.strain := rfl
@[simp] theorem State.setTu_leakAt (x : Nat) (v : TiuSt) : (s.setTu x v).leakAt = s.leakAt := rfl
@[simp] theorem State.setTu_disarmed (x : Nat) (v : TiuSt) : (s.setTu x v).disarmed = s.disarmed := rfl
@[simp] theorem State.setTu_qm (x : Nat) (v : TiuSt) : (s.setTu x v).qm = s.qm := rfl
@[simp] theorem State.setTu_we (x : Nat) (v : TiuSt) : (s.setTu x v).we = s.we := rfl
@[simp] theorem State.setTu_sync (x : Nat) (v : TiuSt) : (s.setTu x v).sync = s.sync := rfl
@[simp] theorem State.setTu_nodesA (x : Nat) (v : TiuSt) : (s.setTu x v).nodesA = s.nodesA := rfl
@[simp] theorem State.setTu_nodesB (x : Nat) (v : TiuSt) : (s.setTu x v).nodesB = s.nodesB := rfl
@[simp] theorem State.setTu_diffRun (x : Nat) (v : TiuSt) : (s.setTu x v).diffRun = s.diffRun := rfl
@[simp] theorem State.setTu_cal (x : Nat) (v : TiuSt) : (s.setTu x v).cal = s.cal := rfl
@[simp] theorem State.setTu_mc (x : Nat) (v : TiuSt) : (s.setTu x v).mc = s.mc := rfl
@[simp] theorem State.setTu_clk (x : Nat) (v : TiuSt) : (s.setTu x v).clk = s.clk := rfl
@[simp] theorem State.setTu_rst (x : Nat) (v : TiuSt) : (s.setTu x v).rst = s.rst := rfl
@[simp] theorem State.setTu_cp (x : Nat) (v : TiuSt) : (s.setTu x v).cp = s.cp := rfl
@[simp] theorem State.setTu_spp (x : Nat) (v : TiuSt) : (s.setTu x v).spp = s.spp := rfl
@[simp] theorem State.setTu_freeCtr (x : Nat) (v : TiuSt) : (s.setTu x v).freeCtr = s.freeCtr := rfl
@[simp] theorem State.setTu_acc_rg (x : Nat) (v : TiuSt) (k : Nat) : (s.setTu x v).rg k = s.rg k := rfl
@[simp] theorem State.setTu_acc_sg (x : Nat) (v : TiuSt) (k : Nat) : (s.setTu x v).sg k = s.sg k := rfl
@[simp] theorem State.setTu_acc_wg (x : Nat) (v : TiuSt) (k : Nat) : (s.setTu x v).wg k = s.wg k := rfl
@[simp] theorem State.setTu_acc_ap (x : Nat) (v : TiuSt) (k : Nat) : (s.setTu x v).ap k = s.ap k := rfl
@[simp] theorem State.setTu_acc_sq (x : Nat) (v : TiuSt) (k : Nat) : (s.setTu x v).sq k = s.sq k := rfl
@[simp] theorem State.setTu_acc_cl (x : Nat) (v : TiuSt) (k : Nat) : (s.setTu x v).cl k = s.cl k := rfl
@[simp] theorem State.setTu_acc_ch (x : Nat) (v : TiuSt) (k : Nat) : (s.setTu x v).ch k = s.ch k := rfl
@[simp] theorem State.setTu_acc_st (x : Nat) (v : TiuSt) (k : Nat) : (s.setTu x v).st k = s.st k := rfl
@[simp] theorem State.setTu_acc_rl (x : Nat) (v : TiuSt) (k : Nat) : (s.setTu x v).rl k = s.rl k := rfl
@[simp] theorem State.setTu_acc_kz (x : Nat) (v : TiuSt) (k : Nat) : (s.setTu x v).kz k = s.kz k := rfl
@[simp] theorem State.setTu_acc_wv (x : Nat) (v : TiuSt) (k : Nat) : (s.setTu x v).wv k = s.wv k := rfl
@[simp] theorem State.setTu_acc_rf (x : Nat) (v : TiuSt) (k a m : Nat) : (s.setTu x v).rf k a m = s.rf k a m := rfl
@[simp] theorem State.setTu_acc_rb (x : Nat) (v : TiuSt) (k a : Nat) : (s.setTu x v).rb k a = s.rb k a := rfl
@[simp] theorem State.setTu_acc_sf (x : Nat) (v : TiuSt) (k a m : Nat) : (s.setTu x v).sf k a m = s.sf k a m := rfl
@[simp] theorem State.setTu_acc_af (x : Nat) (v : TiuSt) (k a m : Nat) : (s.setTu x v).af k a m = s.af k a m := rfl

/-! ### setWv -/

@[simp] theorem State.setWv_pending (x : Nat) (v : WeSt) : (s.setWv x v).pending = s.pending := rfl
@[simp] theorem State.setWv_now (x : Nat) (v : WeSt) : (s.setWv x v).now = s.now := rfl
@[simp] theorem State.setWv_tstamp (x : Nat) (v : WeSt) : (s.setWv x v).tstamp = s.tstamp := rfl
@[simp] theorem State.setWv_reg (x : Nat) (v : WeSt) : (s.setWv x v).reg = s.reg := rfl
@[simp] theorem State.setWv_sec (x : Nat) (v : WeSt) : (s.setWv x v).sec = s.sec := rfl
@[simp] theorem State.setWv_win (x : Nat) (v : WeSt) : (s.setWv x v).win = s.win := rfl
@[simp] theorem State.setWv_app (x : Nat) (v : WeSt) : (s.setWv x v).app = s.app := rfl
@[simp] theorem State.setWv_appPrev (x : Nat) (v : WeSt) : (s.setWv x v).appPrev = s.appPrev := rfl
@[simp] theorem State.setWv_dirty (x : Nat) (v : WeSt) : (s.setWv x v).dirty = s.dirty := rfl
@[simp] theorem State.setWv_late (x : Nat) (v : WeSt) : (s.setWv x v).late = s.late := rfl
@[simp] theorem State.setWv_edge (x : Nat) (v : WeSt) : (s.setWv x v).edge = s.edge := rfl
@[simp] theorem State.setWv_edgeApp (x : Nat) (v : WeSt) : (s.setWv x v).edgeApp = s.edgeApp := rfl
@[simp] theorem State.setWv_edgePrev (x : Nat) (v : WeSt) : (s.setWv x v).edgePrev = s.edgePrev := rfl
@[simp] theorem State.setWv_edgeBad (x : Nat) (v : WeSt) : (s.setWv x v).edgeBad = s.edgeBad := rfl
@[simp] theorem State.setWv_edgeLost (x : Nat) (v : WeSt) : (s.setWv x v).edgeLost = s.edgeLost := rfl
@[simp] theorem State.setWv_edgeGone (x : Nat) (v : WeSt) : (s.setWv x v).edgeGone = s.edgeGone := rfl
@[simp] theorem State.setWv_snap (x : Nat) (v : WeSt) : (s.setWv x v).snap = s.snap := rfl
@[simp] theorem State.setWv_rdata (x : Nat) (v : WeSt) : (s.setWv x v).rdata = s.rdata := rfl
@[simp] theorem State.setWv_bar2 (x : Nat) (v : WeSt) : (s.setWv x v).bar2 = s.bar2 := rfl
@[simp] theorem State.setWv_wrote (x : Nat) (v : WeSt) : (s.setWv x v).wrote = s.wrote := rfl
@[simp] theorem State.setWv_marks (x : Nat) (v : WeSt) : (s.setWv x v).marks = s.marks := rfl
@[simp] theorem State.setWv_pre (x : Nat) (v : WeSt) : (s.setWv x v).pre = s.pre := rfl
@[simp] theorem State.setWv_regOld (x : Nat) (v : WeSt) : (s.setWv x v).regOld = s.regOld := rfl
@[simp] theorem State.setWv_behind (x : Nat) (v : WeSt) : (s.setWv x v).behind = s.behind := rfl
@[simp] theorem State.setWv_reach (x : Nat) (v : WeSt) : (s.setWv x v).reach = s.reach := rfl
@[simp] theorem State.setWv_tap (x : Nat) (v : WeSt) : (s.setWv x v).tap = s.tap := rfl
@[simp] theorem State.setWv_admNow (x : Nat) (v : WeSt) : (s.setWv x v).admNow = s.admNow := rfl
@[simp] theorem State.setWv_held (x : Nat) (v : WeSt) : (s.setWv x v).held = s.held := rfl
@[simp] theorem State.setWv_retried (x : Nat) (v : WeSt) : (s.setWv x v).retried = s.retried := rfl
@[simp] theorem State.setWv_steep (x : Nat) (v : WeSt) : (s.setWv x v).steep = s.steep := rfl
@[simp] theorem State.setWv_seq (x : Nat) (v : WeSt) : (s.setWv x v).seq = s.seq := rfl
@[simp] theorem State.setWv_clu (x : Nat) (v : WeSt) : (s.setWv x v).clu = s.clu := rfl
@[simp] theorem State.setWv_chan (x : Nat) (v : WeSt) : (s.setWv x v).chan = s.chan := rfl
@[simp] theorem State.setWv_site (x : Nat) (v : WeSt) : (s.setWv x v).site = s.site := rfl
@[simp] theorem State.setWv_rail (x : Nat) (v : WeSt) : (s.setWv x v).rail = s.rail := rfl
@[simp] theorem State.setWv_zone (x : Nat) (v : WeSt) : (s.setWv x v).zone = s.zone := rfl
@[simp] theorem State.setWv_auxOut (x : Nat) (v : WeSt) : (s.setWv x v).auxOut = s.auxOut := rfl
@[simp] theorem State.setWv_contactAt (x : Nat) (v : WeSt) : (s.setWv x v).contactAt = s.contactAt := rfl
@[simp] theorem State.setWv_auxClamps (x : Nat) (v : WeSt) : (s.setWv x v).auxClamps = s.auxClamps := rfl
@[simp] theorem State.setWv_fault (x : Nat) (v : WeSt) : (s.setWv x v).fault = s.fault := rfl
@[simp] theorem State.setWv_ward (x : Nat) (v : WeSt) : (s.setWv x v).ward = s.ward := rfl
@[simp] theorem State.setWv_pulses (x : Nat) (v : WeSt) : (s.setWv x v).pulses = s.pulses := rfl
@[simp] theorem State.setWv_transit (x : Nat) (v : WeSt) : (s.setWv x v).transit = s.transit := rfl
@[simp] theorem State.setWv_holds (x : Nat) (v : WeSt) : (s.setWv x v).holds = s.holds := rfl
@[simp] theorem State.setWv_mem (x : Nat) (v : WeSt) : (s.setWv x v).mem = s.mem := rfl
@[simp] theorem State.setWv_potOld (x : Nat) (v : WeSt) : (s.setWv x v).potOld = s.potOld := rfl
@[simp] theorem State.setWv_strain (x : Nat) (v : WeSt) : (s.setWv x v).strain = s.strain := rfl
@[simp] theorem State.setWv_leakAt (x : Nat) (v : WeSt) : (s.setWv x v).leakAt = s.leakAt := rfl
@[simp] theorem State.setWv_disarmed (x : Nat) (v : WeSt) : (s.setWv x v).disarmed = s.disarmed := rfl
@[simp] theorem State.setWv_qm (x : Nat) (v : WeSt) : (s.setWv x v).qm = s.qm := rfl
@[simp] theorem State.setWv_tiu (x : Nat) (v : WeSt) : (s.setWv x v).tiu = s.tiu := rfl
@[simp] theorem State.setWv_sync (x : Nat) (v : WeSt) : (s.setWv x v).sync = s.sync := rfl
@[simp] theorem State.setWv_nodesA (x : Nat) (v : WeSt) : (s.setWv x v).nodesA = s.nodesA := rfl
@[simp] theorem State.setWv_nodesB (x : Nat) (v : WeSt) : (s.setWv x v).nodesB = s.nodesB := rfl
@[simp] theorem State.setWv_diffRun (x : Nat) (v : WeSt) : (s.setWv x v).diffRun = s.diffRun := rfl
@[simp] theorem State.setWv_cal (x : Nat) (v : WeSt) : (s.setWv x v).cal = s.cal := rfl
@[simp] theorem State.setWv_mc (x : Nat) (v : WeSt) : (s.setWv x v).mc = s.mc := rfl
@[simp] theorem State.setWv_clk (x : Nat) (v : WeSt) : (s.setWv x v).clk = s.clk := rfl
@[simp] theorem State.setWv_rst (x : Nat) (v : WeSt) : (s.setWv x v).rst = s.rst := rfl
@[simp] theorem State.setWv_cp (x : Nat) (v : WeSt) : (s.setWv x v).cp = s.cp := rfl
@[simp] theorem State.setWv_spp (x : Nat) (v : WeSt) : (s.setWv x v).spp = s.spp := rfl
@[simp] theorem State.setWv_freeCtr (x : Nat) (v : WeSt) : (s.setWv x v).freeCtr = s.freeCtr := rfl
@[simp] theorem State.setWv_acc_rg (x : Nat) (v : WeSt) (k : Nat) : (s.setWv x v).rg k = s.rg k := rfl
@[simp] theorem State.setWv_acc_sg (x : Nat) (v : WeSt) (k : Nat) : (s.setWv x v).sg k = s.sg k := rfl
@[simp] theorem State.setWv_acc_wg (x : Nat) (v : WeSt) (k : Nat) : (s.setWv x v).wg k = s.wg k := rfl
@[simp] theorem State.setWv_acc_ap (x : Nat) (v : WeSt) (k : Nat) : (s.setWv x v).ap k = s.ap k := rfl
@[simp] theorem State.setWv_acc_sq (x : Nat) (v : WeSt) (k : Nat) : (s.setWv x v).sq k = s.sq k := rfl
@[simp] theorem State.setWv_acc_cl (x : Nat) (v : WeSt) (k : Nat) : (s.setWv x v).cl k = s.cl k := rfl
@[simp] theorem State.setWv_acc_ch (x : Nat) (v : WeSt) (k : Nat) : (s.setWv x v).ch k = s.ch k := rfl
@[simp] theorem State.setWv_acc_st (x : Nat) (v : WeSt) (k : Nat) : (s.setWv x v).st k = s.st k := rfl
@[simp] theorem State.setWv_acc_rl (x : Nat) (v : WeSt) (k : Nat) : (s.setWv x v).rl k = s.rl k := rfl
@[simp] theorem State.setWv_acc_kz (x : Nat) (v : WeSt) (k : Nat) : (s.setWv x v).kz k = s.kz k := rfl
@[simp] theorem State.setWv_acc_tu (x : Nat) (v : WeSt) (k : Nat) : (s.setWv x v).tu k = s.tu k := rfl
@[simp] theorem State.setWv_acc_rf (x : Nat) (v : WeSt) (k a m : Nat) : (s.setWv x v).rf k a m = s.rf k a m := rfl
@[simp] theorem State.setWv_acc_rb (x : Nat) (v : WeSt) (k a : Nat) : (s.setWv x v).rb k a = s.rb k a := rfl
@[simp] theorem State.setWv_acc_sf (x : Nat) (v : WeSt) (k a m : Nat) : (s.setWv x v).sf k a m = s.sf k a m := rfl
@[simp] theorem State.setWv_acc_af (x : Nat) (v : WeSt) (k a m : Nat) : (s.setWv x v).af k a m = s.af k a m := rfl

/-! ### setRf -/

@[simp] theorem State.setRf_pending (o lo len v : Nat) : (s.setRf o lo len v).pending = s.pending := rfl
@[simp] theorem State.setRf_now (o lo len v : Nat) : (s.setRf o lo len v).now = s.now := rfl
@[simp] theorem State.setRf_tstamp (o lo len v : Nat) : (s.setRf o lo len v).tstamp = s.tstamp := rfl
@[simp] theorem State.setRf_sec (o lo len v : Nat) : (s.setRf o lo len v).sec = s.sec := rfl
@[simp] theorem State.setRf_win (o lo len v : Nat) : (s.setRf o lo len v).win = s.win := rfl
@[simp] theorem State.setRf_app (o lo len v : Nat) : (s.setRf o lo len v).app = s.app := rfl
@[simp] theorem State.setRf_appPrev (o lo len v : Nat) : (s.setRf o lo len v).appPrev = s.appPrev := rfl
@[simp] theorem State.setRf_dirty (o lo len v : Nat) : (s.setRf o lo len v).dirty = s.dirty := rfl
@[simp] theorem State.setRf_late (o lo len v : Nat) : (s.setRf o lo len v).late = s.late := rfl
@[simp] theorem State.setRf_edge (o lo len v : Nat) : (s.setRf o lo len v).edge = s.edge := rfl
@[simp] theorem State.setRf_edgeApp (o lo len v : Nat) : (s.setRf o lo len v).edgeApp = s.edgeApp := rfl
@[simp] theorem State.setRf_edgePrev (o lo len v : Nat) : (s.setRf o lo len v).edgePrev = s.edgePrev := rfl
@[simp] theorem State.setRf_edgeBad (o lo len v : Nat) : (s.setRf o lo len v).edgeBad = s.edgeBad := rfl
@[simp] theorem State.setRf_edgeLost (o lo len v : Nat) : (s.setRf o lo len v).edgeLost = s.edgeLost := rfl
@[simp] theorem State.setRf_edgeGone (o lo len v : Nat) : (s.setRf o lo len v).edgeGone = s.edgeGone := rfl
@[simp] theorem State.setRf_snap (o lo len v : Nat) : (s.setRf o lo len v).snap = s.snap := rfl
@[simp] theorem State.setRf_rdata (o lo len v : Nat) : (s.setRf o lo len v).rdata = s.rdata := rfl
@[simp] theorem State.setRf_bar2 (o lo len v : Nat) : (s.setRf o lo len v).bar2 = s.bar2 := rfl
@[simp] theorem State.setRf_wrote (o lo len v : Nat) : (s.setRf o lo len v).wrote = s.wrote := rfl
@[simp] theorem State.setRf_regOld (o lo len v : Nat) : (s.setRf o lo len v).regOld = s.regOld := rfl
@[simp] theorem State.setRf_behind (o lo len v : Nat) : (s.setRf o lo len v).behind = s.behind := rfl
@[simp] theorem State.setRf_reach (o lo len v : Nat) : (s.setRf o lo len v).reach = s.reach := rfl
@[simp] theorem State.setRf_tap (o lo len v : Nat) : (s.setRf o lo len v).tap = s.tap := rfl
@[simp] theorem State.setRf_admNow (o lo len v : Nat) : (s.setRf o lo len v).admNow = s.admNow := rfl
@[simp] theorem State.setRf_held (o lo len v : Nat) : (s.setRf o lo len v).held = s.held := rfl
@[simp] theorem State.setRf_retried (o lo len v : Nat) : (s.setRf o lo len v).retried = s.retried := rfl
@[simp] theorem State.setRf_steep (o lo len v : Nat) : (s.setRf o lo len v).steep = s.steep := rfl
@[simp] theorem State.setRf_seq (o lo len v : Nat) : (s.setRf o lo len v).seq = s.seq := rfl
@[simp] theorem State.setRf_clu (o lo len v : Nat) : (s.setRf o lo len v).clu = s.clu := rfl
@[simp] theorem State.setRf_chan (o lo len v : Nat) : (s.setRf o lo len v).chan = s.chan := rfl
@[simp] theorem State.setRf_site (o lo len v : Nat) : (s.setRf o lo len v).site = s.site := rfl
@[simp] theorem State.setRf_rail (o lo len v : Nat) : (s.setRf o lo len v).rail = s.rail := rfl
@[simp] theorem State.setRf_zone (o lo len v : Nat) : (s.setRf o lo len v).zone = s.zone := rfl
@[simp] theorem State.setRf_auxOut (o lo len v : Nat) : (s.setRf o lo len v).auxOut = s.auxOut := rfl
@[simp] theorem State.setRf_contactAt (o lo len v : Nat) : (s.setRf o lo len v).contactAt = s.contactAt := rfl
@[simp] theorem State.setRf_auxClamps (o lo len v : Nat) : (s.setRf o lo len v).auxClamps = s.auxClamps := rfl
@[simp] theorem State.setRf_fault (o lo len v : Nat) : (s.setRf o lo len v).fault = s.fault := rfl
@[simp] theorem State.setRf_ward (o lo len v : Nat) : (s.setRf o lo len v).ward = s.ward := rfl
@[simp] theorem State.setRf_pulses (o lo len v : Nat) : (s.setRf o lo len v).pulses = s.pulses := rfl
@[simp] theorem State.setRf_transit (o lo len v : Nat) : (s.setRf o lo len v).transit = s.transit := rfl
@[simp] theorem State.setRf_holds (o lo len v : Nat) : (s.setRf o lo len v).holds = s.holds := rfl
@[simp] theorem State.setRf_mem (o lo len v : Nat) : (s.setRf o lo len v).mem = s.mem := rfl
@[simp] theorem State.setRf_potOld (o lo len v : Nat) : (s.setRf o lo len v).potOld = s.potOld := rfl
@[simp] theorem State.setRf_strain (o lo len v : Nat) : (s.setRf o lo len v).strain = s.strain := rfl
@[simp] theorem State.setRf_leakAt (o lo len v : Nat) : (s.setRf o lo len v).leakAt = s.leakAt := rfl
@[simp] theorem State.setRf_disarmed (o lo len v : Nat) : (s.setRf o lo len v).disarmed = s.disarmed := rfl
@[simp] theorem State.setRf_qm (o lo len v : Nat) : (s.setRf o lo len v).qm = s.qm := rfl
@[simp] theorem State.setRf_tiu (o lo len v : Nat) : (s.setRf o lo len v).tiu = s.tiu := rfl
@[simp] theorem State.setRf_we (o lo len v : Nat) : (s.setRf o lo len v).we = s.we := rfl
@[simp] theorem State.setRf_sync (o lo len v : Nat) : (s.setRf o lo len v).sync = s.sync := rfl
@[simp] theorem State.setRf_nodesA (o lo len v : Nat) : (s.setRf o lo len v).nodesA = s.nodesA := rfl
@[simp] theorem State.setRf_nodesB (o lo len v : Nat) : (s.setRf o lo len v).nodesB = s.nodesB := rfl
@[simp] theorem State.setRf_diffRun (o lo len v : Nat) : (s.setRf o lo len v).diffRun = s.diffRun := rfl
@[simp] theorem State.setRf_cal (o lo len v : Nat) : (s.setRf o lo len v).cal = s.cal := rfl
@[simp] theorem State.setRf_mc (o lo len v : Nat) : (s.setRf o lo len v).mc = s.mc := rfl
@[simp] theorem State.setRf_clk (o lo len v : Nat) : (s.setRf o lo len v).clk = s.clk := rfl
@[simp] theorem State.setRf_rst (o lo len v : Nat) : (s.setRf o lo len v).rst = s.rst := rfl
@[simp] theorem State.setRf_cp (o lo len v : Nat) : (s.setRf o lo len v).cp = s.cp := rfl
@[simp] theorem State.setRf_spp (o lo len v : Nat) : (s.setRf o lo len v).spp = s.spp := rfl
@[simp] theorem State.setRf_freeCtr (o lo len v : Nat) : (s.setRf o lo len v).freeCtr = s.freeCtr := rfl
@[simp] theorem State.setRf_acc_sg (o lo len v : Nat) (k : Nat) : (s.setRf o lo len v).sg k = s.sg k := rfl
@[simp] theorem State.setRf_acc_wg (o lo len v : Nat) (k : Nat) : (s.setRf o lo len v).wg k = s.wg k := rfl
@[simp] theorem State.setRf_acc_ap (o lo len v : Nat) (k : Nat) : (s.setRf o lo len v).ap k = s.ap k := rfl
@[simp] theorem State.setRf_acc_sq (o lo len v : Nat) (k : Nat) : (s.setRf o lo len v).sq k = s.sq k := rfl
@[simp] theorem State.setRf_acc_cl (o lo len v : Nat) (k : Nat) : (s.setRf o lo len v).cl k = s.cl k := rfl
@[simp] theorem State.setRf_acc_ch (o lo len v : Nat) (k : Nat) : (s.setRf o lo len v).ch k = s.ch k := rfl
@[simp] theorem State.setRf_acc_st (o lo len v : Nat) (k : Nat) : (s.setRf o lo len v).st k = s.st k := rfl
@[simp] theorem State.setRf_acc_rl (o lo len v : Nat) (k : Nat) : (s.setRf o lo len v).rl k = s.rl k := rfl
@[simp] theorem State.setRf_acc_kz (o lo len v : Nat) (k : Nat) : (s.setRf o lo len v).kz k = s.kz k := rfl
@[simp] theorem State.setRf_acc_tu (o lo len v : Nat) (k : Nat) : (s.setRf o lo len v).tu k = s.tu k := rfl
@[simp] theorem State.setRf_acc_wv (o lo len v : Nat) (k : Nat) : (s.setRf o lo len v).wv k = s.wv k := rfl
@[simp] theorem State.setRf_acc_sf (o lo len v : Nat) (k a m : Nat) : (s.setRf o lo len v).sf k a m = s.sf k a m := rfl
@[simp] theorem State.setRf_acc_af (o lo len v : Nat) (k a m : Nat) : (s.setRf o lo len v).af k a m = s.af k a m := rfl

/-! ### setRb -/

@[simp] theorem State.setRb_pending (o i : Nat) (b : Bool) : (s.setRb o i b).pending = s.pending := rfl
@[simp] theorem State.setRb_now (o i : Nat) (b : Bool) : (s.setRb o i b).now = s.now := rfl
@[simp] theorem State.setRb_tstamp (o i : Nat) (b : Bool) : (s.setRb o i b).tstamp = s.tstamp := rfl
@[simp] theorem State.setRb_sec (o i : Nat) (b : Bool) : (s.setRb o i b).sec = s.sec := rfl
@[simp] theorem State.setRb_win (o i : Nat) (b : Bool) : (s.setRb o i b).win = s.win := rfl
@[simp] theorem State.setRb_app (o i : Nat) (b : Bool) : (s.setRb o i b).app = s.app := rfl
@[simp] theorem State.setRb_appPrev (o i : Nat) (b : Bool) : (s.setRb o i b).appPrev = s.appPrev := rfl
@[simp] theorem State.setRb_dirty (o i : Nat) (b : Bool) : (s.setRb o i b).dirty = s.dirty := rfl
@[simp] theorem State.setRb_late (o i : Nat) (b : Bool) : (s.setRb o i b).late = s.late := rfl
@[simp] theorem State.setRb_edge (o i : Nat) (b : Bool) : (s.setRb o i b).edge = s.edge := rfl
@[simp] theorem State.setRb_edgeApp (o i : Nat) (b : Bool) : (s.setRb o i b).edgeApp = s.edgeApp := rfl
@[simp] theorem State.setRb_edgePrev (o i : Nat) (b : Bool) : (s.setRb o i b).edgePrev = s.edgePrev := rfl
@[simp] theorem State.setRb_edgeBad (o i : Nat) (b : Bool) : (s.setRb o i b).edgeBad = s.edgeBad := rfl
@[simp] theorem State.setRb_edgeLost (o i : Nat) (b : Bool) : (s.setRb o i b).edgeLost = s.edgeLost := rfl
@[simp] theorem State.setRb_edgeGone (o i : Nat) (b : Bool) : (s.setRb o i b).edgeGone = s.edgeGone := rfl
@[simp] theorem State.setRb_snap (o i : Nat) (b : Bool) : (s.setRb o i b).snap = s.snap := rfl
@[simp] theorem State.setRb_rdata (o i : Nat) (b : Bool) : (s.setRb o i b).rdata = s.rdata := rfl
@[simp] theorem State.setRb_bar2 (o i : Nat) (b : Bool) : (s.setRb o i b).bar2 = s.bar2 := rfl
@[simp] theorem State.setRb_wrote (o i : Nat) (b : Bool) : (s.setRb o i b).wrote = s.wrote := rfl
@[simp] theorem State.setRb_regOld (o i : Nat) (b : Bool) : (s.setRb o i b).regOld = s.regOld := rfl
@[simp] theorem State.setRb_behind (o i : Nat) (b : Bool) : (s.setRb o i b).behind = s.behind := rfl
@[simp] theorem State.setRb_reach (o i : Nat) (b : Bool) : (s.setRb o i b).reach = s.reach := rfl
@[simp] theorem State.setRb_tap (o i : Nat) (b : Bool) : (s.setRb o i b).tap = s.tap := rfl
@[simp] theorem State.setRb_admNow (o i : Nat) (b : Bool) : (s.setRb o i b).admNow = s.admNow := rfl
@[simp] theorem State.setRb_held (o i : Nat) (b : Bool) : (s.setRb o i b).held = s.held := rfl
@[simp] theorem State.setRb_retried (o i : Nat) (b : Bool) : (s.setRb o i b).retried = s.retried := rfl
@[simp] theorem State.setRb_steep (o i : Nat) (b : Bool) : (s.setRb o i b).steep = s.steep := rfl
@[simp] theorem State.setRb_seq (o i : Nat) (b : Bool) : (s.setRb o i b).seq = s.seq := rfl
@[simp] theorem State.setRb_clu (o i : Nat) (b : Bool) : (s.setRb o i b).clu = s.clu := rfl
@[simp] theorem State.setRb_chan (o i : Nat) (b : Bool) : (s.setRb o i b).chan = s.chan := rfl
@[simp] theorem State.setRb_site (o i : Nat) (b : Bool) : (s.setRb o i b).site = s.site := rfl
@[simp] theorem State.setRb_rail (o i : Nat) (b : Bool) : (s.setRb o i b).rail = s.rail := rfl
@[simp] theorem State.setRb_zone (o i : Nat) (b : Bool) : (s.setRb o i b).zone = s.zone := rfl
@[simp] theorem State.setRb_auxOut (o i : Nat) (b : Bool) : (s.setRb o i b).auxOut = s.auxOut := rfl
@[simp] theorem State.setRb_contactAt (o i : Nat) (b : Bool) : (s.setRb o i b).contactAt = s.contactAt := rfl
@[simp] theorem State.setRb_auxClamps (o i : Nat) (b : Bool) : (s.setRb o i b).auxClamps = s.auxClamps := rfl
@[simp] theorem State.setRb_fault (o i : Nat) (b : Bool) : (s.setRb o i b).fault = s.fault := rfl
@[simp] theorem State.setRb_ward (o i : Nat) (b : Bool) : (s.setRb o i b).ward = s.ward := rfl
@[simp] theorem State.setRb_pulses (o i : Nat) (b : Bool) : (s.setRb o i b).pulses = s.pulses := rfl
@[simp] theorem State.setRb_transit (o i : Nat) (b : Bool) : (s.setRb o i b).transit = s.transit := rfl
@[simp] theorem State.setRb_holds (o i : Nat) (b : Bool) : (s.setRb o i b).holds = s.holds := rfl
@[simp] theorem State.setRb_mem (o i : Nat) (b : Bool) : (s.setRb o i b).mem = s.mem := rfl
@[simp] theorem State.setRb_potOld (o i : Nat) (b : Bool) : (s.setRb o i b).potOld = s.potOld := rfl
@[simp] theorem State.setRb_strain (o i : Nat) (b : Bool) : (s.setRb o i b).strain = s.strain := rfl
@[simp] theorem State.setRb_leakAt (o i : Nat) (b : Bool) : (s.setRb o i b).leakAt = s.leakAt := rfl
@[simp] theorem State.setRb_disarmed (o i : Nat) (b : Bool) : (s.setRb o i b).disarmed = s.disarmed := rfl
@[simp] theorem State.setRb_qm (o i : Nat) (b : Bool) : (s.setRb o i b).qm = s.qm := rfl
@[simp] theorem State.setRb_tiu (o i : Nat) (b : Bool) : (s.setRb o i b).tiu = s.tiu := rfl
@[simp] theorem State.setRb_we (o i : Nat) (b : Bool) : (s.setRb o i b).we = s.we := rfl
@[simp] theorem State.setRb_sync (o i : Nat) (b : Bool) : (s.setRb o i b).sync = s.sync := rfl
@[simp] theorem State.setRb_nodesA (o i : Nat) (b : Bool) : (s.setRb o i b).nodesA = s.nodesA := rfl
@[simp] theorem State.setRb_nodesB (o i : Nat) (b : Bool) : (s.setRb o i b).nodesB = s.nodesB := rfl
@[simp] theorem State.setRb_diffRun (o i : Nat) (b : Bool) : (s.setRb o i b).diffRun = s.diffRun := rfl
@[simp] theorem State.setRb_cal (o i : Nat) (b : Bool) : (s.setRb o i b).cal = s.cal := rfl
@[simp] theorem State.setRb_mc (o i : Nat) (b : Bool) : (s.setRb o i b).mc = s.mc := rfl
@[simp] theorem State.setRb_clk (o i : Nat) (b : Bool) : (s.setRb o i b).clk = s.clk := rfl
@[simp] theorem State.setRb_rst (o i : Nat) (b : Bool) : (s.setRb o i b).rst = s.rst := rfl
@[simp] theorem State.setRb_cp (o i : Nat) (b : Bool) : (s.setRb o i b).cp = s.cp := rfl
@[simp] theorem State.setRb_spp (o i : Nat) (b : Bool) : (s.setRb o i b).spp = s.spp := rfl
@[simp] theorem State.setRb_freeCtr (o i : Nat) (b : Bool) : (s.setRb o i b).freeCtr = s.freeCtr := rfl
@[simp] theorem State.setRb_acc_sg (o i : Nat) (b : Bool) (k : Nat) : (s.setRb o i b).sg k = s.sg k := rfl
@[simp] theorem State.setRb_acc_wg (o i : Nat) (b : Bool) (k : Nat) : (s.setRb o i b).wg k = s.wg k := rfl
@[simp] theorem State.setRb_acc_ap (o i : Nat) (b : Bool) (k : Nat) : (s.setRb o i b).ap k = s.ap k := rfl
@[simp] theorem State.setRb_acc_sq (o i : Nat) (b : Bool) (k : Nat) : (s.setRb o i b).sq k = s.sq k := rfl
@[simp] theorem State.setRb_acc_cl (o i : Nat) (b : Bool) (k : Nat) : (s.setRb o i b).cl k = s.cl k := rfl
@[simp] theorem State.setRb_acc_ch (o i : Nat) (b : Bool) (k : Nat) : (s.setRb o i b).ch k = s.ch k := rfl
@[simp] theorem State.setRb_acc_st (o i : Nat) (b : Bool) (k : Nat) : (s.setRb o i b).st k = s.st k := rfl
@[simp] theorem State.setRb_acc_rl (o i : Nat) (b : Bool) (k : Nat) : (s.setRb o i b).rl k = s.rl k := rfl
@[simp] theorem State.setRb_acc_kz (o i : Nat) (b : Bool) (k : Nat) : (s.setRb o i b).kz k = s.kz k := rfl
@[simp] theorem State.setRb_acc_tu (o i : Nat) (b : Bool) (k : Nat) : (s.setRb o i b).tu k = s.tu k := rfl
@[simp] theorem State.setRb_acc_wv (o i : Nat) (b : Bool) (k : Nat) : (s.setRb o i b).wv k = s.wv k := rfl
@[simp] theorem State.setRb_acc_sf (o i : Nat) (b : Bool) (k a m : Nat) : (s.setRb o i b).sf k a m = s.sf k a m := rfl
@[simp] theorem State.setRb_acc_af (o i : Nat) (b : Bool) (k a m : Nat) : (s.setRb o i b).af k a m = s.af k a m := rfl

/-! ### count -/

@[simp] theorem State.count_pending (o lo len n : Nat) : (s.count o lo len n).pending = s.pending := rfl
@[simp] theorem State.count_now (o lo len n : Nat) : (s.count o lo len n).now = s.now := rfl
@[simp] theorem State.count_tstamp (o lo len n : Nat) : (s.count o lo len n).tstamp = s.tstamp := rfl
@[simp] theorem State.count_sec (o lo len n : Nat) : (s.count o lo len n).sec = s.sec := rfl
@[simp] theorem State.count_win (o lo len n : Nat) : (s.count o lo len n).win = s.win := rfl
@[simp] theorem State.count_app (o lo len n : Nat) : (s.count o lo len n).app = s.app := rfl
@[simp] theorem State.count_appPrev (o lo len n : Nat) : (s.count o lo len n).appPrev = s.appPrev := rfl
@[simp] theorem State.count_dirty (o lo len n : Nat) : (s.count o lo len n).dirty = s.dirty := rfl
@[simp] theorem State.count_late (o lo len n : Nat) : (s.count o lo len n).late = s.late := rfl
@[simp] theorem State.count_edge (o lo len n : Nat) : (s.count o lo len n).edge = s.edge := rfl
@[simp] theorem State.count_edgeApp (o lo len n : Nat) : (s.count o lo len n).edgeApp = s.edgeApp := rfl
@[simp] theorem State.count_edgePrev (o lo len n : Nat) : (s.count o lo len n).edgePrev = s.edgePrev := rfl
@[simp] theorem State.count_edgeBad (o lo len n : Nat) : (s.count o lo len n).edgeBad = s.edgeBad := rfl
@[simp] theorem State.count_edgeLost (o lo len n : Nat) : (s.count o lo len n).edgeLost = s.edgeLost := rfl
@[simp] theorem State.count_edgeGone (o lo len n : Nat) : (s.count o lo len n).edgeGone = s.edgeGone := rfl
@[simp] theorem State.count_snap (o lo len n : Nat) : (s.count o lo len n).snap = s.snap := rfl
@[simp] theorem State.count_rdata (o lo len n : Nat) : (s.count o lo len n).rdata = s.rdata := rfl
@[simp] theorem State.count_bar2 (o lo len n : Nat) : (s.count o lo len n).bar2 = s.bar2 := rfl
@[simp] theorem State.count_wrote (o lo len n : Nat) : (s.count o lo len n).wrote = s.wrote := rfl
@[simp] theorem State.count_regOld (o lo len n : Nat) : (s.count o lo len n).regOld = s.regOld := rfl
@[simp] theorem State.count_behind (o lo len n : Nat) : (s.count o lo len n).behind = s.behind := rfl
@[simp] theorem State.count_reach (o lo len n : Nat) : (s.count o lo len n).reach = s.reach := rfl
@[simp] theorem State.count_tap (o lo len n : Nat) : (s.count o lo len n).tap = s.tap := rfl
@[simp] theorem State.count_admNow (o lo len n : Nat) : (s.count o lo len n).admNow = s.admNow := rfl
@[simp] theorem State.count_held (o lo len n : Nat) : (s.count o lo len n).held = s.held := rfl
@[simp] theorem State.count_retried (o lo len n : Nat) : (s.count o lo len n).retried = s.retried := rfl
@[simp] theorem State.count_steep (o lo len n : Nat) : (s.count o lo len n).steep = s.steep := rfl
@[simp] theorem State.count_seq (o lo len n : Nat) : (s.count o lo len n).seq = s.seq := rfl
@[simp] theorem State.count_clu (o lo len n : Nat) : (s.count o lo len n).clu = s.clu := rfl
@[simp] theorem State.count_chan (o lo len n : Nat) : (s.count o lo len n).chan = s.chan := rfl
@[simp] theorem State.count_site (o lo len n : Nat) : (s.count o lo len n).site = s.site := rfl
@[simp] theorem State.count_rail (o lo len n : Nat) : (s.count o lo len n).rail = s.rail := rfl
@[simp] theorem State.count_zone (o lo len n : Nat) : (s.count o lo len n).zone = s.zone := rfl
@[simp] theorem State.count_auxOut (o lo len n : Nat) : (s.count o lo len n).auxOut = s.auxOut := rfl
@[simp] theorem State.count_contactAt (o lo len n : Nat) : (s.count o lo len n).contactAt = s.contactAt := rfl
@[simp] theorem State.count_auxClamps (o lo len n : Nat) : (s.count o lo len n).auxClamps = s.auxClamps := rfl
@[simp] theorem State.count_fault (o lo len n : Nat) : (s.count o lo len n).fault = s.fault := rfl
@[simp] theorem State.count_ward (o lo len n : Nat) : (s.count o lo len n).ward = s.ward := rfl
@[simp] theorem State.count_pulses (o lo len n : Nat) : (s.count o lo len n).pulses = s.pulses := rfl
@[simp] theorem State.count_transit (o lo len n : Nat) : (s.count o lo len n).transit = s.transit := rfl
@[simp] theorem State.count_holds (o lo len n : Nat) : (s.count o lo len n).holds = s.holds := rfl
@[simp] theorem State.count_mem (o lo len n : Nat) : (s.count o lo len n).mem = s.mem := rfl
@[simp] theorem State.count_potOld (o lo len n : Nat) : (s.count o lo len n).potOld = s.potOld := rfl
@[simp] theorem State.count_strain (o lo len n : Nat) : (s.count o lo len n).strain = s.strain := rfl
@[simp] theorem State.count_leakAt (o lo len n : Nat) : (s.count o lo len n).leakAt = s.leakAt := rfl
@[simp] theorem State.count_disarmed (o lo len n : Nat) : (s.count o lo len n).disarmed = s.disarmed := rfl
@[simp] theorem State.count_qm (o lo len n : Nat) : (s.count o lo len n).qm = s.qm := rfl
@[simp] theorem State.count_tiu (o lo len n : Nat) : (s.count o lo len n).tiu = s.tiu := rfl
@[simp] theorem State.count_we (o lo len n : Nat) : (s.count o lo len n).we = s.we := rfl
@[simp] theorem State.count_sync (o lo len n : Nat) : (s.count o lo len n).sync = s.sync := rfl
@[simp] theorem State.count_nodesA (o lo len n : Nat) : (s.count o lo len n).nodesA = s.nodesA := rfl
@[simp] theorem State.count_nodesB (o lo len n : Nat) : (s.count o lo len n).nodesB = s.nodesB := rfl
@[simp] theorem State.count_diffRun (o lo len n : Nat) : (s.count o lo len n).diffRun = s.diffRun := rfl
@[simp] theorem State.count_cal (o lo len n : Nat) : (s.count o lo len n).cal = s.cal := rfl
@[simp] theorem State.count_mc (o lo len n : Nat) : (s.count o lo len n).mc = s.mc := rfl
@[simp] theorem State.count_clk (o lo len n : Nat) : (s.count o lo len n).clk = s.clk := rfl
@[simp] theorem State.count_rst (o lo len n : Nat) : (s.count o lo len n).rst = s.rst := rfl
@[simp] theorem State.count_cp (o lo len n : Nat) : (s.count o lo len n).cp = s.cp := rfl
@[simp] theorem State.count_spp (o lo len n : Nat) : (s.count o lo len n).spp = s.spp := rfl
@[simp] theorem State.count_freeCtr (o lo len n : Nat) : (s.count o lo len n).freeCtr = s.freeCtr := rfl
@[simp] theorem State.count_acc_sg (o lo len n : Nat) (k : Nat) : (s.count o lo len n).sg k = s.sg k := rfl
@[simp] theorem State.count_acc_wg (o lo len n : Nat) (k : Nat) : (s.count o lo len n).wg k = s.wg k := rfl
@[simp] theorem State.count_acc_ap (o lo len n : Nat) (k : Nat) : (s.count o lo len n).ap k = s.ap k := rfl
@[simp] theorem State.count_acc_sq (o lo len n : Nat) (k : Nat) : (s.count o lo len n).sq k = s.sq k := rfl
@[simp] theorem State.count_acc_cl (o lo len n : Nat) (k : Nat) : (s.count o lo len n).cl k = s.cl k := rfl
@[simp] theorem State.count_acc_ch (o lo len n : Nat) (k : Nat) : (s.count o lo len n).ch k = s.ch k := rfl
@[simp] theorem State.count_acc_st (o lo len n : Nat) (k : Nat) : (s.count o lo len n).st k = s.st k := rfl
@[simp] theorem State.count_acc_rl (o lo len n : Nat) (k : Nat) : (s.count o lo len n).rl k = s.rl k := rfl
@[simp] theorem State.count_acc_kz (o lo len n : Nat) (k : Nat) : (s.count o lo len n).kz k = s.kz k := rfl
@[simp] theorem State.count_acc_tu (o lo len n : Nat) (k : Nat) : (s.count o lo len n).tu k = s.tu k := rfl
@[simp] theorem State.count_acc_wv (o lo len n : Nat) (k : Nat) : (s.count o lo len n).wv k = s.wv k := rfl
@[simp] theorem State.count_acc_sf (o lo len n : Nat) (k a m : Nat) : (s.count o lo len n).sf k a m = s.sf k a m := rfl
@[simp] theorem State.count_acc_af (o lo len n : Nat) (k a m : Nat) : (s.count o lo len n).af k a m = s.af k a m := rfl

/-! ### change -/

@[simp] theorem State.change_pending (o : Nat) (f : Word → Word) : (s.change o f).pending = s.pending := rfl
@[simp] theorem State.change_now (o : Nat) (f : Word → Word) : (s.change o f).now = s.now := rfl
@[simp] theorem State.change_tstamp (o : Nat) (f : Word → Word) : (s.change o f).tstamp = s.tstamp := rfl
@[simp] theorem State.change_sec (o : Nat) (f : Word → Word) : (s.change o f).sec = s.sec := rfl
@[simp] theorem State.change_win (o : Nat) (f : Word → Word) : (s.change o f).win = s.win := rfl
@[simp] theorem State.change_app (o : Nat) (f : Word → Word) : (s.change o f).app = s.app := rfl
@[simp] theorem State.change_appPrev (o : Nat) (f : Word → Word) : (s.change o f).appPrev = s.appPrev := rfl
@[simp] theorem State.change_dirty (o : Nat) (f : Word → Word) : (s.change o f).dirty = s.dirty := rfl
@[simp] theorem State.change_late (o : Nat) (f : Word → Word) : (s.change o f).late = s.late := rfl
@[simp] theorem State.change_edge (o : Nat) (f : Word → Word) : (s.change o f).edge = s.edge := rfl
@[simp] theorem State.change_edgeApp (o : Nat) (f : Word → Word) : (s.change o f).edgeApp = s.edgeApp := rfl
@[simp] theorem State.change_edgePrev (o : Nat) (f : Word → Word) : (s.change o f).edgePrev = s.edgePrev := rfl
@[simp] theorem State.change_edgeBad (o : Nat) (f : Word → Word) : (s.change o f).edgeBad = s.edgeBad := rfl
@[simp] theorem State.change_edgeLost (o : Nat) (f : Word → Word) : (s.change o f).edgeLost = s.edgeLost := rfl
@[simp] theorem State.change_edgeGone (o : Nat) (f : Word → Word) : (s.change o f).edgeGone = s.edgeGone := rfl
@[simp] theorem State.change_snap (o : Nat) (f : Word → Word) : (s.change o f).snap = s.snap := rfl
@[simp] theorem State.change_rdata (o : Nat) (f : Word → Word) : (s.change o f).rdata = s.rdata := rfl
@[simp] theorem State.change_bar2 (o : Nat) (f : Word → Word) : (s.change o f).bar2 = s.bar2 := rfl
@[simp] theorem State.change_wrote (o : Nat) (f : Word → Word) : (s.change o f).wrote = s.wrote := rfl
@[simp] theorem State.change_regOld (o : Nat) (f : Word → Word) : (s.change o f).regOld = s.regOld := rfl
@[simp] theorem State.change_behind (o : Nat) (f : Word → Word) : (s.change o f).behind = s.behind := rfl
@[simp] theorem State.change_reach (o : Nat) (f : Word → Word) : (s.change o f).reach = s.reach := rfl
@[simp] theorem State.change_tap (o : Nat) (f : Word → Word) : (s.change o f).tap = s.tap := rfl
@[simp] theorem State.change_admNow (o : Nat) (f : Word → Word) : (s.change o f).admNow = s.admNow := rfl
@[simp] theorem State.change_held (o : Nat) (f : Word → Word) : (s.change o f).held = s.held := rfl
@[simp] theorem State.change_retried (o : Nat) (f : Word → Word) : (s.change o f).retried = s.retried := rfl
@[simp] theorem State.change_steep (o : Nat) (f : Word → Word) : (s.change o f).steep = s.steep := rfl
@[simp] theorem State.change_seq (o : Nat) (f : Word → Word) : (s.change o f).seq = s.seq := rfl
@[simp] theorem State.change_clu (o : Nat) (f : Word → Word) : (s.change o f).clu = s.clu := rfl
@[simp] theorem State.change_chan (o : Nat) (f : Word → Word) : (s.change o f).chan = s.chan := rfl
@[simp] theorem State.change_site (o : Nat) (f : Word → Word) : (s.change o f).site = s.site := rfl
@[simp] theorem State.change_rail (o : Nat) (f : Word → Word) : (s.change o f).rail = s.rail := rfl
@[simp] theorem State.change_zone (o : Nat) (f : Word → Word) : (s.change o f).zone = s.zone := rfl
@[simp] theorem State.change_auxOut (o : Nat) (f : Word → Word) : (s.change o f).auxOut = s.auxOut := rfl
@[simp] theorem State.change_contactAt (o : Nat) (f : Word → Word) : (s.change o f).contactAt = s.contactAt := rfl
@[simp] theorem State.change_auxClamps (o : Nat) (f : Word → Word) : (s.change o f).auxClamps = s.auxClamps := rfl
@[simp] theorem State.change_fault (o : Nat) (f : Word → Word) : (s.change o f).fault = s.fault := rfl
@[simp] theorem State.change_ward (o : Nat) (f : Word → Word) : (s.change o f).ward = s.ward := rfl
@[simp] theorem State.change_pulses (o : Nat) (f : Word → Word) : (s.change o f).pulses = s.pulses := rfl
@[simp] theorem State.change_transit (o : Nat) (f : Word → Word) : (s.change o f).transit = s.transit := rfl
@[simp] theorem State.change_holds (o : Nat) (f : Word → Word) : (s.change o f).holds = s.holds := rfl
@[simp] theorem State.change_mem (o : Nat) (f : Word → Word) : (s.change o f).mem = s.mem := rfl
@[simp] theorem State.change_potOld (o : Nat) (f : Word → Word) : (s.change o f).potOld = s.potOld := rfl
@[simp] theorem State.change_strain (o : Nat) (f : Word → Word) : (s.change o f).strain = s.strain := rfl
@[simp] theorem State.change_leakAt (o : Nat) (f : Word → Word) : (s.change o f).leakAt = s.leakAt := rfl
@[simp] theorem State.change_disarmed (o : Nat) (f : Word → Word) : (s.change o f).disarmed = s.disarmed := rfl
@[simp] theorem State.change_qm (o : Nat) (f : Word → Word) : (s.change o f).qm = s.qm := rfl
@[simp] theorem State.change_tiu (o : Nat) (f : Word → Word) : (s.change o f).tiu = s.tiu := rfl
@[simp] theorem State.change_we (o : Nat) (f : Word → Word) : (s.change o f).we = s.we := rfl
@[simp] theorem State.change_sync (o : Nat) (f : Word → Word) : (s.change o f).sync = s.sync := rfl
@[simp] theorem State.change_nodesA (o : Nat) (f : Word → Word) : (s.change o f).nodesA = s.nodesA := rfl
@[simp] theorem State.change_nodesB (o : Nat) (f : Word → Word) : (s.change o f).nodesB = s.nodesB := rfl
@[simp] theorem State.change_diffRun (o : Nat) (f : Word → Word) : (s.change o f).diffRun = s.diffRun := rfl
@[simp] theorem State.change_cal (o : Nat) (f : Word → Word) : (s.change o f).cal = s.cal := rfl
@[simp] theorem State.change_mc (o : Nat) (f : Word → Word) : (s.change o f).mc = s.mc := rfl
@[simp] theorem State.change_clk (o : Nat) (f : Word → Word) : (s.change o f).clk = s.clk := rfl
@[simp] theorem State.change_rst (o : Nat) (f : Word → Word) : (s.change o f).rst = s.rst := rfl
@[simp] theorem State.change_cp (o : Nat) (f : Word → Word) : (s.change o f).cp = s.cp := rfl
@[simp] theorem State.change_spp (o : Nat) (f : Word → Word) : (s.change o f).spp = s.spp := rfl
@[simp] theorem State.change_freeCtr (o : Nat) (f : Word → Word) : (s.change o f).freeCtr = s.freeCtr := rfl
@[simp] theorem State.change_acc_sg (o : Nat) (f : Word → Word) (k : Nat) : (s.change o f).sg k = s.sg k := rfl
@[simp] theorem State.change_acc_wg (o : Nat) (f : Word → Word) (k : Nat) : (s.change o f).wg k = s.wg k := rfl
@[simp] theorem State.change_acc_ap (o : Nat) (f : Word → Word) (k : Nat) : (s.change o f).ap k = s.ap k := rfl
@[simp] theorem State.change_acc_sq (o : Nat) (f : Word → Word) (k : Nat) : (s.change o f).sq k = s.sq k := rfl
@[simp] theorem State.change_acc_cl (o : Nat) (f : Word → Word) (k : Nat) : (s.change o f).cl k = s.cl k := rfl
@[simp] theorem State.change_acc_ch (o : Nat) (f : Word → Word) (k : Nat) : (s.change o f).ch k = s.ch k := rfl
@[simp] theorem State.change_acc_st (o : Nat) (f : Word → Word) (k : Nat) : (s.change o f).st k = s.st k := rfl
@[simp] theorem State.change_acc_rl (o : Nat) (f : Word → Word) (k : Nat) : (s.change o f).rl k = s.rl k := rfl
@[simp] theorem State.change_acc_kz (o : Nat) (f : Word → Word) (k : Nat) : (s.change o f).kz k = s.kz k := rfl
@[simp] theorem State.change_acc_tu (o : Nat) (f : Word → Word) (k : Nat) : (s.change o f).tu k = s.tu k := rfl
@[simp] theorem State.change_acc_wv (o : Nat) (f : Word → Word) (k : Nat) : (s.change o f).wv k = s.wv k := rfl
@[simp] theorem State.change_acc_sf (o : Nat) (f : Word → Word) (k a m : Nat) : (s.change o f).sf k a m = s.sf k a m := rfl
@[simp] theorem State.change_acc_af (o : Nat) (f : Word → Word) (k a m : Nat) : (s.change o f).af k a m = s.af k a m := rfl

/-! ### changeSg -/

@[simp] theorem State.changeSg_pending (o : Nat) (f : Word → Word) : (s.changeSg o f).pending = s.pending := rfl
@[simp] theorem State.changeSg_now (o : Nat) (f : Word → Word) : (s.changeSg o f).now = s.now := rfl
@[simp] theorem State.changeSg_tstamp (o : Nat) (f : Word → Word) : (s.changeSg o f).tstamp = s.tstamp := rfl
@[simp] theorem State.changeSg_reg (o : Nat) (f : Word → Word) : (s.changeSg o f).reg = s.reg := rfl
@[simp] theorem State.changeSg_win (o : Nat) (f : Word → Word) : (s.changeSg o f).win = s.win := rfl
@[simp] theorem State.changeSg_app (o : Nat) (f : Word → Word) : (s.changeSg o f).app = s.app := rfl
@[simp] theorem State.changeSg_appPrev (o : Nat) (f : Word → Word) : (s.changeSg o f).appPrev = s.appPrev := rfl
@[simp] theorem State.changeSg_dirty (o : Nat) (f : Word → Word) : (s.changeSg o f).dirty = s.dirty := rfl
@[simp] theorem State.changeSg_late (o : Nat) (f : Word → Word) : (s.changeSg o f).late = s.late := rfl
@[simp] theorem State.changeSg_edge (o : Nat) (f : Word → Word) : (s.changeSg o f).edge = s.edge := rfl
@[simp] theorem State.changeSg_edgeApp (o : Nat) (f : Word → Word) : (s.changeSg o f).edgeApp = s.edgeApp := rfl
@[simp] theorem State.changeSg_edgePrev (o : Nat) (f : Word → Word) : (s.changeSg o f).edgePrev = s.edgePrev := rfl
@[simp] theorem State.changeSg_edgeBad (o : Nat) (f : Word → Word) : (s.changeSg o f).edgeBad = s.edgeBad := rfl
@[simp] theorem State.changeSg_edgeLost (o : Nat) (f : Word → Word) : (s.changeSg o f).edgeLost = s.edgeLost := rfl
@[simp] theorem State.changeSg_edgeGone (o : Nat) (f : Word → Word) : (s.changeSg o f).edgeGone = s.edgeGone := rfl
@[simp] theorem State.changeSg_snap (o : Nat) (f : Word → Word) : (s.changeSg o f).snap = s.snap := rfl
@[simp] theorem State.changeSg_rdata (o : Nat) (f : Word → Word) : (s.changeSg o f).rdata = s.rdata := rfl
@[simp] theorem State.changeSg_bar2 (o : Nat) (f : Word → Word) : (s.changeSg o f).bar2 = s.bar2 := rfl
@[simp] theorem State.changeSg_wrote (o : Nat) (f : Word → Word) : (s.changeSg o f).wrote = s.wrote := rfl
@[simp] theorem State.changeSg_regOld (o : Nat) (f : Word → Word) : (s.changeSg o f).regOld = s.regOld := rfl
@[simp] theorem State.changeSg_behind (o : Nat) (f : Word → Word) : (s.changeSg o f).behind = s.behind := rfl
@[simp] theorem State.changeSg_reach (o : Nat) (f : Word → Word) : (s.changeSg o f).reach = s.reach := rfl
@[simp] theorem State.changeSg_tap (o : Nat) (f : Word → Word) : (s.changeSg o f).tap = s.tap := rfl
@[simp] theorem State.changeSg_admNow (o : Nat) (f : Word → Word) : (s.changeSg o f).admNow = s.admNow := rfl
@[simp] theorem State.changeSg_held (o : Nat) (f : Word → Word) : (s.changeSg o f).held = s.held := rfl
@[simp] theorem State.changeSg_retried (o : Nat) (f : Word → Word) : (s.changeSg o f).retried = s.retried := rfl
@[simp] theorem State.changeSg_steep (o : Nat) (f : Word → Word) : (s.changeSg o f).steep = s.steep := rfl
@[simp] theorem State.changeSg_seq (o : Nat) (f : Word → Word) : (s.changeSg o f).seq = s.seq := rfl
@[simp] theorem State.changeSg_clu (o : Nat) (f : Word → Word) : (s.changeSg o f).clu = s.clu := rfl
@[simp] theorem State.changeSg_chan (o : Nat) (f : Word → Word) : (s.changeSg o f).chan = s.chan := rfl
@[simp] theorem State.changeSg_site (o : Nat) (f : Word → Word) : (s.changeSg o f).site = s.site := rfl
@[simp] theorem State.changeSg_rail (o : Nat) (f : Word → Word) : (s.changeSg o f).rail = s.rail := rfl
@[simp] theorem State.changeSg_zone (o : Nat) (f : Word → Word) : (s.changeSg o f).zone = s.zone := rfl
@[simp] theorem State.changeSg_auxOut (o : Nat) (f : Word → Word) : (s.changeSg o f).auxOut = s.auxOut := rfl
@[simp] theorem State.changeSg_contactAt (o : Nat) (f : Word → Word) : (s.changeSg o f).contactAt = s.contactAt := rfl
@[simp] theorem State.changeSg_auxClamps (o : Nat) (f : Word → Word) : (s.changeSg o f).auxClamps = s.auxClamps := rfl
@[simp] theorem State.changeSg_fault (o : Nat) (f : Word → Word) : (s.changeSg o f).fault = s.fault := rfl
@[simp] theorem State.changeSg_ward (o : Nat) (f : Word → Word) : (s.changeSg o f).ward = s.ward := rfl
@[simp] theorem State.changeSg_pulses (o : Nat) (f : Word → Word) : (s.changeSg o f).pulses = s.pulses := rfl
@[simp] theorem State.changeSg_transit (o : Nat) (f : Word → Word) : (s.changeSg o f).transit = s.transit := rfl
@[simp] theorem State.changeSg_holds (o : Nat) (f : Word → Word) : (s.changeSg o f).holds = s.holds := rfl
@[simp] theorem State.changeSg_mem (o : Nat) (f : Word → Word) : (s.changeSg o f).mem = s.mem := rfl
@[simp] theorem State.changeSg_potOld (o : Nat) (f : Word → Word) : (s.changeSg o f).potOld = s.potOld := rfl
@[simp] theorem State.changeSg_strain (o : Nat) (f : Word → Word) : (s.changeSg o f).strain = s.strain := rfl
@[simp] theorem State.changeSg_leakAt (o : Nat) (f : Word → Word) : (s.changeSg o f).leakAt = s.leakAt := rfl
@[simp] theorem State.changeSg_disarmed (o : Nat) (f : Word → Word) : (s.changeSg o f).disarmed = s.disarmed := rfl
@[simp] theorem State.changeSg_qm (o : Nat) (f : Word → Word) : (s.changeSg o f).qm = s.qm := rfl
@[simp] theorem State.changeSg_tiu (o : Nat) (f : Word → Word) : (s.changeSg o f).tiu = s.tiu := rfl
@[simp] theorem State.changeSg_we (o : Nat) (f : Word → Word) : (s.changeSg o f).we = s.we := rfl
@[simp] theorem State.changeSg_sync (o : Nat) (f : Word → Word) : (s.changeSg o f).sync = s.sync := rfl
@[simp] theorem State.changeSg_nodesA (o : Nat) (f : Word → Word) : (s.changeSg o f).nodesA = s.nodesA := rfl
@[simp] theorem State.changeSg_nodesB (o : Nat) (f : Word → Word) : (s.changeSg o f).nodesB = s.nodesB := rfl
@[simp] theorem State.changeSg_diffRun (o : Nat) (f : Word → Word) : (s.changeSg o f).diffRun = s.diffRun := rfl
@[simp] theorem State.changeSg_cal (o : Nat) (f : Word → Word) : (s.changeSg o f).cal = s.cal := rfl
@[simp] theorem State.changeSg_mc (o : Nat) (f : Word → Word) : (s.changeSg o f).mc = s.mc := rfl
@[simp] theorem State.changeSg_clk (o : Nat) (f : Word → Word) : (s.changeSg o f).clk = s.clk := rfl
@[simp] theorem State.changeSg_rst (o : Nat) (f : Word → Word) : (s.changeSg o f).rst = s.rst := rfl
@[simp] theorem State.changeSg_cp (o : Nat) (f : Word → Word) : (s.changeSg o f).cp = s.cp := rfl
@[simp] theorem State.changeSg_spp (o : Nat) (f : Word → Word) : (s.changeSg o f).spp = s.spp := rfl
@[simp] theorem State.changeSg_freeCtr (o : Nat) (f : Word → Word) : (s.changeSg o f).freeCtr = s.freeCtr := rfl
@[simp] theorem State.changeSg_acc_rg (o : Nat) (f : Word → Word) (k : Nat) : (s.changeSg o f).rg k = s.rg k := rfl
@[simp] theorem State.changeSg_acc_wg (o : Nat) (f : Word → Word) (k : Nat) : (s.changeSg o f).wg k = s.wg k := rfl
@[simp] theorem State.changeSg_acc_ap (o : Nat) (f : Word → Word) (k : Nat) : (s.changeSg o f).ap k = s.ap k := rfl
@[simp] theorem State.changeSg_acc_sq (o : Nat) (f : Word → Word) (k : Nat) : (s.changeSg o f).sq k = s.sq k := rfl
@[simp] theorem State.changeSg_acc_cl (o : Nat) (f : Word → Word) (k : Nat) : (s.changeSg o f).cl k = s.cl k := rfl
@[simp] theorem State.changeSg_acc_ch (o : Nat) (f : Word → Word) (k : Nat) : (s.changeSg o f).ch k = s.ch k := rfl
@[simp] theorem State.changeSg_acc_st (o : Nat) (f : Word → Word) (k : Nat) : (s.changeSg o f).st k = s.st k := rfl
@[simp] theorem State.changeSg_acc_rl (o : Nat) (f : Word → Word) (k : Nat) : (s.changeSg o f).rl k = s.rl k := rfl
@[simp] theorem State.changeSg_acc_kz (o : Nat) (f : Word → Word) (k : Nat) : (s.changeSg o f).kz k = s.kz k := rfl
@[simp] theorem State.changeSg_acc_tu (o : Nat) (f : Word → Word) (k : Nat) : (s.changeSg o f).tu k = s.tu k := rfl
@[simp] theorem State.changeSg_acc_wv (o : Nat) (f : Word → Word) (k : Nat) : (s.changeSg o f).wv k = s.wv k := rfl
@[simp] theorem State.changeSg_acc_rf (o : Nat) (f : Word → Word) (k a m : Nat) : (s.changeSg o f).rf k a m = s.rf k a m := rfl
@[simp] theorem State.changeSg_acc_rb (o : Nat) (f : Word → Word) (k a : Nat) : (s.changeSg o f).rb k a = s.rb k a := rfl
@[simp] theorem State.changeSg_acc_af (o : Nat) (f : Word → Word) (k a m : Nat) : (s.changeSg o f).af k a m = s.af k a m := rfl

/-! ### changeWg -/

@[simp] theorem State.changeWg_pending (o : Nat) (f : Word → Word) : (s.changeWg o f).pending = s.pending := rfl
@[simp] theorem State.changeWg_now (o : Nat) (f : Word → Word) : (s.changeWg o f).now = s.now := rfl
@[simp] theorem State.changeWg_tstamp (o : Nat) (f : Word → Word) : (s.changeWg o f).tstamp = s.tstamp := rfl
@[simp] theorem State.changeWg_reg (o : Nat) (f : Word → Word) : (s.changeWg o f).reg = s.reg := rfl
@[simp] theorem State.changeWg_sec (o : Nat) (f : Word → Word) : (s.changeWg o f).sec = s.sec := rfl
@[simp] theorem State.changeWg_app (o : Nat) (f : Word → Word) : (s.changeWg o f).app = s.app := rfl
@[simp] theorem State.changeWg_appPrev (o : Nat) (f : Word → Word) : (s.changeWg o f).appPrev = s.appPrev := rfl
@[simp] theorem State.changeWg_dirty (o : Nat) (f : Word → Word) : (s.changeWg o f).dirty = s.dirty := rfl
@[simp] theorem State.changeWg_late (o : Nat) (f : Word → Word) : (s.changeWg o f).late = s.late := rfl
@[simp] theorem State.changeWg_edge (o : Nat) (f : Word → Word) : (s.changeWg o f).edge = s.edge := rfl
@[simp] theorem State.changeWg_edgeApp (o : Nat) (f : Word → Word) : (s.changeWg o f).edgeApp = s.edgeApp := rfl
@[simp] theorem State.changeWg_edgePrev (o : Nat) (f : Word → Word) : (s.changeWg o f).edgePrev = s.edgePrev := rfl
@[simp] theorem State.changeWg_edgeBad (o : Nat) (f : Word → Word) : (s.changeWg o f).edgeBad = s.edgeBad := rfl
@[simp] theorem State.changeWg_edgeLost (o : Nat) (f : Word → Word) : (s.changeWg o f).edgeLost = s.edgeLost := rfl
@[simp] theorem State.changeWg_edgeGone (o : Nat) (f : Word → Word) : (s.changeWg o f).edgeGone = s.edgeGone := rfl
@[simp] theorem State.changeWg_snap (o : Nat) (f : Word → Word) : (s.changeWg o f).snap = s.snap := rfl
@[simp] theorem State.changeWg_rdata (o : Nat) (f : Word → Word) : (s.changeWg o f).rdata = s.rdata := rfl
@[simp] theorem State.changeWg_bar2 (o : Nat) (f : Word → Word) : (s.changeWg o f).bar2 = s.bar2 := rfl
@[simp] theorem State.changeWg_wrote (o : Nat) (f : Word → Word) : (s.changeWg o f).wrote = s.wrote := rfl
@[simp] theorem State.changeWg_regOld (o : Nat) (f : Word → Word) : (s.changeWg o f).regOld = s.regOld := rfl
@[simp] theorem State.changeWg_behind (o : Nat) (f : Word → Word) : (s.changeWg o f).behind = s.behind := rfl
@[simp] theorem State.changeWg_reach (o : Nat) (f : Word → Word) : (s.changeWg o f).reach = s.reach := rfl
@[simp] theorem State.changeWg_tap (o : Nat) (f : Word → Word) : (s.changeWg o f).tap = s.tap := rfl
@[simp] theorem State.changeWg_admNow (o : Nat) (f : Word → Word) : (s.changeWg o f).admNow = s.admNow := rfl
@[simp] theorem State.changeWg_held (o : Nat) (f : Word → Word) : (s.changeWg o f).held = s.held := rfl
@[simp] theorem State.changeWg_retried (o : Nat) (f : Word → Word) : (s.changeWg o f).retried = s.retried := rfl
@[simp] theorem State.changeWg_steep (o : Nat) (f : Word → Word) : (s.changeWg o f).steep = s.steep := rfl
@[simp] theorem State.changeWg_seq (o : Nat) (f : Word → Word) : (s.changeWg o f).seq = s.seq := rfl
@[simp] theorem State.changeWg_clu (o : Nat) (f : Word → Word) : (s.changeWg o f).clu = s.clu := rfl
@[simp] theorem State.changeWg_chan (o : Nat) (f : Word → Word) : (s.changeWg o f).chan = s.chan := rfl
@[simp] theorem State.changeWg_site (o : Nat) (f : Word → Word) : (s.changeWg o f).site = s.site := rfl
@[simp] theorem State.changeWg_rail (o : Nat) (f : Word → Word) : (s.changeWg o f).rail = s.rail := rfl
@[simp] theorem State.changeWg_zone (o : Nat) (f : Word → Word) : (s.changeWg o f).zone = s.zone := rfl
@[simp] theorem State.changeWg_auxOut (o : Nat) (f : Word → Word) : (s.changeWg o f).auxOut = s.auxOut := rfl
@[simp] theorem State.changeWg_contactAt (o : Nat) (f : Word → Word) : (s.changeWg o f).contactAt = s.contactAt := rfl
@[simp] theorem State.changeWg_auxClamps (o : Nat) (f : Word → Word) : (s.changeWg o f).auxClamps = s.auxClamps := rfl
@[simp] theorem State.changeWg_fault (o : Nat) (f : Word → Word) : (s.changeWg o f).fault = s.fault := rfl
@[simp] theorem State.changeWg_ward (o : Nat) (f : Word → Word) : (s.changeWg o f).ward = s.ward := rfl
@[simp] theorem State.changeWg_pulses (o : Nat) (f : Word → Word) : (s.changeWg o f).pulses = s.pulses := rfl
@[simp] theorem State.changeWg_transit (o : Nat) (f : Word → Word) : (s.changeWg o f).transit = s.transit := rfl
@[simp] theorem State.changeWg_holds (o : Nat) (f : Word → Word) : (s.changeWg o f).holds = s.holds := rfl
@[simp] theorem State.changeWg_mem (o : Nat) (f : Word → Word) : (s.changeWg o f).mem = s.mem := rfl
@[simp] theorem State.changeWg_potOld (o : Nat) (f : Word → Word) : (s.changeWg o f).potOld = s.potOld := rfl
@[simp] theorem State.changeWg_strain (o : Nat) (f : Word → Word) : (s.changeWg o f).strain = s.strain := rfl
@[simp] theorem State.changeWg_leakAt (o : Nat) (f : Word → Word) : (s.changeWg o f).leakAt = s.leakAt := rfl
@[simp] theorem State.changeWg_disarmed (o : Nat) (f : Word → Word) : (s.changeWg o f).disarmed = s.disarmed := rfl
@[simp] theorem State.changeWg_qm (o : Nat) (f : Word → Word) : (s.changeWg o f).qm = s.qm := rfl
@[simp] theorem State.changeWg_tiu (o : Nat) (f : Word → Word) : (s.changeWg o f).tiu = s.tiu := rfl
@[simp] theorem State.changeWg_we (o : Nat) (f : Word → Word) : (s.changeWg o f).we = s.we := rfl
@[simp] theorem State.changeWg_sync (o : Nat) (f : Word → Word) : (s.changeWg o f).sync = s.sync := rfl
@[simp] theorem State.changeWg_nodesA (o : Nat) (f : Word → Word) : (s.changeWg o f).nodesA = s.nodesA := rfl
@[simp] theorem State.changeWg_nodesB (o : Nat) (f : Word → Word) : (s.changeWg o f).nodesB = s.nodesB := rfl
@[simp] theorem State.changeWg_diffRun (o : Nat) (f : Word → Word) : (s.changeWg o f).diffRun = s.diffRun := rfl
@[simp] theorem State.changeWg_cal (o : Nat) (f : Word → Word) : (s.changeWg o f).cal = s.cal := rfl
@[simp] theorem State.changeWg_mc (o : Nat) (f : Word → Word) : (s.changeWg o f).mc = s.mc := rfl
@[simp] theorem State.changeWg_clk (o : Nat) (f : Word → Word) : (s.changeWg o f).clk = s.clk := rfl
@[simp] theorem State.changeWg_rst (o : Nat) (f : Word → Word) : (s.changeWg o f).rst = s.rst := rfl
@[simp] theorem State.changeWg_cp (o : Nat) (f : Word → Word) : (s.changeWg o f).cp = s.cp := rfl
@[simp] theorem State.changeWg_spp (o : Nat) (f : Word → Word) : (s.changeWg o f).spp = s.spp := rfl
@[simp] theorem State.changeWg_freeCtr (o : Nat) (f : Word → Word) : (s.changeWg o f).freeCtr = s.freeCtr := rfl
@[simp] theorem State.changeWg_acc_rg (o : Nat) (f : Word → Word) (k : Nat) : (s.changeWg o f).rg k = s.rg k := rfl
@[simp] theorem State.changeWg_acc_sg (o : Nat) (f : Word → Word) (k : Nat) : (s.changeWg o f).sg k = s.sg k := rfl
@[simp] theorem State.changeWg_acc_ap (o : Nat) (f : Word → Word) (k : Nat) : (s.changeWg o f).ap k = s.ap k := rfl
@[simp] theorem State.changeWg_acc_sq (o : Nat) (f : Word → Word) (k : Nat) : (s.changeWg o f).sq k = s.sq k := rfl
@[simp] theorem State.changeWg_acc_cl (o : Nat) (f : Word → Word) (k : Nat) : (s.changeWg o f).cl k = s.cl k := rfl
@[simp] theorem State.changeWg_acc_ch (o : Nat) (f : Word → Word) (k : Nat) : (s.changeWg o f).ch k = s.ch k := rfl
@[simp] theorem State.changeWg_acc_st (o : Nat) (f : Word → Word) (k : Nat) : (s.changeWg o f).st k = s.st k := rfl
@[simp] theorem State.changeWg_acc_rl (o : Nat) (f : Word → Word) (k : Nat) : (s.changeWg o f).rl k = s.rl k := rfl
@[simp] theorem State.changeWg_acc_kz (o : Nat) (f : Word → Word) (k : Nat) : (s.changeWg o f).kz k = s.kz k := rfl
@[simp] theorem State.changeWg_acc_tu (o : Nat) (f : Word → Word) (k : Nat) : (s.changeWg o f).tu k = s.tu k := rfl
@[simp] theorem State.changeWg_acc_wv (o : Nat) (f : Word → Word) (k : Nat) : (s.changeWg o f).wv k = s.wv k := rfl
@[simp] theorem State.changeWg_acc_rf (o : Nat) (f : Word → Word) (k a m : Nat) : (s.changeWg o f).rf k a m = s.rf k a m := rfl
@[simp] theorem State.changeWg_acc_rb (o : Nat) (f : Word → Word) (k a : Nat) : (s.changeWg o f).rb k a = s.rb k a := rfl
@[simp] theorem State.changeWg_acc_sf (o : Nat) (f : Word → Word) (k a m : Nat) : (s.changeWg o f).sf k a m = s.sf k a m := rfl
@[simp] theorem State.changeWg_acc_af (o : Nat) (f : Word → Word) (k a m : Nat) : (s.changeWg o f).af k a m = s.af k a m := rfl

/-! ### fresh -/

@[simp] theorem State.fresh_pending : (s.fresh).pending = s.pending := rfl
@[simp] theorem State.fresh_now : (s.fresh).now = s.now := rfl
@[simp] theorem State.fresh_tstamp : (s.fresh).tstamp = s.tstamp := rfl
@[simp] theorem State.fresh_reg : (s.fresh).reg = s.reg := rfl
@[simp] theorem State.fresh_sec : (s.fresh).sec = s.sec := rfl
@[simp] theorem State.fresh_win : (s.fresh).win = s.win := rfl
@[simp] theorem State.fresh_app : (s.fresh).app = s.app := rfl
@[simp] theorem State.fresh_appPrev : (s.fresh).appPrev = s.appPrev := rfl
@[simp] theorem State.fresh_dirty : (s.fresh).dirty = s.dirty := rfl
@[simp] theorem State.fresh_late : (s.fresh).late = s.late := rfl
@[simp] theorem State.fresh_edge : (s.fresh).edge = s.edge := rfl
@[simp] theorem State.fresh_edgeApp : (s.fresh).edgeApp = s.edgeApp := rfl
@[simp] theorem State.fresh_edgePrev : (s.fresh).edgePrev = s.edgePrev := rfl
@[simp] theorem State.fresh_edgeBad : (s.fresh).edgeBad = s.edgeBad := rfl
@[simp] theorem State.fresh_edgeLost : (s.fresh).edgeLost = s.edgeLost := rfl
@[simp] theorem State.fresh_edgeGone : (s.fresh).edgeGone = s.edgeGone := rfl
@[simp] theorem State.fresh_snap : (s.fresh).snap = s.snap := rfl
@[simp] theorem State.fresh_rdata : (s.fresh).rdata = s.rdata := rfl
@[simp] theorem State.fresh_bar2 : (s.fresh).bar2 = s.bar2 := rfl
@[simp] theorem State.fresh_wrote : (s.fresh).wrote = s.wrote := rfl
@[simp] theorem State.fresh_marks : (s.fresh).marks = s.marks := rfl
@[simp] theorem State.fresh_pre : (s.fresh).pre = s.pre := rfl
@[simp] theorem State.fresh_regOld : (s.fresh).regOld = s.regOld := rfl
@[simp] theorem State.fresh_behind : (s.fresh).behind = s.behind := rfl
@[simp] theorem State.fresh_reach : (s.fresh).reach = s.reach := rfl
@[simp] theorem State.fresh_tap : (s.fresh).tap = s.tap := rfl
@[simp] theorem State.fresh_admNow : (s.fresh).admNow = s.admNow := rfl
@[simp] theorem State.fresh_held : (s.fresh).held = s.held := rfl
@[simp] theorem State.fresh_retried : (s.fresh).retried = s.retried := rfl
@[simp] theorem State.fresh_steep : (s.fresh).steep = s.steep := rfl
@[simp] theorem State.fresh_seq : (s.fresh).seq = s.seq := rfl
@[simp] theorem State.fresh_clu : (s.fresh).clu = s.clu := rfl
@[simp] theorem State.fresh_chan : (s.fresh).chan = s.chan := rfl
@[simp] theorem State.fresh_site : (s.fresh).site = s.site := rfl
@[simp] theorem State.fresh_rail : (s.fresh).rail = s.rail := rfl
@[simp] theorem State.fresh_zone : (s.fresh).zone = s.zone := rfl
@[simp] theorem State.fresh_auxOut : (s.fresh).auxOut = s.auxOut := rfl
@[simp] theorem State.fresh_contactAt : (s.fresh).contactAt = s.contactAt := rfl
@[simp] theorem State.fresh_auxClamps : (s.fresh).auxClamps = s.auxClamps := rfl
@[simp] theorem State.fresh_fault : (s.fresh).fault = s.fault := rfl
@[simp] theorem State.fresh_ward : (s.fresh).ward = s.ward := rfl
@[simp] theorem State.fresh_pulses : (s.fresh).pulses = s.pulses := rfl
@[simp] theorem State.fresh_transit : (s.fresh).transit = s.transit := rfl
@[simp] theorem State.fresh_holds : (s.fresh).holds = s.holds := rfl
@[simp] theorem State.fresh_mem : (s.fresh).mem = s.mem := rfl
@[simp] theorem State.fresh_potOld : (s.fresh).potOld = s.potOld := rfl
@[simp] theorem State.fresh_strain : (s.fresh).strain = s.strain := rfl
@[simp] theorem State.fresh_leakAt : (s.fresh).leakAt = s.leakAt := rfl
@[simp] theorem State.fresh_disarmed : (s.fresh).disarmed = s.disarmed := rfl
@[simp] theorem State.fresh_qm : (s.fresh).qm = s.qm := rfl
@[simp] theorem State.fresh_tiu : (s.fresh).tiu = s.tiu := rfl
@[simp] theorem State.fresh_we : (s.fresh).we = s.we := rfl
@[simp] theorem State.fresh_sync : (s.fresh).sync = s.sync := rfl
@[simp] theorem State.fresh_nodesA : (s.fresh).nodesA = s.nodesA := rfl
@[simp] theorem State.fresh_nodesB : (s.fresh).nodesB = s.nodesB := rfl
@[simp] theorem State.fresh_diffRun : (s.fresh).diffRun = s.diffRun := rfl
@[simp] theorem State.fresh_cal : (s.fresh).cal = s.cal := rfl
@[simp] theorem State.fresh_mc : (s.fresh).mc = s.mc := rfl
@[simp] theorem State.fresh_clk : (s.fresh).clk = s.clk := rfl
@[simp] theorem State.fresh_rst : (s.fresh).rst = s.rst := rfl
@[simp] theorem State.fresh_cp : (s.fresh).cp = s.cp := rfl
@[simp] theorem State.fresh_spp : (s.fresh).spp = s.spp := rfl
@[simp] theorem State.fresh_acc_rg (k : Nat) : (s.fresh).rg k = s.rg k := rfl
@[simp] theorem State.fresh_acc_sg (k : Nat) : (s.fresh).sg k = s.sg k := rfl
@[simp] theorem State.fresh_acc_wg (k : Nat) : (s.fresh).wg k = s.wg k := rfl
@[simp] theorem State.fresh_acc_ap (k : Nat) : (s.fresh).ap k = s.ap k := rfl
@[simp] theorem State.fresh_acc_sq (k : Nat) : (s.fresh).sq k = s.sq k := rfl
@[simp] theorem State.fresh_acc_cl (k : Nat) : (s.fresh).cl k = s.cl k := rfl
@[simp] theorem State.fresh_acc_ch (k : Nat) : (s.fresh).ch k = s.ch k := rfl
@[simp] theorem State.fresh_acc_st (k : Nat) : (s.fresh).st k = s.st k := rfl
@[simp] theorem State.fresh_acc_rl (k : Nat) : (s.fresh).rl k = s.rl k := rfl
@[simp] theorem State.fresh_acc_kz (k : Nat) : (s.fresh).kz k = s.kz k := rfl
@[simp] theorem State.fresh_acc_tu (k : Nat) : (s.fresh).tu k = s.tu k := rfl
@[simp] theorem State.fresh_acc_wv (k : Nat) : (s.fresh).wv k = s.wv k := rfl
@[simp] theorem State.fresh_acc_rf (k a m : Nat) : (s.fresh).rf k a m = s.rf k a m := rfl
@[simp] theorem State.fresh_acc_rb (k a : Nat) : (s.fresh).rb k a = s.rb k a := rfl
@[simp] theorem State.fresh_acc_sf (k a m : Nat) : (s.fresh).sf k a m = s.sf k a m := rfl
@[simp] theorem State.fresh_acc_af (k a m : Nat) : (s.fresh).af k a m = s.af k a m := rfl

/-! ### Reading back -/

@[simp] theorem State.rg_setRg_same (o : Nat) (w : Word) : (s.setRg o w).rg o = w := tblGet_tblSet_same ..
theorem State.rg_setRg (o : Nat) (w : Word) (k : Nat) : (s.setRg o w).rg k = if k = o then w else s.rg k := tblGet_tblSet ..
theorem State.rg_setRg_ne (o : Nat) (w : Word) (k : Nat) (h : k ≠ o) : (s.setRg o w).rg k = s.rg k := tblGet_tblSet_ne _ _ _ h
@[simp] theorem State.sg_setSg_same (o : Nat) (w : Word) : (s.setSg o w).sg o = w := tblGet_tblSet_same ..
theorem State.sg_setSg (o : Nat) (w : Word) (k : Nat) : (s.setSg o w).sg k = if k = o then w else s.sg k := tblGet_tblSet ..
theorem State.sg_setSg_ne (o : Nat) (w : Word) (k : Nat) (h : k ≠ o) : (s.setSg o w).sg k = s.sg k := tblGet_tblSet_ne _ _ _ h
@[simp] theorem State.wg_setWg_same (o : Nat) (w : Word) : (s.setWg o w).wg o = w := tblGet_tblSet_same ..
theorem State.wg_setWg (o : Nat) (w : Word) (k : Nat) : (s.setWg o w).wg k = if k = o then w else s.wg k := tblGet_tblSet ..
theorem State.wg_setWg_ne (o : Nat) (w : Word) (k : Nat) (h : k ≠ o) : (s.setWg o w).wg k = s.wg k := tblGet_tblSet_ne _ _ _ h
@[simp] theorem State.ap_setAp_same (o : Nat) (w : Word) : (s.setAp o w).ap o = w := tblGet_tblSet_same ..
theorem State.ap_setAp (o : Nat) (w : Word) (k : Nat) : (s.setAp o w).ap k = if k = o then w else s.ap k := tblGet_tblSet ..
theorem State.ap_setAp_ne (o : Nat) (w : Word) (k : Nat) (h : k ≠ o) : (s.setAp o w).ap k = s.ap k := tblGet_tblSet_ne _ _ _ h
@[simp] theorem State.sq_setSq_same (x : Nat) (v : SeqSt) : (s.setSq x v).sq x = v := tblGet_set_same ..
theorem State.sq_setSq (x : Nat) (v : SeqSt) (k : Nat) : (s.setSq x v).sq k = if k = x then v else s.sq k := tblGet_set ..
theorem State.sq_setSq_ne (x : Nat) (v : SeqSt) (k : Nat) (h : k ≠ x) : (s.setSq x v).sq k = s.sq k := tblGet_set_ne _ _ _ h
@[simp] theorem State.cl_setCl_same (x : Nat) (v : CluSt) : (s.setCl x v).cl x = v := tblGet_set_same ..
theorem State.cl_setCl (x : Nat) (v : CluSt) (k : Nat) : (s.setCl x v).cl k = if k = x then v else s.cl k := tblGet_set ..
theorem State.cl_setCl_ne (x : Nat) (v : CluSt) (k : Nat) (h : k ≠ x) : (s.setCl x v).cl k = s.cl k := tblGet_set_ne _ _ _ h
@[simp] theorem State.ch_setCh_same (x : Nat) (v : ChanSt) : (s.setCh x v).ch x = v := tblGet_set_same ..
theorem State.ch_setCh (x : Nat) (v : ChanSt) (k : Nat) : (s.setCh x v).ch k = if k = x then v else s.ch k := tblGet_set ..
theorem State.ch_setCh_ne (x : Nat) (v : ChanSt) (k : Nat) (h : k ≠ x) : (s.setCh x v).ch k = s.ch k := tblGet_set_ne _ _ _ h
@[simp] theorem State.st_setSt_same (x : Nat) (v : SiteSt) : (s.setSt x v).st x = v := tblGet_set_same ..
theorem State.st_setSt (x : Nat) (v : SiteSt) (k : Nat) : (s.setSt x v).st k = if k = x then v else s.st k := tblGet_set ..
theorem State.st_setSt_ne (x : Nat) (v : SiteSt) (k : Nat) (h : k ≠ x) : (s.setSt x v).st k = s.st k := tblGet_set_ne _ _ _ h
@[simp] theorem State.rl_setRl_same (x : Nat) (v : RailSt) : (s.setRl x v).rl x = v := tblGet_set_same ..
theorem State.rl_setRl (x : Nat) (v : RailSt) (k : Nat) : (s.setRl x v).rl k = if k = x then v else s.rl k := tblGet_set ..
theorem State.rl_setRl_ne (x : Nat) (v : RailSt) (k : Nat) (h : k ≠ x) : (s.setRl x v).rl k = s.rl k := tblGet_set_ne _ _ _ h
@[simp] theorem State.kz_setKz_same (x : Nat) (v : ZoneSt) : (s.setKz x v).kz x = v := tblGet_set_same ..
theorem State.kz_setKz (x : Nat) (v : ZoneSt) (k : Nat) : (s.setKz x v).kz k = if k = x then v else s.kz k := tblGet_set ..
theorem State.kz_setKz_ne (x : Nat) (v : ZoneSt) (k : Nat) (h : k ≠ x) : (s.setKz x v).kz k = s.kz k := tblGet_set_ne _ _ _ h
@[simp] theorem State.tu_setTu_same (x : Nat) (v : TiuSt) : (s.setTu x v).tu x = v := tblGet_set_same ..
theorem State.tu_setTu (x : Nat) (v : TiuSt) (k : Nat) : (s.setTu x v).tu k = if k = x then v else s.tu k := tblGet_set ..
theorem State.tu_setTu_ne (x : Nat) (v : TiuSt) (k : Nat) (h : k ≠ x) : (s.setTu x v).tu k = s.tu k := tblGet_set_ne _ _ _ h
@[simp] theorem State.wv_setWv_same (x : Nat) (v : WeSt) : (s.setWv x v).wv x = v := tblGet_set_same ..
theorem State.wv_setWv (x : Nat) (v : WeSt) (k : Nat) : (s.setWv x v).wv k = if k = x then v else s.wv k := tblGet_set ..
theorem State.wv_setWv_ne (x : Nat) (v : WeSt) (k : Nat) (h : k ≠ x) : (s.setWv x v).wv k = s.wv k := tblGet_set_ne _ _ _ h

@[simp] theorem State.rg_setRf_same (o lo len v : Nat) : (s.setRf o lo len v).rg o = setFld (s.rg o) lo len v := s.rg_setRg_same ..
theorem State.rg_setRf_ne (o lo len v k : Nat) (h : k ≠ o) : (s.setRf o lo len v).rg k = s.rg k := s.rg_setRg_ne _ _ _ h
@[simp] theorem State.rg_setRb_same (o i : Nat) (b : Bool) : (s.setRb o i b).rg o = setFlag (s.rg o) i b := s.rg_setRg_same ..
theorem State.rg_setRb_ne (o i : Nat) (b : Bool) (k : Nat) (h : k ≠ o) : (s.setRb o i b).rg k = s.rg k := s.rg_setRg_ne _ _ _ h
@[simp] theorem State.rg_count_same (o lo len n : Nat) : (s.count o lo len n).rg o = satAdd (s.rg o) lo len n := s.rg_setRg_same ..
theorem State.rg_count_ne (o lo len n k : Nat) (h : k ≠ o) : (s.count o lo len n).rg k = s.rg k := s.rg_setRg_ne _ _ _ h

end Sys2Proof.Machine
end

