-- ==== Sys2Proof/Laws/Channel.lean ====
section
/-!
SUPPORT. What entering the park state does to a channel and what it leaves (R152, R153), and the same of a cluster's park.
-/
namespace Sys2Proof.Machine

open Sys2Proof

variable {s : State} {c k n : Nat}

/-! ### Projections -/

theorem rg_of_reg {a b : State} (h : a.reg = b.reg) (o : Nat) : a.rg o = b.rg o := congrArg (fun r => tblGet resetPf0 r o) h
theorem ch_of_chan {a b : State} (h : a.chan = b.chan) (m : Nat) : a.ch m = b.ch m := by simp [State.ch, h]
theorem sq_of_seq {a b : State} (h : a.seq = b.seq) (x : Nat) : a.sq x = b.sq x := by simp [State.sq, h]
theorem cl_of_clu {a b : State} (h : a.clu = b.clu) (x : Nat) : a.cl x = b.cl x := by simp [State.cl, h]

/-! ### A cluster but for its conversions, its background measurement and its capture engine -/

def CluSt.SameBut (a b : CluSt) : Prop := b.fifo = a.fifo ∧ b.strobes = a.strobes ∧ b.parking = a.parking

theorem CluSt.SameBut.rfl' {a : CluSt} : a.SameBut a := ⟨rfl, rfl, rfl⟩
theorem CluSt.SameBut.trans {a b d : CluSt} (h : a.SameBut b) (g : b.SameBut d) : a.SameBut d :=
  ⟨g.1.trans h.1, g.2.1.trans h.2.1, g.2.2.trans h.2.2⟩

/-- A cluster written with what keeps its FIFO, its strobes and its parking. -/
theorem setCl_sameBut {u : CluSt} (h : (s.cl c).SameBut u) (x : Nat) : (s.cl x).SameBut ((s.setCl c u).cl x) := by
  by_cases e : x = c
  · subst e; rw [State.cl_setCl_same]; exact h
  · rw [State.cl_setCl_ne _ _ _ _ e]; exact .rfl'

/-! ### Capture work -/

/-- Capture work leaves sequencers, channels, FIFOs, strobes and parking alone, and the registers that `k` names. -/
structure CapFrame (k : Nat → Prop) (a b : State) : Prop where
  seq : b.seq = a.seq
  chan : b.chan = a.chan
  clu : ∀ x, (a.cl x).SameBut (b.cl x)
  rg : ∀ o, k o → b.rg o = a.rg o

section
variable {k : Nat → Prop} {a : State}

theorem CapFrame.refl : CapFrame k a a := ⟨rfl, rfl, fun _ => .rfl', fun _ _ => rfl⟩
theorem CapFrame.trans {b d : State} (h : CapFrame k a b) (g : CapFrame k b d) : CapFrame k a d :=
  ⟨g.seq.trans h.seq, g.chan.trans h.chan, fun x => (h.clu x).trans (g.clu x), fun o ho => (g.rg o ho).trans (h.rg o ho)⟩

theorem CapFrame.setCap (h : CapFrame k a s) (e : CapSt) : CapFrame k a (s.setCap c e) :=
  h.trans ⟨rfl, rfl, setCl_sameBut ⟨rfl, rfl, rfl⟩, fun _ _ => rfl⟩
theorem CapFrame.change {o : Nat} (h : CapFrame k a s) (ho : ¬ k o) (f : Word → Word) : CapFrame k a (s.change o f) :=
  h.trans ⟨rfl, rfl, fun _ => .rfl', fun _ hq => State.rg_setRg_ne _ _ _ _ fun e => ho (e ▸ hq)⟩
theorem CapFrame.setRb {o : Nat} (h : CapFrame k a s) (ho : ¬ k o) (i : Nat) (b : Bool) : CapFrame k a (s.setRb o i b) :=
  h.change ho _
theorem CapFrame.setRf {o : Nat} (h : CapFrame k a s) (ho : ¬ k o) (l m v : Nat) : CapFrame k a (s.setRf o l m v) :=
  h.change ho _
theorem CapFrame.count {o : Nat} (h : CapFrame k a s) (ho : ¬ k o) (l m v : Nat) : CapFrame k a (s.count o l m v) :=
  h.change ho _
theorem CapFrame.fire (h : CapFrame k a s) (o : Nat) : CapFrame k a (s.fire o) := by
  refine h.trans ?_
  unfold State.fire State.pulse
  split <;> exact ⟨rfl, rfl, fun _ => .rfl', fun _ _ => rfl⟩
theorem CapFrame.produce (h : CapFrame k a s) : CapFrame k a (s.produce c) :=
  h.trans ⟨rfl, rfl, setCl_sameBut ⟨rfl, rfl, rfl⟩, fun _ _ => rfl⟩

/-- The pressure's registers of cluster `c` are none of those kept. -/
def capFree (k : Nat → Prop) (c : Nat) : Prop := ¬ k (Off.capBuf c) ∧ ¬ k (Off.capGovstat c)

theorem CapFrame.govDone (h : CapFrame k a s) (f : capFree k c) :
    CapFrame k a (((s.count (Off.capGovstat c) 0 16 1).govSplit c).fire (evCluster c 5)) :=
  CapFrame.fire (CapFrame.setCap (h.count f.2 ..) _) _

theorem CapFrame.govRise (h : CapFrame k a s) (f : capFree k c) : CapFrame k a (s.govRise c) := by
  unfold State.govRise; dsimp only
  split
  · exact h.setCap _
  split
  · exact .govDone ((h.setCap _).setRf f.2 ..) f
  split
  · exact .govDone ((h.setCap _).setRb f.2 ..) f
  · exact h.setCap _

theorem CapFrame.capTouch (h : CapFrame k a s) (f : capFree k c) : CapFrame k a (s.capTouch c) := by
  unfold State.capTouch
  extract_lets _ _ _ _ _ _ _ t _
  have ht : CapFrame k a t := (((h.setCap _).setRf f.1 ..).change f.1 _).setRb f.2 ..
  clear_value t
  split
  · exact ht.setCap _
  split
  · exact ht.govRise f
  · exact ht

theorem CapFrame.closePiece (h : CapFrame k a s) (f : capFree k c) (cause : Nat) (x y : Bool) :
    CapFrame k a (s.closePiece c cause x y) := by
  unfold State.closePiece; dsimp only
  split
  · exact h
  · exact CapFrame.capTouch (h.produce.setCap _) f

theorem CapFrame.closeOld (h : CapFrame k a s) (f : capFree k c) (cause : Nat) (x : Bool) :
    CapFrame k a (s.closeOld c cause x) := by
  unfold State.closeOld State.capSwap
  split
  · exact (CapFrame.closePiece (h.setCap _) f ..).setCap _
  · exact h

theorem CapFrame.capSteepEnd (h : CapFrame k a s) (f : capFree k c) : CapFrame k a (s.capSteepEnd c) := by
  unfold State.capSteepEnd
  extract_lets t
  have ht : CapFrame k a t := by
    subst t; split
    · exact h.closeOld f ..
    · exact h
  clear_value t
  split
  · exact ht.closePiece f ..
  · exact ht

/-- Neither are the status registers of its lists. -/
def listFree (k : Nat → Prop) (c : Nat) : Prop := capFree k c ∧ ∀ l, ¬ k (Off.caplStat c l)

theorem CapFrame.closeSegment (h : CapFrame k a s) (f : listFree k c) (cause : Nat) (x y : Bool) :
    CapFrame k a (s.closeSegment c cause x y) := by
  unfold State.closeSegment State.setCapState; dsimp only
  split
  · have ht := CapFrame.fire ((h.closeOld f.1 cause y).closePiece f.1 cause false y) (evCluster c 3)
    split
    · exact .fire (.setRb (.setRf (ht.setCap _) (f.2 _) ..) (f.2 _) ..) _
    split
    · exact ht.setCap _
    · exact .setRf (.setRf (ht.setCap _) (f.2 _) ..) (f.2 _) ..
  · exact h

theorem CapFrame.capDisarm (h : CapFrame k a s) (f : listFree k c) (cause : Nat) (x : Bool) :
    CapFrame k a (s.capDisarm c cause x) := by
  unfold State.capDisarm; dsimp only
  split
  · refine CapFrame.setRf ?_ (f.2 _) ..
    unfold State.segLast
    split
    · exact CapFrame.setRf ((h.closeSegment f ..).setCap _) (f.2 _) ..
    · exact (h.closeSegment f ..).setCap _
  · exact h.closeSegment f ..

/-- The end of an underrun gap adds to pieces and to the count of CL_UNDERRUN. -/
theorem CapFrame.gapEnd (h : CapFrame k a s) (f : ¬ k (Off.clUnderrunGap c)) (t : Nat) : CapFrame k a (s.gapEnd c t) := by
  unfold State.gapEnd State.pieceGap; dsimp only
  split
  · exact h
  · refine (CapFrame.count (h.trans ?_) f _ _ _).setCap _
    exact ⟨rfl, rfl, setCl_sameBut ⟨rfl, rfl, rfl⟩, fun _ _ => rfl⟩
end

/-! ### Ending measurements touches sequencers, clusters and capture only -/

/-- A MEAS that ends writes its result register and clears its pending mark. -/
def SeqSt.SameBut (a b : SeqSt) : Prop := b.mode = a.mode ∧ b.wait = a.wait ∧ b.pc = a.pc

theorem SeqSt.SameBut.rfl' {a : SeqSt} : a.SameBut a := ⟨rfl, rfl, rfl⟩
theorem SeqSt.SameBut.trans {a b d : SeqSt} (h : a.SameBut b) (g : b.SameBut d) : a.SameBut d :=
  ⟨g.1.trans h.1, g.2.1.trans h.2.1, g.2.2.trans h.2.2⟩

/-- What the end of a conversion of cluster `c` leaves: registers but the pressure's, channels, the run of sequencers. -/
structure AdcFrame (c : Nat) (a b : State) : Prop where
  rg : ∀ o, o ≠ Off.capBuf c → o ≠ Off.capGovstat c → b.rg o = a.rg o
  chan : b.chan = a.chan
  sq : ∀ x, (a.sq x).SameBut (b.sq x)
  cl : ∀ x, (a.cl x).SameBut (b.cl x)

theorem AdcFrame.refl {a : State} : AdcFrame c a a := ⟨fun _ _ _ => rfl, rfl, fun _ => .rfl', fun _ => .rfl'⟩
theorem AdcFrame.trans {a b d : State} (h : AdcFrame c a b) (g : AdcFrame c b d) : AdcFrame c a d :=
  ⟨fun o x y => (g.rg o x y).trans (h.rg o x y), g.chan.trans h.chan, fun x => (h.sq x).trans (g.sq x),
    fun x => (h.cl x).trans (g.cl x)⟩

theorem AdcFrame.measResult {a : State} (h : AdcFrame c a s) (m : Meas) (v : Word) : AdcFrame c a (s.measResult c m v) := by
  refine h.trans ?_
  unfold State.measResult; dsimp only
  split
  · exact .refl
  · refine ⟨fun _ _ _ => rfl, rfl, fun x => ?_, fun _ => .rfl'⟩
    by_cases e : x = c
    · subst e; simp [SeqSt.SameBut]
    · simp [State.sq_setSq, e, SeqSt.SameBut]

theorem AdcFrame.setAdc {a : State} (h : AdcFrame c a s) (k : Nat) (l : List Meas) : AdcFrame c a (s.setAdc c k l) :=
  h.trans ⟨fun _ _ _ => rfl, rfl, fun _ => .rfl', setCl_sameBut ⟨rfl, rfl, rfl⟩⟩

theorem AdcFrame.adcStart {a : State} (h : AdcFrame c a s) (k fuel : Nat) : AdcFrame c a (s.adcStart c k fuel) := by
  fun_induction State.adcStart s c k fuel with
  | case1 => exact h
  | case2 => exact h
  | case3 _ _ _ _ _ _ ih => exact ih ((h.setAdc ..).measResult ..)
  | case4 => exact h.setAdc ..

theorem AdcFrame.of {a b : State} (h : CapFrame (fun o => o ≠ Off.capBuf c ∧ o ≠ Off.capGovstat c) a b) : AdcFrame c a b :=
  ⟨fun o x y => h.rg o ⟨x, y⟩, h.chan, fun x => by rw [sq_of_seq h.seq]; exact .rfl', h.clu⟩

theorem AdcFrame.capEnd {a : State} (h : AdcFrame c a s) : AdcFrame c a (s.capSteepEnd c) :=
  h.trans (.of (CapFrame.refl.capSteepEnd ⟨fun q => q.1 rfl, fun q => q.2 rfl⟩))

theorem adcFrame_adcPark : AdcFrame (n / 32) s (s.adcPark n) := by
  unfold State.adcPark; dsimp only
  split
  · split
    · exact (((AdcFrame.refl.setAdc ..).measResult ..).adcStart ..).capEnd
    · exact .refl
  · exact .refl

theorem adcFrame_bgPark : AdcFrame (n / 32) s (s.bgPark n) := by
  unfold State.bgPark; dsimp only
  split
  · exact ⟨fun _ _ _ => rfl, rfl, fun _ => .rfl', setCl_sameBut ⟨rfl, rfl, rfl⟩⟩
  · exact .refl

/-! ### parkChan -/

/-- A channel that parks, but for its conversion and its background measurement. -/
def parkPins (s : State) (n : Nat) : State :=
  let u := s.ch n
  let s := s.setCh n { u with prev := 0b010, base := 0b010, baseLvl := none, baseSteps := [], lvl := none, steps := [],
                              cfg := none, transAt := none, unkAt := (none, none), moveEnd := s.now, watch := s.watchStart n }
  let s := (s.setRb (chOff Off.chStat n) 31 true).setRb (chOff Off.chStat n) 30 true
  (s.setPmu n 0 3 0).setRf (chOff Off.chCmpstat n) 0 8 0xFF

theorem parkPins_sq (x : Nat) : (parkPins s n).sq x = s.sq x := by
  rw [parkPins, State.setRf_acc_sq, State.setPmu, State.setRg_acc_sq, State.setRb_acc_sq, State.setRb_acc_sq,
    State.setCh_acc_sq]
theorem parkPins_cl (x : Nat) : (parkPins s n).cl x = s.cl x := by
  rw [parkPins, State.setRf_acc_cl, State.setPmu, State.setRg_acc_cl, State.setRb_acc_cl, State.setRb_acc_cl,
    State.setCh_acc_cl]

/-- The steps of a park. -/
theorem parkChan_eq (h : s.parkedCh n = false) :
    s.parkChan n = (((parkPins s n).adcPark n).bgPark n).setRb (Off.clClamp (n / 32)) (n % 32) false := by
  unfold State.parkChan; rw [if_neg (by simp [h])]; rfl

theorem parkEnds : AdcFrame (n / 32) s ((s.adcPark n).bgPark n) := adcFrame_adcPark.trans adcFrame_bgPark

/-- The registers of a channel's park: CH_STAT, CH_PMUSTAT, CH_CMPSTAT, its bit of CL_CLAMP and, where a steep's last entry was
the conversion that the park ends, the pressure's of its cluster; no others. -/
structure ParkReg (n o : Nat) : Prop where
  stat : o ≠ chOff Off.chStat n
  pmu : o ≠ chOff Off.chPmustat n
  cmp : o ≠ chOff Off.chCmpstat n
  clamp : o ≠ Off.clClamp (n / 32)
  buf : o ≠ Off.capBuf (n / 32)
  gov : o ≠ Off.capGovstat (n / 32)

theorem parkChan_rg {o : Nat} (h : ParkReg n o) : (s.parkChan n).rg o = s.rg o := by
  by_cases hp : s.parkedCh n = true
  · unfold State.parkChan; rw [if_pos hp]
  · rw [parkChan_eq (by simpa using hp), State.rg_setRb_ne _ _ _ _ _ h.clamp, parkEnds.rg o h.buf h.gov, parkPins,
      State.rg_setRf_ne _ _ _ _ _ _ h.cmp, State.setPmu, State.rg_setRg_ne _ _ _ _ h.pmu,
      State.rg_setRb_ne _ _ _ _ _ h.stat, State.rg_setRb_ne _ _ _ _ _ h.stat, State.setCh_acc_rg]

/-- Other channels keep their drivers. -/
theorem parkChan_ch {m : Nat} (h : m ≠ n) : (s.parkChan n).ch m = s.ch m := by
  by_cases hp : s.parkedCh n = true
  · unfold State.parkChan; rw [if_pos hp]
  · rw [parkChan_eq (by simpa using hp), State.setRb_acc_ch, ch_of_chan parkEnds.chan, parkPins, State.setRf_acc_ch,
      State.setPmu, State.setRg_acc_ch, State.setRb_acc_ch, State.setRb_acc_ch, State.ch_setCh_ne _ _ _ _ h]

theorem parkChan_sq (x : Nat) : (s.sq x).SameBut ((s.parkChan n).sq x) := by
  by_cases hp : s.parkedCh n = true
  · unfold State.parkChan; rw [if_pos hp]; exact .rfl'
  · rw [parkChan_eq (by simpa using hp), State.setRb_acc_sq, ← parkPins_sq (n := n)]
    exact parkEnds.sq x

theorem parkChan_cl (x : Nat) : (s.cl x).SameBut ((s.parkChan n).cl x) := by
  by_cases hp : s.parkedCh n = true
  · unfold State.parkChan; rw [if_pos hp]; exact .rfl'
  · rw [parkChan_eq (by simpa using hp), State.setRb_acc_cl, ← parkPins_cl (n := n)]
    exact parkEnds.cl x

/-- CH_STAT of a channel is none of the registers that the end of its conversion writes. -/
theorem chStat_free (n x : Nat) :
    chOff Off.chStat n ≠ Off.clClamp (n / 32) ∧ chOff Off.chStat n ≠ Off.capBuf x ∧ chOff Off.chStat n ≠ Off.capGovstat x := by
  simp only [chOff, Off.chStat, Off.clClamp, Off.capBuf, Off.capGovstat]; omega

/-- A channel that parks is in its park state. -/
theorem parkChan_parked (_ : n < 512) : (s.parkChan n).parkedCh n = true := by
  by_cases hp : s.parkedCh n = true
  · unfold State.parkChan; rwa [if_pos hp]
  · have ⟨f1, f2, f3⟩ := chStat_free n (n / 32)
    have e : ∀ t : State, t.parkedCh n = flag (t.rg (chOff Off.chStat n)) 31 := fun _ => rfl
    rw [e, parkChan_eq (by simpa using hp), State.rg_setRb_ne _ _ _ _ _ f1, parkEnds.rg _ f2 f3, parkPins,
      State.rg_setRf_ne _ _ _ _ _ _ (by simp only [chOff, Off.chStat, Off.chCmpstat]; omega),
      State.setPmu, State.rg_setRg_ne _ _ _ _ (by simp only [chOff, Off.chStat, Off.chPmustat]; omega),
      State.rg_setRb_same, flag_setFlag_ne _ _ _ _ (by omega), State.rg_setRb_same, flag_setFlag _ _ _ (by omega)]

theorem parkChan_undriven (hn : n < 512) (h : s.parkedCh n = false) :
    ((s.parkChan n).ch n).lvl = none ∧ ((s.parkChan n).ch n).steps = [] ∧ ∀ l, (s.parkChan n).loadOn n l = false := by
  have e : (s.parkChan n).ch n = (parkPins s n).ch n := by
    rw [parkChan_eq h, State.setRb_acc_ch, ch_of_chan parkEnds.chan]
  refine ⟨?_, ?_, fun l => by simp [State.loadOn, parkChan_parked hn]⟩
  all_goals
    rw [e, parkPins, State.setRf_acc_ch, State.setPmu, State.setRg_acc_ch, State.setRb_acc_ch, State.setRb_acc_ch,
      State.ch_setCh_same]

/-! ### A cluster's park -/

/-- The sequencer that halts is HALTED and waits for nothing. -/
theorem haltSeq_halted (x : Nat) : ((s.haltSeq x).sq x).mode = .halted ∧ ((s.haltSeq x).sq x).wait = .none := by
  unfold State.haltSeq; dsimp only
  split
  · unfold State.dropMeas; dsimp only
    rw [State.setCl_acc_sq, State.sq_setSq_same, State.setRf_acc_sq, State.setRb_acc_sq, State.sq_setSq_same]
    exact ⟨rfl, rfl⟩
  · rw [State.sq_setSq_same]; exact ⟨rfl, rfl⟩

theorem haltSeq_chan (x : Nat) : (s.haltSeq x).chan = s.chan := by
  unfold State.haltSeq State.dropMeas; dsimp only
  split
  · rw [State.setCl_chan, State.setSq_chan, State.setRf_chan, State.setRb_chan, State.setSq_chan]
  · rw [State.setSq_chan]

theorem dropFifo_fifo : ((s.dropFifo c).cl c).fifo = [] := by unfold State.dropFifo; rw [State.cl_setCl_same]

/-- What the channels' part of a cluster's park leaves. -/
theorem parkChans_frame (c : Nat) (l : List Nat) :
    let t := l.foldl (fun s i => s.parkChan (32 * c + i)) s
    (∀ x, (s.sq x).SameBut (t.sq x)) ∧ (∀ x, (s.cl x).SameBut (t.cl x)) ∧
      (∀ m, (∀ i ∈ l, m ≠ 32 * c + i) → t.ch m = s.ch m) :=
  List.foldlRecOn l _ (motive := fun t : State => (∀ x, (s.sq x).SameBut (t.sq x)) ∧ (∀ x, (s.cl x).SameBut (t.cl x)) ∧
      (∀ m, (∀ i ∈ l, m ≠ 32 * c + i) → t.ch m = s.ch m)) ⟨fun _ => .rfl', fun _ => .rfl', fun _ _ => rfl⟩
    fun _ ht i hi => ⟨fun x => (ht.1 x).trans (parkChan_sq x), fun x => (ht.2.1 x).trans (parkChan_cl x),
      fun m hm => (parkChan_ch (hm i hi)).trans (ht.2.2 m hm)⟩

/-- A register that no park of these channels touches. -/
theorem parkChans_rg (c : Nat) (l : List Nat) (o : Nat) (h : ∀ i ∈ l, ParkReg (32 * c + i) o) :
    (l.foldl (fun s i => s.parkChan (32 * c + i)) s).rg o = s.rg o :=
  List.foldlRecOn l _ (motive := fun t : State => t.rg o = s.rg o) rfl fun _ ht i hi => (parkChan_rg (h i hi)).trans ht

/-- A channel in its park state stays there while others park. -/
theorem parkChan_keeps {m : Nat} (hm : m < 512) (hn : n < 512) (h : s.parkedCh m = true) :
    (s.parkChan n).parkedCh m = true := by
  by_cases e : m = n
  · subst e; exact parkChan_parked hm
  · have : ∀ t : State, t.parkedCh m = flag (t.rg (chOff Off.chStat m)) 31 := fun _ => rfl
    rw [this, parkChan_rg, ← this, h]
    constructor
    all_goals simp only [chOff, Off.chStat, Off.chPmustat, Off.chCmpstat, Off.clClamp, Off.capBuf, Off.capGovstat]; omega

/-- Every channel of the list parks. -/
theorem parkChans_parked (c : Nat) (hc : c < 16) (l : List Nat) (hl : ∀ i ∈ l, i < 32) (i : Nat) (hi : i ∈ l) :
    (l.foldl (fun s i => s.parkChan (32 * c + i)) s).parkedCh (32 * c + i) = true := by
  have ⟨before, after, e⟩ := List.append_of_mem hi
  have small (j : Nat) (hj : j ∈ l) : 32 * c + j < 512 := by have := hl j hj; omega
  subst e
  rw [List.foldl_append, List.foldl_cons]
  exact List.foldlRecOn after _ (motive := fun t : State => t.parkedCh (32 * c + i) = true) (parkChan_parked (small i hi))
    fun _ ht j hj => parkChan_keeps (small i hi) (small j (by simp [hj])) ht

end Sys2Proof.Machine
end

