-- ==== Sys2Proof/Laws/Gate.lean ====
section
/-!
SUPPORT. What the gate of register writes and the start of an instruction answer, said once: a write that is taken, one that
safe state discards, one before READY, one that loses, and an instruction that may run.
-/
namespace Sys2Proof.Machine

open Sys2Proof

variable {s : State} {p : Party} {sp : Space} {off : Nat} {v : Word} {act lose drop : State → State} {via : Bool}

/-- What `State.accepts` says, said as the gate asks it. -/
theorem accepts_iff : s.accepts p sp off = true ↔
    s.partyHeld p = false ∧ s.partyBehind p = false ∧ (sp ≠ .win → s.rst.ready = true) ∧ reaches p sp = true ∧
      ¬ (sp = .win ∧ s.coldHeld = true) ∧ (s.safe = true → openInSafe sp off = true) ∧ s.outranked p sp off = false ∧
      ∀ e ∈ s.wrote, e.2 ≠ regKey sp off := by
  simp only [State.accepts, Bool.and_eq_true, Bool.or_eq_true, Bool.not_eq_true', decide_eq_true_eq, List.all_eq_true,
    Bool.and_eq_false_iff, decide_eq_false_iff_not, not_and_or, Bool.not_eq_true, Decidable.or_iff_not_imp_left,
    Decidable.not_not, and_assoc]
  simp only [Bool.not_eq_false]

/-- A write that is taken does what its register does with the value. -/
theorem gateWrite_of_accepts (h : s.accepts p sp off = true) (hr : (findReg (Space.rows sp) off).isSome = true) :
    s.gateWrite p sp off v act via lose drop = act (s.took p sp off) := by
  have ⟨held, behind, ready, reach, cold, safe, rank, fresh⟩ := accepts_iff.mp h
  have ⟨x, hx⟩ := Option.isSome_iff_exists.mp hr
  have none_of (f : Nat → Bool) : (s.wrote.filter fun e => decide (e.2 = regKey sp off) && f e.1) = [] :=
    List.filter_eq_nil_iff.mpr fun e he => by simp [fresh e he]
  have keep : (s.wrote.filter fun e => decide (e.2 ≠ regKey sp off)) = s.wrote :=
    List.filter_eq_self.mpr fun e he => decide_eq_true (fresh e he)
  have wins : s.loses p (regKey sp off) = false := by
    simp only [State.loses, List.any_eq_false]
    exact fun e he => by simp [fresh e he]
  have early : ¬ (sp ≠ .win ∧ (!s.rst.ready) = true) := fun q => by simp [ready q.1] at q
  have shut : ¬ (s.safe = true ∧ (!openInSafe sp off) = true) := fun q => by simp [safe q.1] at q
  have far : ¬ ((!(via || reaches p sp)) = true ∨ sp = .win ∧ s.coldHeld = true) := by simp [reach, cold]
  unfold State.gateWrite
  rw [if_neg (by simp [held]), if_neg (by simp [behind]), if_neg early, if_neg far]
  simp only [hx]
  rw [if_neg shut, if_neg (by simp [rank]), if_neg (by simp [wins]), none_of fun r => decide (rankOf p < r)]
  simp only [List.map_nil, List.foldl_nil, ite_self, keep]
  rfl

/-- R324: a write outside the open blocks is discarded in safe state. -/
theorem gateWrite_of_safe (h1 : s.partyHeld p = false) (h0 : s.partyBehind p = false) (h2 : s.rst.ready = true)
    (h3 : reaches p sp = true) (h4 : s.safe = true) (h5 : openInSafe sp off = false)
    (hr : (findReg (Space.rows sp) off).isSome = true) :
    s.gateWrite p sp off v act via lose drop = drop (s.discarded p) := by
  have ⟨x, hx⟩ := Option.isSome_iff_exists.mp hr
  have hw : sp ≠ .win := by rintro rfl; simp [openInSafe] at h5
  simp [State.gateWrite, h0, h1, h2, h3, h4, h5, hx, hw]

/-- R422: before READY a write outside the service window is answered as unsupported. -/
theorem gateWrite_of_early (h1 : s.partyHeld p = false) (h0 : s.partyBehind p = false) (h2 : s.rst.ready = false)
    (h3 : sp ≠ .win) : s.gateWrite p sp off v act via lose drop = s.answer p .unsupported := by
  simp [State.gateWrite, h0, h1, h2, h3]

section
variable {r : RegRow} {ix : List Nat}

/-- R34: a write with RW or WO fields that an earlier party's write of the same CCLK precedes loses; its W1C bits act. -/
theorem gateWrite_of_loses (h1 : s.partyHeld p = false) (h0 : s.partyBehind p = false) (h2 : s.rst.ready = true)
    (h3 : reaches p sp = true) (h4 : s.safe = false) (h5 : sp ≠ .win)
    (hr : findReg (Space.rows sp) off = some (r, ix)) (h6 : mortalRow r (ix.getD 0 0) = true)
    (h7 : neverLoses sp off = false) (h9 : s.outranked p sp off = false) (h8 : s.loses p (regKey sp off) = true) :
    s.gateWrite p sp off v act via lose drop = lose ((s.lostWrite (rankOf p)).w1c sp off r.w1c v) := by
  simp [State.gateWrite, h0, h1, h2, h3, h4, h5, hr, h6, h7, h8, h9, -List.getD_eq_getElem?_getD]

/-- R33: a write that an earlier party's write of the same register still waits to beat waits behind it. -/
theorem gateWrite_of_outranked (h1 : s.partyHeld p = false) (h0 : s.partyBehind p = false) (h2 : s.rst.ready = true)
    (h3 : reaches p sp = true) (h4 : s.safe = false) (h5 : sp ≠ .win)
    (hr : findReg (Space.rows sp) off = some (r, ix)) (h6 : mortalRow r (ix.getD 0 0) = true)
    (h8 : s.outranked p sp off = true) :
    s.gateWrite p sp off v act via lose drop = s.putBehind (requeue p sp off v) := by
  simp [State.gateWrite, h0, h1, h2, h3, h4, h5, hr, h6, h8, -List.getD_eq_getElem?_getD]
end

/-- The fetch of SEQH's line leaves its registers alone. -/
@[simp] theorem seqhTouch_sq (x y : Nat) : (s.seqhTouch x).sq y = s.sq y := by unfold State.seqhTouch; split <;> rfl

/-- An instruction that may run, and whose microwords reach END, does what its micro-routine does. -/
theorem instr_of_mayRun {x op : Nat} {w : BitVec 56} {mc : Option Micro} {rng : List (Nat × Nat)} {vals : List Nat}
    {f : State → Flow} (h : s.mayRun x op w rng vals = true) (hm : (s.microOf x mc).check = none)
    (hd : (s.microOf x mc).done = true) :
    s.instr x op w mc rng vals f =
      ((s.began x mc).flow x ((f (s.began x mc)).timed x (s.microOf x mc))).trapLate x (s.microOf x mc)
        (f (s.began x mc)) := by
  simp only [State.mayRun, Bool.and_eq_true, Bool.not_eq_true', Option.isNone_iff_eq_none] at h
  have ⟨⟨⟨may, legal⟩, free⟩, clean⟩ := h
  have hm' : ((s.seqhTouch x).micro x mc).check = none := hm
  have hd' : ((s.seqhTouch x).micro x mc).done = true := hd
  simp only [State.instr, may, legal, seqhTouch_sq, free, clean, hm', hd', Bool.not_true, Bool.false_eq_true, if_false,
    if_true]
  rfl

/-- An instruction that may run and whose routine goes on into a wait. -/
theorem instr_of_hold {x op : Nat} {w : BitVec 56} {mc : Option Micro} {rng : List (Nat × Nat)} {vals : List Nat}
    {f : State → Flow} {t : State} (h : s.mayRun x op w rng vals = true) (hm : (s.microOf x mc).check = none)
    (hd : (s.microOf x mc).done = true) (hf : f (s.began x mc) = .hold t) :
    s.instr x op w mc rng vals f = s.stays x mc t := by
  rw [instr_of_mayRun h hm hd, hf]; rfl

/-- An instruction that may run and whose routine raises an exception. -/
theorem instr_of_trap {x op : Nat} {w : BitVec 56} {mc : Option Micro} {rng : List (Nat × Nat)} {vals : List Nat}
    {f : State → Flow} {cause info : Nat} (h : s.mayRun x op w rng vals = true) (hm : (s.microOf x mc).check = none)
    (hd : (s.microOf x mc).done = true) (hf : f (s.began x mc) = .trap cause info) :
    s.instr x op w mc rng vals f = s.raises x mc cause info := by
  rw [instr_of_mayRun h hm hd, hf]; rfl

/-- An instruction that may run and retires: in the CCLK of the instruction, or of a patched routine. -/
theorem instr_of_next {x op : Nat} {w : BitVec 56} {mc : Option Micro} {rng : List (Nat × Nat)} {vals : List Nat}
    {f : State → Flow} {t : State} {n : Nat} (h : s.mayRun x op w rng vals = true) (hm : (s.microOf x mc).check = none)
    (hd : (s.microOf x mc).done = true) (hf : f (s.began x mc) = .next t n) :
    s.instr x op w mc rng vals f = t.retire x (((s.began x mc).sq x).pc + 1) (s.cost x mc n) := by
  rw [instr_of_mayRun h hm hd, hf]; rfl

/-- What `State.runs` says of a command whose coding is given. -/
theorem runs_iff {i : Instr} {f : Form} (hf : formOf i = some f) :
    s.runs i = true ↔ s.mayRun f.x f.op f.w f.rsv f.vals = true ∧ (s.microOf f.x f.mc).check = none ∧
      (s.microOf f.x f.mc).done = true := by
  simp [State.runs, hf, and_assoc]

/-! ### The registers that commands write exist -/

/-- A row that indexes the offset is found, or an earlier one is. -/
theorem findReg_of_mem {l : List RegRow} {off : Nat} {r : RegRow} (hm : r ∈ l) (hi : (r.idx off).isSome = true) :
    (findReg l off).isSome = true := by
  induction l with
  | nil => cases hm
  | cons a l ih =>
    unfold findReg
    split
    · rfl
    · rcases List.mem_cons.mp hm with rfl | hm
      · simp_all
      · exact ih hm

end Sys2Proof.Machine
end

