-- ==== Sys2Proof/Laws/Found.lean ====
section
/-!
SUPPORT. The registers that commands write exist in the map of their space.
-/
namespace Sys2Proof.Machine

open Sys2Proof

section
variable {rid : RegId} {base a b c na nb nc m1 m2 m3 m4 i j k : Nat}

/-- The register at place `i` of a row of one dimension. -/
theorem idx1 (hi : i < na) (_ : 0 < a) : (RegRow.idx ⟨rid, base, [(a, na)], m1, m2, m3, m4⟩ (base + a * i)).isSome = true := by
  simp [RegRow.idx, dimIdx, *]

/-- The register at place `i`, `j` of a row of two dimensions. -/
theorem idx2 (hi : i < na) (hj : j < nb) (_ : b * nb ≤ a) (_ : 0 < b) :
    (RegRow.idx ⟨rid, base, [(a, na), (b, nb)], m1, m2, m3, m4⟩ (base + a * i + b * j)).isSome = true := by
  have h1 : b * j < a := lt_of_lt_of_le (Nat.mul_lt_mul_of_pos_left hj ‹_›) ‹_›
  have h2 : base + a * i + b * j - base = b * j + a * i := by omega
  have h3 : (b * j + a * i) / a = i := by
    rw [Nat.add_mul_div_left _ _ (by omega), Nat.div_eq_of_lt h1, Nat.zero_add]
  have h4 : ¬ base + a * i + b * j < base := by omega
  simp [RegRow.idx, dimIdx, Nat.mod_eq_of_lt h1, *]

/-- The register at place `i`, `j`, `k` of a row of three dimensions. -/
theorem idx3 (hi : i < na) (hj : j < nb) (hk : k < nc) (_ : b * nb ≤ a) (_ : c * nc ≤ b) (_ : 0 < c) :
    (RegRow.idx ⟨rid, base, [(a, na), (b, nb), (c, nc)], m1, m2, m3, m4⟩ (base + a * i + b * j + c * k)).isSome = true := by
  have h0 : c * k < b := lt_of_lt_of_le (Nat.mul_lt_mul_of_pos_left hk ‹_›) ‹_›
  have h1 : c * k + b * j < a := by
    have : b * (j + 1) ≤ b * nb := Nat.mul_le_mul_left _ hj
    rw [Nat.mul_add] at this; omega
  have h2 : base + a * i + b * j + c * k - base = (c * k + b * j) + a * i := by omega
  have h3 : ((c * k + b * j) + a * i) / a = i := by
    rw [Nat.add_mul_div_left _ _ (by omega), Nat.div_eq_of_lt h1, Nat.zero_add]
  have h5 : (c * k + b * j) / b = j := by
    rw [Nat.add_mul_div_left _ _ (by omega), Nat.div_eq_of_lt h0, Nat.zero_add]
  have h4 : ¬ base + a * i + b * j + c * k < base := by omega
  simp [RegRow.idx, dimIdx, Nat.mod_eq_of_lt h1, Nat.mod_eq_of_lt h0, *]
end

theorem found_chsite (i : Nat) (hi : i < 512) : (findReg pf0Rows (Off.chsite i)).isSome = true :=
  findReg_of_mem (r := ⟨.chsite, 0x1000000, [(0x4, 512)], 0x8000037f, 0x0, 0x0, 0x0⟩) (by simp [pf0Rows, pf0Rows0]) (idx1 hi (by decide))
theorem found_railsite (i : Nat) (hi : i < 64) : (findReg pf0Rows (Off.railsite i)).isSome = true :=
  findReg_of_mem (r := ⟨.railsite, 0x1000800, [(0x4, 64)], 0x8000077f, 0x0, 0x0, 0x0⟩) (by simp [pf0Rows, pf0Rows0]) (idx1 hi (by decide))
theorem found_auxsite (i : Nat) (hi : i < 16) : (findReg pf0Rows (Off.auxsite i)).isSome = true :=
  findReg_of_mem (r := ⟨.auxsite, 0x1000900, [(0x4, 16)], 0x8000007f, 0x0, 0x0, 0x0⟩) (by simp [pf0Rows, pf0Rows0]) (idx1 hi (by decide))
theorem found_siteCtl (i : Nat) (hi : i < 128) : (findReg pf0Rows (Off.siteCtl i)).isSome = true :=
  findReg_of_mem (r := ⟨.siteCtl, 0x1001000, [(0x10, 128)], 0x80000003, 0x0, 0x0, 0x0⟩) (by simp [pf0Rows, pf0Rows0]) (idx1 hi (by decide))
theorem found_siteStat (i : Nat) (hi : i < 128) : (findReg pf0Rows (Off.siteStat i)).isSome = true :=
  findReg_of_mem (r := ⟨.siteStat, 0x1001004, [(0x10, 128)], 0x0, 0x80000000, 0x0, 0x0⟩) (by simp [pf0Rows, pf0Rows0]) (idx1 hi (by decide))
theorem found_clPark (i : Nat) (hi : i < 16) : (findReg pf0Rows (Off.clPark i)).isSome = true :=
  findReg_of_mem (r := ⟨.clPark, 0x100124, [(0x40000, 16)], 0x3, 0x4, 0x0, 0x0⟩) (by simp [pf0Rows, pf0Rows2]) (idx1 hi (by decide))
theorem found_seqCtl (i : Nat) (hi : i < 16) : (findReg pf0Rows (Off.seqCtl i)).isSome = true :=
  findReg_of_mem (r := ⟨.seqCtl, 0x100000, [(0x40000, 16)], 0x0, 0x0, 0x0, 0x3⟩) (by simp [pf0Rows, pf0Rows0]) (idx1 hi (by decide))
theorem found_seqG (i : Nat) (hi : i < 17) (j : Nat) (hj : j < 16) : (findReg pf0Rows (Off.seqG i j)).isSome = true :=
  findReg_of_mem (r := ⟨.seqG, 0x100040, [(0x40000, 17), (0x4, 16)], 0xffffffff, 0x0, 0x0, 0x0⟩) (by simp [pf0Rows, pf0Rows0]) (idx2 hi hj (by decide) (by decide))
theorem found_seqLc (i : Nat) (hi : i < 17) (j : Nat) (hj : j < 8) : (findReg pf0Rows (Off.seqLc i j)).isSome = true :=
  findReg_of_mem (r := ⟨.seqLc, 0x100080, [(0x40000, 17), (0x4, 8)], 0xffffffff, 0x0, 0x0, 0x0⟩) (by simp [pf0Rows, pf0Rows0]) (idx2 hi hj (by decide) (by decide))
theorem found_idmaCtl (i : Nat) (hi : i < 16) : (findReg pf0Rows (Off.idmaCtl i)).isSome = true :=
  findReg_of_mem (r := ⟨.idmaCtl, 0x1000ac, [(0x40000, 16)], 0x0, 0x0, 0x0, 0x1⟩) (by simp [pf0Rows, pf0Rows0]) (idx1 hi (by decide))
theorem found_potCfg (i : Nat) (hi : i < 64) : (findReg pf0Rows (Off.potCfg i)).isSome = true :=
  findReg_of_mem (r := ⟨.potCfg, 0xa2000, [(0x20, 64)], 0xcf1f0000, 0x0, 0x0, 0x0⟩) (by simp [pf0Rows, pf0Rows1]) (idx1 hi (by decide))
theorem found_potWr (i : Nat) (hi : i < 64) : (findReg pf0Rows (Off.potWr i)).isSome = true :=
  findReg_of_mem (r := ⟨.potWr, 0xa2008, [(0x20, 64)], 0xffffffff, 0x0, 0x0, 0x0⟩) (by simp [pf0Rows, pf0Rows1]) (idx1 hi (by decide))
theorem found_vmFillCtl : (findReg pf0Rows Off.vmFillCtl).isSome = true :=
  findReg_of_mem (r := ⟨.vmFillCtl, 0xa0810, [], 0x0, 0x0, 0x0, 0x1⟩) (by simp [pf0Rows, pf0Rows2]) (by simp [RegRow.idx, dimIdx, Off.vmFillCtl])
theorem found_tsEdata (i : Nat) (hi : i < 16) : (findReg pf0Rows (Off.tsEdata i)).isSome = true :=
  findReg_of_mem (r := ⟨.tsEdata, 0x102c04, [(0x40000, 16)], 0xffffff, 0x0, 0x0, 0x0⟩) (by simp [pf0Rows, pf0Rows2]) (idx1 hi (by decide))
theorem found_capGov (i : Nat) (hi : i < 16) : (findReg pf0Rows (Off.capGov i)).isSome = true :=
  findReg_of_mem (r := ⟨.capGov, 0x103200, [(0x40000, 16)], 0xfffff, 0x0, 0x0, 0x0⟩) (by simp [pf0Rows, pf0Rows3]) (idx1 hi (by decide))
theorem found_qdW (i : Nat) (hi : i < 8) : (findReg pf0Rows (Off.qdW i)).isSome = true :=
  findReg_of_mem (r := ⟨.qdW, 0xb0120, [(0x4, 8)], 0xffffffff, 0x0, 0x0, 0x0⟩) (by simp [pf0Rows, pf0Rows3]) (idx1 hi (by decide))
theorem found_qheadAdv : (findReg pf0Rows Off.qheadAdv).isSome = true :=
  findReg_of_mem (r := ⟨.qheadAdv, 0xb0140, [], 0x0, 0x0, 0x0, 0xffffffff⟩) (by simp [pf0Rows, pf0Rows3]) (by simp [RegRow.idx, dimIdx, Off.qheadAdv])
theorem found_qmHoldLen : (findReg pf0Rows Off.qmHoldLen).isSome = true :=
  findReg_of_mem (r := ⟨.qmHoldLen, 0xb0004, [], 0x7fff, 0x0, 0x0, 0x0⟩) (by simp [pf0Rows, pf0Rows3]) (by simp [RegRow.idx, dimIdx, Off.qmHoldLen])
theorem found_qmHoldBase : (findReg pf0Rows Off.qmHoldBase).isSome = true :=
  findReg_of_mem (r := ⟨.qmHoldBase, 0xb0000, [], 0x7fff, 0x0, 0x0, 0x0⟩) (by simp [pf0Rows, pf0Rows3]) (by simp [RegRow.idx, dimIdx, Off.qmHoldBase])
theorem found_caplCfg (i : Nat) (hi : i < 16) (j : Nat) (hj : j < 8) : (findReg pf0Rows (Off.caplCfg i j)).isSome = true :=
  findReg_of_mem (r := ⟨.caplCfg, 0x103000, [(0x40000, 16), (0x40, 8)], 0xff0fffff, 0x0, 0x0, 0x0⟩) (by simp [pf0Rows, pf0Rows3]) (idx2 hi hj (by decide) (by decide))
theorem found_caplLen (i : Nat) (hi : i < 16) (j : Nat) (hj : j < 8) : (findReg pf0Rows (Off.caplLen i j)).isSome = true :=
  findReg_of_mem (r := ⟨.caplLen, 0x103004, [(0x40000, 16), (0x40, 8)], 0xffffff, 0x0, 0x0, 0x0⟩) (by simp [pf0Rows, pf0Rows3]) (idx2 hi hj (by decide) (by decide))
theorem found_caplChmask (i : Nat) (hi : i < 16) (j : Nat) (hj : j < 8) : (findReg pf0Rows (Off.caplChmask i j)).isSome = true :=
  findReg_of_mem (r := ⟨.caplChmask, 0x103008, [(0x40000, 16), (0x40, 8)], 0xffffffff, 0x0, 0x0, 0x0⟩) (by simp [pf0Rows, pf0Rows3]) (idx2 hi hj (by decide) (by decide))
theorem found_caplTrg (i : Nat) (hi : i < 16) (j : Nat) (hj : j < 8) (k : Nat) (hk : k < 8) : (findReg pf0Rows (Off.caplTrg i j k)).isSome = true :=
  findReg_of_mem (r := ⟨.caplTrg, 0x103010, [(0x40000, 16), (0x40, 8), (0x4, 8)], 0xf00003ff, 0x0, 0x0, 0x0⟩) (by simp [pf0Rows, pf0Rows3]) (idx3 hi hj hk (by decide) (by decide) (by decide))
theorem found_caplRoute (i : Nat) (hi : i < 16) (j : Nat) (hj : j < 8) : (findReg pf0Rows (Off.caplRoute i j)).isSome = true :=
  findReg_of_mem (r := ⟨.caplRoute, 0x10300c, [(0x40000, 16), (0x40, 8)], 0xf00fffff, 0x0, 0x0, 0x0⟩) (by simp [pf0Rows, pf0Rows3]) (idx2 hi hj (by decide) (by decide))
theorem found_caplStat (i : Nat) (hi : i < 16) (j : Nat) (hj : j < 8) : (findReg pf0Rows (Off.caplStat i j)).isSome = true :=
  findReg_of_mem (r := ⟨.caplStat, 0x103030, [(0x40000, 16), (0x40, 8)], 0x0, 0x30000000, 0x0, 0x0⟩) (by simp [pf0Rows, pf0Rows3]) (idx2 hi hj (by decide) (by decide))
theorem found_caplCnt (i : Nat) (hi : i < 16) (j : Nat) (hj : j < 8) : (findReg pf0Rows (Off.caplCnt i j)).isSome = true :=
  findReg_of_mem (r := ⟨.caplCnt, 0x103034, [(0x40000, 16), (0x40, 8)], 0x0, 0x0, 0xffffffff, 0x0⟩) (by simp [pf0Rows, pf0Rows3]) (idx2 hi hj (by decide) (by decide))
theorem found_tiuCfg (i : Nat) (hi : i < 8) : (findReg pf0Rows (Off.tiuCfg i)).isSome = true :=
  findReg_of_mem (r := ⟨.tiuCfg, 0x60000, [(0x100, 8)], 0xc700ffff, 0x0, 0x0, 0x0⟩) (by simp [pf0Rows, pf0Rows3]) (idx1 hi (by decide))
theorem found_tiuStart (i : Nat) (hi : i < 8) : (findReg pf0Rows (Off.tiuStart i)).isSome = true :=
  findReg_of_mem (r := ⟨.tiuStart, 0x60004, [(0x100, 8)], 0x7fff, 0x0, 0x0, 0x0⟩) (by simp [pf0Rows, pf0Rows3]) (idx1 hi (by decide))
theorem found_tiuStop (i : Nat) (hi : i < 8) : (findReg pf0Rows (Off.tiuStop i)).isSome = true :=
  findReg_of_mem (r := ⟨.tiuStop, 0x60008, [(0x100, 8)], 0x7fff, 0x0, 0x0, 0x0⟩) (by simp [pf0Rows, pf0Rows3]) (idx1 hi (by decide))
theorem found_tiuN (i : Nat) (hi : i < 8) : (findReg pf0Rows (Off.tiuN i)).isSome = true :=
  findReg_of_mem (r := ⟨.tiuN, 0x6000c, [(0x100, 8)], 0xffffff, 0x0, 0x0, 0x0⟩) (by simp [pf0Rows, pf0Rows3]) (idx1 hi (by decide))
theorem found_tiuWin (i : Nat) (hi : i < 8) : (findReg pf0Rows (Off.tiuWin i)).isSome = true :=
  findReg_of_mem (r := ⟨.tiuWin, 0x60010, [(0x100, 8)], 0xffff, 0x0, 0x0, 0x0⟩) (by simp [pf0Rows, pf0Rows3]) (idx1 hi (by decide))
theorem found_tiuRoute (i : Nat) (hi : i < 8) : (findReg pf0Rows (Off.tiuRoute i)).isSome = true :=
  findReg_of_mem (r := ⟨.tiuRoute, 0x60014, [(0x100, 8)], 0x87ffffff, 0x0, 0x0, 0x0⟩) (by simp [pf0Rows, pf0Rows4]) (idx1 hi (by decide))
theorem found_tiuCmd (i : Nat) (hi : i < 8) : (findReg pf0Rows (Off.tiuCmd i)).isSome = true :=
  findReg_of_mem (r := ⟨.tiuCmd, 0x60018, [(0x100, 8)], 0x0, 0x0, 0x0, 0x3⟩) (by simp [pf0Rows, pf0Rows4]) (idx1 hi (by decide))
theorem found_tiuCalctl (i : Nat) (hi : i < 8) : (findReg pf0Rows (Off.tiuCalctl i)).isSome = true :=
  findReg_of_mem (r := ⟨.tiuCalctl, 0x60050, [(0x100, 8)], 0x2, 0x0, 0x0, 0x1⟩) (by simp [pf0Rows, pf0Rows4]) (idx1 hi (by decide))
theorem found_weCfg (i : Nat) (hi : i < 16) : (findReg pf0Rows (Off.weCfg i)).isSome = true :=
  findReg_of_mem (r := ⟨.weCfg, 0x70000, [(0x100, 16)], 0xfc7fffff, 0x0, 0x0, 0x0⟩) (by simp [pf0Rows, pf0Rows4]) (idx1 hi (by decide))
theorem found_weTgt (i : Nat) (hi : i < 16) : (findReg pf0Rows (Off.weTgt i)).isSome = true :=
  findReg_of_mem (r := ⟨.weTgt, 0x70004, [(0x100, 16)], 0x8000000f, 0x0, 0x0, 0x0⟩) (by simp [pf0Rows, pf0Rows4]) (idx1 hi (by decide))
theorem found_weChmask (i : Nat) (hi : i < 16) : (findReg pf0Rows (Off.weChmask i)).isSome = true :=
  findReg_of_mem (r := ⟨.weChmask, 0x70008, [(0x100, 16)], 0xffffffff, 0x0, 0x0, 0x0⟩) (by simp [pf0Rows, pf0Rows4]) (idx1 hi (by decide))
theorem found_weRate (i : Nat) (hi : i < 16) : (findReg pf0Rows (Off.weRate i)).isSome = true :=
  findReg_of_mem (r := ⟨.weRate, 0x7000c, [(0x100, 16)], 0xfffff, 0x0, 0x0, 0x0⟩) (by simp [pf0Rows, pf0Rows4]) (idx1 hi (by decide))
theorem found_weStep (i : Nat) (hi : i < 16) : (findReg pf0Rows (Off.weStep i)).isSome = true :=
  findReg_of_mem (r := ⟨.weStep, 0x70010, [(0x100, 16)], 0xffffffff, 0x0, 0x0, 0x0⟩) (by simp [pf0Rows, pf0Rows4]) (idx1 hi (by decide))
theorem found_weCtl (i : Nat) (hi : i < 16) : (findReg pf0Rows (Off.weCtl i)).isSome = true :=
  findReg_of_mem (r := ⟨.weCtl, 0x70014, [(0x100, 16)], 0x0, 0x0, 0x0, 0x3⟩) (by simp [pf0Rows, pf0Rows4]) (idx1 hi (by decide))
theorem found_weStat (i : Nat) (hi : i < 16) : (findReg pf0Rows (Off.weStat i)).isSome = true :=
  findReg_of_mem (r := ⟨.weStat, 0x70018, [(0x100, 16)], 0x0, 0x3b800000, 0x0, 0x0⟩) (by simp [pf0Rows, pf0Rows4]) (idx1 hi (by decide))
theorem found_weCnt (i : Nat) (hi : i < 16) : (findReg pf0Rows (Off.weCnt i)).isSome = true :=
  findReg_of_mem (r := ⟨.weCnt, 0x7001c, [(0x100, 16)], 0x0, 0x0, 0xffffffff, 0x0⟩) (by simp [pf0Rows, pf0Rows4]) (idx1 hi (by decide))
theorem found_weSega (i : Nat) (hi : i < 16) (j : Nat) (hj : j < 8) : (findReg pf0Rows (Off.weSega i j)).isSome = true :=
  findReg_of_mem (r := ⟨.weSega, 0x70040, [(0x100, 16), (0x8, 8)], 0xffffffff, 0x0, 0x0, 0x0⟩) (by simp [pf0Rows, pf0Rows4]) (idx2 hi hj (by decide) (by decide))
theorem found_weSegb (i : Nat) (hi : i < 16) (j : Nat) (hj : j < 8) : (findReg pf0Rows (Off.weSegb i j)).isSome = true :=
  findReg_of_mem (r := ⟨.weSegb, 0x70044, [(0x100, 16), (0x8, 8)], 0xffffffff, 0x0, 0x0, 0x0⟩) (by simp [pf0Rows, pf0Rows4]) (idx2 hi hj (by decide) (by decide))
theorem found_syncCmd : (findReg pf0Rows Off.syncCmd).isSome = true :=
  findReg_of_mem (r := ⟨.syncCmd, 0x71004, [], 0x0, 0x0, 0x0, 0x3⟩) (by simp [pf0Rows, pf0Rows4]) (by simp [RegRow.idx, dimIdx, Off.syncCmd])
theorem found_railVset (i : Nat) (hi : i < 64) : (findReg pf0Rows (Off.railVset i)).isSome = true :=
  findReg_of_mem (r := ⟨.railVset, 0x80000, [(0x40, 64)], 0x3ffff, 0x0, 0x0, 0x0⟩) (by simp [pf0Rows, pf0Rows5]) (idx1 hi (by decide))
theorem found_railVmax (i : Nat) (hi : i < 64) : (findReg pf0Rows (Off.railVmax i)).isSome = true :=
  findReg_of_mem (r := ⟨.railVmax, 0x80004, [(0x40, 64)], 0x3ffff, 0x0, 0x0, 0x0⟩) (by simp [pf0Rows, pf0Rows5]) (idx1 hi (by decide))
theorem found_railCfg (i : Nat) (hi : i < 64) : (findReg pf0Rows (Off.railCfg i)).isSome = true :=
  findReg_of_mem (r := ⟨.railCfg, 0x80010, [(0x40, 64)], 0xffff3fff, 0x0, 0x0, 0x0⟩) (by simp [pf0Rows, pf0Rows5]) (idx1 hi (by decide))
theorem found_sitePwr (i : Nat) (hi : i < 128) : (findReg pf0Rows (Off.sitePwr i)).isSome = true :=
  findReg_of_mem (r := ⟨.sitePwr, 0x81000, [(0x4, 128)], 0x80000000, 0x800, 0x0, 0x0⟩) (by simp [pf0Rows, pf0Rows5]) (idx1 hi (by decide))
theorem found_auxCfg (i : Nat) (hi : i < 16) : (findReg pf0Rows (Off.auxCfg i)).isSome = true :=
  findReg_of_mem (r := ⟨.auxCfg, 0x83000, [(0x10, 16)], 0xc0000000, 0x0, 0x0, 0x0⟩) (by simp [pf0Rows, pf0Rows5]) (idx1 hi (by decide))
theorem found_auxCode (i : Nat) (hi : i < 16) : (findReg pf0Rows (Off.auxCode i)).isSome = true :=
  findReg_of_mem (r := ⟨.auxCode, 0x83004, [(0x10, 16)], 0x3ffff, 0x0, 0x0, 0x0⟩) (by simp [pf0Rows, pf0Rows5]) (idx1 hi (by decide))
theorem found_kzCtl (i : Nat) (hi : i < 4) : (findReg pf0Rows (Off.kzCtl i)).isSome = true :=
  findReg_of_mem (r := ⟨.kzCtl, 0x82000, [(0x40, 4)], 0xc000ffff, 0x0, 0x0, 0x0⟩) (by simp [pf0Rows, pf0Rows5]) (idx1 hi (by decide))
theorem found_kzTh (i : Nat) (hi : i < 4) : (findReg pf0Rows (Off.kzTh i)).isSome = true :=
  findReg_of_mem (r := ⟨.kzTh, 0x82010, [(0x40, 4)], 0xffff1fff, 0x0, 0x0, 0x0⟩) (by simp [pf0Rows, pf0Rows5]) (idx1 hi (by decide))
theorem found_fuSafereq : (findReg pf0Rows Off.fuSafereq).isSome = true :=
  findReg_of_mem (r := ⟨.fuSafereq, 0x3000c, [], 0x0, 0x0, 0x0, 0xffff0001⟩) (by simp [pf0Rows, pf0Rows6]) (by simp [RegRow.idx, dimIdx, Off.fuSafereq])
theorem found_fuF2clr : (findReg pf0Rows Off.fuF2clr).isSome = true :=
  findReg_of_mem (r := ⟨.fuF2clr, 0x30008, [], 0x0, 0x0, 0x0, 0xffff⟩) (by simp [pf0Rows, pf0Rows5]) (by simp [RegRow.idx, dimIdx, Off.fuF2clr])
theorem found_fuHclr : (findReg pf0Rows Off.fuHclr).isSome = true :=
  findReg_of_mem (r := ⟨.fuHclr, 0x30014, [], 0x0, 0x0, 0x0, 0x1⟩) (by simp [pf0Rows, pf0Rows6]) (by simp [RegRow.idx, dimIdx, Off.fuHclr])
theorem found_evSw : (findReg pf0Rows Off.evSw).isSome = true :=
  findReg_of_mem (r := ⟨.evSw, 0x28104, [], 0x0, 0x0, 0x0, 0xffff⟩) (by simp [pf0Rows, pf0Rows6]) (by simp [RegRow.idx, dimIdx, Off.evSw])
theorem found_calUdata : (findReg pf0Rows Off.calUdata).isSome = true :=
  findReg_of_mem (r := ⟨.calUdata, 0x50014, [], 0xffff, 0x0, 0x0, 0x0⟩) (by simp [pf0Rows, pf0Rows7]) (by simp [RegRow.idx, dimIdx, Off.calUdata])
theorem found_calSave : (findReg pf0Rows Off.calSave).isSome = true :=
  findReg_of_mem (r := ⟨.calSave, 0x50020, [], 0x0, 0x0, 0x0, 0x1⟩) (by simp [pf0Rows, pf0Rows7]) (by simp [RegRow.idx, dimIdx, Off.calSave])
theorem found_clkOut (i : Nat) (hi : i < 6) : (findReg pf0Rows (Off.clkOut i)).isSome = true :=
  findReg_of_mem (r := ⟨.clkOut, 0x10010, [(0x4, 6)], 0x8000003f, 0x0, 0x0, 0x0⟩) (by simp [pf0Rows, pf0Rows7]) (idx1 hi (by decide))
theorem found_seqhCtl : (findReg pf0Rows Off.seqhCtl).isSome = true :=
  findReg_of_mem (r := ⟨.seqhCtl, 0x500000, [], 0x0, 0x0, 0x0, 0x3⟩) (by simp [pf0Rows, pf0Rows1]) (by simp [RegRow.idx, dimIdx, Off.seqhCtl])
theorem found_ecCfg (i : Nat) (hi : i < 1024) : (findReg pf0Rows (Off.ecCfg i)).isSome = true :=
  findReg_of_mem (r := ⟨.ecCfg, 0x20000, [(0x20, 1024)], 0xf070007f, 0x0, 0x0, 0x0⟩) (by simp [pf0Rows, pf0Rows6]) (idx1 hi (by decide))
theorem found_ecProd (i : Nat) (hi : i < 1024) (j : Nat) (hj : j < 4) : (findReg pf0Rows (Off.ecProd i j)).isSome = true :=
  findReg_of_mem (r := ⟨.ecProd, 0x20004, [(0x20, 1024), (0x4, 4)], 0x8fff8fff, 0x0, 0x0, 0x0⟩) (by simp [pf0Rows, pf0Rows6]) (idx2 hi hj (by decide) (by decide))
theorem found_steep : (findReg pf0Rows Off.steep).isSome = true :=
  findReg_of_mem (r := ⟨.steep, 0x10, [], 0xffffff, 0x0, 0x0, 0x0⟩) (by simp [pf0Rows, pf0Rows0]) (by simp [RegRow.idx, dimIdx, Off.steep])
theorem found_irqmap (i : Nat) (hi : i < 512) : (findReg pf0Rows (Off.irqmap i)).isSome = true :=
  findReg_of_mem (r := ⟨.irqmap, 0xb2000, [(0x4, 512)], 0x800007ff, 0x0, 0x0, 0x0⟩) (by simp [pf0Rows, pf0Rows3]) (idx1 hi (by decide))
theorem found_wlRvmax (i : Nat) (hi : i < 64) : (findReg pf1Rows (Off.wlRvmax i)).isSome = true :=
  findReg_of_mem (r := ⟨.wlRvmax, 0x0, [(0x8, 64)], 0x3ffff, 0x0, 0x0, 0x0⟩) (by simp [pf1Rows, pf1Rows0]) (idx1 hi (by decide))
theorem found_wlRimax (i : Nat) (hi : i < 64) : (findReg pf1Rows (Off.wlRimax i)).isSome = true :=
  findReg_of_mem (r := ⟨.wlRimax, 0x4, [(0x8, 64)], 0x3ffff, 0x0, 0x0, 0x0⟩) (by simp [pf1Rows, pf1Rows0]) (idx1 hi (by decide))
theorem found_wlZone (i : Nat) (hi : i < 4) : (findReg pf1Rows (Off.wlZone i)).isSome = true :=
  findReg_of_mem (r := ⟨.wlZone, 0x400, [(0x4, 4)], 0x1fffff, 0x0, 0x0, 0x0⟩) (by simp [pf1Rows, pf1Rows0]) (idx1 hi (by decide))
theorem found_wlSite (i : Nat) (hi : i < 128) : (findReg pf1Rows (Off.wlSite i)).isSome = true :=
  findReg_of_mem (r := ⟨.wlSite, 0x800, [(0x4, 128)], 0x3, 0x0, 0x0, 0x0⟩) (by simp [pf1Rows, pf1Rows0]) (idx1 hi (by decide))
theorem found_wlTbnd : (findReg pf1Rows Off.wlTbnd).isSome = true :=
  findReg_of_mem (r := ⟨.wlTbnd, 0x1800, [], 0xffff, 0x0, 0x0, 0x0⟩) (by simp [pf1Rows, pf1Rows0]) (by simp [RegRow.idx, dimIdx, Off.wlTbnd])
theorem found_mcpCtl : (findReg pf1Rows Off.mcpCtl).isSome = true :=
  findReg_of_mem (r := ⟨.mcpCtl, 0x3008, [], 0x0, 0x0, 0x0, 0x3⟩) (by simp [pf1Rows, pf1Rows0]) (by simp [RegRow.idx, dimIdx, Off.mcpCtl])
theorem found_rstReq : (findReg pf1Rows Off.rstReq).isSome = true :=
  findReg_of_mem (r := ⟨.rstReq, 0x4000, [], 0x0, 0x0, 0x0, 0xffff0001⟩) (by simp [pf1Rows, pf1Rows0]) (by simp [RegRow.idx, dimIdx, Off.rstReq])
theorem found_p1wData : (findReg pf1Rows Off.p1wData).isSome = true :=
  findReg_of_mem (r := ⟨.p1wData, 0x6004, [], 0xffffffff, 0x0, 0x0, 0x0⟩) (by simp [pf1Rows, pf1Rows0]) (by simp [RegRow.idx, dimIdx, Off.p1wData])
theorem found_spCmd : (findReg winRows Off.spCmd).isSome = true :=
  findReg_of_mem (r := ⟨.spCmd, 0x8, [], 0x0, 0x0, 0x0, 0xffff0003⟩) (by simp [winRows, winRows0]) (by simp [RegRow.idx, dimIdx, Off.spCmd])
theorem found_spPtr : (findReg winRows Off.spPtr).isSome = true :=
  findReg_of_mem (r := ⟨.spPtr, 0xc, [], 0xe3fffffc, 0x0, 0x0, 0x0⟩) (by simp [winRows, winRows0]) (by simp [RegRow.idx, dimIdx, Off.spPtr])
theorem found_spData : (findReg winRows Off.spData).isSome = true :=
  findReg_of_mem (r := ⟨.spData, 0x10, [], 0xffffffff, 0x0, 0x0, 0x0⟩) (by simp [winRows, winRows0]) (by simp [RegRow.idx, dimIdx, Off.spData])

end Sys2Proof.Machine
end

