-- ==== Sys2Proof/Laws/Kept.lean ====
section
/-!
SUPPORT. What no command breaks: `Kept a b` says that the state `b`, reached from `a`, still has the canonical form of
vector memory and of the register images, the latched F5, the safe state outside a reset, the queue of commands, and the
time outside a reset. One lemma per operation says that it keeps `Kept`.
-/
set_option linter.unusedTactic false
set_option linter.unreachableTactic false
namespace Sys2Proof.Machine

open Sys2Proof

/-- The promises of `a` that hold in `b`. -/
structure Kept (a b : State) : Prop where
  mem   : a.mem.wf = true → b.mem.wf = true
  regs  : a.ImagesCanonical → b.ImagesCanonical
  latch : a.F5Latched → b.sg Off.wdF5 = a.sg Off.wdF5
  safe  : a.InSafeState → b.InSafeState ∨ b.InReset
  queue : b.pending = a.pending
  time  : b.now = a.now ∨ b.InReset

variable {a s t : State}

theorem Kept.refl : Kept a a := ⟨id, id, fun _ => rfl, .inl, rfl, .inl rfl⟩

theorem Kept.cut {P : Prop} {x : State} (h : Kept a x) (k : Kept a x → P) : P := k h

/-- A state that differs in other fields only. -/
theorem Kept.same (h : Kept a s) (e1 : t.mem = s.mem) (e2 : t.reg = s.reg) (e3 : t.sec = s.sec) (e4 : t.win = s.win)
    (e5 : t.app = s.app) (e6 : t.fault.f4 = s.fault.f4) (e7 : t.fault.f5 = s.fault.f5) (e8 : t.rst.held = s.rst.held)
    (e9 : t.pending = s.pending) (e10 : t.now = s.now) : Kept a t := by
  refine ⟨fun m => e1 ▸ h.mem m, fun m => ?_, fun m => ?_, fun m => ?_, e9.trans h.queue, ?_⟩
  · have := h.regs m
    simpa [State.ImagesCanonical, e2, e3, e4, e5] using this
  · have := h.latch m
    simpa [State.sg, e3] using this
  · have := h.safe m
    simpa [State.InSafeState, State.InReset, State.safe, e6, e7, e8] using this
  · have := h.time
    simpa [State.InReset, e8, e10] using this

/-- As `Kept.same`, with vector memory changed but canonical. -/
theorem Kept.mem' (h : Kept a s) (e1 : s.mem.wf = true → t.mem.wf = true) (e2 : t.reg = s.reg) (e3 : t.sec = s.sec)
    (e4 : t.win = s.win) (e5 : t.app = s.app) (e6 : t.fault.f4 = s.fault.f4) (e7 : t.fault.f5 = s.fault.f5)
    (e8 : t.rst.held = s.rst.held) (e9 : t.pending = s.pending) (e10 : t.now = s.now) : Kept a t := by
  have k : Kept a { t with mem := s.mem } := h.same rfl e2 e3 e4 e5 e6 e7 e8 e9 e10
  exact ⟨fun m => e1 (h.mem m), k.regs, k.latch, k.safe, k.queue, k.time⟩

/-- As `Kept.mem'`, for a state written out. -/
theorem Kept.mkMem (h : Kept a s)
    {pending'} {now'} {tstamp'} {reg'} {sec'} {win'} {app'} {appPrev'} {dirty'} {late'} {edge'} {edgeApp'} {edgePrev'}
    {edgeBad'} {edgeLost'} {edgeGone'} {snap'} {rdata'} {bar2'} {wrote'} {marks'} {pre'} {regOld'} {behind'} {reach'}
    {tap'} {admNow'} {held'} {retried'} {steep'} {seq'} {clu'} {chan'} {site'} {rail'} {zone'} {auxOut'} {auxClamps'}
    {contactAt'} {fault'} {ward'} {pulses'} {transit'} {holds'} {mem'} {potOld'} {strain'} {leakAt'} {disarmed'} {qm'}
    {tiu'} {we'} {sync'} {nodesA'} {nodesB'} {diffRun'} {cal'} {mc'} {clk'} {rst'} {cp'} {spp'} {freeCtr'}
    (e10 : now' = s.now) (e1 : s.mem.wf = true → mem'.wf = true) (e2 : reg' = s.reg) (e3 : sec' = s.sec)
    (e4 : win' = s.win) (e5 : app' = s.app) (e6 : fault'.f4 = s.fault.f4)
    (e7 : fault'.f5 = s.fault.f5) (e8 : rst'.held = s.rst.held) (e9 : pending' = s.pending) :
    Kept a (State.mk
      pending' now' tstamp' reg' sec' win' app' appPrev' dirty' late' edge' edgeApp' edgePrev' edgeBad' edgeLost'
      edgeGone' snap' rdata' bar2' wrote' marks' pre' regOld' behind' reach' tap' admNow' held' retried' steep' seq'
      clu' chan' site' rail' zone' auxOut' auxClamps' contactAt' fault' ward' pulses' transit' holds' mem' potOld'
      strain' leakAt' disarmed' qm' tiu' we' sync' nodesA' nodesB' diffRun' cal' mc' clk' rst' cp' spp' freeCtr') :=
  h.mem' e1 e2 e3 e4 e5 e6 e7 e8 e9 e10

/-- A state written out that is in F4 or F5. -/
theorem Kept.mkSafe (h : Kept a s)
    {pending'} {now'} {tstamp'} {reg'} {sec'} {win'} {app'} {appPrev'} {dirty'} {late'} {edge'} {edgeApp'} {edgePrev'}
    {edgeBad'} {edgeLost'} {edgeGone'} {snap'} {rdata'} {bar2'} {wrote'} {marks'} {pre'} {regOld'} {behind'} {reach'}
    {tap'} {admNow'} {held'} {retried'} {steep'} {seq'} {clu'} {chan'} {site'} {rail'} {zone'} {auxOut'} {auxClamps'}
    {contactAt'} {fault'} {ward'} {pulses'} {transit'} {holds'} {mem'} {potOld'} {strain'} {leakAt'} {disarmed'} {qm'}
    {tiu'} {we'} {sync'} {nodesA'} {nodesB'} {diffRun'} {cal'} {mc'} {clk'} {rst'} {cp'} {spp'} {freeCtr'}
    (e10 : now' = s.now) (e1 : s.mem.wf = true → mem'.wf = true) (e2 : reg' = s.reg) (e3 : sec' = s.sec)
    (e4 : win' = s.win) (e5 : app' = s.app) (e6 : (fault'.f4 || fault'.f5) = true)
    (e8 : rst'.held = s.rst.held) (e9 : pending' = s.pending) :
    Kept a (State.mk
      pending' now' tstamp' reg' sec' win' app' appPrev' dirty' late' edge' edgeApp' edgePrev' edgeBad' edgeLost'
      edgeGone' snap' rdata' bar2' wrote' marks' pre' regOld' behind' reach' tap' admNow' held' retried' steep' seq'
      clu' chan' site' rail' zone' auxOut' auxClamps' contactAt' fault' ward' pulses' transit' holds' mem' potOld'
      strain' leakAt' disarmed' qm' tiu' we' sync' nodesA' nodesB' diffRun' cal' mc' clk' rst' cp' spp' freeCtr') := by
  refine ⟨fun m => e1 (h.mem m), fun m => ?_, fun m => ?_, fun _ => .inl e6, e9.trans h.queue, ?_⟩
  · have := h.regs m
    simpa [State.ImagesCanonical, e2, e3, e4, e5] using this
  · have := h.latch m
    simpa [State.sg, e3] using this
  · have := h.time
    simpa [State.InReset, e8, e10] using this

theorem Kept.foldl {α : Type} {f : State → α → State} {l : List α} (h : Kept a s)
    (hf : ∀ s i, Kept a s → Kept a (f s i)) : Kept a (l.foldl f s) := by
  induction l generalizing s with
  | nil => exact h
  | cons i l ih => exact ih (hf s i h)

theorem kept_each (h : Kept a s) {l : List Nat} {f : Nat → State → State} (hf : ∀ i s, Kept a s → Kept a (f i s)) :
    Kept a (s.each l f) := Kept.foldl h fun s i hs => hf i s hs

/-- The states that the end of a micro-routine holds keep the promises of `a`. -/
def FlowKept (a : State) : Flow → Prop
  | .next t _ => Kept a t
  | .jump t _ _ => Kept a t
  | .trap _ _ => True
  | .hold t => Kept a t

theorem FlowKept.next' {n : Nat} (h : Kept a s) : FlowKept a (.next s n) := h
theorem FlowKept.jump' {n m : Nat} (h : Kept a s) : FlowKept a (.jump s n m) := h
theorem FlowKept.trap' {n m : Nat} : FlowKept a (.trap n m) := trivial
theorem FlowKept.hold' (h : Kept a s) : FlowKept a (.hold s) := h

/-! ### Primitive updates -/

theorem kept_setRg (h : Kept a s) (o w) : Kept a (s.setRg o w) := by
  have k : Kept a { s.setRg o w with reg := s.reg } := h.same rfl rfl rfl rfl rfl rfl rfl rfl rfl rfl
  exact ⟨k.mem, fun m => ⟨tblWf_tblSet _ _ (h.regs m).1, (h.regs m).2⟩, k.latch, k.safe, k.queue, k.time⟩
theorem kept_setAp (h : Kept a s) (o w) : Kept a (s.setAp o w) := by
  have k : Kept a { s.setAp o w with app := s.app } := h.same rfl rfl rfl rfl rfl rfl rfl rfl rfl rfl
  exact ⟨k.mem, fun m => ⟨(h.regs m).1, (h.regs m).2.1, (h.regs m).2.2.1, tblWf_tblSet _ _ (h.regs m).2.2.2⟩, k.latch,
    k.safe, k.queue, k.time⟩
theorem kept_setWg (h : Kept a s) (o w) : Kept a (s.setWg o w) := by
  have k : Kept a { s.setWg o w with win := s.win } := h.same rfl rfl rfl rfl rfl rfl rfl rfl rfl rfl
  exact ⟨k.mem, fun m => ⟨(h.regs m).1, (h.regs m).2.1, tblWf_tblSet _ _ (h.regs m).2.2.1, (h.regs m).2.2.2⟩, k.latch,
    k.safe, k.queue, k.time⟩
/-- A write of PF1 BAR0 that leaves a latched WD_F5 as it is. -/
theorem Kept.sec (h : Kept a s) {o : Nat} {w : Word} (ho : a.F5Latched → o = Off.wdF5 → w = s.sg Off.wdF5) :
    Kept a (s.setSg o w) := by
  have k : Kept a { s.setSg o w with sec := s.sec } := h.same rfl rfl rfl rfl rfl rfl rfl rfl rfl rfl
  refine ⟨k.mem, fun m => ⟨(h.regs m).1, tblWf_tblSet _ _ (h.regs m).2.1, (h.regs m).2.2⟩, fun m => ?_, k.safe, k.queue,
    k.time⟩
  by_cases e : o = Off.wdF5
  · subst e; rw [State.sg_setSg_same, ho m rfl, h.latch m]
  · rw [State.sg_setSg_ne _ _ _ _ (Ne.symm e), h.latch m]
theorem kept_setSg (h : Kept a s) {o : Nat} (w) (ho : o ≠ Off.wdF5 := by decide) : Kept a (s.setSg o w) :=
  h.sec fun _ e => absurd e ho
/-- A change of a register by the part, with its mark (R4). -/
theorem kept_change (h : Kept a s) (o f) : Kept a (s.change o f) :=
  (kept_setRg h o (f (s.rg o))).same rfl rfl rfl rfl rfl rfl rfl rfl rfl rfl
theorem kept_changeWg (h : Kept a s) (o f) : Kept a (s.changeWg o f) :=
  (kept_setWg h o (f (s.wg o))).same rfl rfl rfl rfl rfl rfl rfl rfl rfl rfl
theorem kept_changeSg (h : Kept a s) {o : Nat} (f) (ho : o ≠ Off.wdF5 := by decide) : Kept a (s.changeSg o f) :=
  (kept_setSg h (f (s.sg o)) ho).same rfl rfl rfl rfl rfl rfl rfl rfl rfl rfl
theorem kept_setRf (h : Kept a s) (o lo len v) : Kept a (s.setRf o lo len v) := kept_change h _ _
theorem kept_setRb (h : Kept a s) (o i b) : Kept a (s.setRb o i b) := kept_change h _ _
theorem kept_count (h : Kept a s) (o lo len n) : Kept a (s.count o lo len n) := kept_change h _ _
theorem kept_setSq (h : Kept a s) (x v) : Kept a (s.setSq x v) := h.same rfl rfl rfl rfl rfl rfl rfl rfl rfl rfl
theorem kept_setCl (h : Kept a s) (x v) : Kept a (s.setCl x v) := h.same rfl rfl rfl rfl rfl rfl rfl rfl rfl rfl
theorem kept_setCh (h : Kept a s) (x v) : Kept a (s.setCh x v) := h.same rfl rfl rfl rfl rfl rfl rfl rfl rfl rfl
theorem kept_setSt (h : Kept a s) (x v) : Kept a (s.setSt x v) := h.same rfl rfl rfl rfl rfl rfl rfl rfl rfl rfl
theorem kept_setRl (h : Kept a s) (x v) : Kept a (s.setRl x v) := h.same rfl rfl rfl rfl rfl rfl rfl rfl rfl rfl
theorem kept_setKz (h : Kept a s) (x v) : Kept a (s.setKz x v) := h.same rfl rfl rfl rfl rfl rfl rfl rfl rfl rfl
theorem kept_setTu (h : Kept a s) (x v) : Kept a (s.setTu x v) := h.same rfl rfl rfl rfl rfl rfl rfl rfl rfl rfl
theorem kept_setWv (h : Kept a s) (x v) : Kept a (s.setWv x v) := h.same rfl rfl rfl rfl rfl rfl rfl rfl rfl rfl
theorem kept_fresh (h : Kept a s) : Kept a s.fresh := h.same rfl rfl rfl rfl rfl rfl rfl rfl rfl rfl

/-! ### Vector memory -/

theorem MemSt.wf_setByte {m : MemSt} (x : Nat) (b : Byte) (h : m.wf = true) : (m.setByte x b).wf = true :=
  tblWf_tblSet x b h

theorem MemSt.wf_putRow {m : MemSt} (r : Nat) (w : Row) (be : BitVec 8) (h : m.wf = true) :
    (m.putRow r w be).wf = true := by
  unfold MemSt.putRow
  generalize List.range 8 = l
  induction l generalizing m with
  | nil => exact h
  | cons i l ih =>
    simp only [List.foldl_cons]
    split
    · exact ih (wf_setByte _ _ h)
    · exact ih h

/-- What the canonical form rests on: the bytes, the patterns and the place of the explicit fill. -/
theorem MemSt.wf_same {m n : MemSt} (h : m.wf = true) (e1 : n.cells = m.cells) (e2 : n.pat = m.pat) (e3 : n.cur = m.cur)
    (e4 : n.pos = m.pos) (e5 : n.curPat = m.curPat) : n.wf = true := by
  have : n.dflt = m.dflt := by funext a; simp only [MemSt.dflt, MemSt.passed, e2, e3, e4, e5]; rfl
  simpa only [MemSt.wf, this, e1] using h

/-- Where the explicit fill has passed nothing, the patterns of the regions alone count. -/
theorem MemSt.wf_idle {m n : MemSt} (h : m.wf = true) (hm : ∀ a, m.passed a = false) (hn : ∀ a, n.passed a = false)
    (e1 : n.cells = m.cells) (e2 : n.pat = m.pat) : n.wf = true := by
  have : n.dflt = m.dflt := by funext a; simp [MemSt.dflt, hm, hn, e2]
  simpa only [MemSt.wf, this, e1] using h

theorem MemSt.passed_none {m : MemSt} (h : m.cur = none) (a : Nat) : m.passed a = false := by simp [MemSt.passed, h]
theorem MemSt.passed_implicit {m : MemSt} {g : Nat} (h : m.cur = some (g, false)) (a : Nat) : m.passed a = false := by
  simp [MemSt.passed, h]
theorem MemSt.passed_start {m : MemSt} (h : m.pos = 0) (a : Nat) : m.passed a = false := by
  unfold MemSt.passed; split <;> simp [h]

/-- Cells that a filter keeps, under another default that agrees with the old one on them. -/
theorem tblWf_filter_under {d d' : Nat → Byte} {l : List Host.Cell} (f : Host.Cell → Bool) (h : tblWf d l = true)
    (e : ∀ c ∈ l, f c = true → d' c.1 = d c.1) : tblWf d' (l.filter f) = true := by
  simp only [tblWf, Bool.and_eq_true, tblLean_iff] at h ⊢
  refine ⟨tblRising_filter _ h.1, fun c hc => ?_⟩
  have hm := List.mem_filter.1 hc
  rw [e c hm.1 hm.2]
  exact h.2 c hm.1

theorem MemSt.wf_fillTo {m : MemSt} (g l : Nat) (hc : m.cur = some (g, true)) (h : m.wf = true) :
    (m.fillTo g l).wf = true := by
  refine tblWf_filter_under _ h fun c _ hf => ?_
  simp only [MemSt.ahead, Bool.not_eq_true', decide_eq_false_iff_not] at hf
  have : (m.fillTo g l).passed c.1 = m.passed c.1 := by
    simp only [MemSt.passed, MemSt.fillTo, hc, decide_eq_decide]
    constructor <;> rintro ⟨a, b⟩ <;> exact ⟨a, by omega⟩
  simp only [MemSt.dflt, this]
  rfl

theorem MemSt.wf_fillRegion {m : MemSt} (g : Nat) (hc : m.cur = some (g, true)) (h : m.wf = true) :
    (m.fillRegion g).wf = true := by
  refine tblWf_filter_under _ h fun c _ hf => ?_
  simp only [MemSt.ahead, Bool.not_eq_true', decide_eq_false_iff_not] at hf
  have hl : lineOf c.1 < 16384 := by unfold lineOf; omega
  simp only [MemSt.dflt, MemSt.passed, MemSt.fillRegion, MemSt.fillTo, hc]
  by_cases e : regionOf c.1 = g
  · have : lineOf c.1 < m.pos := by omega
    simp [e, this]
  · simp [e, tblGet_set_ne _ _ _ e]

theorem MemSt.wf_initRegion {m : MemSt} (g : Nat) (h : m.wf = true) : (m.initRegion g).wf = true := h

end Sys2Proof.Machine
end

