-- ==== Sys2Proof/Laws/KeptBase.lean ====
section
/-!
SUPPORT. Kept by memory, records, capture, channels, rails, register images, TIU, pots and wave engines.
-/
set_option linter.unusedTactic false
set_option linter.unreachableTactic false
namespace Sys2Proof.Machine

open Sys2Proof

variable {a s : State}

/-! Machine/Ops.lean -/

theorem kept_regBack (h : Kept a s)  : Kept a (State.regBack s) := by
  unfold State.regBack
  repeat' first
    | with_reducible assumption | intro x | with_reducible apply kept_setRg | with_reducible apply Kept.foldl

theorem kept_inject (h : Kept a s) (y1) (y2) (y3) : Kept a (State.inject s y1 y2 y3) := by
  unfold State.inject
  repeat' first
    | with_reducible assumption | (intro x; subst x)
    | (beta_reduce; lift_lets; intro x; refine Kept.cut (a := a) (x := x) ?_ ?_ <;> [subst x; (clear_value x; intro hx)])
    | with_reducible apply kept_regBack | (refine Kept.mkMem ?_ rfl (fun m => m) rfl rfl rfl rfl rfl rfl rfl rfl)

theorem kept_pulse (h : Kept a s) (y1) (y2) : Kept a (State.pulse s y1 y2) := by
  unfold State.pulse
  repeat' first
    | with_reducible assumption
    | (beta_reduce; lift_lets; intro x; refine Kept.cut (a := a) (x := x) ?_ ?_ <;> [subst x; (clear_value x; intro hx)])
    | with_reducible apply kept_inject | (beta_reduce; split)
    | (refine Kept.mkMem ?_ rfl (fun m => m) rfl rfl rfl rfl rfl rfl rfl rfl)

theorem kept_fire (h : Kept a s) (y1) : Kept a (State.fire s y1) := by
  unfold State.fire
  repeat' first | with_reducible assumption | with_reducible apply kept_pulse

theorem kept_msix (h : Kept a s) (y1) (y2) : Kept a (State.msix s y1 y2) := by
  unfold State.msix
  repeat' first
    | with_reducible assumption | (intro x; subst x) | (beta_reduce; lift_lets; intro x) | (beta_reduce; split)
    | (refine Kept.mkMem ?_ rfl (fun m => m) rfl rfl rfl rfl rfl rfl rfl rfl)

theorem kept_irq (h : Kept a s) (y1) : Kept a (State.irq s y1) := by
  unfold State.irq
  repeat' first
    | with_reducible assumption | (beta_reduce; lift_lets; intro x) | with_reducible apply kept_msix
    | (beta_reduce; split)

theorem kept_pirq (h : Kept a s) (y1) : Kept a (State.pirq s y1) := by
  unfold State.pirq
  repeat' first
    | with_reducible assumption | (beta_reduce; lift_lets; intro x) | with_reducible apply kept_msix
    | (beta_reduce; split)

theorem kept_hist (h : Kept a s) (y1) (y2) : Kept a (State.hist s y1 y2) := by
  unfold State.hist
  repeat' first
    | with_reducible assumption | (intro x; subst x)
    | (beta_reduce; lift_lets; intro x; refine Kept.cut (a := a) (x := x) ?_ ?_ <;> [subst x; (clear_value x; intro hx)])
    | with_reducible apply kept_count | with_reducible apply kept_irq | with_reducible apply kept_pirq
    | with_reducible apply kept_changeWg | (beta_reduce; split)
    | (refine Kept.mkMem ?_ rfl (fun m => m) rfl rfl rfl rfl rfl rfl rfl rfl)

theorem kept_notice (h : Kept a s) (y1) (y2) (y3) (y4) : Kept a (State.notice s y1 y2 y3 y4) := by
  unfold State.notice
  repeat' first
    | with_reducible assumption | with_reducible apply kept_count | with_reducible apply kept_setRb
    | with_reducible apply kept_hist

theorem kept_correctable (h : Kept a s) (y1) (y2) (y3) : Kept a (State.correctable s y1 y2 y3) := by
  unfold State.correctable
  repeat' first
    | with_reducible assumption | with_reducible apply kept_count | with_reducible apply kept_setRb
    | with_reducible apply kept_hist

theorem kept_noticeCl (h : Kept a s) (y1) (y2) (y3) : Kept a (State.noticeCl s y1 y2 y3) := by
  unfold State.noticeCl
  repeat' first | with_reducible assumption | with_reducible apply kept_notice

theorem kept_noticeAt (h : Kept a s) (y1) (y2) : Kept a (State.noticeAt s y1 y2) := by
  unfold State.noticeAt
  repeat' first | with_reducible assumption | with_reducible apply kept_notice

theorem kept_putBehind (h : Kept a s) (y1) : Kept a (State.putBehind s y1) := by
  unfold State.putBehind
  repeat' first | with_reducible assumption | (refine Kept.mkMem ?_ rfl (fun m => m) rfl rfl rfl rfl rfl rfl rfl rfl)

theorem kept_contEnd (h : Kept a s)  : Kept a (State.contEnd s) := by
  unfold State.contEnd
  repeat' first | with_reducible assumption | with_reducible apply kept_setRb

theorem kept_regNote (h : Kept a s) (y1) : Kept a (State.regNote s y1) := by
  unfold State.regNote
  repeat' first
    | with_reducible assumption | (beta_reduce; split)
    | (refine Kept.mkMem ?_ rfl (fun m => m) rfl rfl rfl rfl rfl rfl rfl rfl)

theorem kept_enter (h : Kept a s)  : Kept a (State.enter s) := by
  unfold State.enter
  repeat' first
    | with_reducible assumption | intro x | (beta_reduce; lift_lets; intro x) | with_reducible apply kept_inject
    | with_reducible apply Kept.foldl | (refine Kept.mkMem ?_ rfl (fun m => m) rfl rfl rfl rfl rfl rfl rfl rfl)

/-! Machine/Memory.lean -/

theorem kept_fillBegin (h : Kept a s) (hc : s.mem.cur = none) (g e) : Kept a (State.fillBegin s g e) :=
  h.mem' (fun m => MemSt.wf_idle m (MemSt.passed_none hc) (MemSt.passed_start rfl) rfl rfl) rfl rfl rfl rfl rfl rfl rfl rfl rfl

theorem kept_fillNext (h : Kept a s) : Kept a (State.fillNext s) := by
  unfold State.fillNext
  split
  · exact h
  · next hc =>
    have hc : s.mem.cur = none := by simpa using hc
    split
    · exact kept_fillBegin h hc _ _
    · exact kept_fillBegin (kept_setRf h _ _ _ _) hc _ _
    · exact h

theorem kept_markLine (h : Kept a s) (r) : Kept a (State.markLine s r) := by
  unfold State.markLine
  dsimp only
  split
  · exact h
  split
  · exact h.mem' (fun m => MemSt.wf_same m rfl rfl rfl rfl rfl) rfl rfl rfl rfl rfl rfl rfl rfl rfl
  · exact kept_fillNext (h.mem' (fun m => MemSt.wf_same m rfl rfl rfl rfl rfl) rfl rfl rfl rfl rfl rfl rfl rfl rfl)

theorem kept_uncorrected (h : Kept a s) (y1) (y2) : Kept a (State.uncorrected s y1 y2) := by
  unfold State.uncorrected
  repeat' first | with_reducible assumption | with_reducible apply kept_count | with_reducible apply kept_setRg

theorem kept_corrected (h : Kept a s) (y1) (y2) : Kept a (State.corrected s y1 y2) := by
  unfold State.corrected
  repeat' first
    | with_reducible assumption
    | (intro x; refine Kept.cut (a := a) (x := x) ?_ ?_ <;> [subst x; (clear_value x; intro hx)])
    | (intro x; subst x) | (beta_reduce; lift_lets; intro x) | with_reducible apply kept_count
    | with_reducible apply kept_setRg | with_reducible apply kept_setRf | with_reducible apply kept_setRb
    | with_reducible apply kept_correctable | (beta_reduce; split)
    | (refine Kept.mkMem ?_ rfl (fun m => m) rfl rfl rfl rfl rfl rfl rfl rfl)

theorem kept_storeRow (h : Kept a s) (y1) (y2) : Kept a (State.storeRow s y1 y2) := by
  unfold State.storeRow
  repeat' first
    | with_reducible assumption | (intro x; subst x)
    | (beta_reduce; lift_lets; intro x; refine Kept.cut (a := a) (x := x) ?_ ?_ <;> [subst x; (clear_value x; intro hx)])
    | with_reducible apply kept_markLine
    | (refine Kept.mkMem ?_ rfl (MemSt.wf_putRow _ _ _) rfl rfl rfl rfl rfl rfl rfl rfl)

theorem kept_storeBytes (h : Kept a s) (y1) (y2) : Kept a (State.storeBytes s y1 y2) := by
  fun_induction State.storeBytes s y1 y2 with
  | case1 s b b0 b1 b2 b3 b4 b5 b6 b7 t ih => exact ih (kept_storeRow h _ _)
  | case2 => exact h

theorem kept_poison (h : Kept a s) (y1) : Kept a (State.poison s y1) := by
  unfold State.poison
  repeat' first
    | with_reducible assumption | (beta_reduce; lift_lets; intro x)
    | (refine Kept.mkMem ?_ rfl (fun m => m) rfl rfl rfl rfl rfl rfl rfl rfl)

theorem kept_rowSeen (h : Kept a s) (y1) (y2) : Kept a (State.rowSeen s y1 y2) := by
  unfold State.rowSeen
  repeat' first
    | with_reducible assumption | (beta_reduce; lift_lets; intro x) | with_reducible apply kept_count
    | with_reducible apply kept_poison | with_reducible apply kept_uncorrected | with_reducible apply kept_corrected
    | (beta_reduce; split)

theorem kept_writeRow (h : Kept a s) (y1) (y2) (y3) (y4) : Kept a (State.writeRow s y1 y2 y3 y4) := by
  unfold State.writeRow
  repeat' first
    | with_reducible assumption
    | (intro x; refine Kept.cut (a := a) (x := x) ?_ ?_ <;> [subst x; (clear_value x; intro hx)])
    | (intro x; subst x) | (beta_reduce; lift_lets; intro x) | with_reducible apply kept_count
    | with_reducible apply kept_poison | with_reducible apply kept_uncorrected | with_reducible apply kept_corrected
    | with_reducible apply kept_markLine | (beta_reduce; split)
    | (refine Kept.mkMem ?_ rfl (MemSt.wf_putRow _ _ _) rfl rfl rfl rfl rfl rfl rfl rfl)

theorem kept_fillTick (h : Kept a s) : Kept a (State.fillTick s) := by
  unfold State.fillTick
  split
  · exact h
  · next g e hc =>
    apply kept_fresh
    refine h.mem' (fun m => ?_) rfl rfl rfl rfl rfl rfl rfl rfl rfl
    cases e
    · exact MemSt.wf_idle m (MemSt.passed_implicit hc) (MemSt.passed_implicit hc) rfl rfl
    · exact MemSt.wf_fillTo _ _ hc m

theorem kept_rowsSeen (h : Kept a s) (y1) : Kept a (State.rowsSeen s y1) := by
  unfold State.rowsSeen
  repeat' first
    | with_reducible assumption | intro x | with_reducible apply kept_rowSeen | with_reducible apply Kept.foldl

theorem kept_fillDone (h : Kept a s) : Kept a (State.fillDone s) := by
  unfold State.fillDone
  split
  · exact h
  · next g hc =>
    refine kept_fillNext (h.mem' (fun m => ?_) rfl rfl rfl rfl rfl rfl rfl rfl rfl)
    exact MemSt.wf_idle m (MemSt.passed_implicit hc) (MemSt.passed_none rfl) rfl rfl
  · next g hc =>
    have w (m : s.mem.wf = true) : ((s.mem.fillRegion g).initRegion g).wf = true := MemSt.wf_fillRegion g hc m
    have k (f) : Kept a { s with mem := { (s.mem.fillRegion g).initRegion g with fill := f } } :=
      h.mem' (fun m => MemSt.wf_same (w m) rfl rfl rfl rfl rfl) rfl rfl rfl rfl rfl rfl rfl rfl rfl
    dsimp only
    split
    · split
      · exact kept_fillNext (k _)
      · exact kept_fillNext (kept_setRf (k _) _ _ _ _)
    · exact kept_fillNext (h.mem' w rfl rfl rfl rfl rfl rfl rfl rfl rfl)

theorem kept_freshBy (h : Kept a s) (y1) : Kept a (State.freshBy s y1) := by
  unfold State.freshBy
  repeat' first | with_reducible assumption | (refine Kept.mkMem ?_ rfl (fun m => m) rfl rfl rfl rfl rfl rfl rfl rfl)

/-! Machine/Record.lean -/

theorem kept_qmCount (h : Kept a s) (y1) (y2) (y3) : Kept a (State.qmCount s y1 y2 y3) := by
  unfold State.qmCount
  repeat' first | with_reducible assumption | with_reducible apply kept_irq | with_reducible apply kept_count

theorem kept_setQWord (h : Kept a s) (y1) (y2) (y3) : Kept a (State.setQWord s y1 y2 y3) := by
  unfold State.setQWord
  repeat' first
    | with_reducible assumption
    | (intro x; refine Kept.cut (a := a) (x := x) ?_ ?_ <;> [subst x; (clear_value x; intro hx)])
    | (beta_reduce; lift_lets; intro x) | with_reducible apply kept_markLine | (beta_reduce; split)
    | (refine Kept.mkMem ?_ rfl (MemSt.wf_putRow _ _ _) rfl rfl rfl rfl rfl rfl rfl rfl)

theorem kept_produce (h : Kept a s) (y1) : Kept a (State.produce s y1) := by
  unfold State.produce
  repeat' first | with_reducible assumption | (beta_reduce; lift_lets; intro x) | with_reducible apply kept_setCl

theorem kept_setQIdx (h : Kept a s) (y1) (y2) (y3) : Kept a (State.setQIdx s y1 y2 y3) := by
  unfold State.setQIdx
  repeat' first | with_reducible assumption | with_reducible apply kept_setQWord

theorem kept_holdStat (h : Kept a s)  : Kept a (State.holdStat s) := by
  unfold State.holdStat
  repeat' first | with_reducible assumption | with_reducible apply kept_setRb | with_reducible apply kept_setRf

theorem kept_holdPut (h : Kept a s) (y1) : Kept a (State.holdPut s y1) := by
  unfold State.holdPut
  repeat' first
    | with_reducible assumption
    | (intro x; refine Kept.cut (a := a) (x := x) ?_ ?_ <;> [subst x; (clear_value x; intro hx)])
    | (intro x; subst x) | intro x | (beta_reduce; lift_lets; intro x) | with_reducible apply kept_storeBytes
    | with_reducible apply Kept.foldl | (refine Kept.mkMem ?_ rfl (fun m => m) rfl rfl rfl rfl rfl rfl rfl rfl)

theorem kept_ringWrite (h : Kept a s) (y1) (y2) (y3) : Kept a (State.ringWrite s y1 y2 y3) := by
  unfold State.ringWrite
  repeat' first
    | with_reducible assumption | intro x | with_reducible apply kept_storeBytes | with_reducible apply Kept.foldl

theorem kept_place (h : Kept a s) (y1) (y2) (y3) : Kept a (State.place s y1 y2 y3) := by
  unfold State.place
  repeat' first
    | with_reducible assumption
    | (intro x; refine Kept.cut (a := a) (x := x) ?_ ?_ <;> [subst x; (clear_value x; intro hx)])
    | (intro x; subst x) | (beta_reduce; lift_lets; intro x) | with_reducible apply kept_setQIdx
    | with_reducible apply kept_ringWrite | (refine Kept.mkMem ?_ rfl (fun m => m) rfl rfl rfl rfl rfl rfl rfl rfl)

theorem kept_sealRec (h : Kept a s) (y1) : Kept a (State.sealRec s y1) := by
  unfold State.sealRec
  repeat' first
    | with_reducible assumption | (intro x; subst x) | (beta_reduce; lift_lets; intro x)
    | (refine Kept.mkMem ?_ rfl (MemSt.wf_putRow _ _ _) rfl rfl rfl rfl rfl rfl rfl rfl)

theorem kept_dmaQueue (h : Kept a s) (y1) : Kept a (State.dmaQueue s y1) := by
  unfold State.dmaQueue
  repeat' first
    | with_reducible assumption | (intro x; subst x) | (beta_reduce; lift_lets; intro x) | (beta_reduce; split)
    | (refine Kept.mkMem ?_ rfl (fun m => m) rfl rfl rfl rfl rfl rfl rfl rfl)

theorem kept_commitQueue (h : Kept a s) (y1) : Kept a (State.commitQueue s y1) := by
  unfold State.commitQueue
  repeat' first
    | with_reducible assumption
    | (intro x; refine Kept.cut (a := a) (x := x) ?_ ?_ <;> [subst x; (clear_value x; intro hx)])
    | (intro x; subst x) | intro x | (beta_reduce; lift_lets; intro x) | with_reducible apply kept_sealRec
    | with_reducible apply kept_setQIdx | with_reducible apply kept_dmaQueue | with_reducible apply kept_msix
    | with_reducible apply Kept.foldl | (beta_reduce; split)
    | (refine Kept.mkMem ?_ rfl (fun m => m) rfl rfl rfl rfl rfl rfl rfl rfl)

theorem kept_fenceRecs (h : Kept a s) (y1) : Kept a (State.fenceRecs s y1) := by
  unfold State.fenceRecs
  repeat' first
    | with_reducible assumption
    | (intro x; refine Kept.cut (a := a) (x := x) ?_ ?_ <;> [subst x; (clear_value x; intro hx)]) | intro x
    | (beta_reduce; lift_lets; intro x) | with_reducible apply kept_each | with_reducible apply kept_setCl
    | with_reducible apply kept_setTu | with_reducible apply kept_setSq | (beta_reduce; split)
    | (refine Kept.mkMem ?_ rfl (fun m => m) rfl rfl rfl rfl rfl rfl rfl rfl)

theorem kept_flagCl (h : Kept a s) (y1) (y2) (y3) : Kept a (State.flagCl s y1 y2 y3) := by
  unfold State.flagCl
  repeat' first | with_reducible assumption | (beta_reduce; lift_lets; intro x) | with_reducible apply kept_setCl

theorem kept_flagSite (h : Kept a s) (y1) (y2) (y3) : Kept a (State.flagSite s y1 y2 y3) := by
  unfold State.flagSite
  repeat' first
    | with_reducible assumption | (beta_reduce; lift_lets; intro x)
    | (refine Kept.mkMem ?_ rfl (fun m => m) rfl rfl rfl rfl rfl rfl rfl rfl)

theorem kept_flagAll (h : Kept a s) (y1) (y2) : Kept a (State.flagAll s y1 y2) := by
  unfold State.flagAll
  repeat' first
    | with_reducible assumption | (beta_reduce; lift_lets; intro x)
    | (refine Kept.mkMem ?_ rfl (fun m => m) rfl rfl rfl rfl rfl rfl rfl rfl)

theorem kept_commitAll (h : Kept a s)  : Kept a (State.commitAll s) := by
  unfold State.commitAll
  repeat' first
    | with_reducible assumption | intro x | with_reducible apply kept_each | with_reducible apply kept_commitQueue

/-! Machine/Capture.lean -/

theorem kept_setCap (h : Kept a s) (y1) (y2) : Kept a (State.setCap s y1 y2) := by
  unfold State.setCap
  repeat' first | with_reducible assumption | (beta_reduce; lift_lets; intro x) | with_reducible apply kept_setCl

theorem kept_govSplit (h : Kept a s) (y1) : Kept a (State.govSplit s y1) := by
  unfold State.govSplit
  repeat' first
    | with_reducible assumption | (intro x; subst x) | (beta_reduce; lift_lets; intro x)
    | with_reducible apply kept_setCap

theorem kept_govRise (h : Kept a s) (y1) : Kept a (State.govRise s y1) := by
  unfold State.govRise
  repeat' first
    | with_reducible assumption
    | (intro x; refine Kept.cut (a := a) (x := x) ?_ ?_ <;> [subst x; (clear_value x; intro hx)])
    | (intro x; subst x) | (beta_reduce; lift_lets; intro x) | with_reducible apply kept_setCap
    | with_reducible apply kept_fire | with_reducible apply kept_govSplit | with_reducible apply kept_count
    | with_reducible apply kept_setRf | with_reducible apply kept_setRb | (beta_reduce; split)

theorem kept_capTouch (h : Kept a s) (y1) : Kept a (State.capTouch s y1) := by
  unfold State.capTouch
  repeat' first
    | with_reducible assumption
    | (intro x; refine Kept.cut (a := a) (x := x) ?_ ?_ <;> [subst x; (clear_value x; intro hx)])
    | (intro x; subst x) | (beta_reduce; lift_lets; intro x) | with_reducible apply kept_setCap
    | with_reducible apply kept_change | with_reducible apply kept_setRf | with_reducible apply kept_setRb
    | with_reducible apply kept_govRise | (beta_reduce; split)

theorem kept_capSwap (h : Kept a s) (y1) : Kept a (State.capSwap s y1) := by
  unfold State.capSwap
  repeat' first | with_reducible assumption | (beta_reduce; lift_lets; intro x) | with_reducible apply kept_setCap

theorem kept_closePiece (h : Kept a s) (y1) (y2) (y3) (y4) : Kept a (State.closePiece s y1 y2 y3 y4) := by
  unfold State.closePiece
  repeat' first
    | with_reducible assumption | (intro x; subst x) | (beta_reduce; lift_lets; intro x)
    | with_reducible apply kept_capTouch | with_reducible apply kept_setCap | with_reducible apply kept_produce
    | (beta_reduce; split)

theorem kept_closeOld (h : Kept a s) (y1) (y2) (y3) : Kept a (State.closeOld s y1 y2 y3) := by
  unfold State.closeOld
  repeat' first
    | with_reducible assumption | with_reducible apply kept_capSwap | with_reducible apply kept_closePiece
    | (beta_reduce; split)

theorem kept_capSteepEnd (h : Kept a s) (y1) : Kept a (State.capSteepEnd s y1) := by
  unfold State.capSteepEnd
  repeat' first
    | with_reducible assumption
    | (beta_reduce; lift_lets; intro x; refine Kept.cut (a := a) (x := x) ?_ ?_ <;> [subst x; (clear_value x; intro hx)])
    | with_reducible apply kept_closeOld | with_reducible apply kept_closePiece | (beta_reduce; split)

theorem kept_setCapState (h : Kept a s) (y1) (y2) (y3) : Kept a (State.setCapState s y1 y2 y3) := by
  unfold State.setCapState
  repeat' first | with_reducible assumption | with_reducible apply kept_setRf

theorem kept_closeSegment (h : Kept a s) (y1) (y2) (y3) (y4) : Kept a (State.closeSegment s y1 y2 y3 y4) := by
  unfold State.closeSegment
  repeat' first
    | with_reducible assumption
    | (intro x; refine Kept.cut (a := a) (x := x) ?_ ?_ <;> [subst x; (clear_value x; intro hx)])
    | (intro x; subst x) | (beta_reduce; lift_lets; intro x) | with_reducible apply kept_fire
    | with_reducible apply kept_closePiece | with_reducible apply kept_closeOld | with_reducible apply kept_setRb
    | with_reducible apply kept_setCapState | with_reducible apply kept_setCap | with_reducible apply kept_setRf
    | (beta_reduce; split)

theorem kept_segLast (h : Kept a s) (y1) (y2) : Kept a (State.segLast s y1 y2) := by
  unfold State.segLast
  repeat' first | with_reducible assumption | with_reducible apply kept_setRf | (beta_reduce; split)

theorem kept_capDisarm (h : Kept a s) (y1) (y2) (y3) : Kept a (State.capDisarm s y1 y2 y3) := by
  unfold State.capDisarm
  repeat' first
    | with_reducible assumption | (intro x; subst x)
    | (beta_reduce; lift_lets; intro x; refine Kept.cut (a := a) (x := x) ?_ ?_ <;> [subst x; (clear_value x; intro hx)])
    | with_reducible apply kept_closeSegment | with_reducible apply kept_setCapState
    | with_reducible apply kept_segLast | with_reducible apply kept_setCap | (beta_reduce; split)

theorem kept_pieceGap (h : Kept a s) (y1) (y2) (y3) : Kept a (State.pieceGap s y1 y2 y3) := by
  unfold State.pieceGap
  repeat' first
    | with_reducible assumption | (intro x; subst x) | (beta_reduce; lift_lets; intro x)
    | with_reducible apply kept_setCap

theorem kept_gapEnd (h : Kept a s) (y1) (y2) : Kept a (State.gapEnd s y1 y2) := by
  unfold State.gapEnd
  repeat' first
    | with_reducible assumption
    | (intro x; refine Kept.cut (a := a) (x := x) ?_ ?_ <;> [subst x; (clear_value x; intro hx)])
    | (beta_reduce; lift_lets; intro x) | with_reducible apply kept_setCl | with_reducible apply kept_pieceGap
    | with_reducible apply kept_count | (beta_reduce; split)

theorem kept_capTrigger (h : Kept a s) (y1) (y2) (y3) (y4) : Kept a (State.capTrigger s y1 y2 y3 y4) := by
  unfold State.capTrigger
  repeat' first
    | with_reducible assumption | intro x | (beta_reduce; lift_lets; intro x) | with_reducible apply kept_setCap
    | with_reducible apply kept_count | with_reducible apply Kept.foldl | (beta_reduce; split)

theorem kept_capTriggerAll (h : Kept a s) (y1) (y2) (y3) : Kept a (State.capTriggerAll s y1 y2 y3) := by
  unfold State.capTriggerAll
  repeat' first
    | with_reducible assumption | intro x | with_reducible apply kept_each | with_reducible apply kept_capTrigger

theorem kept_mapPieces (h : Kept a s) (y1) (y2) : Kept a (State.mapPieces s y1 y2) := by
  unfold State.mapPieces
  repeat' first | with_reducible assumption | (beta_reduce; lift_lets; intro x) | with_reducible apply kept_setCap

theorem kept_uncutPieces (h : Kept a s) (y1) (y2) : Kept a (State.uncutPieces s y1 y2) := by
  unfold State.uncutPieces
  repeat' first | with_reducible assumption | with_reducible apply kept_capTouch | with_reducible apply kept_mapPieces

theorem kept_fencePieces (h : Kept a s) (y1) (y2) : Kept a (State.fencePieces s y1 y2) := by
  unfold State.fencePieces
  repeat' first
    | with_reducible assumption | (intro x; subst x) | (beta_reduce; lift_lets; intro x)
    | with_reducible apply kept_setCap

theorem kept_dropPieces (h : Kept a s) (y1) (y2) : Kept a (State.dropPieces s y1 y2) := by
  unfold State.dropPieces
  repeat' first | with_reducible assumption | with_reducible apply kept_capTouch | with_reducible apply kept_mapPieces

theorem kept_openPiece (h : Kept a s) (y1) (y2) (y3) (y4) (y5) (y6) (y7) (y8) : Kept a (State.openPiece s y1 y2 y3 y4 y5 y6 y7 y8) := by
  unfold State.openPiece
  repeat' first
    | with_reducible assumption | (intro x; subst x) | (beta_reduce; lift_lets; intro x)
    | with_reducible apply kept_setCap | (beta_reduce; split)

theorem kept_capArmedNow (h : Kept a s) (y1) (y2) : Kept a (State.capArmedNow s y1 y2) := by
  unfold State.capArmedNow
  repeat' first
    | with_reducible assumption
    | (beta_reduce; lift_lets; intro x; refine Kept.cut (a := a) (x := x) ?_ ?_ <;> [subst x; (clear_value x; intro hx)])
    | with_reducible apply kept_setCapState | with_reducible apply kept_capTrigger | (beta_reduce; split)

/-! Machine/Channel.lean -/

theorem kept_measResult (h : Kept a s) (y1) (y2) (y3) : Kept a (State.measResult s y1 y2 y3) := by
  unfold State.measResult
  repeat' first
    | with_reducible assumption | (beta_reduce; lift_lets; intro x) | with_reducible apply kept_setSq
    | (beta_reduce; split)

theorem kept_setAdc (h : Kept a s) (y1) (y2) (y3) : Kept a (State.setAdc s y1 y2 y3) := by
  unfold State.setAdc
  repeat' first | with_reducible assumption | (beta_reduce; lift_lets; intro x) | with_reducible apply kept_setCl

theorem kept_adcStart (h : Kept a s) (y1) (y2) (y3) : Kept a (State.adcStart s y1 y2 y3) := by
  revert h
  fun_induction State.adcStart s y1 y2 y3 <;> intro h
  all_goals
    repeat' first
      | with_reducible assumption | with_reducible apply kept_measResult | with_reducible apply kept_setAdc
      | with_reducible apply_assumption

theorem kept_adcPark (h : Kept a s) (y1) : Kept a (State.adcPark s y1) := by
  unfold State.adcPark
  repeat' first
    | with_reducible assumption | (intro x; subst x) | (beta_reduce; lift_lets; intro x)
    | with_reducible apply kept_capSteepEnd | with_reducible apply kept_adcStart
    | with_reducible apply kept_measResult | with_reducible apply kept_setAdc | (beta_reduce; split)

theorem kept_setPmu (h : Kept a s) (y1) (y2) (y3) (y4) : Kept a (State.setPmu s y1 y2 y3 y4) := by
  unfold State.setPmu
  repeat' first | with_reducible assumption | with_reducible apply kept_setRg

theorem kept_bgPark (h : Kept a s) (y1) : Kept a (State.bgPark s y1) := by
  unfold State.bgPark
  repeat' first
    | with_reducible assumption | (beta_reduce; lift_lets; intro x) | with_reducible apply kept_setCl
    | (beta_reduce; split)

theorem kept_parkChan (h : Kept a s) (y1) : Kept a (State.parkChan s y1) := by
  unfold State.parkChan
  repeat' first
    | with_reducible assumption
    | (intro x; refine Kept.cut (a := a) (x := x) ?_ ?_ <;> [subst x; (clear_value x; intro hx)])
    | (beta_reduce; lift_lets; intro x) | with_reducible apply kept_setCh | with_reducible apply kept_setRb
    | with_reducible apply kept_adcPark | with_reducible apply kept_setRf | with_reducible apply kept_setPmu
    | with_reducible apply kept_bgPark | (beta_reduce; split)

theorem kept_dropFifo (h : Kept a s) (y1) : Kept a (State.dropFifo s y1) := by
  unfold State.dropFifo
  repeat' first
    | with_reducible assumption | (intro x; subst x)
    | (beta_reduce; lift_lets; intro x; refine Kept.cut (a := a) (x := x) ?_ ?_ <;> [subst x; (clear_value x; intro hx)])
    | with_reducible apply kept_gapEnd | with_reducible apply kept_setCl

theorem kept_dropMeas (h : Kept a s) (y1) : Kept a (State.dropMeas s y1) := by
  unfold State.dropMeas
  repeat' first
    | with_reducible assumption
    | (intro x; refine Kept.cut (a := a) (x := x) ?_ ?_ <;> [subst x; (clear_value x; intro hx)])
    | (intro x; subst x) | (beta_reduce; lift_lets; intro x) | with_reducible apply kept_setSq
    | with_reducible apply kept_setCl

theorem kept_haltSeq (h : Kept a s) (y1) : Kept a (State.haltSeq s y1) := by
  unfold State.haltSeq
  repeat' first
    | with_reducible assumption
    | (intro x; refine Kept.cut (a := a) (x := x) ?_ ?_ <;> [subst x; (clear_value x; intro hx)])
    | (beta_reduce; lift_lets; intro x) | with_reducible apply kept_setSq | with_reducible apply kept_setRb
    | with_reducible apply kept_dropMeas | with_reducible apply kept_setRf | (beta_reduce; split)

theorem kept_chFlag (h : Kept a s) (y1) (y2) : Kept a (State.chFlag s y1 y2) := by
  unfold State.chFlag
  repeat' first | with_reducible assumption | with_reducible apply kept_setRb

theorem kept_setPmuCode (h : Kept a s) (y1) (y2) : Kept a (State.setPmuCode s y1 y2) := by
  unfold State.setPmuCode
  repeat' first | with_reducible assumption | with_reducible apply kept_setRf

theorem kept_parkRest (h : Kept a s) (y1) (y2) : Kept a (State.parkRest s y1 y2) := by
  unfold State.parkRest
  repeat' first
    | with_reducible assumption
    | (intro x; refine Kept.cut (a := a) (x := x) ?_ ?_ <;> [subst x; (clear_value x; intro hx)])
    | (intro x; subst x) | intro x
    | (beta_reduce; lift_lets; intro x; refine Kept.cut (a := a) (x := x) ?_ ?_ <;> [subst x; (clear_value x; intro hx)])
    | with_reducible apply kept_capDisarm | with_reducible apply kept_dropFifo | with_reducible apply kept_setRb
    | with_reducible apply kept_parkChan | with_reducible apply kept_setCl | with_reducible apply Kept.foldl

theorem kept_parkCluster (h : Kept a s) (y1) (y2) : Kept a (State.parkCluster s y1 y2) := by
  unfold State.parkCluster
  repeat' first | with_reducible assumption | with_reducible apply kept_parkRest | with_reducible apply kept_haltSeq

theorem kept_parkStop (h : Kept a s) (y1) : Kept a (State.parkStop s y1) := by
  unfold State.parkStop
  repeat' first
    | with_reducible assumption | (beta_reduce; lift_lets; intro x) | with_reducible apply kept_haltSeq
    | with_reducible apply kept_setSq | (beta_reduce; split)

theorem kept_setWatch (h : Kept a s) (y1) (y2) (y3) : Kept a (State.setWatch s y1 y2 y3) := by
  unfold State.setWatch
  repeat' first | with_reducible assumption | (beta_reduce; lift_lets; intro x) | with_reducible apply kept_setCh

theorem kept_setUnkAt (h : Kept a s) (y1) (y2) (y3) : Kept a (State.setUnkAt s y1 y2 y3) := by
  unfold State.setUnkAt
  repeat' first
    | with_reducible assumption | (beta_reduce; lift_lets; intro x) | with_reducible apply kept_setCh
    | (beta_reduce; split)

theorem kept_cmpNote (h : Kept a s) (y1) (y2) : Kept a (State.cmpNote s y1 y2) := by
  unfold State.cmpNote
  repeat' first
    | with_reducible assumption | (intro x; subst x) | (beta_reduce; lift_lets; intro x)
    | with_reducible apply kept_setCh

theorem kept_setCmp (h : Kept a s) (y1) (y2) (y3) : Kept a (State.setCmp s y1 y2 y3) := by
  unfold State.setCmp
  repeat' first | with_reducible assumption | with_reducible apply kept_setRf | with_reducible apply kept_cmpNote

theorem kept_cmpBegin (h : Kept a s) (y1) (y2) : Kept a (State.cmpBegin s y1 y2) := by
  unfold State.cmpBegin
  repeat' first
    | with_reducible assumption | (beta_reduce; lift_lets; intro x) | with_reducible apply kept_setUnkAt
    | with_reducible apply kept_setCmp | (beta_reduce; split)

theorem kept_setSide (h : Kept a s) (y1) (y2) (y3) : Kept a (State.setSide s y1 y2 y3) := by
  unfold State.setSide
  repeat' first | with_reducible assumption | (beta_reduce; lift_lets; intro x) | with_reducible apply kept_setCh

/-! Machine/Power.lean -/

theorem kept_roleEnd (h : Kept a s) (y1) : Kept a (State.roleEnd s y1) := by
  unfold State.roleEnd
  repeat' first
    | with_reducible assumption
    | (intro x; refine Kept.cut (a := a) (x := x) ?_ ?_ <;> [subst x; (clear_value x; intro hx)])
    | (beta_reduce; lift_lets; intro x) | with_reducible apply kept_setCh | with_reducible apply kept_setPmu
    | (beta_reduce; split)

theorem kept_powerEnd (h : Kept a s) (y1) : Kept a (State.powerEnd s y1) := by
  unfold State.powerEnd
  repeat' first
    | with_reducible assumption | intro x | with_reducible apply kept_each | with_reducible apply kept_setRb
    | with_reducible apply kept_roleEnd | (beta_reduce; split)

theorem kept_enpend (h : Kept a s) (y1) : Kept a (State.enpend s y1) := by
  unfold State.enpend
  repeat' first | with_reducible assumption | (beta_reduce; lift_lets; intro x) | with_reducible apply kept_setRb

theorem kept_setPst (h : Kept a s) (y1) (y2) : Kept a (State.setPst s y1 y2) := by
  unfold State.setPst
  repeat' first | with_reducible assumption | with_reducible apply kept_setRf

theorem kept_siteNext (h : Kept a s) (y1) : Kept a (State.siteNext s y1) := by
  unfold State.siteNext
  repeat' first | with_reducible assumption | (beta_reduce; lift_lets; intro x) | with_reducible apply kept_setSt

theorem kept_dropB (h : Kept a s) (y1) : Kept a (State.dropB s y1) := by
  unfold State.dropB
  repeat' first
    | with_reducible assumption | (beta_reduce; lift_lets; intro x) | with_reducible apply kept_setRb
    | with_reducible apply kept_setRl

theorem kept_railHold (h : Kept a s) (y1) : Kept a (State.railHold s y1) := by
  unfold State.railHold
  repeat' first | with_reducible assumption | (beta_reduce; lift_lets; intro x) | with_reducible apply kept_setRl

theorem kept_railDisch (h : Kept a s) (y1) : Kept a (State.railDisch s y1) := by
  unfold State.railDisch
  repeat' first
    | with_reducible assumption
    | (intro x; refine Kept.cut (a := a) (x := x) ?_ ?_ <;> [subst x; (clear_value x; intro hx)])
    | (intro x; subst x)
    | (beta_reduce; lift_lets; intro x; refine Kept.cut (a := a) (x := x) ?_ ?_ <;> [subst x; (clear_value x; intro hx)])
    | with_reducible apply kept_dropB | with_reducible apply kept_railHold | with_reducible apply kept_setRl
    | with_reducible apply kept_setRb | with_reducible apply kept_setRf

theorem kept_railDown (h : Kept a s) (y1) : Kept a (State.railDown s y1) := by
  unfold State.railDown
  repeat' first
    | with_reducible assumption
    | (intro x; refine Kept.cut (a := a) (x := x) ?_ ?_ <;> [subst x; (clear_value x; intro hx)])
    | (intro x; subst x) | (beta_reduce; lift_lets; intro x) | with_reducible apply kept_railDisch
    | with_reducible apply kept_railHold | with_reducible apply kept_setRf | with_reducible apply kept_setRl
    | (beta_reduce; split)

theorem kept_downGroups (h : Kept a s) (y1) : Kept a (State.downGroups s y1) := by
  unfold State.downGroups
  repeat' first
    | with_reducible assumption | (intro x; subst x) | intro x | (beta_reduce; lift_lets; intro x)
    | with_reducible apply kept_siteNext | with_reducible apply kept_each | with_reducible apply kept_railDown
    | with_reducible apply Kept.foldl | (beta_reduce; split)

theorem kept_setAuxOut (h : Kept a s) (y1) (y2) : Kept a (State.setAuxOut s y1 y2) := by
  unfold State.setAuxOut
  repeat' first | with_reducible assumption | (refine Kept.mkMem ?_ rfl (fun m => m) rfl rfl rfl rfl rfl rfl rfl rfl)

theorem kept_auxDrive (h : Kept a s) (y1) (y2) : Kept a (State.auxDrive s y1 y2) := by
  unfold State.auxDrive
  repeat' first
    | with_reducible assumption
    | (intro x; refine Kept.cut (a := a) (x := x) ?_ ?_ <;> [subst x; (clear_value x; intro hx)])
    | (beta_reduce; lift_lets; intro x) | with_reducible apply kept_setRb | with_reducible apply kept_setAuxOut
    | (beta_reduce; split)

theorem kept_auxSiteFree (h : Kept a s) (y1) : Kept a (State.auxSiteFree s y1) := by
  unfold State.auxSiteFree
  repeat' first
    | with_reducible assumption | intro x
    | (beta_reduce; lift_lets; intro x; refine Kept.cut (a := a) (x := x) ?_ ?_ <;> [subst x; (clear_value x; intro hx)])
    | with_reducible apply kept_each | with_reducible apply kept_setRb | with_reducible apply kept_auxDrive

theorem kept_railEnable (h : Kept a s) (y1) : Kept a (State.railEnable s y1) := by
  unfold State.railEnable
  repeat' first
    | with_reducible assumption
    | (intro x; refine Kept.cut (a := a) (x := x) ?_ ?_ <;> [subst x; (clear_value x; intro hx)])
    | (intro x; subst x) | (beta_reduce; lift_lets; intro x) | with_reducible apply kept_setRl
    | with_reducible apply kept_setRb | with_reducible apply kept_setRf

theorem kept_upGroups (h : Kept a s) (y1) : Kept a (State.upGroups s y1) := by
  unfold State.upGroups
  repeat' first
    | with_reducible assumption | intro x | (beta_reduce; lift_lets; intro x) | with_reducible apply kept_siteNext
    | with_reducible apply kept_each | with_reducible apply kept_railEnable | with_reducible apply kept_fire
    | with_reducible apply kept_setRb | with_reducible apply kept_setPst | (beta_reduce; split)

theorem kept_siteDown (h : Kept a s) (y1) : Kept a (State.siteDown s y1) := by
  unfold State.siteDown
  repeat' first
    | with_reducible assumption
    | (intro x; refine Kept.cut (a := a) (x := x) ?_ ?_ <;> [subst x; (clear_value x; intro hx)])
    | (intro x; subst x) | (beta_reduce; lift_lets; intro x) | with_reducible apply kept_enpend
    | with_reducible apply kept_setSt | with_reducible apply kept_setPst | with_reducible apply kept_setRb
    | with_reducible apply kept_auxSiteFree | with_reducible apply kept_upGroups | (beta_reduce; split)

theorem kept_liftOk (h : Kept a s)  : Kept a (State.liftOk s) := by
  unfold State.liftOk
  repeat' first
    | with_reducible assumption | with_reducible apply kept_fire | with_reducible apply kept_setRb
    | (beta_reduce; split)

theorem kept_siteStep (h : Kept a s) (y1) : Kept a (State.siteStep s y1) := by
  unfold State.siteStep
  repeat' first
    | with_reducible assumption
    | (intro x; refine Kept.cut (a := a) (x := x) ?_ ?_ <;> [subst x; (clear_value x; intro hx)])
    | (beta_reduce; lift_lets; intro x; refine Kept.cut (a := a) (x := x) ?_ ?_ <;> [subst x; (clear_value x; intro hx)])
    | with_reducible apply kept_downGroups | with_reducible apply kept_siteDown | with_reducible apply kept_liftOk
    | (beta_reduce; split)

theorem kept_rampDown (h : Kept a s) (y1) (y2) : Kept a (State.rampDown s y1 y2) := by
  unfold State.rampDown
  repeat' first
    | with_reducible assumption
    | (intro x; refine Kept.cut (a := a) (x := x) ?_ ?_ <;> [subst x; (clear_value x; intro hx)])
    | (intro x; subst x)
    | (beta_reduce; lift_lets; intro x; refine Kept.cut (a := a) (x := x) ?_ ?_ <;> [subst x; (clear_value x; intro hx)])
    | with_reducible apply kept_powerEnd | with_reducible apply kept_enpend | with_reducible apply kept_setSt
    | with_reducible apply kept_setRb | with_reducible apply kept_setPst | with_reducible apply kept_siteStep
    | (beta_reduce; split)

theorem kept_setKzState (h : Kept a s) (y1) (y2) : Kept a (State.setKzState s y1 y2) := by
  unfold State.setKzState
  repeat' first | with_reducible assumption | with_reducible apply kept_setRf

theorem kept_setKzU (h : Kept a s) (y1) (y2) : Kept a (State.setKzU s y1 y2) := by
  unfold State.setKzU
  repeat' first
    | with_reducible assumption
    | (intro x; refine Kept.cut (a := a) (x := x) ?_ ?_ <;> [subst x; (clear_value x; intro hx)])
    | (beta_reduce; lift_lets; intro x; refine Kept.cut (a := a) (x := x) ?_ ?_ <;> [subst x; (clear_value x; intro hx)])
    | with_reducible apply kept_setRf | with_reducible apply kept_setRb | with_reducible apply kept_setAuxOut
    | (beta_reduce; split)

theorem kept_kzStop (h : Kept a s) (y1) : Kept a (State.kzStop s y1) := by
  unfold State.kzStop
  repeat' first
    | with_reducible assumption
    | (intro x; refine Kept.cut (a := a) (x := x) ?_ ?_ <;> [subst x; (clear_value x; intro hx)])
    | (intro x; subst x) | (beta_reduce; lift_lets; intro x) | with_reducible apply kept_setKzState
    | with_reducible apply kept_setKzU | with_reducible apply kept_setRb | with_reducible apply kept_setKz
    | (beta_reduce; split)

theorem kept_kenLow (h : Kept a s) (y1) : Kept a (State.kenLow s y1) := by
  unfold State.kenLow
  repeat' first
    | with_reducible assumption
    | (intro x; refine Kept.cut (a := a) (x := x) ?_ ?_ <;> [subst x; (clear_value x; intro hx)])
    | (beta_reduce; lift_lets; intro x) | with_reducible apply kept_setKz | with_reducible apply kept_setRb

theorem kept_kzKill (h : Kept a s) (y1) : Kept a (State.kzKill s y1) := by
  unfold State.kzKill
  repeat' first
    | with_reducible assumption
    | (intro x; refine Kept.cut (a := a) (x := x) ?_ ?_ <;> [subst x; (clear_value x; intro hx)])
    | (beta_reduce; lift_lets; intro x; refine Kept.cut (a := a) (x := x) ?_ ?_ <;> [subst x; (clear_value x; intro hx)])
    | with_reducible apply kept_setRb | with_reducible apply kept_kzStop | with_reducible apply kept_kenLow
    | (beta_reduce; split)

theorem kept_forceCode (h : Kept a s) (y1) (y2) : Kept a (State.forceCode s y1 y2) := by
  unfold State.forceCode
  repeat' first
    | with_reducible assumption
    | (intro x; refine Kept.cut (a := a) (x := x) ?_ ?_ <;> [subst x; (clear_value x; intro hx)])
    | (intro x; subst x) | (beta_reduce; lift_lets; intro x) | with_reducible apply kept_noticeCl
    | with_reducible apply kept_chFlag | with_reducible apply kept_setPmuCode | (beta_reduce; split)

theorem kept_powerRefuse (h : Kept a s) (y1) (y2) : Kept a (State.powerRefuse s y1 y2) := by
  unfold State.powerRefuse
  repeat' first
    | with_reducible assumption | (beta_reduce; lift_lets; intro x) | with_reducible apply kept_notice
    | with_reducible apply kept_setRf | with_reducible apply kept_setRb

theorem kept_powerUndo (h : Kept a s) (y1) (y2) : Kept a (State.powerUndo s y1 y2) := by
  unfold State.powerUndo
  repeat' first
    | with_reducible assumption
    | (intro x; refine Kept.cut (a := a) (x := x) ?_ ?_ <;> [subst x; (clear_value x; intro hx)])
    | (intro x; subst x) | intro x | (beta_reduce; lift_lets; intro x) | with_reducible apply kept_enpend
    | with_reducible apply kept_setRb | with_reducible apply kept_setSt | with_reducible apply kept_powerRefuse
    | with_reducible apply kept_each | with_reducible apply kept_setRf | with_reducible apply kept_setRl
    | with_reducible apply kept_setPst | (beta_reduce; split)

theorem kept_auxHoldSite (h : Kept a s) (y1) : Kept a (State.auxHoldSite s y1) := by
  unfold State.auxHoldSite
  repeat' first
    | with_reducible assumption
    | (intro x; refine Kept.cut (a := a) (x := x) ?_ ?_ <;> [subst x; (clear_value x; intro hx)])
    | (beta_reduce; lift_lets; intro x) | with_reducible apply kept_setRb | with_reducible apply kept_setAuxOut
    | (beta_reduce; split)

theorem kept_auxSiteHold (h : Kept a s) (y1) : Kept a (State.auxSiteHold s y1) := by
  unfold State.auxSiteHold
  repeat' first
    | with_reducible assumption | intro x | with_reducible apply kept_each | with_reducible apply kept_auxHoldSite

theorem kept_kzStart (h : Kept a s) (y1) : Kept a (State.kzStart s y1) := by
  unfold State.kzStart
  repeat' first
    | with_reducible assumption
    | (intro x; refine Kept.cut (a := a) (x := x) ?_ ?_ <;> [subst x; (clear_value x; intro hx)])
    | (beta_reduce; lift_lets; intro x) | with_reducible apply kept_setKz | with_reducible apply kept_setKzState
    | with_reducible apply kept_setKzU | with_reducible apply kept_setRb

theorem kept_siteGo (h : Kept a s) (y1) : Kept a (State.siteGo s y1) := by
  unfold State.siteGo
  repeat' first
    | with_reducible assumption
    | (intro x; refine Kept.cut (a := a) (x := x) ?_ ?_ <;> [subst x; (clear_value x; intro hx)])
    | (beta_reduce; lift_lets; intro x) | with_reducible apply kept_setSt | with_reducible apply kept_siteStep
    | with_reducible apply kept_upGroups | (beta_reduce; split)

theorem kept_sitesGo (h : Kept a s)  : Kept a (State.sitesGo s) := by
  unfold State.sitesGo
  repeat' first
    | with_reducible assumption | intro x | with_reducible apply kept_each | with_reducible apply kept_siteGo

/-! Machine/Access.lean -/

theorem kept_hold (h : Kept a s) (y1) : Kept a (State.hold s y1) := by
  unfold State.hold
  repeat' first | with_reducible assumption | (refine Kept.mkMem ?_ rfl (fun m => m) rfl rfl rfl rfl rfl rfl rfl rfl)

theorem kept_slotHold (h : Kept a s) (y1) : Kept a (State.slotHold s y1) := by
  unfold State.slotHold
  repeat' first
    | with_reducible assumption
    | (beta_reduce; lift_lets; intro x; refine Kept.cut (a := a) (x := x) ?_ ?_ <;> [subst x; (clear_value x; intro hx)])
    | with_reducible apply kept_hold | with_reducible apply kept_count | (beta_reduce; split)
    | (refine Kept.mkMem ?_ rfl (fun m => m) rfl rfl rfl rfl rfl rfl rfl rfl)

theorem kept_unmapped (h : Kept a s) (y1) (y2) : Kept a (State.unmapped s y1 y2) := by
  unfold State.unmapped
  repeat' first
    | with_reducible assumption | with_reducible apply kept_count | with_reducible apply kept_changeWg
    | (beta_reduce; split)

theorem kept_setRegAt (h : Kept a s) (sp off w) (ho : sp = .pf1 → off = Off.wdF5 → w = s.sg Off.wdF5) :
    Kept a (s.setRegAt sp off w) := by
  cases sp with
  | pf0 => exact kept_setRg h _ _
  | pf1 => exact h.sec fun _ e => ho rfl e
  | win => exact kept_setWg h _ _
  | msix0 => exact kept_setWg h _ _
  | msix1 => exact kept_setWg h _ _

theorem kept_answer (h : Kept a s) (y1) (y2) : Kept a (State.answer s y1 y2) := by
  unfold State.answer
  repeat' first | with_reducible assumption | (refine Kept.mkMem ?_ rfl (fun m => m) rfl rfl rfl rfl rfl rfl rfl rfl)

theorem kept_discarded (h : Kept a s) (y1) : Kept a (State.discarded s y1) := by
  unfold State.discarded
  repeat' first
    | with_reducible assumption
    | (beta_reduce; lift_lets; intro x; refine Kept.cut (a := a) (x := x) ?_ ?_ <;> [subst x; (clear_value x; intro hx)])
    | with_reducible apply kept_count | with_reducible apply kept_changeWg | (beta_reduce; split)

theorem kept_w1c (h : Kept a s) (sp off mask v) (ho : sp = .pf1 → off = Off.wdF5 → mask = 0 := by simp) :
    Kept a (s.w1c sp off mask v) := by
  unfold State.w1c
  split
  · exact h
  · exact kept_setRegAt h _ _ _ fun e1 e2 => absurd (ho e1 e2) (by assumption)

theorem kept_w1cPf0 (h : Kept a s) (off mask v) : Kept a (s.w1c .pf0 off mask v) := kept_w1c h _ _ _ _ nofun

theorem findReg_wdF5 {off : Nat} {r : RegRow} {ix : List Nat} (e : findReg (Space.rows .pf1) off = some (r, ix))
    (ho : off = Off.wdF5) : r = ⟨.wdF5, 0x1008, [], 0, 0, 0, 0⟩ := by
  subst ho
  have : findReg (Space.rows .pf1) Off.wdF5 = some (⟨.wdF5, 0x1008, [], 0, 0, 0, 0⟩, []) := by decide +kernel
  rw [this] at e
  cases e
  rfl

theorem kept_lostWrite (h : Kept a s) (y1) : Kept a (State.lostWrite s y1) := by
  unfold State.lostWrite
  repeat' first
    | with_reducible assumption
    | (beta_reduce; lift_lets; intro x; refine Kept.cut (a := a) (x := x) ?_ ?_ <;> [subst x; (clear_value x; intro hx)])
    | with_reducible apply kept_count | with_reducible apply kept_changeWg | (beta_reduce; split)

theorem kept_gateWriteAll (h : Kept a s) (p sp off v act via lose drop) (ha : ∀ s, Kept a s → Kept a (act s))
    (hl : ∀ s, Kept a s → Kept a (lose s)) (hd : ∀ s, Kept a s → Kept a (drop s)) :
    Kept a (s.gateWrite p sp off v act via lose drop) := by
  unfold State.gateWrite
  split
  · exact kept_hold h _
  split
  · exact kept_putBehind h _
  split
  · exact kept_answer h _ _
  split
  · exact h
  split
  · split
    · exact h
    · exact kept_unmapped h _ _
  · next r ix e =>
    split
    · exact hd _ (kept_discarded h _)
    · dsimp only
      split
      · exact kept_putBehind h _
      split
      · exact hl _ (kept_w1c (kept_lostWrite h _) _ _ _ _ fun e1 e2 => by subst e1; rw [findReg_wdF5 e e2])
      · apply ha
        have k (t) (ht : Kept a t) (l) : Kept a { t with wrote := l } :=
          ht.same rfl rfl rfl rfl rfl rfl rfl rfl rfl rfl
        apply k
        split
        · exact Kept.foldl h fun s i hs => kept_lostWrite hs _
        · exact h

theorem kept_gateWrite (h : Kept a s) (p sp off v act via) (ha : ∀ s, Kept a s → Kept a (act s)) :
    Kept a (s.gateWrite p sp off v act via) :=
  kept_gateWriteAll h _ _ _ _ _ _ _ _ ha (fun _ k => k) fun _ k => k

theorem kept_gateRead (h : Kept a s) (p sp cmd act) (ha : ∀ s, Kept a s → Kept a (act s)) :
    Kept a (s.gateRead p sp cmd act) := by
  unfold State.gateRead
  repeat' split
  · exact kept_hold h _
  · exact kept_putBehind h _
  · exact kept_answer h _ _
  · exact h
  · exact kept_answer h _ _
  · exact ha _ h

/-! Machine/Tiu.lean -/

theorem kept_setLong (h : Kept a s) (y1) (y2) (y3) : Kept a (State.setLong s y1 y2 y3) := by
  unfold State.setLong
  repeat' first | with_reducible assumption | (beta_reduce; lift_lets; intro x) | with_reducible apply kept_setRg

theorem kept_tiuStats (h : Kept a s) (y1) : Kept a (State.tiuStats s y1) := by
  unfold State.tiuStats
  repeat' first
    | with_reducible assumption
    | (intro x; refine Kept.cut (a := a) (x := x) ?_ ?_ <;> [subst x; (clear_value x; intro hx)])
    | (intro x; subst x) | (beta_reduce; lift_lets; intro x) | with_reducible apply kept_setLong
    | with_reducible apply kept_setRg | with_reducible apply kept_setTu | (beta_reduce; split)

theorem kept_tiuCount (h : Kept a s) (y1) (y2) (y3) (y4) : Kept a (State.tiuCount s y1 y2 y3 y4) := by
  unfold State.tiuCount
  repeat' first
    | with_reducible assumption
    | (intro x; refine Kept.cut (a := a) (x := x) ?_ ?_ <;> [subst x; (clear_value x; intro hx)])
    | (intro x; subst x) | (beta_reduce; lift_lets; intro x) | with_reducible apply kept_fresh
    | with_reducible apply kept_count | with_reducible apply kept_setRf | with_reducible apply kept_setLong
    | with_reducible apply kept_setTu | with_reducible apply kept_capTriggerAll | with_reducible apply kept_fire
    | (beta_reduce; split)

theorem kept_tiuLastShot (h : Kept a s) (y1) : Kept a (State.tiuLastShot s y1) := by
  unfold State.tiuLastShot
  repeat' first | with_reducible assumption | with_reducible apply kept_tiuCount | (beta_reduce; split)

theorem kept_tiuFlag (h : Kept a s) (y1) (y2) : Kept a (State.tiuFlag s y1 y2) := by
  unfold State.tiuFlag
  repeat' first | with_reducible assumption | with_reducible apply kept_setRb

theorem kept_setTiuState (h : Kept a s) (y1) (y2) : Kept a (State.setTiuState s y1 y2) := by
  unfold State.setTiuState
  repeat' first | with_reducible assumption | with_reducible apply kept_setRf

theorem kept_tiuFinish (h : Kept a s) (y1) (y2) : Kept a (State.tiuFinish s y1 y2) := by
  unfold State.tiuFinish
  repeat' first
    | with_reducible assumption | (intro x; refine Kept.cut (a := a) (x := x) ?_ ?_ <;> [subst x; intro hx])
    | (intro x; subst x)
    | (beta_reduce; lift_lets; intro x; refine Kept.cut (a := a) (x := x) ?_ ?_ <;> [subst x; intro hx])
    | with_reducible apply kept_tiuStats | with_reducible apply kept_tiuLastShot | with_reducible apply kept_setTu
    | with_reducible apply kept_tiuFlag | with_reducible apply kept_fire | with_reducible apply kept_setTiuState
    | (beta_reduce; split)

theorem kept_recLost (h : Kept a s) (y1) : Kept a (State.recLost s y1) := by
  unfold State.recLost
  repeat' first
    | with_reducible assumption | (beta_reduce; lift_lets; intro x) | with_reducible apply kept_tiuFlag
    | (beta_reduce; split)

theorem kept_tiuConfig (h : Kept a s) (y1) (y2) (y3) : Kept a (State.tiuConfig s y1 y2 y3) := by
  unfold State.tiuConfig
  repeat' first
    | with_reducible assumption | with_reducible apply kept_tiuFlag | with_reducible apply kept_setRg
    | (beta_reduce; split)

theorem kept_tiuReject (h : Kept a s) (y1) : Kept a (State.tiuReject s y1) := by
  unfold State.tiuReject
  repeat' first | with_reducible assumption | with_reducible apply kept_noticeAt | with_reducible apply kept_tiuFlag

theorem kept_tiuArm (h : Kept a s) (y1) : Kept a (State.tiuArm s y1) := by
  unfold State.tiuArm
  repeat' first | with_reducible assumption | (beta_reduce; lift_lets; intro x) | with_reducible apply kept_setTu

theorem kept_tiuBegin (h : Kept a s) (y1) : Kept a (State.tiuBegin s y1) := by
  unfold State.tiuBegin
  repeat' first
    | with_reducible assumption
    | (intro x; refine Kept.cut (a := a) (x := x) ?_ ?_ <;> [subst x; (clear_value x; intro hx)])
    | (intro x; subst x) | intro x
    | (beta_reduce; lift_lets; intro x; refine Kept.cut (a := a) (x := x) ?_ ?_ <;> [subst x; (clear_value x; intro hx)])
    | with_reducible apply kept_setRf | with_reducible apply kept_setRb | with_reducible apply kept_setRg
    | with_reducible apply kept_setTu | with_reducible apply kept_tiuArm | with_reducible apply kept_setTiuState
    | with_reducible apply Kept.foldl

theorem kept_tiuCmd (h : Kept a s) (y1) (y2) (y3) : Kept a (State.tiuCmd s y1 y2 y3) := by
  unfold State.tiuCmd
  repeat' first
    | with_reducible assumption
    | (beta_reduce; lift_lets; intro x; refine Kept.cut (a := a) (x := x) ?_ ?_ <;> [subst x; (clear_value x; intro hx)])
    | with_reducible apply kept_putBehind | with_reducible apply kept_tiuFinish | with_reducible apply kept_tiuReject
    | with_reducible apply kept_tiuBegin | (beta_reduce; split)

theorem kept_tiuCalctl (h : Kept a s) (y1) (y2) : Kept a (State.tiuCalctl s y1 y2) := by
  unfold State.tiuCalctl
  repeat' first
    | with_reducible assumption
    | (beta_reduce; lift_lets; intro x; refine Kept.cut (a := a) (x := x) ?_ ?_ <;> [subst x; (clear_value x; intro hx)])
    | with_reducible apply kept_setRg | with_reducible apply kept_setRb | with_reducible apply kept_setTiuState
    | (beta_reduce; split)

theorem kept_tiuTimed (h : Kept a s) (y1) (y2) : Kept a (State.tiuTimed s y1 y2) := by
  unfold State.tiuTimed
  repeat' first
    | with_reducible assumption | (beta_reduce; lift_lets; intro x) | with_reducible apply kept_setTu
    | (beta_reduce; split)

theorem kept_tiuFastIn (h : Kept a s) (y1) (y2) : Kept a (State.tiuFastIn s y1 y2) := by
  unfold State.tiuFastIn
  repeat' first
    | with_reducible assumption | (beta_reduce; lift_lets; intro x) | with_reducible apply kept_tiuFlag
    | with_reducible apply kept_setTu | (beta_reduce; split)

theorem kept_tiuEarly (h : Kept a s) (y1) (y2) : Kept a (State.tiuEarly s y1 y2) := by
  unfold State.tiuEarly
  repeat' first
    | with_reducible assumption
    | (intro x; refine Kept.cut (a := a) (x := x) ?_ ?_ <;> [subst x; (clear_value x; intro hx)])
    | (intro x; subst x) | (beta_reduce; lift_lets; intro x) | with_reducible apply kept_tiuFastIn
    | with_reducible apply kept_setTu | (beta_reduce; split)

theorem kept_tiuShot (h : Kept a s) (y1) (y2) (y3) (y4) : Kept a (State.tiuShot s y1 y2 y3 y4) := by
  unfold State.tiuShot
  repeat' first
    | with_reducible assumption | (beta_reduce; lift_lets; intro x) | with_reducible apply kept_setTu
    | with_reducible apply kept_tiuCount | (beta_reduce; split)

theorem kept_tiuStopped (h : Kept a s) (y1) (y2) : Kept a (State.tiuStopped s y1 y2) := by
  unfold State.tiuStopped
  repeat' first
    | with_reducible assumption
    | (intro x; refine Kept.cut (a := a) (x := x) ?_ ?_ <;> [subst x; (clear_value x; intro hx)])
    | (intro x; subst x) | (beta_reduce; lift_lets; intro x) | with_reducible apply kept_setTu
    | with_reducible apply kept_tiuFastIn | with_reducible apply kept_tiuFinish | with_reducible apply kept_tiuShot
    | (beta_reduce; split)

theorem kept_tiuFired (h : Kept a s) (y1) (y2) : Kept a (State.tiuFired s y1 y2) := by
  unfold State.tiuFired
  try dsimp only
  repeat' split
  all_goals first | exact h | exact kept_tiuShot h .. | exact kept_tiuStopped h ..

theorem kept_tiuStop (h : Kept a s) (y1) (y2) : Kept a (State.tiuStop s y1 y2) := by
  unfold State.tiuStop
  repeat' first
    | with_reducible assumption
    | (intro x; refine Kept.cut (a := a) (x := x) ?_ ?_ <;> [subst x; (clear_value x; intro hx)])
    | (intro x; subst x) | (beta_reduce; lift_lets; intro x) | with_reducible apply kept_tiuTimed
    | with_reducible apply kept_tiuEarly | with_reducible apply kept_tiuShot | with_reducible apply kept_tiuStopped
    | with_reducible apply kept_tiuFired | (beta_reduce; split)

theorem kept_tiuStart (h : Kept a s) (y1) (y2) : Kept a (State.tiuStart s y1 y2) := by
  unfold State.tiuStart
  repeat' first
    | with_reducible assumption
    | (intro x; refine Kept.cut (a := a) (x := x) ?_ ?_ <;> [subst x; (clear_value x; intro hx)])
    | (intro x; subst x) | (beta_reduce; lift_lets; intro x) | with_reducible apply kept_tiuTimed
    | with_reducible apply kept_setTu | with_reducible apply kept_tiuFastIn | with_reducible apply kept_tiuFired
    | (beta_reduce; split)

theorem kept_tiuEvent (h : Kept a s) (y1) (y2) (y3) : Kept a (State.tiuEvent s y1 y2 y3) := by
  unfold State.tiuEvent
  repeat' first
    | with_reducible assumption | (beta_reduce; lift_lets; intro x) | with_reducible apply kept_tiuStop
    | with_reducible apply kept_tiuStart | (beta_reduce; split)

theorem kept_tiuPulse (h : Kept a s) (y1) (y2) : Kept a (State.tiuPulse s y1 y2) := by
  unfold State.tiuPulse
  repeat' first
    | with_reducible assumption
    | (intro x; refine Kept.cut (a := a) (x := x) ?_ ?_ <;> [subst x; (clear_value x; intro hx)])
    | (intro x; subst x) | (beta_reduce; lift_lets; intro x) | with_reducible apply kept_setTu
    | with_reducible apply kept_tiuEvent | (beta_reduce; split)

theorem kept_tiuFall (h : Kept a s) (y1) : Kept a (State.tiuFall s y1) := by
  unfold State.tiuFall
  repeat' first
    | with_reducible assumption
    | (intro x; refine Kept.cut (a := a) (x := x) ?_ ?_ <;> [subst x; (clear_value x; intro hx)])
    | (intro x; subst x) | (beta_reduce; lift_lets; intro x) | with_reducible apply kept_setTu
    | with_reducible apply kept_tiuEvent | (beta_reduce; split)

theorem kept_tiuFalls (h : Kept a s)  : Kept a (State.tiuFalls s) := by
  unfold State.tiuFalls
  repeat' first
    | with_reducible assumption | intro x | with_reducible apply kept_each | with_reducible apply kept_tiuFall

theorem kept_tiuEnds (h : Kept a s)  : Kept a (State.tiuEnds s) := by
  unfold State.tiuEnds
  repeat' first
    | with_reducible assumption | intro x | with_reducible apply kept_each | with_reducible apply kept_tiuFinish

theorem kept_tiuCalEnd (h : Kept a s) (y1) (y2) : Kept a (State.tiuCalEnd s y1 y2) := by
  unfold State.tiuCalEnd
  repeat' first
    | with_reducible assumption
    | (intro x; refine Kept.cut (a := a) (x := x) ?_ ?_ <;> [subst x; (clear_value x; intro hx)])
    | (intro x; subst x) | (beta_reduce; lift_lets; intro x) | with_reducible apply kept_change
    | with_reducible apply kept_setTiuState | with_reducible apply kept_setTu | with_reducible apply kept_noticeAt
    | with_reducible apply kept_setRb | (beta_reduce; split)

theorem kept_execTiuGo (y0) (y1) (y2) {t : State} (e : execTiuGo y0 y1 y2 s = .next t) : Kept s t := by
  cases e
  repeat' first
    | with_reducible assumption | with_reducible exact Kept.refl | intro x | with_reducible apply kept_gateWrite
    | with_reducible apply kept_tiuCmd

theorem kept_execTiuAbort (y0) (y1) (y2) {t : State} (e : execTiuAbort y0 y1 y2 s = .next t) : Kept s t := by
  cases e
  repeat' first
    | with_reducible assumption | with_reducible exact Kept.refl | intro x | with_reducible apply kept_gateWrite
    | with_reducible apply kept_tiuCmd

theorem kept_execTiuConfigWrite (y0) (y1) (y2) (y3) {t : State} (e : execTiuConfigWrite y0 y1 y2 y3 s = .next t) : Kept s t := by
  cases e
  repeat' first
    | with_reducible assumption | with_reducible exact Kept.refl | intro x | with_reducible apply kept_gateWrite
    | with_reducible apply kept_tiuConfig

theorem kept_execTiuStartEdge (y0) (y1) (y2) {t : State} (e : execTiuStartEdge y0 y1 y2 s = .next t) : Kept s t := by
  cases e
  repeat' first
    | with_reducible exact Kept.refl | with_reducible apply kept_tiuStart | with_reducible apply kept_putBehind
    | (beta_reduce; split)

theorem kept_execTiuStopEdge (y0) (y1) (y2) {t : State} (e : execTiuStopEdge y0 y1 y2 s = .next t) : Kept s t := by
  cases e
  repeat' first
    | with_reducible exact Kept.refl | with_reducible apply kept_tiuStop | with_reducible apply kept_putBehind
    | (beta_reduce; split)

theorem kept_execTiuShotArm (y0) {t : State} (e : execTiuShotArm y0 s = .next t) : Kept s t := by
  cases e
  repeat' first | with_reducible exact Kept.refl | with_reducible apply kept_tiuArm | (beta_reduce; split)

theorem kept_execTiuOverflow (y0) {t : State} (e : execTiuOverflow y0 s = .next t) : Kept s t := by
  cases e
  repeat' first | with_reducible exact Kept.refl | with_reducible apply kept_tiuFinish | (beta_reduce; split)

theorem kept_execTiuCalGo (y0) (y1) (y2) {t : State} (e : execTiuCalGo y0 y1 y2 s = .next t) : Kept s t := by
  cases e
  repeat' first
    | with_reducible assumption | with_reducible exact Kept.refl | intro x | with_reducible apply kept_gateWrite
    | with_reducible apply kept_tiuCalctl

theorem kept_execTiuCalDone (y0) (y1) {t : State} (e : execTiuCalDone y0 y1 s = .next t) : Kept s t := by
  cases e
  repeat' first | with_reducible exact Kept.refl | with_reducible apply kept_tiuCalEnd

/-! Machine/Pot.lean -/

theorem kept_potForget (h : Kept a s) (y1) : Kept a (State.potForget s y1) := by
  unfold State.potForget
  repeat' first
    | with_reducible assumption | (beta_reduce; lift_lets; intro x)
    | (refine Kept.mkMem ?_ rfl (fun m => m) rfl rfl rfl rfl rfl rfl rfl rfl)

theorem kept_potCfgWrite (h : Kept a s) (y1) (y2) (y3) : Kept a (State.potCfgWrite s y1 y2 y3) := by
  unfold State.potCfgWrite
  repeat' first
    | with_reducible assumption
    | (intro x; refine Kept.cut (a := a) (x := x) ?_ ?_ <;> [subst x; (clear_value x; intro hx)])
    | (intro x; subst x) | (beta_reduce; lift_lets; intro x) | with_reducible apply kept_setRb
    | with_reducible apply kept_setRg | with_reducible apply kept_potForget | (beta_reduce; split)

theorem kept_potBaseWrite (h : Kept a s) (y1) (y2) : Kept a (State.potBaseWrite s y1 y2) := by
  unfold State.potBaseWrite
  repeat' first | with_reducible assumption | with_reducible apply kept_setRg | (beta_reduce; split)

theorem kept_potWrWrite (h : Kept a s) (y1) (y2) (y3) : Kept a (State.potWrWrite s y1 y2 y3) := by
  unfold State.potWrWrite
  repeat' first
    | with_reducible assumption | (intro x; subst x) | (beta_reduce; lift_lets; intro x)
    | with_reducible apply kept_hold | with_reducible apply kept_putBehind | with_reducible apply kept_setRg
    | with_reducible apply kept_noticeAt | with_reducible apply kept_setRb | (beta_reduce; split)

theorem kept_potRewrite (h : Kept a s) (y1) : Kept a (State.potRewrite s y1) := by
  unfold State.potRewrite
  repeat' first
    | with_reducible assumption | (beta_reduce; split)
    | (refine Kept.mkMem ?_ rfl (fun m => m) rfl rfl rfl rfl rfl rfl rfl rfl)

theorem kept_potAdvance (h : Kept a s) (y1) : Kept a (State.potAdvance s y1) := by
  unfold State.potAdvance
  repeat' first
    | with_reducible assumption
    | (intro x; refine Kept.cut (a := a) (x := x) ?_ ?_ <;> [subst x; (clear_value x; intro hx)])
    | (intro x; subst x) | (beta_reduce; lift_lets; intro x) | with_reducible apply kept_setRg
    | with_reducible apply kept_fire | with_reducible apply kept_irq | with_reducible apply kept_setRb
    | (beta_reduce; split)

theorem kept_potSeen (h : Kept a s) (y1) : Kept a (State.potSeen s y1) := by
  unfold State.potSeen
  repeat' first
    | with_reducible assumption | with_reducible apply kept_fresh | (beta_reduce; split)
    | (refine Kept.mkMem ?_ rfl (fun m => m) rfl rfl rfl rfl rfl rfl rfl rfl)

theorem kept_potUnderrun (h : Kept a s) (y1) : Kept a (State.potUnderrun s y1) := by
  unfold State.potUnderrun
  repeat' first
    | with_reducible assumption | with_reducible apply kept_fire | with_reducible apply kept_irq
    | with_reducible apply kept_count | with_reducible apply kept_setRb

theorem kept_execPotCfgWrite (y0) (y1) (y2) {t : State} (e : execPotCfgWrite y0 y1 y2 s = .next t) : Kept s t := by
  cases e
  repeat' first
    | with_reducible assumption | with_reducible exact Kept.refl | intro x | with_reducible apply kept_gateWrite
    | with_reducible apply kept_potCfgWrite

theorem kept_execPotWrWrite (y0) (y1) (y2) {t : State} (e : execPotWrWrite y0 y1 y2 s = .next t) : Kept s t := by
  cases e
  repeat' first
    | with_reducible assumption | with_reducible exact Kept.refl | intro x | with_reducible apply kept_gateWrite
    | with_reducible apply kept_potWrWrite

/-! Machine/Wave.lean -/

theorem kept_weWrite (h : Kept a s) (y1) (y2) : Kept a (State.weWrite s y1 y2) := by
  unfold State.weWrite
  repeat' first
    | with_reducible assumption | intro x | with_reducible apply kept_auxDrive | with_reducible apply kept_each
    | with_reducible apply kept_forceCode | with_reducible apply kept_setPmuCode | (beta_reduce; split)

theorem kept_weFlag (h : Kept a s) (y1) (y2) : Kept a (State.weFlag s y1 y2) := by
  unfold State.weFlag
  repeat' first | with_reducible assumption | with_reducible apply kept_setRb

theorem kept_setWeState (h : Kept a s) (y1) (y2) : Kept a (State.setWeState s y1 y2) := by
  unfold State.setWeState
  repeat' first | with_reducible assumption | with_reducible apply kept_setRf

theorem kept_weEnd (h : Kept a s) (y1) (y2) : Kept a (State.weEnd s y1 y2) := by
  unfold State.weEnd
  repeat' first
    | with_reducible assumption
    | (intro x; refine Kept.cut (a := a) (x := x) ?_ ?_ <;> [subst x; (clear_value x; intro hx)])
    | (intro x; subst x)
    | (beta_reduce; lift_lets; intro x; refine Kept.cut (a := a) (x := x) ?_ ?_ <;> [subst x; (clear_value x; intro hx)])
    | with_reducible apply kept_weWrite | with_reducible apply kept_setWv | with_reducible apply kept_fire
    | with_reducible apply kept_weFlag | with_reducible apply kept_setWeState | (beta_reduce; split)

theorem kept_weConfig (h : Kept a s) (y1) (y2) (y3) : Kept a (State.weConfig s y1 y2 y3) := by
  unfold State.weConfig
  repeat' first
    | with_reducible assumption | with_reducible apply kept_weFlag | with_reducible apply kept_setRg
    | with_reducible apply kept_w1cPf0 | (beta_reduce; split)

theorem kept_weCtl (h : Kept a s) (y1) (y2) : Kept a (State.weCtl s y1 y2) := by
  unfold State.weCtl
  repeat' first
    | with_reducible assumption
    | (intro x; refine Kept.cut (a := a) (x := x) ?_ ?_ <;> [subst x; (clear_value x; intro hx)])
    | (intro x; subst x) | (beta_reduce; lift_lets; intro x) | with_reducible apply kept_noticeAt
    | with_reducible apply kept_weFlag | with_reducible apply kept_setWv | with_reducible apply kept_setRf
    | with_reducible apply kept_setWeState | (beta_reduce; split)

theorem kept_weTrigger (h : Kept a s) (y1) (y2) : Kept a (State.weTrigger s y1 y2) := by
  unfold State.weTrigger
  repeat' first
    | with_reducible assumption | (beta_reduce; lift_lets; intro x) | with_reducible apply kept_setWv
    | (beta_reduce; split)

theorem kept_weEvent (h : Kept a s) (y1) : Kept a (State.weEvent s y1) := by
  unfold State.weEvent
  repeat' first
    | with_reducible assumption | (intro x; subst x) | intro x
    | (beta_reduce; lift_lets; intro x; refine Kept.cut (a := a) (x := x) ?_ ?_ <;> [subst x; (clear_value x; intro hx)])
    | with_reducible apply kept_each | with_reducible apply kept_weTrigger | with_reducible apply kept_setWv
    | (beta_reduce; split)

theorem kept_wePush (h : Kept a s) (y1) (y2) : Kept a (State.wePush s y1 y2) := by
  unfold State.wePush
  repeat' first | with_reducible assumption | (beta_reduce; lift_lets; intro x) | with_reducible apply kept_setWv

theorem kept_weHalf (h : Kept a s) (y1) (y2) (y3) (y4) : Kept a (State.weHalf s y1 y2 y3 y4) := by
  unfold State.weHalf
  repeat' first
    | with_reducible assumption | with_reducible apply kept_wePush | with_reducible apply kept_fresh
    | (beta_reduce; split)

theorem kept_weRead (h : Kept a s) (y1) (y2) : Kept a (State.weRead s y1 y2) := by
  unfold State.weRead
  repeat' first
    | with_reducible assumption | with_reducible apply kept_noticeAt | with_reducible apply kept_weFlag
    | (beta_reduce; split)

theorem kept_wePotTake (h : Kept a s) (y1) (y2) (y3) : Kept a (State.wePotTake s y1 y2 y3) := by
  unfold State.wePotTake
  repeat' first
    | with_reducible assumption
    | (intro x; refine Kept.cut (a := a) (x := x) ?_ ?_ <;> [subst x; (clear_value x; intro hx)])
    | (intro x; subst x) | (beta_reduce; lift_lets; intro x) | with_reducible apply kept_setWv
    | with_reducible apply kept_weHalf | with_reducible apply kept_weRead | with_reducible apply kept_potAdvance
    | with_reducible apply kept_potSeen | with_reducible apply kept_rowSeen | (beta_reduce; split)

theorem kept_weMemTake (h : Kept a s) (y1) (y2) (y3) : Kept a (State.weMemTake s y1 y2 y3) := by
  unfold State.weMemTake
  repeat' first
    | with_reducible assumption
    | (intro x; refine Kept.cut (a := a) (x := x) ?_ ?_ <;> [subst x; (clear_value x; intro hx)])
    | (intro x; subst x) | (beta_reduce; lift_lets; intro x) | with_reducible apply kept_weRead
    | with_reducible apply kept_rowSeen | with_reducible apply kept_weHalf | with_reducible apply kept_setWv
    | (beta_reduce; split)

theorem kept_weTake (h : Kept a s) (y1) (y2) : Kept a (State.weTake s y1 y2).1 := by
  unfold State.weTake
  repeat' first
    | with_reducible assumption | (beta_reduce; lift_lets; intro x) | with_reducible apply kept_setRf
    | with_reducible apply kept_setWv | with_reducible apply kept_wePotTake | with_reducible apply kept_weMemTake
    | dsimp only | (beta_reduce; split)

theorem kept_weAdvance (h : Kept a s) (y1) (y2) (y3) : Kept a (State.weAdvance s y1 y2 y3).1 := by
  induction y3 generalizing s y2 with
  | zero => exact h
  | succ n ih =>
    unfold State.weAdvance
    dsimp only
    split
    · exact h
    · have k := kept_weTake h y1 y2
      split
      · next e => rw [e] at k; exact ih (kept_setWv k _ _) _
      · next e => rw [e] at k; exact k

theorem kept_weStall (h : Kept a s) (y1) (y2) : Kept a (State.weStall s y1 y2) := by
  unfold State.weStall
  repeat' first
    | with_reducible assumption
    | (intro x; refine Kept.cut (a := a) (x := x) ?_ ?_ <;> [subst x; (clear_value x; intro hx)])
    | (beta_reduce; lift_lets; intro x; refine Kept.cut (a := a) (x := x) ?_ ?_ <;> [subst x; (clear_value x; intro hx)])
    | with_reducible apply kept_setWeState | with_reducible apply kept_noticeAt | with_reducible apply kept_count
    | with_reducible apply kept_weFlag | with_reducible apply kept_potUnderrun | with_reducible apply kept_fire
    | with_reducible apply kept_weEnd | (beta_reduce; split)

theorem kept_weUpdate (h : Kept a s) (y1) (y2) : Kept a (State.weUpdate s y1 y2) := by
  unfold State.weUpdate
  repeat' first
    | with_reducible assumption
    | (intro x; refine Kept.cut (a := a) (x := x) ?_ ?_ <;> [subst x; (clear_value x; intro hx)])
    | (intro x; subst x) | (beta_reduce; lift_lets; intro x) | with_reducible apply kept_weEnd
    | with_reducible apply kept_setWv | with_reducible apply kept_weAdvance | with_reducible apply kept_weStall
    | with_reducible apply kept_weWrite
    | (beta_reduce; split <;> try (rename_i heq; have k := congrArg Prod.fst heq; dsimp only at k; subst k))

theorem kept_execWeGo (y0) (y1) (y2) {t : State} (e : execWeGo y0 y1 y2 s = .next t) : Kept s t := by
  cases e
  repeat' first
    | with_reducible assumption | with_reducible exact Kept.refl | intro x | with_reducible apply kept_gateWrite
    | with_reducible apply kept_weCtl

theorem kept_execWeStop (y0) (y1) (y2) {t : State} (e : execWeStop y0 y1 y2 s = .next t) : Kept s t := by
  cases e
  repeat' first
    | with_reducible assumption | with_reducible exact Kept.refl | intro x | with_reducible apply kept_gateWrite
    | with_reducible apply kept_weCtl

theorem kept_execWeConfigWrite (y0) (y1) (y2) (y3) {t : State} (e : execWeConfigWrite y0 y1 y2 y3 s = .next t) : Kept s t := by
  cases e
  repeat' first
    | with_reducible assumption | with_reducible exact Kept.refl | intro x | with_reducible apply kept_gateWrite
    | with_reducible apply kept_weCtl | with_reducible apply kept_weConfig | (beta_reduce; split)

theorem kept_execWeStart (y0) {t : State} (e : execWeStart y0 s = .next t) : Kept s t := by
  cases e
  repeat' first
    | with_reducible exact Kept.refl | (beta_reduce; lift_lets; intro x) | with_reducible apply kept_setWeState
    | with_reducible apply kept_setWv | (beta_reduce; split)

theorem kept_execWeUpdate (y0) (y1) {t : State} (e : execWeUpdate y0 y1 s = .next t) : Kept s t := by
  cases e
  repeat' first | with_reducible exact Kept.refl | with_reducible apply kept_weUpdate

theorem kept_execWeSampleArrive (y0) {t : State} (e : execWeSampleArrive y0 s = .next t) : Kept s t := by
  cases e
  repeat' first | with_reducible exact Kept.refl | with_reducible apply kept_setWeState | (beta_reduce; split)

end Sys2Proof.Machine
end

