-- ==== Sys2Proof/Laws/KeptFence.lean ====
section
/-!
SUPPORT. Kept by fences, settings, the instruction copy, the sequencers and their issue.
-/
set_option linter.unusedTactic false
set_option linter.unreachableTactic false
namespace Sys2Proof.Machine

open Sys2Proof

variable {a s : State}

/-! Machine/Fence.lean -/

theorem kept_f2Put (h : Kept a s) (y1) (y2) : Kept a (State.f2Put s y1 y2) := by
  unfold State.f2Put
  repeat' first
    | with_reducible assumption | (beta_reduce; lift_lets; intro x)
    | (refine Kept.mkMem ?_ rfl (fun m => m) rfl rfl rfl rfl rfl rfl rfl rfl)

theorem kept_noteFall (h : Kept a s) (s0) : Kept a (State.noteFall s0 s) := by
  unfold State.noteFall
  split
  · exact kept_pirq h _
  · exact h

theorem kept_violation (h : Kept a s) (y1) : Kept a (State.violation s y1) := by
  unfold State.violation
  repeat' first
    | with_reducible assumption | with_reducible apply kept_pirq
    | with_reducible refine kept_changeSg ?_ _ (by decide)

theorem kept_gatesOpen (h : Kept a s)  : Kept a (State.gatesOpen s) := by
  unfold State.gatesOpen
  repeat' first
    | with_reducible assumption
    | (intro x; refine Kept.cut (a := a) (x := x) ?_ ?_ <;> [subst x; (clear_value x; intro hx)])
    | (intro x; subst x) | intro x | (beta_reduce; lift_lets; intro x) | with_reducible apply kept_hist
    | with_reducible apply kept_violation | with_reducible apply Kept.foldl
    | (refine Kept.mkMem ?_ rfl (fun m => m) rfl rfl rfl rfl rfl rfl rfl rfl)

theorem kept_mcCover (h : Kept a s)  : Kept a (State.mcCover s) := by
  unfold State.mcCover
  repeat' first
    | with_reducible assumption | intro x | with_reducible apply kept_each | with_reducible apply kept_setRb

theorem kept_mcZero (h : Kept a s)  : Kept a (State.mcZero s) := by
  unfold State.mcZero
  repeat' first
    | with_reducible assumption
    | (intro x; refine Kept.cut (a := a) (x := x) ?_ ?_ <;> [subst x; (clear_value x; intro hx)]) | intro x
    | (beta_reduce; lift_lets; intro x) | with_reducible apply kept_each | with_reducible apply kept_setRg
    | with_reducible apply kept_setRf | with_reducible apply kept_mcCover
    | (refine Kept.mkMem ?_ rfl (fun m => m) rfl rfl rfl rfl rfl rfl rfl rfl)

theorem kept_mcTorn (h : Kept a s)  : Kept a (State.mcTorn s) := by
  unfold State.mcTorn
  repeat' first
    | with_reducible assumption
    | (intro x; refine Kept.cut (a := a) (x := x) ?_ ?_ <;> [subst x; (clear_value x; intro hx)])
    | (beta_reduce; lift_lets; intro x) | with_reducible apply kept_mcZero | with_reducible apply kept_noticeAt
    | with_reducible apply kept_setRb | (refine Kept.mkMem ?_ rfl (fun m => m) rfl rfl rfl rfl rfl rfl rfl rfl)

theorem kept_mcLatch (h : Kept a s) (y1) (y2) (y3) (y4) : Kept a (State.mcLatch s y1 y2 y3 y4) := by
  unfold State.mcLatch
  repeat' first
    | with_reducible assumption | (beta_reduce; lift_lets; intro x) | with_reducible apply kept_setRg
    | with_reducible apply kept_change | (beta_reduce; split)

theorem kept_loadAbort (h : Kept a s)  : Kept a (State.loadAbort s) := by
  unfold State.loadAbort
  repeat' first
    | with_reducible assumption | intro x | with_reducible apply kept_each | with_reducible apply kept_mcTorn
    | with_reducible apply kept_hist | with_reducible apply kept_mcLatch | (beta_reduce; split)

theorem kept_saveAbort (h : Kept a s)  : Kept a (State.saveAbort s) := by
  unfold State.saveAbort
  repeat' first
    | with_reducible assumption | (beta_reduce; lift_lets; intro x) | with_reducible apply kept_setRb
    | (beta_reduce; split) | (refine Kept.mkMem ?_ rfl (fun m => m) rfl rfl rfl rfl rfl rfl rfl rfl)

theorem kept_safeActs (h : Kept a s)  : Kept a (State.safeActs s) := by
  unfold State.safeActs
  repeat' first
    | with_reducible assumption
    | (intro x; refine Kept.cut (a := a) (x := x) ?_ ?_ <;> [subst x; (clear_value x; intro hx)])
    | (intro x; subst x) | intro x
    | (beta_reduce; lift_lets; intro x; refine Kept.cut (a := a) (x := x) ?_ ?_ <;> [subst x; (clear_value x; intro hx)])
    | (beta_reduce; lift_lets; intro x) | with_reducible apply kept_each | with_reducible apply kept_parkChan
    | with_reducible apply kept_capDisarm | with_reducible apply kept_dropFifo | with_reducible apply kept_haltSeq
    | with_reducible apply kept_setCl | with_reducible apply kept_rampDown | with_reducible apply kept_kzKill
    | with_reducible apply kept_weEnd | with_reducible apply kept_setAuxOut | with_reducible apply kept_setRb
    | with_reducible apply kept_tiuFinish | with_reducible apply kept_setQIdx | with_reducible apply kept_recLost
    | with_reducible apply kept_capTouch | with_reducible apply kept_setCap | with_reducible apply kept_setTiuState
    | with_reducible apply kept_tiuFlag | with_reducible apply kept_liftOk | with_reducible apply kept_holdStat
    | with_reducible apply kept_loadAbort | with_reducible apply kept_saveAbort | with_reducible apply Kept.foldl
    | (beta_reduce; split) | (refine Kept.mkMem ?_ rfl (fun m => m) rfl rfl rfl rfl rfl rfl rfl rfl)

theorem kept_f2 (h : Kept a s) (y1) (y2) : Kept a (State.f2 s y1 y2) := by
  unfold State.f2
  repeat' first
    | with_reducible assumption
    | (intro x; refine Kept.cut (a := a) (x := x) ?_ ?_ <;> [subst x; (clear_value x; intro hx)])
    | (intro x; subst x) | (beta_reduce; lift_lets; intro x) | with_reducible apply kept_hist
    | with_reducible apply kept_f2Put | with_reducible apply kept_noteFall | with_reducible apply kept_gatesOpen
    | with_reducible apply kept_safeActs | (beta_reduce; split)
    | (refine Kept.mkSafe ?_ rfl (fun m => m) rfl rfl rfl rfl (by simp) rfl rfl)

theorem kept_undoUse (h : Kept a s) (y1) : Kept a (State.undoUse s y1) := by
  unfold State.undoUse
  repeat' first
    | with_reducible assumption | intro x | (beta_reduce; lift_lets; intro x) | with_reducible apply kept_each
    | with_reducible apply kept_setSq | (beta_reduce; split)

theorem kept_undoEnable (h : Kept a s) (y1) : Kept a (State.undoEnable s y1) := by
  unfold State.undoEnable
  repeat' first
    | with_reducible assumption
    | (intro x; refine Kept.cut (a := a) (x := x) ?_ ?_ <;> [subst x; (clear_value x; intro hx)])
    | (intro x; subst x) | intro x
    | (beta_reduce; lift_lets; intro x; refine Kept.cut (a := a) (x := x) ?_ ?_ <;> [subst x; (clear_value x; intro hx)])
    | (beta_reduce; lift_lets; intro x) | with_reducible apply kept_powerUndo | with_reducible apply kept_setSt
    | with_reducible apply kept_setRb | with_reducible apply kept_each | with_reducible apply kept_uncutPieces
    | (beta_reduce; split)

theorem kept_fnote (h : Kept a s) (y1) (y2) : Kept a (State.fnote s y1 y2) := by
  unfold State.fnote
  repeat' first
    | with_reducible assumption
    | (intro x; refine Kept.cut (a := a) (x := x) ?_ ?_ <;> [subst x; (clear_value x; intro hx)])
    | (beta_reduce; lift_lets; intro x) | with_reducible apply kept_setSq | with_reducible apply kept_setRb

theorem kept_fenceOnly (h : Kept a s) (y1) : Kept a (State.fenceOnly s y1) := by
  unfold State.fenceOnly
  repeat' first
    | with_reducible assumption
    | (intro x; refine Kept.cut (a := a) (x := x) ?_ ?_ <;> [subst x; (clear_value x; intro hx)])
    | (intro x; subst x) | intro x
    | (beta_reduce; lift_lets; intro x; refine Kept.cut (a := a) (x := x) ?_ ?_ <;> [subst x; (clear_value x; intro hx)])
    | with_reducible apply kept_undoUse | with_reducible apply kept_undoEnable | with_reducible apply kept_enpend
    | with_reducible apply kept_setSt | with_reducible apply kept_setRb | with_reducible apply kept_fenceRecs
    | with_reducible apply kept_each | with_reducible apply kept_fencePieces | with_reducible apply kept_bgPark
    | with_reducible apply kept_parkChan | with_reducible apply kept_fnote | with_reducible apply kept_auxSiteHold
    | with_reducible apply kept_rampDown | with_reducible apply kept_noteFall | with_reducible apply kept_fire
    | (beta_reduce; split)

theorem kept_fenceSite (h : Kept a s) (y1) (y2) : Kept a (State.fenceSite s y1 y2) := by
  unfold State.fenceSite
  repeat' first
    | with_reducible assumption
    | (beta_reduce; lift_lets; intro x; refine Kept.cut (a := a) (x := x) ?_ ?_ <;> [subst x; (clear_value x; intro hx)])
    | with_reducible apply kept_hist | with_reducible apply kept_fenceOnly | (beta_reduce; split)

theorem kept_fenceCluster (h : Kept a s) (y1) (y2) : Kept a (State.fenceCluster s y1 y2) := by
  unfold State.fenceCluster
  repeat' first
    | with_reducible assumption
    | (intro x; refine Kept.cut (a := a) (x := x) ?_ ?_ <;> [subst x; (clear_value x; intro hx)])
    | (intro x; subst x) | intro x
    | (beta_reduce; lift_lets; intro x; refine Kept.cut (a := a) (x := x) ?_ ?_ <;> [subst x; (clear_value x; intro hx)])
    | (beta_reduce; lift_lets; intro x) | with_reducible apply kept_f2 | with_reducible apply kept_hist
    | with_reducible apply kept_each | with_reducible apply kept_fenceSite | with_reducible apply kept_parkCluster
    | with_reducible apply Kept.foldl | (beta_reduce; split)

theorem kept_violGate (h : Kept a s) (y1) : Kept a (State.violGate s y1) := by
  unfold State.violGate
  repeat' first
    | with_reducible assumption
    | (beta_reduce; lift_lets; intro x; refine Kept.cut (a := a) (x := x) ?_ ?_ <;> [subst x; (clear_value x; intro hx)])
    | with_reducible apply kept_violation | with_reducible apply kept_fenceSite | with_reducible apply kept_hist
    | (beta_reduce; split)

theorem kept_gatesCheck (h : Kept a s)  : Kept a (State.gatesCheck s) := by
  unfold State.gatesCheck
  repeat' first
    | with_reducible assumption
    | (intro x; refine Kept.cut (a := a) (x := x) ?_ ?_ <;> [subst x; (clear_value x; intro hx)])
    | (intro x; subst x) | intro x | (beta_reduce; lift_lets; intro x) | with_reducible apply kept_violGate
    | with_reducible apply Kept.foldl | (refine Kept.mkMem ?_ rfl (fun m => m) rfl rfl rfl rfl rfl rfl rfl rfl)

theorem kept_enterF4 (h : Kept a s) (y1) : Kept a (State.enterF4 s y1) := by
  unfold State.enterF4
  repeat' first
    | with_reducible assumption
    | (intro x; refine Kept.cut (a := a) (x := x) ?_ ?_ <;> [subst x; (clear_value x; intro hx)])
    | (intro x; subst x)
    | (beta_reduce; lift_lets; intro x; refine Kept.cut (a := a) (x := x) ?_ ?_ <;> [subst x; (clear_value x; intro hx)])
    | with_reducible apply kept_hist | with_reducible apply kept_noteFall | with_reducible apply kept_gatesOpen
    | with_reducible apply kept_safeActs | (beta_reduce; split)
    | (refine Kept.mkSafe ?_ rfl (fun m => m) rfl rfl rfl rfl (by simp) rfl rfl)

theorem kept_wardenCut (h : Kept a s) (y1) : Kept a (State.wardenCut s y1) := by
  unfold State.wardenCut
  repeat' first
    | with_reducible assumption
    | (intro x; refine Kept.cut (a := a) (x := x) ?_ ?_ <;> [subst x; (clear_value x; intro hx)])
    | (intro x; subst x)
    | (beta_reduce; lift_lets; intro x; refine Kept.cut (a := a) (x := x) ?_ ?_ <;> [subst x; (clear_value x; intro hx)])
    | with_reducible apply kept_dropB | with_reducible apply kept_setRb | with_reducible apply kept_setRl
    | with_reducible apply kept_railDisch | (beta_reduce; split)

theorem kept_wardenZoneCut (h : Kept a s) (y1) : Kept a (State.wardenZoneCut s y1) := by
  unfold State.wardenZoneCut
  repeat' first
    | with_reducible assumption | (beta_reduce; lift_lets; intro x) | with_reducible apply kept_setRb
    | with_reducible apply kept_setKz

theorem kept_monTrip (h : Kept a s) (y1) : Kept a (State.monTrip s y1) := by
  unfold State.monTrip
  repeat' first
    | with_reducible assumption
    | (beta_reduce; lift_lets; intro x; refine Kept.cut (a := a) (x := x) ?_ ?_ <;> [subst x; (clear_value x; intro hx)])
    | with_reducible apply kept_chFlag | with_reducible apply kept_fenceSite | (beta_reduce; split)

theorem kept_tripCheck (h : Kept a s) (y1) (y2) (y3) : Kept a (State.tripCheck s y1 y2 y3) := by
  unfold State.tripCheck
  repeat' first | with_reducible assumption | with_reducible apply kept_monTrip | (beta_reduce; split)

theorem kept_cmpStart (h : Kept a s) (y1) (y2) : Kept a (State.cmpStart s y1 y2) := by
  unfold State.cmpStart
  repeat' first
    | with_reducible assumption
    | (beta_reduce; lift_lets; intro x; refine Kept.cut (a := a) (x := x) ?_ ?_ <;> [subst x; (clear_value x; intro hx)])
    | with_reducible apply kept_cmpBegin | with_reducible apply kept_tripCheck | (beta_reduce; split)

theorem kept_gateNote (h : Kept a s) (y1) : Kept a (State.gateNote s y1) := by
  unfold State.gateNote
  repeat' first
    | with_reducible assumption | (beta_reduce; lift_lets; intro x)
    | (refine Kept.mkMem ?_ rfl (fun m => m) rfl rfl rfl rfl rfl rfl rfl rfl)

theorem kept_f2Done (h : Kept a s) (y1) (y2) : Kept a (State.f2Done s y1 y2) := by
  unfold State.f2Done
  repeat' first
    | with_reducible assumption | (beta_reduce; lift_lets; intro x) | with_reducible apply kept_f2Put
    | (beta_reduce; split)

theorem kept_latchF5 (h : Kept a s) (y1) (y2) : Kept a (State.latchF5 s y1 y2) := by
  unfold State.latchF5
  split
  · exact h
  · next hn =>
    refine kept_pirq (h.sec fun m _ => absurd ?_ hn) _
    have := h.latch m
    rw [this]; exact m

theorem kept_wardenAll (h : Kept a s)  : Kept a (State.wardenAll s) := by
  unfold State.wardenAll
  repeat' first
    | with_reducible assumption | intro x
    | (beta_reduce; lift_lets; intro x; refine Kept.cut (a := a) (x := x) ?_ ?_ <;> [subst x; (clear_value x; intro hx)])
    | with_reducible apply kept_each | with_reducible apply kept_wardenCut | with_reducible apply kept_wardenZoneCut

theorem kept_enterF5 (h : Kept a s) (y1) (y2) : Kept a (State.enterF5 s y1 y2) := by
  unfold State.enterF5
  repeat' first
    | with_reducible assumption
    | (intro x; refine Kept.cut (a := a) (x := x) ?_ ?_ <;> [subst x; (clear_value x; intro hx)])
    | (intro x; subst x)
    | (beta_reduce; lift_lets; intro x; refine Kept.cut (a := a) (x := x) ?_ ?_ <;> [subst x; (clear_value x; intro hx)])
    | with_reducible apply kept_latchF5 | with_reducible apply kept_hist | with_reducible apply kept_wardenAll
    | with_reducible apply kept_gatesOpen | with_reducible apply kept_safeActs | with_reducible apply kept_noteFall
    | (beta_reduce; split) | (refine Kept.mkSafe ?_ rfl (fun m => m) rfl rfl rfl rfl (by simp) rfl rfl)

theorem kept_zoneFault (h : Kept a s) (y1) (y2) : Kept a (State.zoneFault s y1 y2) := by
  unfold State.zoneFault
  repeat' first
    | with_reducible assumption
    | (intro x; refine Kept.cut (a := a) (x := x) ?_ ?_ <;> [subst x; (clear_value x; intro hx)])
    | (beta_reduce; lift_lets; intro x) | with_reducible apply kept_kzStop | with_reducible apply kept_setRf
    | with_reducible apply kept_setRb | with_reducible apply kept_f2

theorem kept_wardenSafe (h : Kept a s) (y1) : Kept a (State.wardenSafe s y1) := by
  unfold State.wardenSafe
  repeat' first
    | with_reducible assumption
    | (intro x; refine Kept.cut (a := a) (x := x) ?_ ?_ <;> [subst x; (clear_value x; intro hx)])
    | (beta_reduce; lift_lets; intro x) | with_reducible apply kept_wardenAll
    | with_reducible refine kept_setSg ?_ _ (by decide) | with_reducible apply kept_enterF4
    | (refine Kept.mkMem ?_ rfl (fun m => m) rfl rfl rfl rfl rfl rfl rfl rfl)

theorem kept_railTrip (h : Kept a s) (y1) (y2) : Kept a (State.railTrip s y1 y2) := by
  unfold State.railTrip
  repeat' first
    | with_reducible assumption
    | (intro x; refine Kept.cut (a := a) (x := x) ?_ ?_ <;> [subst x; (clear_value x; intro hx)])
    | (beta_reduce; lift_lets; intro x) | with_reducible apply kept_fire | with_reducible apply kept_setRf
    | with_reducible apply kept_setRb | with_reducible apply kept_fenceSite | with_reducible apply kept_railDown
    | (beta_reduce; split)

theorem kept_unparkChan (h : Kept a s) (y1) : Kept a (State.unparkChan s y1) := by
  unfold State.unparkChan
  repeat' first
    | with_reducible assumption
    | (intro x; refine Kept.cut (a := a) (x := x) ?_ ?_ <;> [subst x; (clear_value x; intro hx)])
    | (intro x; subst x) | intro x
    | (beta_reduce; lift_lets; intro x; refine Kept.cut (a := a) (x := x) ?_ ?_ <;> [subst x; (clear_value x; intro hx)])
    | with_reducible apply kept_setRb | with_reducible apply kept_setCh | with_reducible apply kept_cmpStart
    | with_reducible apply Kept.foldl

theorem kept_violRail (h : Kept a s) (y1) : Kept a (State.violRail s y1) := by
  unfold State.violRail
  repeat' first
    | with_reducible assumption
    | (intro x; refine Kept.cut (a := a) (x := x) ?_ ?_ <;> [subst x; (clear_value x; intro hx)])
    | (intro x; subst x)
    | (beta_reduce; lift_lets; intro x; refine Kept.cut (a := a) (x := x) ?_ ?_ <;> [subst x; (clear_value x; intro hx)])
    | with_reducible apply kept_violation | with_reducible apply kept_wardenCut | with_reducible apply kept_setRl
    | with_reducible apply kept_siteStep | with_reducible apply kept_fenceSite | with_reducible apply kept_hist
    | (beta_reduce; split)

theorem kept_violZone (h : Kept a s) (y1) : Kept a (State.violZone s y1) := by
  unfold State.violZone
  repeat' first
    | with_reducible assumption
    | (intro x; refine Kept.cut (a := a) (x := x) ?_ ?_ <;> [subst x; (clear_value x; intro hx)])
    | (intro x; subst x)
    | (beta_reduce; lift_lets; intro x; refine Kept.cut (a := a) (x := x) ?_ ?_ <;> [subst x; (clear_value x; intro hx)])
    | with_reducible apply kept_violation | with_reducible apply kept_wardenZoneCut | with_reducible apply kept_setKz
    | with_reducible apply kept_f2 | with_reducible apply kept_kzStop | (beta_reduce; split)

/-! Machine/Idma.lean -/

theorem kept_copyStart (h : Kept a s) (y1) (y2) (y3) (y4) : Kept a (State.copyStart s y1 y2 y3 y4) := by
  unfold State.copyStart
  repeat' first
    | with_reducible assumption
    | (intro x; refine Kept.cut (a := a) (x := x) ?_ ?_ <;> [subst x; (clear_value x; intro hx)])
    | (beta_reduce; lift_lets; intro x) | with_reducible apply kept_setSq | with_reducible apply kept_setRb

theorem kept_copyWord (h : Kept a s) (y1) : Kept a (State.copyWord s y1) := by
  unfold State.copyWord
  repeat' first
    | with_reducible assumption
    | (intro x; refine Kept.cut (a := a) (x := x) ?_ ?_ <;> [subst x; (clear_value x; intro hx)])
    | (intro x; subst x) | (beta_reduce; lift_lets; intro x) | with_reducible apply kept_fresh
    | with_reducible apply kept_rowSeen | with_reducible apply kept_setSq | with_reducible apply kept_count
    | with_reducible apply kept_setRb | (beta_reduce; split)

theorem kept_copyTick (h : Kept a s) (y1) : Kept a (State.copyTick s y1) := by
  unfold State.copyTick
  repeat' first
    | with_reducible assumption | (beta_reduce; lift_lets; intro x) | with_reducible apply kept_copyWord
    | with_reducible apply kept_setSq | (beta_reduce; split)

/-! Machine/Seq.lean -/

theorem kept_Flow_reached (h : Kept a s) {f : Flow} (hf : FlowKept a f) : Kept a (f.reached s) := by
  cases f with
  | next => exact hf
  | jump => exact hf
  | trap => exact h
  | hold => exact hf

theorem kept_Flow_timed {f : Flow} (x e) (h : FlowKept a f) : FlowKept a (f.timed x e) := by
  cases f with
  | hold t =>
    show Kept a (if e.caddy then t.setSq x _ else t)
    split
    · exact kept_setSq (s := t) h ..
    · exact h
  | _ => exact h

theorem kept_microSet (h : Kept a s) (y1) (y2) : Kept a (State.microSet s y1 y2) := by
  unfold State.microSet
  repeat' first
    | with_reducible assumption | intro x | (beta_reduce; lift_lets; intro x) | with_reducible apply kept_corrected
    | with_reducible apply kept_fresh | with_reducible apply kept_setSq | with_reducible apply Kept.foldl
    | (beta_reduce; split)

theorem kept_fenceSeq (h : Kept a s) (y1) (y2) : Kept a (State.fenceSeq s y1 y2) := by
  unfold State.fenceSeq
  repeat' first
    | with_reducible assumption | intro x | (beta_reduce; lift_lets; intro x)
    | with_reducible apply kept_fenceCluster | with_reducible apply kept_hist | with_reducible apply kept_f2
    | with_reducible apply Kept.foldl | (beta_reduce; split)

theorem kept_machineCheck (h : Kept a s) (y1) (y2) (y3) (y4) : Kept a (State.machineCheck s y1 y2 y3 y4) := by
  unfold State.machineCheck
  repeat' first
    | with_reducible assumption
    | (intro x; refine Kept.cut (a := a) (x := x) ?_ ?_ <;> [subst x; (clear_value x; intro hx)])
    | (intro x; subst x)
    | (beta_reduce; lift_lets; intro x; refine Kept.cut (a := a) (x := x) ?_ ?_ <;> [subst x; (clear_value x; intro hx)])
    | with_reducible apply kept_mcLatch | with_reducible apply kept_uncorrected | with_reducible apply kept_fenceSeq
    | with_reducible apply kept_haltSeq | (beta_reduce; split)
    | (refine Kept.mkMem ?_ rfl (fun m => m) rfl rfl rfl rfl rfl rfl rfl rfl)

theorem kept_trapNote (h : Kept a s) (y1) (y2) (y3) (y4) : Kept a (State.trapNote s y1 y2 y3 y4) := by
  unfold State.trapNote
  repeat' first | with_reducible assumption | with_reducible apply kept_setRg | with_reducible apply kept_setRf

theorem kept_unlockLines (h : Kept a s) (y1) : Kept a (State.unlockLines s y1) := by
  unfold State.unlockLines
  repeat' first
    | with_reducible assumption
    | (intro x; refine Kept.cut (a := a) (x := x) ?_ ?_ <;> [subst x; (clear_value x; intro hx)])
    | (beta_reduce; lift_lets; intro x) | with_reducible apply kept_setSq | with_reducible apply kept_setRf
    | with_reducible apply kept_setRb | (beta_reduce; split)

theorem kept_trapTake (h : Kept a s) (y1) (y2) (y3) (y4) (y5) : Kept a (State.trapTake s y1 y2 y3 y4 y5) := by
  unfold State.trapTake
  repeat' first
    | with_reducible assumption
    | (intro x; refine Kept.cut (a := a) (x := x) ?_ ?_ <;> [subst x; (clear_value x; intro hx)])
    | (intro x; subst x)
    | (beta_reduce; lift_lets; intro x; refine Kept.cut (a := a) (x := x) ?_ ?_ <;> [subst x; (clear_value x; intro hx)])
    | with_reducible apply kept_trapNote | with_reducible apply kept_setRb | with_reducible apply kept_setRf
    | with_reducible apply kept_unlockLines | with_reducible apply kept_setSq | with_reducible apply kept_haltSeq
    | (beta_reduce; split)

theorem kept_trapEnter (h : Kept a s) (y1) (y2) (y3) (y4) (y5) : Kept a (State.trapEnter s y1 y2 y3 y4 y5) := by
  unfold State.trapEnter
  repeat' first
    | with_reducible assumption
    | (intro x; refine Kept.cut (a := a) (x := x) ?_ ?_ <;> [subst x; (clear_value x; intro hx)])
    | (intro x; subst x) | (beta_reduce; lift_lets; intro x) | with_reducible apply kept_microSet
    | with_reducible apply kept_machineCheck | with_reducible apply kept_trapTake | with_reducible apply kept_setSq
    | (beta_reduce; split)

theorem kept_exception (h : Kept a s) (y1) (y2) (y3) (y4) (y5) : Kept a (State.exception s y1 y2 y3 y4 y5) := by
  unfold State.exception
  repeat' first
    | with_reducible assumption
    | (intro x; refine Kept.cut (a := a) (x := x) ?_ ?_ <;> [subst x; (clear_value x; intro hx)])
    | (intro x; subst x)
    | (beta_reduce; lift_lets; intro x; refine Kept.cut (a := a) (x := x) ?_ ?_ <;> [subst x; (clear_value x; intro hx)])
    | with_reducible apply kept_count | with_reducible apply kept_trapEnter | with_reducible apply kept_haltSeq
    | with_reducible apply kept_trapNote | with_reducible apply kept_fenceSeq | with_reducible apply kept_notice
    | (beta_reduce; split)

theorem kept_retire (h : Kept a s) (y1) (y2) (y3) : Kept a (State.retire s y1 y2 y3) := by
  unfold State.retire
  repeat' first
    | with_reducible assumption
    | (intro x; refine Kept.cut (a := a) (x := x) ?_ ?_ <;> [subst x; (clear_value x; intro hx)])
    | (beta_reduce; lift_lets; intro x) | with_reducible apply kept_setSq | with_reducible apply kept_haltSeq
    | (beta_reduce; split)

theorem kept_stopSeq (h : Kept a s) (y1) : Kept a (State.stopSeq s y1) := by
  unfold State.stopSeq
  repeat' first
    | with_reducible assumption | (beta_reduce; lift_lets; intro x) | with_reducible apply kept_haltSeq
    | with_reducible apply kept_setSq | (beta_reduce; split)

theorem kept_seqCtl (h : Kept a s) (y1) (y2) : Kept a (State.seqCtl s y1 y2) := by
  unfold State.seqCtl
  repeat' first
    | with_reducible assumption | (intro x; subst x)
    | (beta_reduce; lift_lets; intro x; refine Kept.cut (a := a) (x := x) ?_ ?_ <;> [subst x; (clear_value x; intro hx)])
    | with_reducible apply kept_stopSeq | with_reducible apply kept_count | with_reducible apply kept_setSq
    | (beta_reduce; split)

theorem kept_seqRegWrite (h : Kept a s) (y1) (y2) (y3) : Kept a (State.seqRegWrite s y1 y2 y3) := by
  unfold State.seqRegWrite
  repeat' first
    | with_reducible assumption | (beta_reduce; lift_lets; intro x) | with_reducible apply kept_setSq
    | with_reducible apply kept_count | (beta_reduce; split)

theorem kept_idmaCtl (h : Kept a s) (y1) (y2) : Kept a (State.idmaCtl s y1 y2) := by
  unfold State.idmaCtl
  repeat' first
    | with_reducible assumption | (intro x; subst x) | (beta_reduce; lift_lets; intro x)
    | with_reducible apply kept_setRb | with_reducible apply kept_copyStart | (beta_reduce; split)

theorem kept_seqBegin (h : Kept a s) (y1) (y2) : Kept a (State.seqBegin s y1 y2) := by
  unfold State.seqBegin
  repeat' first
    | with_reducible assumption
    | (intro x; refine Kept.cut (a := a) (x := x) ?_ ?_ <;> [subst x; (clear_value x; intro hx)])
    | (intro x; subst x) | intro x | (beta_reduce; lift_lets; intro x) | with_reducible apply kept_setSq
    | with_reducible apply kept_dropMeas | with_reducible apply kept_setRb | with_reducible apply kept_each
    | with_reducible apply kept_setCh | (beta_reduce; split)

theorem kept_seqhCtl (h : Kept a s) (y1) : Kept a (State.seqhCtl s y1) := by
  unfold State.seqhCtl
  repeat' first
    | with_reducible assumption
    | (beta_reduce; lift_lets; intro x; refine Kept.cut (a := a) (x := x) ?_ ?_ <;> [subst x; (clear_value x; intro hx)])
    | with_reducible apply kept_stopSeq | with_reducible apply kept_count | with_reducible apply kept_seqBegin
    | (beta_reduce; split)

theorem kept_mcSweep (h : Kept a s)  : Kept a (State.mcSweep s) := by
  unfold State.mcSweep
  repeat' first
    | with_reducible assumption | intro x | with_reducible apply kept_each | with_reducible apply kept_machineCheck
    | (beta_reduce; split)

theorem kept_copyDone (h : Kept a s) (y1) : Kept a (State.copyDone s y1) := by
  unfold State.copyDone
  repeat' first
    | with_reducible assumption
    | (intro x; refine Kept.cut (a := a) (x := x) ?_ ?_ <;> [subst x; (clear_value x; intro hx)])
    | (beta_reduce; lift_lets; intro x) | with_reducible apply kept_setRb | with_reducible apply kept_setSq
    | with_reducible apply kept_retire | with_reducible apply kept_copyStart | (beta_reduce; split)

theorem kept_cutShort (h : Kept a s) (e) {fl : Flow} (hf : FlowKept a fl) : Kept a (s.cutShort e fl) := by
  unfold State.cutShort
  split
  · exact h
  · refine kept_fresh ?_
    split
    · exact kept_Flow_reached h hf
    · exact h

theorem kept_fetchFixed (h : Kept a s) (y1) : Kept a (State.fetchFixed s y1) := by
  unfold State.fetchFixed
  repeat' first
    | with_reducible assumption | (beta_reduce; lift_lets; intro x) | with_reducible apply kept_corrected
    | (beta_reduce; split)

theorem kept_seqhTouch (h : Kept a s) (y1) : Kept a (State.seqhTouch s y1) := by
  unfold State.seqhTouch
  repeat' first
    | with_reducible assumption | (intro x; subst x) | (beta_reduce; lift_lets; intro x) | (beta_reduce; split)
    | (refine Kept.mkMem ?_ rfl (fun m => m) rfl rfl rfl rfl rfl rfl rfl rfl)

theorem kept_fetchExc (h : Kept a s) (y1) (y2) (y3) : Kept a (State.fetchExc s y1 y2 y3) := by
  unfold State.fetchExc
  repeat' first
    | with_reducible assumption | with_reducible apply kept_fetchFixed | with_reducible apply kept_seqhTouch
    | with_reducible apply kept_uncorrected | with_reducible apply kept_setSq | with_reducible apply kept_exception
    | (dsimp only; split) | split

theorem kept_flow (h : Kept a s) (x) {f : Flow} (hf : FlowKept a f) : Kept a (s.flow x f) := by
  cases f with
  | next t c => exact kept_retire hf ..
  | jump t pc c => exact kept_retire hf ..
  | trap c i => exact kept_exception h ..
  | hold t => exact hf

theorem kept_microFail (h : Kept a s) (x op e c) {fl : Flow} (hf : FlowKept a fl) : Kept a (s.microFail x op e c fl) :=
  kept_machineCheck (kept_cutShort h e hf) ..

theorem kept_trapLate (h : Kept a s) (y1) (y2) (y3) : Kept a (State.trapLate s y1 y2 y3) := by
  unfold State.trapLate
  repeat' first
    | with_reducible assumption | (beta_reduce; lift_lets; intro x) | with_reducible apply kept_setSq
    | (beta_reduce; split)

theorem kept_microStay (h : Kept a s) (x e) {fl : Flow} (hf : FlowKept a fl) : Kept a (s.microStay x e fl) :=
  kept_setSq (kept_cutShort h e hf) ..

theorem kept_instr (h : Kept a s) (x op w mc rng vals) {act : State → Flow}
    (ha : ∀ s, Kept a s → FlowKept a (act s)) : Kept a (s.instr x op w mc rng vals act) := by
  unfold State.instr
  split
  · exact h
  have h1 := kept_seqhTouch h x
  generalize s.seqhTouch x = s1 at h1
  dsimp only
  split
  · exact kept_exception h1 ..
  split
  · exact kept_setSq h1 ..
  have h2 := kept_microSet h1 x (s1.micro x mc)
  generalize s1.micro x mc = e at h2
  generalize s1.microSet x e = s2 at h2
  have h3 : FlowKept a (match offBit w rng vals with
      | some i => .trap 0x02 i
      | none => act s2) := by
    split
    · trivial
    · exact ha _ h2
  split
  · exact kept_microFail h2 _ _ _ _ h3
  split
  · exact kept_trapLate (kept_flow h2 x (kept_Flow_timed _ _ h3)) ..
  · exact kept_microStay h2 _ _ h3

theorem kept_interrupt (h : Kept a s) (y1) : Kept a (State.interrupt s y1) := by
  unfold State.interrupt
  repeat' first
    | with_reducible assumption | (intro x; subst x) | (beta_reduce; lift_lets; intro x)
    | with_reducible apply kept_trapEnter | with_reducible apply kept_count | (beta_reduce; split)

theorem kept_execSeqRun (y0) (y1) (y2) {t : State} (e : execSeqRun y0 y1 y2 s = .next t) : Kept s t := by
  cases e
  repeat' first
    | with_reducible assumption | with_reducible exact Kept.refl | intro x | with_reducible apply kept_gateWrite
    | with_reducible apply kept_seqCtl

theorem kept_execSeqStop (y0) (y1) (y2) {t : State} (e : execSeqStop y0 y1 y2 s = .next t) : Kept s t := by
  cases e
  repeat' first
    | with_reducible assumption | with_reducible exact Kept.refl | intro x | with_reducible apply kept_gateWrite
    | with_reducible apply kept_seqCtl

theorem kept_execSeqRegWrite (y0) (y1) (y2) (y3) {t : State} (e : execSeqRegWrite y0 y1 y2 y3 s = .next t) : Kept s t := by
  cases e
  repeat' first
    | with_reducible assumption | with_reducible exact Kept.refl | intro x | with_reducible apply kept_gateWrite
    | with_reducible apply kept_seqRegWrite

theorem kept_execIdmaGo (y0) (y1) (y2) {t : State} (e : execIdmaGo y0 y1 y2 s = .next t) : Kept s t := by
  cases e
  repeat' first
    | with_reducible assumption | with_reducible exact Kept.refl | intro x | with_reducible apply kept_gateWrite
    | with_reducible apply kept_idmaCtl

theorem kept_execIdmaComplete (y0) {t : State} (e : execIdmaComplete y0 s = .next t) : Kept s t := by
  cases e
  repeat' first | with_reducible exact Kept.refl | with_reducible apply kept_copyDone

theorem kept_execInterruptEntry (y0) {t : State} (e : execInterruptEntry y0 s = .next t) : Kept s t := by
  cases e
  repeat' first | with_reducible exact Kept.refl | with_reducible apply kept_interrupt

theorem kept_execSeqhRun (y0) (y1) {t : State} (e : execSeqhRun y0 y1 s = .next t) : Kept s t := by
  cases e
  repeat' first
    | with_reducible assumption | with_reducible exact Kept.refl | intro x | with_reducible apply kept_gateWrite
    | with_reducible apply kept_seqhCtl

theorem kept_execSeqhStop (y0) (y1) {t : State} (e : execSeqhStop y0 y1 s = .next t) : Kept s t := by
  cases e
  repeat' first
    | with_reducible assumption | with_reducible exact Kept.refl | intro x | with_reducible apply kept_gateWrite
    | with_reducible apply kept_seqhCtl

theorem kept_execFetchException (y0) (y1) (y2) {t : State} (e : execFetchException y0 y1 y2 s = .next t) : Kept s t := by
  cases e
  repeat' first | with_reducible exact Kept.refl | with_reducible apply kept_fetchExc

/-! Machine/Setting.lean -/

theorem kept_lateNote (h : Kept a s) (y1) : Kept a (State.lateNote s y1) := by
  unfold State.lateNote
  repeat' first
    | with_reducible assumption | (beta_reduce; split)
    | (refine Kept.mkMem ?_ rfl (fun m => m) rfl rfl rfl rfl rfl rfl rfl rfl)

theorem kept_soil (h : Kept a s) (y1) : Kept a (State.soil s y1) := by
  unfold State.soil
  repeat' first
    | with_reducible assumption | (beta_reduce; split)
    | (refine Kept.mkMem ?_ rfl (fun m => m) rfl rfl rfl rfl rfl rfl rfl rfl)

theorem kept_setShadow (h : Kept a s) (y1) (y2) : Kept a (State.setShadow s y1 y2) := by
  unfold State.setShadow
  repeat' first
    | with_reducible assumption | with_reducible apply kept_soil | with_reducible apply kept_setRg
    | with_reducible apply kept_lateNote

theorem kept_cmpTakeUp (h : Kept a s) (y1) (y2) (y3) : Kept a (State.cmpTakeUp s y1 y2 y3) := by
  unfold State.cmpTakeUp
  repeat' first
    | with_reducible assumption
    | (intro x; refine Kept.cut (a := a) (x := x) ?_ ?_ <;> [subst x; (clear_value x; intro hx)])
    | (intro x; subst x) | intro x | (beta_reduce; lift_lets; intro x) | with_reducible apply kept_noticeCl
    | with_reducible apply kept_setWatch | with_reducible apply kept_cmpStart | with_reducible apply Kept.foldl
    | (beta_reduce; split)

theorem kept_chanTakeUp (h : Kept a s) (y1) (y2) (y3) : Kept a (State.chanTakeUp s y1 y2 y3) := by
  unfold State.chanTakeUp
  repeat' first
    | with_reducible assumption
    | (intro x; refine Kept.cut (a := a) (x := x) ?_ ?_ <;> [subst x; (clear_value x; intro hx)])
    | (intro x; subst x) | (beta_reduce; lift_lets; intro x) | with_reducible apply kept_noticeCl
    | with_reducible apply kept_chFlag | with_reducible apply kept_setAp | with_reducible apply kept_cmpTakeUp
    | (beta_reduce; split)

theorem kept_hvCheck (h : Kept a s) (y1) : Kept a (State.hvCheck s y1) := by
  unfold State.hvCheck
  repeat' first
    | with_reducible assumption
    | (intro x; refine Kept.cut (a := a) (x := x) ?_ ?_ <;> [subst x; (clear_value x; intro hx)])
    | (intro x; subst x) | intro x | (beta_reduce; lift_lets; intro x) | with_reducible apply kept_setRg
    | with_reducible apply kept_violGate | with_reducible apply kept_chFlag | with_reducible apply Kept.foldl
    | (beta_reduce; split) | (refine Kept.mkMem ?_ rfl (fun m => m) rfl rfl rfl rfl rfl rfl rfl rfl)

theorem kept_vcllFix (h : Kept a s) (y1) : Kept a (State.vcllFix s y1) := by
  unfold State.vcllFix
  repeat' first
    | with_reducible assumption
    | (intro x; refine Kept.cut (a := a) (x := x) ?_ ?_ <;> [subst x; (clear_value x; intro hx)])
    | (intro x; subst x) | (beta_reduce; lift_lets; intro x) | with_reducible apply kept_setAp | (beta_reduce; split)

theorem kept_chansTakeUp (h : Kept a s)  : Kept a (State.chansTakeUp s) := by
  unfold State.chansTakeUp
  repeat' first
    | with_reducible assumption
    | (intro x; refine Kept.cut (a := a) (x := x) ?_ ?_ <;> [subst x; (clear_value x; intro hx)])
    | (intro x; subst x) | intro x | (beta_reduce; lift_lets; intro x) | with_reducible apply kept_hvCheck
    | with_reducible apply kept_chanTakeUp | with_reducible apply kept_gateNote | with_reducible apply kept_vcllFix
    | with_reducible apply Kept.foldl | (refine Kept.mkMem ?_ rfl (fun m => m) rfl rfl rfl rfl rfl rfl rfl rfl)

theorem kept_edgeMeet (h : Kept a s)  : Kept a (State.edgeMeet s) := by
  unfold State.edgeMeet
  repeat' first
    | with_reducible assumption
    | (intro x; refine Kept.cut (a := a) (x := x) ?_ ?_ <;> [subst x; (clear_value x; intro hx)])
    | (intro x; subst x) | intro x | (beta_reduce; lift_lets; intro x) | with_reducible apply kept_fresh
    | with_reducible apply kept_corrected | with_reducible apply Kept.foldl
    | (refine Kept.mkMem ?_ rfl (fun m => m) rfl rfl rfl rfl rfl rfl rfl rfl)

theorem kept_putShadow (h : Kept a s) (y1) (y2) : Kept a (State.putShadow s y1 y2) := by
  unfold State.putShadow
  repeat' first
    | with_reducible assumption | (beta_reduce; lift_lets; intro x) | with_reducible apply kept_setRg
    | (beta_reduce; split) | (refine Kept.mkMem ?_ rfl (fun m => m) rfl rfl rfl rfl rfl rfl rfl rfl)

theorem kept_lateAgain (h : Kept a s) (y1) : Kept a (State.lateAgain s y1) := by
  unfold State.lateAgain
  repeat' first
    | with_reducible assumption | (intro x; subst x) | intro x
    | (beta_reduce; lift_lets; intro x; refine Kept.cut (a := a) (x := x) ?_ ?_ <;> [subst x; (clear_value x; intro hx)])
    | with_reducible apply kept_putShadow | with_reducible apply kept_soil | with_reducible apply Kept.foldl
    | (beta_reduce; split) | (refine Kept.mkMem ?_ rfl (fun m => m) rfl rfl rfl rfl rfl rfl rfl rfl)

theorem kept_lateBack (h : Kept a s)  : Kept a (State.lateBack s) := by
  unfold State.lateBack
  repeat' first
    | with_reducible assumption | intro x
    | (beta_reduce; lift_lets; intro x; refine Kept.cut (a := a) (x := x) ?_ ?_ <;> [subst x; (clear_value x; intro hx)])
    | with_reducible apply kept_putShadow | with_reducible apply Kept.foldl | (beta_reduce; split)
    | (refine Kept.mkMem ?_ rfl (fun m => m) rfl rfl rfl rfl rfl rfl rfl rfl)

theorem kept_tsApply (h : Kept a s) (y1) : Kept a (State.tsApply s y1) := by
  unfold State.tsApply
  repeat' first
    | with_reducible assumption | (beta_reduce; lift_lets; intro x) | with_reducible apply kept_setAp
    | (beta_reduce; split) | (refine Kept.mkMem ?_ rfl (fun m => m) rfl rfl rfl rfl rfl rfl rfl rfl)

theorem kept_tsLost (h : Kept a s) (y1) : Kept a (State.tsLost s y1) := by
  unfold State.tsLost
  repeat' first
    | with_reducible assumption | intro x | with_reducible apply kept_uncorrected | with_reducible apply Kept.foldl

theorem kept_tsReject (h : Kept a s) (y1) (y2) : Kept a (State.tsReject s y1 y2) := by
  unfold State.tsReject
  generalize y2.mergeSort _ = l
  cases l with
  | nil => exact h
  | cons i l =>
    have k := kept_setRf (kept_count (kept_setRb h (Off.tsErr y1) 31 true) (Off.tsErr y1) 8 8 y2.length) (Off.tsErr y1)
      0 8 (i % 256)
    refine kept_noticeCl (Kept.foldl ?_ fun t i ht => kept_tsLost ht i) ..
    split
    · exact kept_setRb k ..
    · exact k

theorem kept_tsTakeUp (h : Kept a s)  : Kept a (State.tsTakeUp s) := by
  unfold State.tsTakeUp
  repeat' first
    | with_reducible assumption
    | (intro x; refine Kept.cut (a := a) (x := x) ?_ ?_ <;> [subst x; (clear_value x; intro hx)])
    | (intro x; subst x) | intro x | (beta_reduce; lift_lets; intro x) | with_reducible apply kept_tsApply
    | with_reducible apply kept_each | with_reducible apply kept_tsReject | with_reducible apply Kept.foldl
    | (refine Kept.mkMem ?_ rfl (fun m => m) rfl rfl rfl rfl rfl rfl rfl rfl)

theorem kept_takeAll (h : Kept a s)  : Kept a (State.takeAll s) := by
  unfold State.takeAll
  repeat' first
    | with_reducible assumption
    | (intro x; refine Kept.cut (a := a) (x := x) ?_ ?_ <;> [subst x; (clear_value x; intro hx)])
    | (intro x; subst x) | intro x | (beta_reduce; lift_lets; intro x) | with_reducible apply kept_tsTakeUp
    | with_reducible apply kept_chansTakeUp | with_reducible apply kept_setAp | with_reducible apply Kept.foldl
    | (refine Kept.mkMem ?_ rfl (fun m => m) rfl rfl rfl rfl rfl rfl rfl rfl)

theorem kept_takeUp (h : Kept a s)  : Kept a (State.takeUp s) := by
  unfold State.takeUp
  repeat' first
    | with_reducible assumption | with_reducible apply kept_lateAgain | with_reducible apply kept_takeAll
    | with_reducible apply kept_edgeMeet | with_reducible apply kept_lateBack

theorem kept_thermalTick (h : Kept a s)  : Kept a (State.thermalTick s) := by
  unfold State.thermalTick
  repeat' first
    | with_reducible assumption
    | (intro x; refine Kept.cut (a := a) (x := x) ?_ ?_ <;> [subst x; (clear_value x; intro hx)])
    | (intro x; subst x) | intro x | (beta_reduce; lift_lets; intro x) | with_reducible apply kept_setRg
    | with_reducible apply kept_setAp | with_reducible apply kept_setRf | with_reducible apply kept_regBack
    | with_reducible apply Kept.foldl | (refine Kept.mkMem ?_ rfl (fun m => m) rfl rfl rfl rfl rfl rfl rfl rfl)

theorem kept_tapChan (h : Kept a s) (y1) (y2) : Kept a (State.tapChan s y1 y2) := by
  unfold State.tapChan
  repeat' first
    | with_reducible assumption | (intro x; subst x) | (beta_reduce; lift_lets; intro x)
    | with_reducible apply kept_setRg | with_reducible apply kept_setCh

theorem kept_tapsTick (h : Kept a s) (y1) : Kept a (State.tapsTick s y1) := by
  unfold State.tapsTick
  repeat' first
    | with_reducible assumption | intro x | with_reducible apply kept_each | with_reducible apply kept_tapChan

/-! Machine/Issue.lean -/

theorem kept_bgAbandon (h : Kept a s) (y1) : Kept a (State.bgAbandon s y1) := by
  unfold State.bgAbandon
  repeat' first
    | with_reducible assumption
    | (intro x; refine Kept.cut (a := a) (x := x) ?_ ?_ <;> [subst x; (clear_value x; intro hx)])
    | (beta_reduce; lift_lets; intro x) | with_reducible apply kept_setCl | with_reducible apply kept_setRb
    | (beta_reduce; split)

theorem kept_cacheRead (h : Kept a s) (y1) (y2) : Kept a (State.cacheRead s y1 y2).1 := by
  unfold State.cacheRead
  repeat' first
    | with_reducible assumption | (intro x; subst x) | (beta_reduce; lift_lets; intro x)
    | with_reducible apply kept_fresh | with_reducible apply kept_count | with_reducible apply kept_uncorrected
    | with_reducible apply kept_setCl | with_reducible apply kept_corrected | dsimp only | (beta_reduce; split)

theorem kept_showLocks (h : Kept a s) (y1) : Kept a (State.showLocks s y1) := by
  unfold State.showLocks
  repeat' first | with_reducible assumption | with_reducible apply kept_setRf

theorem kept_lockLine (h : Kept a s) (y1) (y2) (y3) : Kept a (State.lockLine s y1 y2 y3) := by
  unfold State.lockLine
  repeat' first
    | with_reducible assumption | (intro x; subst x) | (beta_reduce; lift_lets; intro x)
    | with_reducible apply kept_setSq | with_reducible apply kept_showLocks | with_reducible apply kept_setRb
    | (beta_reduce; split)

theorem kept_nextRow (h : Kept a s) (y1) (y2) : Kept a (State.nextRow s y1 y2).1 := by
  unfold State.nextRow
  repeat' first
    | with_reducible assumption | (beta_reduce; lift_lets; intro x) | with_reducible apply kept_cacheRead
    | with_reducible apply kept_setSq | with_reducible apply kept_rowSeen | with_reducible apply kept_lockLine
    | with_reducible apply kept_potAdvance | with_reducible apply kept_potSeen | dsimp only
    | (beta_reduce; split <;> try (rename_i heq; have k := congrArg Prod.fst heq; dsimp only at k; subst k))

theorem kept_setJob (h : Kept a s) (y1) (y2) : Kept a (State.setJob s y1 y2) := by
  unfold State.setJob
  repeat' first | with_reducible assumption | (beta_reduce; lift_lets; intro x) | with_reducible apply kept_setSq

theorem kept_poisonNote (h : Kept a s) (y1) (y2) : Kept a (State.poisonNote s y1 y2) := by
  unfold State.poisonNote
  repeat' first
    | with_reducible assumption
    | (intro x; refine Kept.cut (a := a) (x := x) ?_ ?_ <;> [subst x; (clear_value x; intro hx)])
    | (beta_reduce; lift_lets; intro x) | with_reducible apply kept_setRf | with_reducible apply kept_noticeCl
    | with_reducible apply kept_flagCl | with_reducible apply kept_count | (beta_reduce; split)

theorem kept_pushEntry (h : Kept a s) (y1) (y2) (y3) : Kept a (State.pushEntry s y1 y2 y3) := by
  unfold State.pushEntry
  repeat' first | with_reducible assumption | (beta_reduce; lift_lets; intro x) | with_reducible apply kept_setCl

theorem kept_pushVec (h : Kept a s) (y1) (y2) (y3) (y4) : Kept a (State.pushVec s y1 y2 y3 y4) := by
  unfold State.pushVec
  repeat' first
    | with_reducible assumption
    | (intro x; refine Kept.cut (a := a) (x := x) ?_ ?_ <;> [subst x; (clear_value x; intro hx)])
    | (intro x; subst x)
    | (beta_reduce; lift_lets; intro x; refine Kept.cut (a := a) (x := x) ?_ ?_ <;> [subst x; (clear_value x; intro hx)])
    | with_reducible apply kept_bgAbandon | with_reducible apply kept_poisonNote | with_reducible apply kept_flagCl
    | with_reducible apply kept_pushEntry | with_reducible apply kept_setSq | with_reducible apply kept_setCl
    | (beta_reduce; split)

theorem kept_passKill (h : Kept a s) (y1) : Kept a (State.passKill s y1) := by
  unfold State.passKill
  repeat' first
    | with_reducible assumption | (intro x; subst x) | (beta_reduce; lift_lets; intro x)
    | with_reducible apply kept_setCl

theorem kept_unlockLoop (h : Kept a s) (y1) (y2) : Kept a (State.unlockLoop s y1 y2) := by
  unfold State.unlockLoop
  repeat' first
    | with_reducible assumption
    | (intro x; refine Kept.cut (a := a) (x := x) ?_ ?_ <;> [subst x; (clear_value x; intro hx)])
    | (intro x; subst x) | (beta_reduce; lift_lets; intro x) | with_reducible apply kept_showLocks
    | with_reducible apply kept_setSq | with_reducible apply kept_setRb | (beta_reduce; split)

theorem kept_mlEnd (h : Kept a s) (y1) : Kept a (State.mlEnd s y1) := by
  unfold State.mlEnd
  repeat' first
    | with_reducible assumption
    | (intro x; refine Kept.cut (a := a) (x := x) ?_ ?_ <;> [subst x; (clear_value x; intro hx)])
    | (beta_reduce; lift_lets; intro x; refine Kept.cut (a := a) (x := x) ?_ ?_ <;> [subst x; (clear_value x; intro hx)])
    | with_reducible apply kept_passKill | with_reducible apply kept_setSq | with_reducible apply kept_retire
    | with_reducible apply kept_unlockLoop

theorem kept_jobLast (h : Kept a s) (y1) (y2) : Kept a (State.jobLast s y1 y2) := by
  unfold State.jobLast
  repeat' first
    | with_reducible assumption | (beta_reduce; lift_lets; intro x) | with_reducible apply kept_retire
    | with_reducible apply kept_mlEnd | with_reducible apply kept_setSq | (beta_reduce; split)

theorem kept_issueOne (h : Kept a s) (y1) (y2) : Kept a (State.issueOne s y1 y2) := by
  unfold State.issueOne
  repeat' first
    | with_reducible assumption
    | (intro x; refine Kept.cut (a := a) (x := x) ?_ ?_ <;> [subst x; (clear_value x; intro hx)])
    | (intro x; subst x) | (beta_reduce; lift_lets; intro x) | with_reducible apply kept_nextRow
    | with_reducible apply kept_setJob | with_reducible apply kept_pushVec | with_reducible apply kept_jobLast
    | (beta_reduce; split <;> try (rename_i heq; have k := congrArg Prod.fst heq; dsimp only at k; subst k))

theorem kept_issueLoop (h : Kept a s) (y1) (y2) : Kept a (State.issueLoop s y1 y2) := by
  revert h
  fun_induction State.issueLoop s y1 y2 <;> intro h
  all_goals
    repeat' first | with_reducible assumption | with_reducible apply kept_issueOne | with_reducible apply_assumption

theorem kept_passTick (h : Kept a s) (y1) : Kept a (State.passTick s y1) := by
  unfold State.passTick
  repeat' first | with_reducible assumption | with_reducible apply kept_setJob | (beta_reduce; split)

theorem kept_issueTick (h : Kept a s) (y1) : Kept a (State.issueTick s y1) := by
  unfold State.issueTick
  repeat' first
    | with_reducible assumption | (beta_reduce; lift_lets; intro x) | with_reducible apply kept_issueLoop
    | with_reducible apply kept_passTick | (beta_reduce; split)

theorem kept_passResolve (h : Kept a s) (y1) (y2) : Kept a (State.passResolve s y1 y2) := by
  unfold State.passResolve
  repeat' first
    | with_reducible assumption
    | (intro x; refine Kept.cut (a := a) (x := x) ?_ ?_ <;> [subst x; (clear_value x; intro hx)])
    | (intro x; subst x) | (beta_reduce; lift_lets; intro x) | with_reducible apply kept_mlEnd
    | with_reducible apply kept_setJob | with_reducible apply kept_setSq | (beta_reduce; split)

theorem kept_sitem (h : Kept a s) (y1) (y2) : Kept a (State.sitem s y1 y2) := by
  unfold State.sitem
  repeat' first
    | with_reducible assumption | (intro x; subst x) | (beta_reduce; lift_lets; intro x)
    | with_reducible apply kept_setSq

theorem kept_stallEnd (h : Kept a s) (y1) (y2) : Kept a (State.stallEnd s y1 y2) := by
  unfold State.stallEnd
  repeat' first
    | with_reducible assumption | (beta_reduce; lift_lets; intro x) | with_reducible apply kept_setJob
    | (beta_reduce; split)

theorem kept_underrunNote (h : Kept a s) (y1) (y2) : Kept a (State.underrunNote s y1 y2) := by
  unfold State.underrunNote
  repeat' first
    | with_reducible assumption
    | (intro x; refine Kept.cut (a := a) (x := x) ?_ ?_ <;> [subst x; (clear_value x; intro hx)])
    | (beta_reduce; lift_lets; intro x) | with_reducible apply kept_setRf | with_reducible apply kept_count
    | with_reducible apply kept_potUnderrun | with_reducible apply kept_fire | with_reducible apply kept_noticeCl
    | with_reducible apply kept_flagCl | (beta_reduce; split)

theorem kept_underrunAbort (h : Kept a s) (y1) : Kept a (State.underrunAbort s y1) := by
  unfold State.underrunAbort
  repeat' first
    | with_reducible assumption
    | (intro x; refine Kept.cut (a := a) (x := x) ?_ ?_ <;> [subst x; (clear_value x; intro hx)])
    | (intro x; subst x) | (beta_reduce; lift_lets; intro x) | with_reducible apply kept_setSq
    | with_reducible apply kept_passKill | with_reducible apply kept_unlockLoop | with_reducible apply kept_pieceGap
    | with_reducible apply kept_count | with_reducible apply kept_haltSeq | (beta_reduce; split)

theorem kept_underrun (h : Kept a s) (y1) : Kept a (State.underrun s y1) := by
  unfold State.underrun
  repeat' first
    | with_reducible assumption | (intro x; subst x)
    | (beta_reduce; lift_lets; intro x; refine Kept.cut (a := a) (x := x) ?_ ?_ <;> [subst x; (clear_value x; intro hx)])
    | (beta_reduce; lift_lets; intro x) | with_reducible apply kept_underrunNote
    | with_reducible apply kept_underrunAbort | with_reducible apply kept_setCl | (beta_reduce; split)

theorem kept_vecBegin (h : Kept a s) (y0) (y1) (y2) (y3) : FlowKept a (vecBegin y0 y1 y2 y3 s) := by
  unfold vecBegin
  repeat' first
    | with_reducible assumption | (intro x; subst x) | (beta_reduce; lift_lets; intro x)
    | with_reducible apply kept_setSq | with_reducible apply FlowKept.hold' | with_reducible apply FlowKept.trap'
    | (beta_reduce; split)

theorem kept_execVec (y0) (y1) (y2) (y3) {t : State} (e : execVec y0 y1 y2 y3 s = .next t) : Kept s t := by
  cases e
  repeat' first
    | with_reducible assumption | with_reducible exact Kept.refl | intro x | with_reducible apply kept_instr
    | with_reducible apply kept_vecBegin

theorem kept_execVecr (y0) (y1) (y2) (y3) {t : State} (e : execVecr y0 y1 y2 y3 s = .next t) : Kept s t := by
  cases e
  repeat' first
    | with_reducible assumption | with_reducible exact Kept.refl | intro x | with_reducible apply kept_instr
    | with_reducible apply kept_vecBegin

theorem kept_execTset (y0) (y1) (y2) {t : State} (e : execTset y0 y1 y2 s = .next t) : Kept s t := by
  cases e
  repeat' first
    | with_reducible assumption | with_reducible exact Kept.refl | intro x | (beta_reduce; lift_lets; intro x)
    | with_reducible apply kept_instr | with_reducible apply kept_setSq | with_reducible apply FlowKept.next'

theorem kept_execSitem (y0) (y1) (y2) {t : State} (e : execSitem y0 y1 y2 s = .next t) : Kept s t := by
  cases e
  repeat' first
    | with_reducible assumption | with_reducible exact Kept.refl | intro x | with_reducible apply kept_instr
    | with_reducible apply kept_sitem | with_reducible apply FlowKept.next'

theorem kept_mloopBegin (h : Kept a s) (y0) (y1) (y2) : FlowKept a (mloopBegin y0 y1 y2 s) := by
  unfold mloopBegin
  repeat' first
    | with_reducible assumption | (intro x; subst x) | (beta_reduce; lift_lets; intro x)
    | with_reducible apply kept_setSq | with_reducible apply FlowKept.trap' | with_reducible apply FlowKept.next'
    | with_reducible apply FlowKept.hold' | (beta_reduce; split)

theorem kept_execMloop (y0) (y1) (y2) (y3) {t : State} (e : execMloop y0 y1 y2 y3 s = .next t) : Kept s t := by
  cases e
  repeat' first
    | with_reducible assumption | with_reducible exact Kept.refl | intro x | with_reducible apply kept_instr
    | with_reducible apply kept_mloopBegin

theorem kept_execMloopPassResolve (y0) (y1) {t : State} (e : execMloopPassResolve y0 y1 s = .next t) : Kept s t := by
  cases e
  repeat' first | with_reducible exact Kept.refl | with_reducible apply kept_passResolve

theorem kept_execVectorStallEnd (y0) (y1) {t : State} (e : execVectorStallEnd y0 y1 s = .next t) : Kept s t := by
  cases e
  repeat' first | with_reducible exact Kept.refl | with_reducible apply kept_stallEnd

theorem kept_execUnderrunStart (y0) {t : State} (e : execUnderrunStart y0 s = .next t) : Kept s t := by
  cases e
  repeat' first | with_reducible exact Kept.refl | with_reducible apply kept_underrun

end Sys2Proof.Machine
end

