-- ==== Sys2Proof/Laws/KeptVector.lean ====
section
/-!
SUPPORT. Kept by queues, sites, vectors and the PMU.
-/
set_option linter.unusedTactic false
set_option linter.unreachableTactic false
namespace Sys2Proof.Machine

open Sys2Proof

variable {a s : State}

/-! Machine/Queue.lean -/

theorem kept_capFiled (h : Kept a s) (y1) (y2) (y3) : Kept a (State.capFiled s y1 y2 y3) := by
  unfold State.capFiled
  repeat' first
    | with_reducible assumption
    | (intro x; refine Kept.cut (a := a) (x := x) ?_ ?_ <;> [subst x; (clear_value x; intro hx)])
    | (intro x; subst x) | (beta_reduce; lift_lets; intro x) | with_reducible apply kept_setCap
    | with_reducible apply kept_capTouch

theorem kept_noticeQ (h : Kept a s) (y1) (y2) : Kept a (State.noticeQ s y1 y2) := by
  unfold State.noticeQ
  repeat' first | with_reducible assumption | with_reducible apply kept_notice

theorem kept_dropRec (h : Kept a s) (y1) : Kept a (State.dropRec s y1) := by
  unfold State.dropRec
  repeat' first
    | with_reducible assumption | with_reducible apply kept_qmCount | with_reducible apply kept_noticeQ
    | with_reducible apply kept_setQWord | (beta_reduce; split)

theorem kept_descSeen (h : Kept a s) (y1) : Kept a (State.descSeen s y1) := by
  unfold State.descSeen
  repeat' first | with_reducible assumption | with_reducible apply kept_count | (beta_reduce; split)

theorem kept_descCache (h : Kept a s) (y1) : Kept a (State.descCache s y1) := by
  unfold State.descCache
  repeat' first
    | with_reducible assumption | (intro x; subst x) | (beta_reduce; lift_lets; intro x)
    | with_reducible apply kept_fresh | with_reducible apply kept_uncorrected | with_reducible apply kept_corrected
    | (beta_reduce; split) | (refine Kept.mkMem ?_ rfl (fun m => m) rfl rfl rfl rfl rfl rfl rfl rfl)

theorem kept_queueUe (h : Kept a s) (y1) (y2) : Kept a (State.queueUe s y1 y2) := by
  unfold State.queueUe
  repeat' first
    | with_reducible assumption | (intro x; subst x)
    | (beta_reduce; lift_lets; intro x; refine Kept.cut (a := a) (x := x) ?_ ?_ <;> [subst x; (clear_value x; intro hx)])
    | with_reducible apply kept_descSeen | with_reducible apply kept_descCache | with_reducible apply kept_f2
    | (beta_reduce; split) | (refine Kept.mkMem ?_ rfl (fun m => m) rfl rfl rfl rfl rfl rfl rfl rfl)

theorem kept_capWord (h : Kept a s) (y1) (y2) (y3) (y4) (y5) : Kept a (State.capWord s y1 y2 y3 y4 y5).1 := by
  unfold State.capWord
  repeat' first
    | with_reducible assumption | with_reducible apply kept_uncorrected | with_reducible apply kept_corrected
    | (beta_reduce; split)

theorem kept_capWords (h : Kept a s) (c r l) : Kept a (State.capWords s c r l).1 := by
  induction l generalizing s r with
  | nil => exact h
  | cons w l ih =>
    unfold State.capWords
    split
    · exact ih h _
    · exact ih (kept_fresh (kept_capWord h ..)) _

theorem kept_capLost (h : Kept a s) (y1) (y2) : Kept a (State.capLost s y1 y2).1 := by
  unfold State.capLost
  repeat' first
    | with_reducible assumption | (intro x; subst x) | (beta_reduce; lift_lets; intro x)
    | with_reducible apply kept_fresh | with_reducible apply kept_capWord | with_reducible apply kept_setCap
    | (beta_reduce; split <;> try (rename_i heq; have k := congrArg Prod.fst heq; dsimp only at k; subst k))

theorem kept_offRec (h : Kept a s) (y1) : Kept a (State.offRec s y1) := by
  unfold State.offRec
  repeat' first | with_reducible assumption | with_reducible apply kept_noticeQ | with_reducible apply kept_qmCount

theorem kept_touchOpen (h : Kept a s)  : Kept a (State.touchOpen s) := by
  unfold State.touchOpen
  repeat' first
    | with_reducible assumption | intro x | with_reducible apply kept_each | with_reducible apply kept_capTouch

theorem kept_placeRec (h : Kept a s) (y1) (y2) (y3) : Kept a (State.placeRec s y1 y2 y3) := by
  unfold State.placeRec
  repeat' first
    | with_reducible assumption
    | (beta_reduce; lift_lets; intro x; refine Kept.cut (a := a) (x := x) ?_ ?_ <;> [subst x; (clear_value x; intro hx)])
    | with_reducible apply kept_place | with_reducible apply kept_touchOpen | with_reducible apply kept_commitQueue
    | (beta_reduce; split)

theorem kept_fileRec (h : Kept a s) (y1) (y2) : Kept a (State.fileRec s y1 y2) := by
  unfold State.fileRec
  repeat' first
    | with_reducible assumption | (intro x; subst x)
    | (beta_reduce; lift_lets; intro x; refine Kept.cut (a := a) (x := x) ?_ ?_ <;> [subst x; (clear_value x; intro hx)])
    | with_reducible apply kept_queueUe | with_reducible apply kept_offRec | with_reducible apply kept_dropRec
    | with_reducible apply kept_holdStat | with_reducible apply kept_holdPut | with_reducible apply kept_placeRec
    | (beta_reduce; split)

theorem kept_acceptCap (h : Kept a s) (y1) (y2) : Kept a (State.acceptCap s y1 y2) := by
  unfold State.acceptCap
  repeat' first
    | with_reducible assumption | (intro x; subst x) | (beta_reduce; lift_lets; intro x)
    | with_reducible apply kept_capFiled | with_reducible apply kept_dropRec | with_reducible apply kept_queueUe
    | with_reducible apply kept_slotHold | with_reducible apply kept_capWords | with_reducible apply kept_capLost
    | with_reducible apply kept_fileRec
    | (beta_reduce; split <;> try (rename_i heq; have k := congrArg Prod.fst heq; dsimp only at k; subst k))

theorem kept_acceptMeas (h : Kept a s) (y1) (y2) : Kept a (State.acceptMeas s y1 y2) := by
  unfold State.acceptMeas
  repeat' first
    | with_reducible assumption | with_reducible apply kept_slotHold | with_reducible apply kept_fileRec
    | with_reducible apply kept_setCl | (dsimp only; split) | split

theorem kept_acceptPush (h : Kept a s) (y1) (y2) : Kept a (State.acceptPush s y1 y2) := by
  unfold State.acceptPush
  repeat' first
    | with_reducible assumption | (beta_reduce; lift_lets; intro x) | with_reducible apply kept_slotHold
    | with_reducible apply kept_exception | with_reducible apply kept_queueUe | with_reducible apply kept_retire
    | with_reducible apply kept_fileRec | (beta_reduce; split)

theorem kept_acceptTiu (h : Kept a s) (y1) (y2) : Kept a (State.acceptTiu s y1 y2) := by
  unfold State.acceptTiu
  repeat' first
    | with_reducible assumption | (beta_reduce; lift_lets; intro x) | with_reducible apply kept_slotHold
    | with_reducible apply kept_setTiuState | with_reducible apply kept_fileRec | with_reducible apply kept_tiuFlag
    | (beta_reduce; split)

theorem kept_qmHold (h : Kept a s) (y1) (y2) : Kept a (State.qmHold s y1 y2) := by
  unfold State.qmHold
  repeat' first
    | with_reducible assumption | (intro x; subst x) | (beta_reduce; lift_lets; intro x)
    | with_reducible apply kept_setRg | with_reducible apply kept_qmCount | (beta_reduce; split)

theorem kept_qdStore (h : Kept a s) (y1) (y2) (y3) : Kept a (State.qdStore s y1 y2 y3) := by
  unfold State.qdStore
  repeat' first
    | with_reducible assumption
    | (intro x; refine Kept.cut (a := a) (x := x) ?_ ?_ <;> [subst x; (clear_value x; intro hx)])
    | (intro x; subst x) | (beta_reduce; lift_lets; intro x) | with_reducible apply kept_setQWord
    | with_reducible apply kept_setQIdx | (beta_reduce; split)

theorem kept_qdWrite (h : Kept a s) (y1) (y2) (y3) : Kept a (State.qdWrite s y1 y2 y3) := by
  unfold State.qdWrite
  repeat' first
    | with_reducible assumption
    | (intro x; refine Kept.cut (a := a) (x := x) ?_ ?_ <;> [subst x; (clear_value x; intro hx)])
    | (beta_reduce; lift_lets; intro x) | with_reducible apply kept_slotHold | with_reducible apply kept_queueUe
    | with_reducible apply kept_touchOpen | with_reducible apply kept_qdStore | with_reducible apply kept_noticeQ
    | with_reducible apply kept_qmCount | (beta_reduce; split)

theorem kept_headAdv (h : Kept a s) (y1) : Kept a (State.headAdv s y1) := by
  unfold State.headAdv
  repeat' first
    | with_reducible assumption
    | (intro x; refine Kept.cut (a := a) (x := x) ?_ ?_ <;> [subst x; (clear_value x; intro hx)])
    | (intro x; subst x) | (beta_reduce; lift_lets; intro x) | with_reducible apply kept_queueUe
    | with_reducible apply kept_noticeQ | with_reducible apply kept_qmCount | with_reducible apply kept_touchOpen
    | with_reducible apply kept_setQIdx | (beta_reduce; split)

theorem kept_dmaHalt (h : Kept a s) (y1) (y2) (y3) : Kept a (State.dmaHalt s y1 y2 y3) := by
  unfold State.dmaHalt
  repeat' first
    | with_reducible assumption
    | (intro x; refine Kept.cut (a := a) (x := x) ?_ ?_ <;> [subst x; (clear_value x; intro hx)])
    | (beta_reduce; lift_lets; intro x) | with_reducible apply kept_poison | with_reducible apply kept_uncorrected
    | with_reducible apply kept_setRg | with_reducible apply kept_setRb | with_reducible apply kept_f2
    | with_reducible apply kept_irq

theorem kept_dmaLoop (h : Kept a s) (e q i ecc n) : Kept a (State.dmaLoop s e q i ecc n).1 := by
  induction n generalizing s i ecc with
  | zero => exact h
  | succ n ih =>
    unfold State.dmaLoop
    split
    · exact h
    dsimp only
    split
    · exact kept_rowsSeen h ..
    · apply ih
      apply kept_count
      exact (kept_rowsSeen h _).same rfl rfl rfl rfl rfl rfl rfl rfl rfl rfl

theorem kept_dmaUpdate (h : Kept a s) (y1) (y2) : Kept a (State.dmaUpdate s y1 y2) := by
  unfold State.dmaUpdate
  repeat' first
    | with_reducible assumption
    | (intro x; refine Kept.cut (a := a) (x := x) ?_ ?_ <;> [subst x; (clear_value x; intro hx)])
    | (intro x; subst x)
    | (beta_reduce; lift_lets; intro x; refine Kept.cut (a := a) (x := x) ?_ ?_ <;> [subst x; (clear_value x; intro hx)])
    | with_reducible apply kept_setQIdx | with_reducible apply kept_msix | (beta_reduce; split)
    | (refine Kept.mkMem ?_ rfl (fun m => m) rfl rfl rfl rfl rfl rfl rfl rfl)

theorem kept_dmaServe (h : Kept a s) (e ecc) : Kept a (State.dmaServe s e ecc) := by
  unfold State.dmaServe
  split
  · exact h
  split
  · exact h
  next q rest _ =>
  have h1 : Kept a { s with qm := { s.qm with order := Tbl.set [] s.qm.order e rest } } :=
    h.same rfl rfl rfl rfl rfl rfl rfl rfl rfl rfl
  generalize ({ s with qm := { s.qm with order := Tbl.set [] s.qm.order e rest } } : State) = x at h1
  have h1 := kept_queueUe h1 q .ok
  dsimp only
  generalize x.queueUe q .ok = x at h1
  split
  · exact h1
  split
  · exact h1
  have h3 := kept_dmaLoop h1 e q (x.qIdx q 7) ecc (idxDiff (x.qIdx q 5) (x.qIdx q 7))
  split
  · next k => rw [k] at h3; exact kept_dmaUpdate h3 ..
  · next k =>
    rw [k] at h3
    refine kept_dmaHalt ?_ ..
    split
    · exact h3
    · exact kept_dmaUpdate h3 ..

theorem kept_holdMove (h : Kept a s)  : Kept a (State.holdMove s) := by
  unfold State.holdMove
  repeat' first
    | with_reducible assumption | with_reducible apply kept_slotHold | with_reducible apply kept_queueUe
    | with_reducible apply kept_recLost | with_reducible apply kept_dropRec | with_reducible apply kept_offRec
    | with_reducible apply kept_placeRec | with_reducible apply kept_freshBy | with_reducible apply kept_rowsSeen
    | with_reducible apply kept_holdStat | (dsimp only; split) | split
    | (refine Kept.mkMem ?_ rfl (fun m => m) rfl rfl rfl rfl rfl rfl rfl rfl)

theorem kept_linkUp (h : Kept a s)  : Kept a (State.linkUp s) := by
  unfold State.linkUp
  repeat' first
    | with_reducible assumption | (intro x; subst x) | (beta_reduce; lift_lets; intro x)
    | with_reducible apply kept_fresh | (refine Kept.mkMem ?_ rfl (fun m => m) rfl rfl rfl rfl rfl rfl rfl rfl)

theorem kept_execRecordAccept (y0) {t : State} (e : execRecordAccept y0 s = .next t) : Kept s t := by
  cases e
  repeat' first
    | with_reducible exact Kept.refl | with_reducible apply kept_putBehind | with_reducible apply kept_acceptCap
    | with_reducible apply kept_acceptPush | with_reducible apply kept_acceptMeas
    | with_reducible apply kept_acceptTiu | (beta_reduce; split)

theorem kept_execHoldoverMove  {t : State} (e : execHoldoverMove s = .next t) : Kept s t := by
  cases e
  repeat' first
    | with_reducible exact Kept.refl | with_reducible apply kept_putBehind | with_reducible apply kept_holdMove
    | (beta_reduce; split)

theorem kept_execQdWrite (y0) (y1) (y2) {t : State} (e : execQdWrite y0 y1 y2 s = .next t) : Kept s t := by
  cases e
  repeat' first
    | with_reducible assumption | with_reducible exact Kept.refl | intro x | with_reducible apply kept_gateWrite
    | with_reducible apply kept_qdWrite

theorem kept_execQheadAdv (y0) (y1) {t : State} (e : execQheadAdv y0 y1 s = .next t) : Kept s t := by
  cases e
  repeat' first
    | with_reducible assumption | with_reducible exact Kept.refl | intro x | with_reducible apply kept_gateWrite
    | with_reducible apply kept_headAdv

theorem kept_execQmHoldWrite (y0) (y1) (y2) {t : State} (e : execQmHoldWrite y0 y1 y2 s = .next t) : Kept s t := by
  cases e
  repeat' first
    | with_reducible assumption | with_reducible exact Kept.refl | intro x | with_reducible apply kept_gateWrite
    | with_reducible apply kept_qmHold

theorem kept_execDmaCopy (y0) (y1) {t : State} (e : execDmaCopy y0 y1 s = .next t) : Kept s t := by
  cases e
  repeat' first | with_reducible exact Kept.refl | with_reducible apply kept_dmaServe | (beta_reduce; split)

theorem kept_execLinkDown (y0) {t : State} (e : execLinkDown y0 s = .next t) : Kept s t := by
  cases e
  repeat' first
    | with_reducible exact Kept.refl | (beta_reduce; lift_lets; intro x) | (beta_reduce; split)
    | (refine Kept.mkMem ?_ rfl (fun m => m) rfl rfl rfl rfl rfl rfl rfl rfl)

theorem kept_execLinkUp  {t : State} (e : execLinkUp s = .next t) : Kept s t := by
  cases e
  repeat' first | with_reducible exact Kept.refl | with_reducible apply kept_linkUp | (beta_reduce; split)

/-! Machine/Site.lean -/

theorem kept_mapReject (h : Kept a s)  : Kept a (State.mapReject s) := by
  unfold State.mapReject
  repeat' first | with_reducible assumption | with_reducible apply kept_noticeAt | with_reducible apply kept_count

theorem kept_chsiteWrite (h : Kept a s) (y1) (y2) : Kept a (State.chsiteWrite s y1 y2) := by
  unfold State.chsiteWrite
  repeat' first
    | with_reducible assumption
    | (intro x; refine Kept.cut (a := a) (x := x) ?_ ?_ <;> [subst x; (clear_value x; intro hx)])
    | (intro x; subst x) | (beta_reduce; lift_lets; intro x) | with_reducible apply kept_setRg
    | with_reducible apply kept_regNote | with_reducible apply kept_gatesCheck | with_reducible apply kept_mapReject
    | (beta_reduce; split) | (refine Kept.mkMem ?_ rfl (fun m => m) rfl rfl rfl rfl rfl rfl rfl rfl)

theorem kept_powerCheck (h : Kept a s) (y1) : Kept a (State.powerCheck s y1) := by
  unfold State.powerCheck
  repeat' first
    | with_reducible assumption | (intro x; subst x) | (beta_reduce; lift_lets; intro x)
    | with_reducible apply kept_fire | with_reducible apply kept_setRb | with_reducible apply kept_setPst
    | with_reducible apply kept_powerEnd | (beta_reduce; split)

theorem kept_railsiteWrite (h : Kept a s) (y1) (y2) : Kept a (State.railsiteWrite s y1 y2) := by
  unfold State.railsiteWrite
  repeat' first
    | with_reducible assumption
    | (intro x; refine Kept.cut (a := a) (x := x) ?_ ?_ <;> [subst x; (clear_value x; intro hx)])
    | (intro x; subst x) | (beta_reduce; lift_lets; intro x) | with_reducible apply kept_setRg
    | with_reducible apply kept_regNote | with_reducible apply kept_powerCheck | with_reducible apply kept_gatesCheck
    | with_reducible apply kept_mapReject | (beta_reduce; split)
    | (refine Kept.mkMem ?_ rfl (fun m => m) rfl rfl rfl rfl rfl rfl rfl rfl)

theorem kept_auxsiteWrite (h : Kept a s) (y1) (y2) : Kept a (State.auxsiteWrite s y1 y2) := by
  unfold State.auxsiteWrite
  repeat' first
    | with_reducible assumption | with_reducible apply kept_auxHoldSite | with_reducible apply kept_setRg
    | with_reducible apply kept_regNote | with_reducible apply kept_mapReject | (beta_reduce; split)

theorem kept_siteEnable (h : Kept a s) (y1) : Kept a (State.siteEnable s y1) := by
  unfold State.siteEnable
  repeat' first
    | with_reducible assumption | (beta_reduce; lift_lets; intro x) | with_reducible apply kept_enpend
    | with_reducible apply kept_setSt | with_reducible apply kept_auxSiteFree | with_reducible apply kept_setRb
    | (beta_reduce; split)

theorem kept_siteDisable (h : Kept a s) (y1) : Kept a (State.siteDisable s y1) := by
  unfold State.siteDisable
  repeat' first
    | with_reducible assumption
    | (intro x; refine Kept.cut (a := a) (x := x) ?_ ?_ <;> [subst x; (clear_value x; intro hx)])
    | (intro x; subst x) | intro x | (beta_reduce; lift_lets; intro x) | with_reducible apply kept_enpend
    | with_reducible apply kept_setSt | with_reducible apply kept_setRb | with_reducible apply kept_each
    | with_reducible apply kept_dropPieces | with_reducible apply kept_parkChan
    | with_reducible apply kept_auxSiteHold | with_reducible apply kept_rampDown | (beta_reduce; split)

theorem kept_siteCtlWrite (h : Kept a s) (y1) (y2) : Kept a (State.siteCtlWrite s y1 y2) := by
  unfold State.siteCtlWrite
  repeat' first
    | with_reducible assumption
    | (beta_reduce; lift_lets; intro x; refine Kept.cut (a := a) (x := x) ?_ ?_ <;> [subst x; (clear_value x; intro hx)])
    | with_reducible apply kept_setRf | with_reducible apply kept_siteEnable | with_reducible apply kept_siteDisable
    | (beta_reduce; split)

theorem kept_siteStatWrite (h : Kept a s) (y1) (y2) : Kept a (State.siteStatWrite s y1 y2) := by
  unfold State.siteStatWrite
  repeat' first
    | with_reducible assumption | (beta_reduce; lift_lets; intro x) | with_reducible apply kept_enpend
    | with_reducible apply kept_setSt | with_reducible apply kept_auxSiteFree | with_reducible apply kept_setRb
    | (beta_reduce; split)

theorem kept_clPark (h : Kept a s) (y1) : Kept a (State.clPark s y1) := by
  unfold State.clPark
  repeat' first
    | with_reducible assumption
    | (beta_reduce; lift_lets; intro x; refine Kept.cut (a := a) (x := x) ?_ ?_ <;> [subst x; (clear_value x; intro hx)])
    | with_reducible apply kept_setRb | with_reducible apply kept_parkRest | with_reducible apply kept_parkStop
    | (beta_reduce; split)

theorem kept_clUnpark (h : Kept a s) (y1) : Kept a (State.clUnpark s y1) := by
  unfold State.clUnpark
  repeat' first
    | with_reducible assumption
    | (beta_reduce; lift_lets; intro x; refine Kept.cut (a := a) (x := x) ?_ ?_ <;> [subst x; (clear_value x; intro hx)])
    | with_reducible apply kept_setRb | (beta_reduce; split)

theorem kept_clParkWrite (h : Kept a s) (y1) (y2) : Kept a (State.clParkWrite s y1 y2) := by
  unfold State.clParkWrite
  repeat' first
    | with_reducible assumption
    | (intro x; refine Kept.cut (a := a) (x := x) ?_ ?_ <;> [subst x; (clear_value x; intro hx)])
    | (beta_reduce; lift_lets; intro x; refine Kept.cut (a := a) (x := x) ?_ ?_ <;> [subst x; (clear_value x; intro hx)])
    | with_reducible apply kept_w1cPf0 | with_reducible apply kept_setRb | with_reducible apply kept_clPark
    | with_reducible apply kept_clUnpark | (beta_reduce; split)

theorem kept_parkComplete (h : Kept a s) (y1) : Kept a (State.parkComplete s y1) := by
  unfold State.parkComplete
  repeat' first
    | with_reducible assumption
    | (intro x; refine Kept.cut (a := a) (x := x) ?_ ?_ <;> [subst x; (clear_value x; intro hx)]) | intro x
    | (beta_reduce; lift_lets; intro x) | with_reducible apply kept_f2Done | with_reducible apply kept_setRb
    | with_reducible apply kept_setCl | with_reducible apply Kept.foldl | (beta_reduce; split)

theorem kept_execChsiteWrite (y0) (y1) (y2) {t : State} (e : execChsiteWrite y0 y1 y2 s = .next t) : Kept s t := by
  cases e
  repeat' first
    | with_reducible assumption | with_reducible exact Kept.refl | intro x | with_reducible apply kept_gateWrite
    | with_reducible apply kept_chsiteWrite

theorem kept_execRailsiteWrite (y0) (y1) (y2) {t : State} (e : execRailsiteWrite y0 y1 y2 s = .next t) : Kept s t := by
  cases e
  repeat' first
    | with_reducible assumption | with_reducible exact Kept.refl | intro x | with_reducible apply kept_gateWrite
    | with_reducible apply kept_railsiteWrite

theorem kept_execAuxsiteWrite (y0) (y1) (y2) {t : State} (e : execAuxsiteWrite y0 y1 y2 s = .next t) : Kept s t := by
  cases e
  repeat' first
    | with_reducible assumption | with_reducible exact Kept.refl | intro x | with_reducible apply kept_gateWrite
    | with_reducible apply kept_auxsiteWrite

theorem kept_execSiteEnable (y0) (y1) (y2) {t : State} (e : execSiteEnable y0 y1 y2 s = .next t) : Kept s t := by
  cases e
  repeat' first
    | with_reducible assumption | with_reducible exact Kept.refl | intro x | with_reducible apply kept_gateWrite
    | with_reducible apply kept_siteCtlWrite

theorem kept_execSiteDisable (y0) (y1) (y2) {t : State} (e : execSiteDisable y0 y1 y2 s = .next t) : Kept s t := by
  cases e
  repeat' first
    | with_reducible assumption | with_reducible exact Kept.refl | intro x | with_reducible apply kept_gateWrite
    | with_reducible apply kept_siteCtlWrite

theorem kept_execSiteUnfence (y0) (y1) (y2) {t : State} (e : execSiteUnfence y0 y1 y2 s = .next t) : Kept s t := by
  cases e
  repeat' first
    | with_reducible assumption | with_reducible exact Kept.refl | intro x | with_reducible apply kept_gateWrite
    | with_reducible apply kept_siteStatWrite

theorem kept_execClusterPark (y0) (y1) (y2) {t : State} (e : execClusterPark y0 y1 y2 s = .next t) : Kept s t := by
  cases e
  repeat' first
    | with_reducible assumption | with_reducible exact Kept.refl | intro x | with_reducible apply kept_gateWrite
    | with_reducible apply kept_clParkWrite

theorem kept_execParkComplete (y0) {t : State} (e : execParkComplete y0 s = .next t) : Kept s t := by
  cases e
  repeat' first | with_reducible exact Kept.refl | with_reducible apply kept_parkComplete

theorem kept_execClusterUnpark (y0) (y1) (y2) {t : State} (e : execClusterUnpark y0 y1 y2 s = .next t) : Kept s t := by
  cases e
  repeat' first
    | with_reducible assumption | with_reducible exact Kept.refl | intro x | with_reducible apply kept_gateWrite
    | with_reducible apply kept_clParkWrite

/-! Machine/Vector.lean -/

theorem kept_openSegment (h : Kept a s) (y1) (y2) (y3) (y4) (y5) (y6) : Kept a (State.openSegment s y1 y2 y3 y4 y5 y6) := by
  unfold State.openSegment
  repeat' first
    | with_reducible assumption
    | (intro x; refine Kept.cut (a := a) (x := x) ?_ ?_ <;> [subst x; (clear_value x; intro hx)])
    | (intro x; subst x) | (beta_reduce; lift_lets; intro x) | with_reducible apply kept_setCap
    | with_reducible apply kept_count | with_reducible apply kept_setCapState | with_reducible apply kept_openPiece

theorem kept_capLenEnd (h : Kept a s) (y1) (y2) : Kept a (State.capLenEnd s y1 y2) := by
  unfold State.capLenEnd
  repeat' first
    | with_reducible assumption
    | (intro x; refine Kept.cut (a := a) (x := x) ?_ ?_ <;> [subst x; (clear_value x; intro hx)])
    | (intro x; subst x) | (beta_reduce; lift_lets; intro x) | with_reducible apply kept_closeSegment
    | with_reducible apply kept_setCap | (beta_reduce; split)

theorem kept_truncate (h : Kept a s) (y1) (y2) (y3) : Kept a (State.truncate s y1 y2 y3) := by
  unfold State.truncate
  repeat' first
    | with_reducible assumption
    | (intro x; refine Kept.cut (a := a) (x := x) ?_ ?_ <;> [subst x; (clear_value x; intro hx)])
    | (intro x; subst x) | (beta_reduce; lift_lets; intro x) | with_reducible apply kept_noticeCl
    | with_reducible apply kept_count | with_reducible apply kept_closePiece | with_reducible apply kept_fire
    | with_reducible apply kept_setCap

theorem kept_storeEntry (h : Kept a s) (y1) (y2) (y3) (y4) (y5) : Kept a (State.storeEntry s y1 y2 y3 y4 y5) := by
  unfold State.storeEntry
  repeat' first
    | with_reducible assumption | (beta_reduce; lift_lets; intro x) | with_reducible apply kept_truncate
    | with_reducible apply kept_capTouch | with_reducible apply kept_setCap | (beta_reduce; split)

theorem kept_contPiece (h : Kept a s) (y1) (y2) (y3) (y4) (y5) (y6) : Kept a (State.contPiece s y1 y2 y3 y4 y5 y6) := by
  unfold State.contPiece
  repeat' first
    | with_reducible assumption | (beta_reduce; lift_lets; intro x) | with_reducible apply kept_openPiece
    | with_reducible apply kept_setCap | (beta_reduce; split)

theorem kept_splitPiece (h : Kept a s) (y1) (y2) (y3) : Kept a (State.splitPiece s y1 y2 y3) := by
  unfold State.splitPiece
  repeat' first
    | with_reducible assumption | (beta_reduce; lift_lets; intro x) | with_reducible apply kept_capSwap
    | with_reducible apply kept_closePiece | (beta_reduce; split)

theorem kept_capEntry (h : Kept a s) (y1) (y2) (y3) (y4) (y5) (y6) : Kept a (State.capEntry s y1 y2 y3 y4 y5 y6) := by
  unfold State.capEntry
  repeat' first
    | with_reducible assumption
    | (intro x; refine Kept.cut (a := a) (x := x) ?_ ?_ <;> [subst x; (clear_value x; intro hx)])
    | (intro x; subst x) | (beta_reduce; lift_lets; intro x) | with_reducible apply kept_capSwap
    | with_reducible apply kept_storeEntry | with_reducible apply kept_contPiece
    | with_reducible apply kept_splitPiece | with_reducible apply kept_setCap | (beta_reduce; split)

theorem kept_addStrobe (h : Kept a s) (y1) (y2) (y3) (y4) (y5) (y6) (y7) : Kept a (State.addStrobe s y1 y2 y3 y4 y5 y6 y7) := by
  unfold State.addStrobe
  repeat' first
    | with_reducible assumption | (intro x; subst x) | (beta_reduce; lift_lets; intro x)
    | with_reducible apply kept_setCl

theorem kept_capVector (h : Kept a s) (y1) (y2) (y3) (y4) (y5) : Kept a (State.capVector s y1 y2 y3 y4 y5) := by
  unfold State.capVector
  repeat' first
    | with_reducible assumption
    | (intro x; refine Kept.cut (a := a) (x := x) ?_ ?_ <;> [subst x; (clear_value x; intro hx)])
    | (beta_reduce; lift_lets; intro x) | with_reducible apply kept_openSegment | with_reducible apply kept_capEntry
    | (beta_reduce; split)

theorem kept_drvSet (h : Kept a s) (y1) (y2) (y3) : Kept a (State.drvSet s y1 y2 y3) := by
  unfold State.drvSet
  repeat' first
    | with_reducible assumption
    | (intro x; refine Kept.cut (a := a) (x := x) ?_ ?_ <;> [subst x; (clear_value x; intro hx)])
    | (intro x; subst x) | (beta_reduce; lift_lets; intro x) | with_reducible apply kept_setCh
    | with_reducible apply kept_noticeCl | with_reducible apply kept_chFlag | (beta_reduce; split)

theorem kept_drvRun (h : Kept a s) (n l x) : Kept a (State.drvRun s n l x) := by
  fun_induction State.drvRun s n l x with
  | case1 => exact h
  | case2 => exact kept_drvSet h ..
  | case3 _ _ _ _ _ _ ih => exact ih h
  | case4 _ _ _ _ _ _ ih => exact ih (kept_drvSet h ..)

theorem kept_drvGo (h : Kept a s) (y1) : Kept a (State.drvGo s y1) := by
  unfold State.drvGo
  repeat' first
    | with_reducible assumption
    | (intro x; refine Kept.cut (a := a) (x := x) ?_ ?_ <;> [subst x; (clear_value x; intro hx)])
    | (intro x; subst x) | (beta_reduce; lift_lets; intro x) | with_reducible apply kept_setCh
    | with_reducible apply kept_drvRun | (beta_reduce; split)

theorem kept_drivers (h : Kept a s)  : Kept a (State.drivers s) := by
  unfold State.drivers
  repeat' first
    | with_reducible assumption | intro x | with_reducible apply kept_each | with_reducible apply kept_drvGo

theorem kept_driveVec (h : Kept a s) (y1) (y2) (y3) (y4) (y5) : Kept a (State.driveVec s y1 y2 y3 y4 y5) := by
  unfold State.driveVec
  repeat' first
    | with_reducible assumption
    | (intro x; refine Kept.cut (a := a) (x := x) ?_ ?_ <;> [subst x; (clear_value x; intro hx)])
    | (intro x; subst x) | (beta_reduce; lift_lets; intro x) | with_reducible apply kept_setCh
    | with_reducible apply kept_setCl

theorem kept_chanApply (h : Kept a s) (y1) (y2) (y3) (y4) (y5) : Kept a (State.chanApply s y1 y2 y3 y4 y5) := by
  unfold State.chanApply
  repeat' first
    | with_reducible assumption
    | (intro x; refine Kept.cut (a := a) (x := x) ?_ ?_ <;> [subst x; (clear_value x; intro hx)])
    | (intro x; subst x) | (beta_reduce; lift_lets; intro x) | with_reducible apply kept_setCh
    | with_reducible apply kept_chFlag | with_reducible apply kept_addStrobe | with_reducible apply kept_driveVec
    | (beta_reduce; split)

theorem kept_failAction (h : Kept a s) (y1) (y2) : Kept a (State.failAction s y1 y2) := by
  unfold State.failAction
  repeat' first
    | with_reducible assumption | (beta_reduce; lift_lets; intro x) | with_reducible apply kept_setRb
    | with_reducible apply kept_setSt | with_reducible apply kept_fenceSite | (beta_reduce; split)

theorem kept_countedFail (h : Kept a s) (y1) (y2) : Kept a (State.countedFail s y1 y2) := by
  unfold State.countedFail
  repeat' first
    | with_reducible assumption | with_reducible apply kept_failAction | with_reducible apply kept_setSq
    | with_reducible apply kept_setJob | (beta_reduce; split)

theorem kept_edgeKeep (h : Kept a s) (y1) (y2) : Kept a (State.edgeKeep s y1 y2) := by
  unfold State.edgeKeep
  repeat' first
    | with_reducible assumption | (beta_reduce; split)
    | (refine Kept.mkMem ?_ rfl (fun m => m) rfl rfl rfl rfl rfl rfl rfl rfl)

theorem kept_passEnd (h : Kept a s) (y1) (y2) : Kept a (State.passEnd s y1 y2) := by
  unfold State.passEnd
  repeat' first | with_reducible assumption | with_reducible apply kept_setJob | (beta_reduce; split)

theorem kept_endCur (h : Kept a s) (y1) : Kept a (State.endCur s y1) := by
  unfold State.endCur
  repeat' first
    | with_reducible assumption
    | (intro x; refine Kept.cut (a := a) (x := x) ?_ ?_ <;> [subst x; (clear_value x; intro hx)])
    | (beta_reduce; lift_lets; intro x; refine Kept.cut (a := a) (x := x) ?_ ?_ <;> [subst x; (clear_value x; intro hx)])
    | (beta_reduce; lift_lets; intro x) | with_reducible apply kept_setCl | with_reducible apply kept_passEnd
    | with_reducible apply kept_capLenEnd | with_reducible apply kept_capSteepEnd | (beta_reduce; split)

theorem kept_strobeBits (h : Kept a s) (y1) (y2) (y3) (y4) (y5) : Kept a (State.strobeBits s y1 y2 y3 y4 y5) := by
  unfold State.strobeBits
  repeat' first
    | with_reducible assumption | (intro x; subst x) | (beta_reduce; lift_lets; intro x)
    | with_reducible apply kept_setCap

theorem kept_strobeResolve (h : Kept a s) (y1) (y2) (y3) : Kept a (State.strobeResolve s y1 y2 y3) := by
  unfold State.strobeResolve
  repeat' first
    | with_reducible assumption
    | (intro x; refine Kept.cut (a := a) (x := x) ?_ ?_ <;> [subst x; (clear_value x; intro hx)])
    | (intro x; subst x)
    | (beta_reduce; lift_lets; intro x; refine Kept.cut (a := a) (x := x) ?_ ?_ <;> [subst x; (clear_value x; intro hx)])
    | (beta_reduce; lift_lets; intro x) | with_reducible apply kept_setCl | with_reducible apply kept_chFlag
    | with_reducible apply kept_strobeBits | with_reducible apply kept_countedFail | (beta_reduce; split)

theorem kept_vectorApply (h : Kept a s) (y1) (y2) : Kept a (State.vectorApply s y1 y2) := by
  unfold State.vectorApply
  repeat' first
    | with_reducible assumption | intro x | with_reducible apply kept_endCur | with_reducible apply kept_setCl
    | with_reducible apply kept_gapEnd | with_reducible apply kept_setRb | with_reducible apply kept_fenceCluster
    | with_reducible apply kept_uncorrected | with_reducible apply kept_edgeKeep
    | with_reducible apply kept_capVector | with_reducible apply kept_each | with_reducible apply kept_chanApply
    | (dsimp only; split) | split

theorem kept_execVectorApply (y0) {t : State} (e : execVectorApply y0 s = .next t) : Kept s t := by
  cases e
  repeat' first
    | with_reducible assumption | with_reducible exact Kept.refl | intro x | with_reducible apply kept_vectorApply
    | with_reducible apply kept_corrected | with_reducible apply Kept.foldl | (beta_reduce; split)

theorem kept_execStrobeResolve (y0) (y1) (y2) {t : State} (e : execStrobeResolve y0 y1 y2 s = .next t) : Kept s t := by
  cases e
  repeat' first | with_reducible exact Kept.refl | with_reducible apply kept_strobeResolve

theorem kept_execVectorPeriodEnd (y0) {t : State} (e : execVectorPeriodEnd y0 s = .next t) : Kept s t := by
  cases e
  repeat' first
    | with_reducible exact Kept.refl | (beta_reduce; lift_lets; intro x) | with_reducible apply kept_endCur
    | with_reducible apply kept_setCl | (beta_reduce; split)

/-! Machine/Pmu.lean -/

theorem kept_admReject (h : Kept a s)  : Kept a (State.admReject s) := by
  unfold State.admReject
  repeat' first | with_reducible assumption | with_reducible apply kept_count

theorem kept_capSample (h : Kept a s) (y1) (y2) (y3) : Kept a (State.capSample s y1 y2 y3) := by
  unfold State.capSample
  repeat' first
    | with_reducible assumption
    | (intro x; refine Kept.cut (a := a) (x := x) ?_ ?_ <;> [subst x; (clear_value x; intro hx)])
    | (beta_reduce; lift_lets; intro x) | with_reducible apply kept_openSegment | with_reducible apply kept_capLenEnd
    | with_reducible apply kept_capEntry | (beta_reduce; split)

theorem kept_measSample (h : Kept a s) (y1) (y2) (y3) : Kept a (State.measSample s y1 y2 y3).1 := by
  unfold State.measSample
  repeat' first
    | with_reducible assumption | (intro x; subst x) | (beta_reduce; lift_lets; intro x)
    | with_reducible apply kept_produce | with_reducible apply kept_setCl | (beta_reduce; split)

theorem kept_adcDone (h : Kept a s) (y1) (y2) (y3) : Kept a (State.adcDone s y1 y2 y3) := by
  unfold State.adcDone
  repeat' first
    | with_reducible assumption | with_reducible apply kept_chFlag | with_reducible apply kept_capSample
    | with_reducible apply kept_measSample | with_reducible apply kept_setAdc | with_reducible apply kept_adcStart
    | with_reducible apply kept_measResult | with_reducible apply kept_capSteepEnd
    | (dsimp only; split <;> try (rename_i heq; have k := congrArg Prod.fst heq; dsimp only at k; subst k)) | split

theorem kept_admLost (h : Kept a s) (y1) (y2) : Kept a (State.admLost s y1 y2) := by
  unfold State.admLost
  repeat' first
    | with_reducible assumption | with_reducible apply kept_setRb | with_reducible apply kept_count
    | (beta_reduce; split)

theorem kept_dropCount (h : Kept a s) (y1) (y2) (y3) : Kept a (State.dropCount s y1 y2 y3) := by
  unfold State.dropCount
  repeat' first | with_reducible assumption | with_reducible apply kept_count | (beta_reduce; split)

theorem kept_pmuMove (h : Kept a s) (y1) (y2) (y3) : Kept a (State.pmuMove s y1 y2 y3) := by
  unfold State.pmuMove
  repeat' first
    | with_reducible assumption
    | (intro x; refine Kept.cut (a := a) (x := x) ?_ ?_ <;> [subst x; (clear_value x; intro hx)])
    | (intro x; subst x) | (beta_reduce; lift_lets; intro x) | with_reducible apply kept_setPmu
    | with_reducible apply kept_setCh

theorem kept_pmuFn (h : Kept a s) (y1) : Kept a (State.pmuFn s y1) := by
  unfold State.pmuFn
  repeat' first | with_reducible assumption | with_reducible apply kept_pmuMove | (beta_reduce; split)

theorem kept_forceChan (h : Kept a s) (y1) (y2) : Kept a (State.forceChan s y1 y2) := by
  unfold State.forceChan
  repeat' first
    | with_reducible assumption | with_reducible apply kept_pmuFn | with_reducible apply kept_forceCode
    | (beta_reduce; split)

theorem kept_pmuGate (h : Kept a s) (y1) : Kept a (State.pmuGate s y1) := by
  unfold State.pmuGate
  repeat' first
    | with_reducible assumption | with_reducible apply kept_violGate | with_reducible apply kept_gateNote
    | (beta_reduce; split)

theorem kept_popEntry (h : Kept a s) (y1) : Kept a (State.popEntry s y1) := by
  unfold State.popEntry
  repeat' first
    | with_reducible assumption | (intro x; subst x)
    | (beta_reduce; lift_lets; intro x; refine Kept.cut (a := a) (x := x) ?_ ?_ <;> [subst x; (clear_value x; intro hx)])
    | with_reducible apply kept_endCur | with_reducible apply kept_setCl

theorem kept_pwrAdm (h : Kept a s) (y1) (y2) : Kept a (State.pwrAdm s y1 y2) := by
  unfold State.pwrAdm
  repeat' first
    | with_reducible assumption
    | (beta_reduce; lift_lets; intro x; refine Kept.cut (a := a) (x := x) ?_ ?_ <;> [subst x; (clear_value x; intro hx)])
    | with_reducible apply kept_count | with_reducible apply kept_admReject | with_reducible apply kept_admLost
    | with_reducible apply kept_exception

theorem kept_rangeChan (h : Kept a s) (y1) (y2) (y3) : Kept a (State.rangeChan s y1 y2 y3) := by
  unfold State.rangeChan
  repeat' first
    | with_reducible assumption | with_reducible apply kept_pmuFn | with_reducible apply kept_pmuGate
    | with_reducible apply kept_pmuMove | (beta_reduce; split)

theorem kept_settleEnd (h : Kept a s) (y1) (y2) : Kept a (State.settleEnd s y1 y2) := by
  unfold State.settleEnd
  repeat' first
    | with_reducible assumption
    | (intro x; refine Kept.cut (a := a) (x := x) ?_ ?_ <;> [subst x; (clear_value x; intro hx)])
    | (intro x; subst x) | (beta_reduce; lift_lets; intro x) | with_reducible apply kept_setAdc
    | with_reducible apply kept_setCl | with_reducible apply kept_capSteepEnd | with_reducible apply kept_adcStart
    | (beta_reduce; split)

theorem kept_rangeBody (h : Kept a s) (y0) (y1) : FlowKept a (rangeBody y0 y1 s) := by
  unfold rangeBody
  repeat' first
    | with_reducible assumption
    | (intro x; refine Kept.cut (a := a) (x := x) ?_ ?_ <;> [subst x; (clear_value x; intro hx)])
    | (intro x; subst x) | (beta_reduce; lift_lets; intro x) | with_reducible apply kept_pushEntry
    | with_reducible apply kept_pwrAdm | with_reducible apply FlowKept.trap' | with_reducible apply FlowKept.hold'
    | with_reducible apply FlowKept.next' | (beta_reduce; split)
    | (refine Kept.mkMem ?_ rfl (fun m => m) rfl rfl rfl rfl rfl rfl rfl rfl)

theorem kept_execRange (y0) (y1) (y2) {t : State} (e : execRange y0 y1 y2 s = .next t) : Kept s t := by
  cases e
  repeat' first
    | with_reducible assumption | with_reducible exact Kept.refl | intro x | with_reducible apply kept_putBehind
    | with_reducible apply kept_instr | with_reducible apply kept_rangeBody | (beta_reduce; split)

theorem kept_forceBody (h : Kept a s) (y0) (y1) : FlowKept a (forceBody y0 y1 s) := by
  unfold forceBody
  repeat' first
    | with_reducible assumption | (intro x; subst x) | (beta_reduce; lift_lets; intro x)
    | with_reducible apply kept_pwrAdm | with_reducible apply kept_pushEntry | with_reducible apply FlowKept.trap'
    | with_reducible apply FlowKept.hold' | with_reducible apply FlowKept.next' | (beta_reduce; split)

theorem kept_execForce (y0) (y1) (y2) {t : State} (e : execForce y0 y1 y2 s = .next t) : Kept s t := by
  cases e
  repeat' first
    | with_reducible assumption | with_reducible exact Kept.refl | intro x | with_reducible apply kept_putBehind
    | with_reducible apply kept_instr | with_reducible apply kept_forceBody | (beta_reduce; split)

theorem kept_measBody (h : Kept a s) (y0) (y1) : FlowKept a (measBody y0 y1 s) := by
  unfold measBody
  repeat' first
    | with_reducible assumption | (intro x; subst x) | (beta_reduce; lift_lets; intro x)
    | with_reducible apply kept_pushEntry | with_reducible apply kept_setSq | with_reducible apply FlowKept.trap'
    | with_reducible apply FlowKept.next' | (beta_reduce; split)

theorem kept_execMeas (y0) (y1) (y2) {t : State} (e : execMeas y0 y1 y2 s = .next t) : Kept s t := by
  cases e
  repeat' first
    | with_reducible assumption | with_reducible exact Kept.refl | intro x | with_reducible apply kept_instr
    | with_reducible apply kept_measBody

theorem kept_execRangeApply (y0) {t : State} (e : execRangeApply y0 s = .next t) : Kept s t := by
  cases e
  repeat' first
    | with_reducible assumption | with_reducible exact Kept.refl | intro x
    | (beta_reduce; lift_lets; intro x; refine Kept.cut (a := s) (x := x) ?_ ?_ <;> [subst x; (clear_value x; intro hx)])
    | with_reducible apply kept_dropCount | with_reducible apply kept_popEntry | with_reducible apply kept_each
    | with_reducible apply kept_rangeChan | (beta_reduce; split)

theorem kept_execForceApply (y0) {t : State} (e : execForceApply y0 s = .next t) : Kept s t := by
  cases e
  repeat' first
    | with_reducible assumption | with_reducible exact Kept.refl
    | (intro x; refine Kept.cut (a := s) (x := x) ?_ ?_ <;> [subst x; (clear_value x; intro hx)]) | intro x
    | (beta_reduce; lift_lets; intro x; refine Kept.cut (a := s) (x := x) ?_ ?_ <;> [subst x; (clear_value x; intro hx)])
    | with_reducible apply kept_dropCount | with_reducible apply kept_popEntry | with_reducible apply kept_each
    | with_reducible apply kept_count | with_reducible apply kept_forceChan | (beta_reduce; split)

theorem kept_execMeasApply (y0) {t : State} (e : execMeasApply y0 s = .next t) : Kept s t := by
  cases e
  repeat' first
    | with_reducible exact Kept.refl | with_reducible apply kept_popEntry | with_reducible apply kept_setCl
    | (dsimp only; split)

theorem kept_execMeasSettleEnd (y0) (y1) {t : State} (e : execMeasSettleEnd y0 y1 s = .next t) : Kept s t := by
  cases e
  repeat' first | with_reducible exact Kept.refl | with_reducible apply kept_settleEnd

theorem kept_execAdcSampleDone (y0) (y1) (y2) {t : State} (e : execAdcSampleDone y0 y1 y2 s = .next t) : Kept s t := by
  cases e
  repeat' first | with_reducible exact Kept.refl | with_reducible apply kept_adcDone

end Sys2Proof.Machine
end

