-- ==== Sys2Proof/Laws/KeptPower.lean ====
section
/-!
SUPPORT. Kept by rails, kettle, touchdown, wardens, pins, faults and thermal control.
-/
set_option linter.unusedTactic false
set_option linter.unreachableTactic false
namespace Sys2Proof.Machine

open Sys2Proof

variable {a s : State}

/-! Machine/Rails.lean -/

theorem kept_railSat (h : Kept a s) (y1) (y2) (y3) (y4) : Kept a (State.railSat s y1 y2 y3 y4).1 := by
  unfold State.railSat
  repeat' first
    | with_reducible assumption | (intro x; subst x) | (beta_reduce; lift_lets; intro x)
    | with_reducible apply kept_setRb | dsimp only | (beta_reduce; split)

theorem kept_railReject (h : Kept a s) (y1) : Kept a (State.railReject s y1) := by
  unfold State.railReject
  repeat' first | with_reducible assumption | with_reducible apply kept_notice | with_reducible apply kept_setRb

theorem kept_railAim (h : Kept a s) (y1) : Kept a (State.railAim s y1) := by
  unfold State.railAim
  repeat' first
    | with_reducible assumption | (intro x; subst x)
    | (beta_reduce; lift_lets; intro x; refine Kept.cut (a := a) (x := x) ?_ ?_ <;> [subst x; (clear_value x; intro hx)])
    | with_reducible apply kept_railHold | with_reducible apply kept_setRl

theorem kept_railVset (h : Kept a s) (y1) (y2) : Kept a (State.railVset s y1 y2) := by
  unfold State.railVset
  repeat' first
    | with_reducible assumption
    | (beta_reduce; lift_lets; intro x; refine Kept.cut (a := a) (x := x) ?_ ?_ <;> [subst x; (clear_value x; intro hx)])
    | with_reducible apply kept_railSat | with_reducible apply kept_railReject | with_reducible apply kept_setRg
    | with_reducible apply kept_railAim
    | (beta_reduce; split <;> try (rename_i heq; have k := congrArg Prod.fst heq; dsimp only at k; subst k))

theorem kept_railVmax (h : Kept a s) (y1) (y2) : Kept a (State.railVmax s y1 y2) := by
  unfold State.railVmax
  repeat' first
    | with_reducible assumption | with_reducible apply kept_railSat | with_reducible apply kept_railReject
    | with_reducible apply kept_setRg
    | (beta_reduce; split <;> try (rename_i heq; have k := congrArg Prod.fst heq; dsimp only at k; subst k))

theorem kept_railIlim (h : Kept a s) (y1) (y2) : Kept a (State.railIlim s y1 y2) := by
  unfold State.railIlim
  repeat' first | with_reducible assumption | with_reducible apply kept_railSat | with_reducible apply kept_setRg

theorem kept_railKeepHold (h : Kept a s) (y1) : Kept a (State.railKeepHold s y1) := by
  unfold State.railKeepHold
  repeat' first
    | with_reducible assumption | (beta_reduce; lift_lets; intro x) | with_reducible apply kept_setRl
    | with_reducible apply kept_railHold | (beta_reduce; split)

theorem kept_railRamp (h : Kept a s) (y1) (y2) : Kept a (State.railRamp s y1 y2) := by
  unfold State.railRamp
  repeat' first
    | with_reducible assumption | (intro x; subst x) | (beta_reduce; lift_lets; intro x)
    | with_reducible apply kept_setRg | with_reducible apply kept_railKeepHold

theorem kept_railCfg (h : Kept a s) (y1) (y2) : Kept a (State.railCfg s y1 y2) := by
  unfold State.railCfg
  repeat' first
    | with_reducible assumption | with_reducible apply kept_setRg | with_reducible apply kept_railReject
    | (beta_reduce; split)

theorem kept_powerRequest (h : Kept a s) (y1) : Kept a (State.powerRequest s y1) := by
  unfold State.powerRequest
  repeat' first
    | with_reducible assumption
    | (intro x; refine Kept.cut (a := a) (x := x) ?_ ?_ <;> [subst x; (clear_value x; intro hx)])
    | (intro x; subst x) | (beta_reduce; lift_lets; intro x) | with_reducible apply kept_powerRefuse
    | with_reducible apply kept_admReject | with_reducible apply kept_setSt | with_reducible apply kept_setRb
    | with_reducible apply kept_upGroups | with_reducible apply kept_setPst | with_reducible apply kept_enpend
    | (beta_reduce; split) | (refine Kept.mkMem ?_ rfl (fun m => m) rfl rfl rfl rfl rfl rfl rfl rfl)

theorem kept_powerRelease (h : Kept a s) (y1) : Kept a (State.powerRelease s y1) := by
  unfold State.powerRelease
  repeat' first | with_reducible assumption | with_reducible apply kept_rampDown | (beta_reduce; split)

theorem kept_sitePwrWrite (h : Kept a s) (y1) (y2) : Kept a (State.sitePwrWrite s y1 y2) := by
  unfold State.sitePwrWrite
  repeat' first
    | with_reducible assumption
    | (beta_reduce; lift_lets; intro x; refine Kept.cut (a := a) (x := x) ?_ ?_ <;> [subst x; (clear_value x; intro hx)])
    | with_reducible apply kept_w1cPf0 | with_reducible apply kept_powerRequest
    | with_reducible apply kept_powerRelease | (beta_reduce; split)

theorem kept_railLapse (h : Kept a s) (y1) : Kept a (State.railLapse s y1) := by
  unfold State.railLapse
  repeat' first
    | with_reducible assumption
    | (beta_reduce; lift_lets; intro x; refine Kept.cut (a := a) (x := x) ?_ ?_ <;> [subst x; (clear_value x; intro hx)])
    | with_reducible apply kept_wardenCut | with_reducible apply kept_siteStep | with_reducible apply kept_fenceSite
    | (beta_reduce; split)

theorem kept_permitsCheck (h : Kept a s)  : Kept a (State.permitsCheck s) := by
  unfold State.permitsCheck
  repeat' first
    | with_reducible assumption
    | (intro x; refine Kept.cut (a := a) (x := x) ?_ ?_ <;> [subst x; (clear_value x; intro hx)]) | intro x
    | (beta_reduce; lift_lets; intro x; refine Kept.cut (a := a) (x := x) ?_ ?_ <;> [subst x; (clear_value x; intro hx)])
    | (beta_reduce; lift_lets; intro x) | with_reducible apply kept_each | with_reducible apply kept_railLapse
    | with_reducible apply kept_wardenZoneCut | with_reducible apply kept_setRb | with_reducible apply kept_setKz
    | with_reducible apply kept_gatesCheck

theorem kept_railMoved (h : Kept a s) (y1) : Kept a (State.railMoved s y1) := by
  unfold State.railMoved
  repeat' first
    | with_reducible assumption | with_reducible apply kept_siteStep | with_reducible apply kept_siteGo
    | with_reducible apply kept_liftOk | (beta_reduce; split)

theorem kept_railFloor (h : Kept a s) (y1) : Kept a (State.railFloor s y1) := by
  unfold State.railFloor
  repeat' first
    | with_reducible assumption | with_reducible apply kept_railMoved | with_reducible apply kept_railDisch
    | (beta_reduce; split)

theorem kept_railsGo (h : Kept a s)  : Kept a (State.railsGo s) := by
  unfold State.railsGo
  repeat' first
    | with_reducible assumption | intro x | with_reducible apply kept_each | with_reducible apply kept_railFloor

theorem kept_railFault (h : Kept a s) (y1) (y2) : Kept a (State.railFault s y1 y2) := by
  unfold State.railFault
  repeat' first
    | with_reducible assumption | with_reducible apply kept_railMoved | with_reducible apply kept_railTrip
    | (beta_reduce; split)

theorem kept_railMeas (h : Kept a s) (y1) (y2) (y3) : Kept a (State.railMeas s y1 y2 y3) := by
  unfold State.railMeas
  repeat' first
    | with_reducible assumption
    | (intro x; refine Kept.cut (a := a) (x := x) ?_ ?_ <;> [subst x; (clear_value x; intro hx)])
    | (intro x; subst x) | (beta_reduce; lift_lets; intro x) | with_reducible apply kept_setRg
    | with_reducible apply kept_setRb | with_reducible apply kept_setRl | with_reducible apply kept_railFault
    | with_reducible apply kept_railFloor | (beta_reduce; split)

theorem kept_unwatch (h : Kept a s) (y1) : Kept a (State.unwatch s y1) := by
  unfold State.unwatch
  repeat' first
    | with_reducible assumption | (beta_reduce; lift_lets; intro x) | with_reducible apply kept_setRl
    | with_reducible apply kept_setKz | (beta_reduce; split)

theorem kept_execRailVsetWrite (y0) (y1) (y2) {t : State} (e : execRailVsetWrite y0 y1 y2 s = .next t) : Kept s t := by
  cases e
  repeat' first
    | with_reducible assumption | with_reducible exact Kept.refl | intro x | with_reducible apply kept_gateWrite
    | with_reducible apply kept_railVset

theorem kept_execRailVmaxWrite (y0) (y1) (y2) {t : State} (e : execRailVmaxWrite y0 y1 y2 s = .next t) : Kept s t := by
  cases e
  repeat' first
    | with_reducible assumption | with_reducible exact Kept.refl | intro x | with_reducible apply kept_gateWrite
    | with_reducible apply kept_railVmax

theorem kept_execRailCfgWrite (y0) (y1) (y2) {t : State} (e : execRailCfgWrite y0 y1 y2 s = .next t) : Kept s t := by
  cases e
  repeat' first
    | with_reducible assumption | with_reducible exact Kept.refl | intro x | with_reducible apply kept_gateWrite
    | with_reducible apply kept_railCfg

theorem kept_execRailEnableConfirm (y0) {t : State} (e : execRailEnableConfirm y0 s = .next t) : Kept s t := by
  cases e
  repeat' first
    | with_reducible assumption | with_reducible exact Kept.refl
    | (intro x; refine Kept.cut (a := s) (x := x) ?_ ?_ <;> [subst x; (clear_value x; intro hx)])
    | (intro x; subst x) | (beta_reduce; lift_lets; intro x) | with_reducible apply kept_setRl
    | with_reducible apply kept_setRf | with_reducible apply kept_setRb | with_reducible apply kept_railAim
    | (beta_reduce; split)

theorem kept_execRailEnfail (y0) {t : State} (e : execRailEnfail y0 s = .next t) : Kept s t := by
  cases e
  repeat' first | with_reducible exact Kept.refl | with_reducible apply kept_railFault | (beta_reduce; split)

theorem kept_execRailSettled (y0) {t : State} (e : execRailSettled y0 s = .next t) : Kept s t := by
  cases e
  repeat' first
    | with_reducible assumption | with_reducible exact Kept.refl | (intro x; subst x)
    | (beta_reduce; lift_lets; intro x; refine Kept.cut (a := s) (x := x) ?_ ?_ <;> [subst x; (clear_value x; intro hx)])
    | with_reducible apply kept_setRf | with_reducible apply kept_railHold | with_reducible apply kept_railMoved
    | with_reducible apply kept_setRl | (beta_reduce; split)

theorem kept_execRailRampfail (y0) {t : State} (e : execRailRampfail y0 s = .next t) : Kept s t := by
  cases e
  repeat' first | with_reducible exact Kept.refl | with_reducible apply kept_railFault | (beta_reduce; split)

theorem kept_execRailMeasure (y0) (y1) (y2) {t : State} (e : execRailMeasure y0 y1 y2 s = .next t) : Kept s t := by
  cases e
  repeat' first | with_reducible exact Kept.refl | with_reducible apply kept_railMeas

theorem kept_execRailOcTrip (y0) {t : State} (e : execRailOcTrip y0 s = .next t) : Kept s t := by
  cases e
  repeat' first
    | with_reducible exact Kept.refl | (beta_reduce; lift_lets; intro x) | with_reducible apply kept_railFault
    | with_reducible apply kept_setRl | (beta_reduce; split)

theorem kept_execRailDischDone (y0) {t : State} (e : execRailDischDone y0 s = .next t) : Kept s t := by
  cases e
  repeat' first
    | with_reducible assumption | with_reducible exact Kept.refl
    | (intro x; refine Kept.cut (a := s) (x := x) ?_ ?_ <;> [subst x; (clear_value x; intro hx)])
    | (beta_reduce; lift_lets; intro x) | with_reducible apply kept_setRl | with_reducible apply kept_railMoved
    | with_reducible apply kept_setRf | (beta_reduce; split)

theorem kept_execRailDtmo (y0) {t : State} (e : execRailDtmo y0 s = .next t) : Kept s t := by
  cases e
  repeat' first
    | with_reducible assumption | with_reducible exact Kept.refl
    | (beta_reduce; lift_lets; intro x; refine Kept.cut (a := s) (x := x) ?_ ?_ <;> [subst x; (clear_value x; intro hx)])
    | with_reducible apply kept_setRf | with_reducible apply kept_setRl | with_reducible apply kept_f2
    | (beta_reduce; split)

theorem kept_execStuckEnable (y0) {t : State} (e : execStuckEnable y0 s = .next t) : Kept s t := by
  cases e
  repeat' first
    | with_reducible assumption | with_reducible exact Kept.refl
    | (beta_reduce; lift_lets; intro x; refine Kept.cut (a := s) (x := x) ?_ ?_ <;> [subst x; (clear_value x; intro hx)])
    | with_reducible apply kept_setRb | with_reducible apply kept_unwatch | with_reducible apply kept_enterF5
    | (beta_reduce; split)

theorem kept_execSitePowerRequest (y0) (y1) (y2) {t : State} (e : execSitePowerRequest y0 y1 y2 s = .next t) : Kept s t := by
  cases e
  repeat' first
    | with_reducible assumption | with_reducible exact Kept.refl | intro x | with_reducible apply kept_gateWrite
    | with_reducible apply kept_sitePwrWrite

theorem kept_execSitePowerRelease (y0) (y1) (y2) {t : State} (e : execSitePowerRelease y0 y1 y2 s = .next t) : Kept s t := by
  cases e
  repeat' first
    | with_reducible assumption | with_reducible exact Kept.refl | intro x | with_reducible apply kept_gateWrite
    | with_reducible apply kept_sitePwrWrite

/-! Machine/Kettle.lean -/

theorem kept_kzOn (h : Kept a s) (y1) : Kept a (State.kzOn s y1) := by
  unfold State.kzOn
  repeat' first
    | with_reducible assumption | (beta_reduce; lift_lets; intro x) | with_reducible apply kept_setRb
    | with_reducible apply kept_kzStart | (beta_reduce; split)

theorem kept_kzOffReq (h : Kept a s) (y1) : Kept a (State.kzOffReq s y1) := by
  unfold State.kzOffReq
  repeat' first | with_reducible assumption | with_reducible apply kept_setRb | with_reducible apply kept_kzStop

theorem kept_kzCtlWrite (h : Kept a s) (y1) (y2) : Kept a (State.kzCtlWrite s y1 y2) := by
  unfold State.kzCtlWrite
  repeat' first
    | with_reducible assumption
    | (intro x; refine Kept.cut (a := a) (x := x) ?_ ?_ <;> [subst x; (clear_value x; intro hx)])
    | (beta_reduce; lift_lets; intro x) | with_reducible apply kept_setRb | with_reducible apply kept_setRf
    | with_reducible apply kept_kzOn | with_reducible apply kept_kzOffReq | (beta_reduce; split)

theorem kept_kzThWrite (h : Kept a s) (y1) (y2) : Kept a (State.kzThWrite s y1 y2) := by
  unfold State.kzThWrite
  repeat' first | with_reducible assumption | with_reducible apply kept_setRg | (beta_reduce; split)

theorem kept_auxCfgWrite (h : Kept a s) (y1) (y2) : Kept a (State.auxCfgWrite s y1 y2) := by
  unfold State.auxCfgWrite
  repeat' first
    | with_reducible assumption
    | (intro x; refine Kept.cut (a := a) (x := x) ?_ ?_ <;> [subst x; (clear_value x; intro hx)])
    | (intro x; subst x) | (beta_reduce; lift_lets; intro x) | with_reducible apply kept_setRb
    | with_reducible apply kept_setAuxOut | with_reducible apply kept_auxDrive | (beta_reduce; split)

theorem kept_auxCodeWrite (h : Kept a s) (y1) (y2) : Kept a (State.auxCodeWrite s y1 y2) := by
  unfold State.auxCodeWrite
  repeat' first
    | with_reducible assumption
    | (intro x; refine Kept.cut (a := a) (x := x) ?_ ?_ <;> [subst x; (clear_value x; intro hx)])
    | (intro x; subst x) | (beta_reduce; lift_lets; intro x) | with_reducible apply kept_count
    | with_reducible apply kept_setRb | with_reducible apply kept_auxDrive | with_reducible apply kept_setRg
    | (beta_reduce; split)

theorem kept_kzRun (h : Kept a s) (y1) : Kept a (State.kzRun s y1) := by
  unfold State.kzRun
  repeat' first
    | with_reducible assumption | (intro x; subst x) | (beta_reduce; lift_lets; intro x)
    | with_reducible apply kept_setKzU | with_reducible apply kept_setKz

theorem kept_kzTemp (h : Kept a s) (y1) (y2) : Kept a (State.kzTemp s y1 y2) := by
  unfold State.kzTemp
  repeat' first
    | with_reducible assumption | with_reducible apply kept_setRf | with_reducible apply kept_fresh
    | (beta_reduce; split)

theorem kept_kzTick (h : Kept a s) (y1) (y2) : Kept a (State.kzTick s y1 y2) := by
  unfold State.kzTick
  repeat' first
    | with_reducible assumption
    | (intro x; refine Kept.cut (a := a) (x := x) ?_ ?_ <;> [subst x; (clear_value x; intro hx)])
    | (intro x; subst x) | (beta_reduce; lift_lets; intro x) | with_reducible apply kept_setKzState
    | with_reducible apply kept_setKz | with_reducible apply kept_zoneFault | with_reducible apply kept_kzTemp
    | with_reducible apply kept_kzRun | (beta_reduce; split)

theorem kept_execAuxCfgWrite (y0) (y1) (y2) {t : State} (e : execAuxCfgWrite y0 y1 y2 s = .next t) : Kept s t := by
  cases e
  repeat' first
    | with_reducible assumption | with_reducible exact Kept.refl | intro x | with_reducible apply kept_gateWrite
    | with_reducible apply kept_auxCfgWrite

theorem kept_execAuxCodeWrite (y0) (y1) (y2) {t : State} (e : execAuxCodeWrite y0 y1 y2 s = .next t) : Kept s t := by
  cases e
  repeat' first
    | with_reducible assumption | with_reducible exact Kept.refl | intro x | with_reducible apply kept_gateWrite
    | with_reducible apply kept_auxCodeWrite

theorem kept_execKzEnable (y0) (y1) (y2) {t : State} (e : execKzEnable y0 y1 y2 s = .next t) : Kept s t := by
  cases e
  repeat' first
    | with_reducible assumption | with_reducible exact Kept.refl | intro x | with_reducible apply kept_gateWrite
    | with_reducible apply kept_kzCtlWrite

theorem kept_execKzDisable (y0) (y1) (y2) {t : State} (e : execKzDisable y0 y1 y2 s = .next t) : Kept s t := by
  cases e
  repeat' first
    | with_reducible assumption | with_reducible exact Kept.refl | intro x | with_reducible apply kept_gateWrite
    | with_reducible apply kept_kzCtlWrite

theorem kept_execKzThWrite (y0) (y1) (y2) {t : State} (e : execKzThWrite y0 y1 y2 s = .next t) : Kept s t := by
  cases e
  repeat' first
    | with_reducible assumption | with_reducible exact Kept.refl | intro x | with_reducible apply kept_gateWrite
    | with_reducible apply kept_kzThWrite

theorem kept_execKzEnableConfirm (y0) {t : State} (e : execKzEnableConfirm y0 s = .next t) : Kept s t := by
  cases e
  repeat' first
    | with_reducible assumption | with_reducible exact Kept.refl
    | (intro x; refine Kept.cut (a := s) (x := x) ?_ ?_ <;> [subst x; (clear_value x; intro hx)])
    | (beta_reduce; lift_lets; intro x) | with_reducible apply kept_setKz | with_reducible apply kept_setRb
    | (beta_reduce; split)

theorem kept_execKzEnfail (y0) {t : State} (e : execKzEnfail y0 s = .next t) : Kept s t := by
  cases e
  repeat' first | with_reducible exact Kept.refl | with_reducible apply kept_zoneFault | (beta_reduce; split)

theorem kept_execKzStopDelay (y0) {t : State} (e : execKzStopDelay y0 s = .next t) : Kept s t := by
  cases e
  repeat' first | with_reducible exact Kept.refl | with_reducible apply kept_kenLow | (beta_reduce; split)

theorem kept_execKzOff (y0) {t : State} (e : execKzOff y0 s = .next t) : Kept s t := by
  cases e
  repeat' first
    | with_reducible assumption | with_reducible exact Kept.refl
    | (intro x; refine Kept.cut (a := s) (x := x) ?_ ?_ <;> [subst x; (clear_value x; intro hx)])
    | (intro x; subst x)
    | (beta_reduce; lift_lets; intro x; refine Kept.cut (a := s) (x := x) ?_ ?_ <;> [subst x; (clear_value x; intro hx)])
    | with_reducible apply kept_f2Done | with_reducible apply kept_setKzState | with_reducible apply kept_setRb
    | with_reducible apply kept_kzStart | (beta_reduce; split)

theorem kept_execKzUpdate (y0) (y1) {t : State} (e : execKzUpdate y0 y1 s = .next t) : Kept s t := by
  cases e
  repeat' first | with_reducible exact Kept.refl | with_reducible apply kept_kzTick

/-! Machine/Touchdown.lean -/

theorem kept_contactLost (h : Kept a s)  : Kept a (State.contactLost s) := by
  unfold State.contactLost
  repeat' first
    | with_reducible assumption
    | (intro x; refine Kept.cut (a := a) (x := x) ?_ ?_ <;> [subst x; (clear_value x; intro hx)]) | intro x
    | (beta_reduce; lift_lets; intro x; refine Kept.cut (a := a) (x := x) ?_ ?_ <;> [subst x; (clear_value x; intro hx)])
    | with_reducible refine kept_setSg ?_ _ (by decide) | with_reducible apply kept_each
    | with_reducible apply kept_railMoved | with_reducible apply kept_wardenCut
    | with_reducible apply kept_permitsCheck

theorem kept_unexpectedLift (h : Kept a s)  : Kept a (State.unexpectedLift s) := by
  unfold State.unexpectedLift
  repeat' first
    | with_reducible assumption
    | (intro x; refine Kept.cut (a := a) (x := x) ?_ ?_ <;> [subst x; (clear_value x; intro hx)]) | intro x
    | (beta_reduce; lift_lets; intro x; refine Kept.cut (a := a) (x := x) ?_ ?_ <;> [subst x; (clear_value x; intro hx)])
    | with_reducible apply kept_fire | with_reducible apply kept_count | with_reducible apply kept_setRb
    | with_reducible apply kept_hist | with_reducible apply kept_each | with_reducible apply kept_fenceOnly
    | (beta_reduce; split)

theorem kept_wardContact (h : Kept a s)  : Kept a (State.wardContact s) := by
  unfold State.wardContact
  repeat' first
    | with_reducible assumption | with_reducible apply kept_permitsCheck
    | with_reducible refine kept_setSg ?_ _ (by decide)

theorem kept_execContactRise  {t : State} (e : execContactRise s = .next t) : Kept s t := by
  cases e
  repeat' first
    | with_reducible assumption | with_reducible exact Kept.refl
    | (beta_reduce; lift_lets; intro x; refine Kept.cut (a := s) (x := x) ?_ ?_ <;> [subst x; (clear_value x; intro hx)])
    | with_reducible apply kept_fire | with_reducible apply kept_setRb | with_reducible apply kept_wardContact
    | (beta_reduce; split) | (refine Kept.mkMem ?_ rfl (fun m => m) rfl rfl rfl rfl rfl rfl rfl rfl)

theorem kept_execContactFall  {t : State} (e : execContactFall s = .next t) : Kept s t := by
  cases e
  repeat' first
    | with_reducible assumption | with_reducible exact Kept.refl
    | (intro x; refine Kept.cut (a := s) (x := x) ?_ ?_ <;> [subst x; (clear_value x; intro hx)])
    | (beta_reduce; lift_lets; intro x; refine Kept.cut (a := s) (x := x) ?_ ?_ <;> [subst x; (clear_value x; intro hx)])
    | with_reducible apply kept_fire | with_reducible apply kept_setRb | with_reducible apply kept_unexpectedLift
    | with_reducible apply kept_contactLost | (beta_reduce; split)
    | (refine Kept.mkMem ?_ rfl (fun m => m) rfl rfl rfl rfl rfl rfl rfl rfl)

theorem kept_execTdSettled  {t : State} (e : execTdSettled s = .next t) : Kept s t := by
  cases e
  repeat' first
    | with_reducible exact Kept.refl | with_reducible apply kept_fire | with_reducible apply kept_setRb
    | (beta_reduce; split)

theorem kept_execLiftReqRise  {t : State} (e : execLiftReqRise s = .next t) : Kept s t := by
  cases e
  repeat' first
    | with_reducible assumption | with_reducible exact Kept.refl
    | (intro x; refine Kept.cut (a := s) (x := x) ?_ ?_ <;> [subst x; (clear_value x; intro hx)]) | intro x
    | (beta_reduce; lift_lets; intro x; refine Kept.cut (a := s) (x := x) ?_ ?_ <;> [subst x; (clear_value x; intro hx)])
    | with_reducible apply kept_count | with_reducible apply kept_setRb | with_reducible apply kept_each
    | with_reducible apply kept_setAuxOut | with_reducible apply kept_rampDown | with_reducible apply kept_powerUndo
    | with_reducible apply kept_liftOk | (beta_reduce; split)

theorem kept_execLiftReqFall  {t : State} (e : execLiftReqFall s = .next t) : Kept s t := by
  cases e
  repeat' first
    | with_reducible assumption | with_reducible exact Kept.refl
    | (beta_reduce; lift_lets; intro x; refine Kept.cut (a := s) (x := x) ?_ ?_ <;> [subst x; (clear_value x; intro hx)])
    | with_reducible apply kept_setRb | with_reducible apply kept_fire | (beta_reduce; split)

/-! Machine/Warden.lean -/

theorem kept_limitReject (h : Kept a s)  : Kept a (State.limitReject s) := by
  unfold State.limitReject
  repeat' first
    | with_reducible assumption | with_reducible apply kept_pirq
    | with_reducible refine kept_changeSg ?_ _ (by decide)

theorem kept_limitWrite (h : Kept a s) (off v) (ho : off ≠ Off.wdF5 := by decide) : Kept a (s.limitWrite off v) := by
  have store (w) (t) : Kept a (State.permitsCheck { s.setSg off w with
      ward := { (s.setSg off w).ward with lim2 := t } }) :=
    kept_permitsCheck ((kept_setSg h w ho).same rfl rfl rfl rfl rfl rfl rfl rfl rfl rfl)
  unfold State.limitWrite
  dsimp only
  split
  · split
    · exact store _ _
    · exact kept_limitReject h
  split
  · split
    · exact store _ _
    · exact kept_limitReject h
  split
  · split
    · exact store _ _
    · exact kept_limitReject h
  · exact h

theorem State.limitWrite_wdF5 (v : Word) : s.limitWrite Off.wdF5 v = s := by simp [State.limitWrite, Off.wdF5]

theorem kept_tbndWrite (h : Kept a s) (y1) : Kept a (State.tbndWrite s y1) := by
  unfold State.tbndWrite
  repeat' first
    | with_reducible assumption | (intro x; subst x) | (beta_reduce; lift_lets; intro x)
    | with_reducible refine kept_setSg ?_ _ (by decide) | with_reducible apply kept_limitReject
    | (beta_reduce; split)

theorem kept_wdFlag (h : Kept a s) (y1) (y2) : Kept a (State.wdFlag s y1 y2) := by
  unfold State.wdFlag
  repeat' first | with_reducible assumption | with_reducible refine kept_setSg ?_ _ (by decide)

theorem kept_estopAct (h : Kept a s)  : Kept a (State.estopAct s) := by
  unfold State.estopAct
  repeat' first
    | with_reducible assumption
    | (intro x; refine Kept.cut (a := a) (x := x) ?_ ?_ <;> [subst x; (clear_value x; intro hx)])
    | (intro x; subst x)
    | (beta_reduce; lift_lets; intro x; refine Kept.cut (a := a) (x := x) ?_ ?_ <;> [subst x; (clear_value x; intro hx)])
    | with_reducible apply kept_enterF4 | with_reducible apply kept_wardenAll | with_reducible apply kept_wdFlag
    | (refine Kept.mkMem ?_ rfl (fun m => m) rfl rfl rfl rfl rfl rfl rfl rfl)

theorem kept_tableF2 (h : Kept a s) (y1) : Kept a (State.tableF2 s y1) := by
  unfold State.tableF2
  repeat' first | with_reducible assumption | with_reducible apply kept_f2

theorem kept_limitCompare (h : Kept a s) (y1) (y2) (y3) (y4) : Kept a (State.limitCompare s y1 y2 y3 y4) := by
  unfold State.limitCompare
  repeat' first
    | with_reducible assumption
    | (intro x; refine Kept.cut (a := a) (x := x) ?_ ?_ <;> [subst x; (clear_value x; intro hx)])
    | (intro x; subst x) | (beta_reduce; lift_lets; intro x) | with_reducible apply kept_enterF5
    | with_reducible apply kept_enterF4 | with_reducible apply kept_tableF2 | with_reducible apply kept_permitsCheck
    | (beta_reduce; split) | (refine Kept.mkMem ?_ rfl (fun m => m) rfl rfl rfl rfl rfl rfl rfl rfl)

theorem kept_permitSweep (h : Kept a s)  : Kept a (State.permitSweep s) := by
  unfold State.permitSweep
  repeat' first
    | with_reducible assumption
    | (intro x; refine Kept.cut (a := a) (x := x) ?_ ?_ <;> [subst x; (clear_value x; intro hx)]) | intro x
    | (beta_reduce; lift_lets; intro x) | with_reducible apply kept_each | with_reducible apply kept_railMoved
    | with_reducible apply kept_wardenCut | with_reducible apply kept_wardenZoneCut
    | (refine Kept.mkMem ?_ rfl (fun m => m) rfl rfl rfl rfl rfl rfl rfl rfl)

theorem kept_wardSample (h : Kept a s) (y1) (y2) (y3) : Kept a (State.wardSample s y1 y2 y3) := by
  unfold State.wardSample
  repeat' first
    | with_reducible assumption
    | (intro x; refine Kept.cut (a := a) (x := x) ?_ ?_ <;> [subst x; (clear_value x; intro hx)])
    | (intro x; subst x) | (beta_reduce; lift_lets; intro x) | with_reducible apply kept_violRail
    | with_reducible apply kept_gatesCheck | (beta_reduce; split)
    | (refine Kept.mkMem ?_ rfl (fun m => m) rfl rfl rfl rfl rfl rfl rfl rfl)

theorem kept_execWardenRingMessage  {t : State} (e : execWardenRingMessage s = .next t) : Kept s t := by
  cases e
  repeat' first
    | with_reducible assumption | with_reducible exact Kept.refl
    | (beta_reduce; lift_lets; intro x; refine Kept.cut (a := s) (x := x) ?_ ?_ <;> [subst x; (clear_value x; intro hx)])
    | with_reducible refine kept_setSg ?_ _ (by decide) | with_reducible apply kept_wdFlag | (beta_reduce; split)

theorem kept_execSliceSilent (y0) {t : State} (e : execSliceSilent y0 s = .next t) : Kept s t := by
  cases e
  repeat' first
    | with_reducible assumption | with_reducible exact Kept.refl
    | (intro x; refine Kept.cut (a := s) (x := x) ?_ ?_ <;> [subst x; (clear_value x; intro hx)])
    | (beta_reduce; lift_lets; intro x) | with_reducible apply kept_wardenSafe | with_reducible apply kept_wdFlag
    | (beta_reduce; split) | (refine Kept.mkMem ?_ rfl (fun m => m) rfl rfl rfl rfl rfl rfl rfl rfl)

theorem kept_execSliceDisagree  {t : State} (e : execSliceDisagree s = .next t) : Kept s t := by
  cases e
  repeat' first
    | with_reducible exact Kept.refl | with_reducible apply kept_enterF5 | with_reducible apply kept_wdFlag
    | (beta_reduce; split)

theorem kept_execWardenSample (y0) (y1) (y2) {t : State} (e : execWardenSample y0 y1 y2 s = .next t) : Kept s t := by
  cases e
  repeat' first | with_reducible exact Kept.refl | with_reducible apply kept_wardSample

theorem kept_execWardenThprotSample (y0) (y1) {t : State} (e : execWardenThprotSample y0 y1 s = .next t) : Kept s t := by
  cases e
  repeat' first | with_reducible exact Kept.refl | with_reducible apply kept_violZone | (beta_reduce; split)

theorem kept_execHeartbeatTimeout (y0) {t : State} (e : execHeartbeatTimeout y0 s = .next t) : Kept s t := by
  cases e
  repeat' first
    | with_reducible exact Kept.refl | with_reducible apply kept_wardenSafe | with_reducible apply kept_wdFlag
    | (beta_reduce; split)

theorem kept_execEstop  {t : State} (e : execEstop s = .next t) : Kept s t := by
  cases e
  repeat' first
    | with_reducible assumption | with_reducible exact Kept.refl
    | (intro x; refine Kept.cut (a := s) (x := x) ?_ ?_ <;> [subst x; (clear_value x; intro hx)])
    | (beta_reduce; lift_lets; intro x) | with_reducible apply kept_wdFlag | with_reducible apply kept_setRb
    | with_reducible apply kept_estopAct | (beta_reduce; split)
    | (refine Kept.mkMem ?_ rfl (fun m => m) rfl rfl rfl rfl rfl rfl rfl rfl)

theorem kept_execLimitCopyCompare (y0) (y1) (y2) (y3) {t : State} (e : execLimitCopyCompare y0 y1 y2 y3 s = .next t) : Kept s t := by
  cases e
  repeat' first | with_reducible exact Kept.refl | with_reducible apply kept_limitCompare

theorem kept_execF4PermitTimeout  {t : State} (e : execF4PermitTimeout s = .next t) : Kept s t := by
  cases e
  repeat' first | with_reducible exact Kept.refl | with_reducible apply kept_permitSweep | (beta_reduce; split)

theorem kept_execWardenLimitWrite (p) (off : BitVec 20) (v) {t : State} (e : execWardenLimitWrite p off v s = .next t) :
    Kept s t := by
  cases e
  refine kept_gateWrite Kept.refl _ _ _ _ _ _ fun s' hs => ?_
  split
  · by_cases ho : off.toNat = Off.wdF5
    · rw [ho, State.limitWrite_wdF5]; exact hs
    · exact kept_limitWrite hs _ _ ho
  · exact hs

theorem kept_execWlTbndWrite (y0) (y1) {t : State} (e : execWlTbndWrite y0 y1 s = .next t) : Kept s t := by
  cases e
  repeat' first
    | with_reducible assumption | with_reducible exact Kept.refl | intro x | with_reducible apply kept_gateWrite
    | with_reducible apply kept_tbndWrite | (beta_reduce; split)

theorem kept_execGateReadbackFault (y0) (y1) {t : State} (e : execGateReadbackFault y0 y1 s = .next t) : Kept s t := by
  cases e
  repeat' first
    | with_reducible exact Kept.refl | (beta_reduce; lift_lets; intro x) | with_reducible apply kept_enterF5
    | (beta_reduce; split)

/-! Machine/Pins.lean -/

theorem kept_edgeStep (h : Kept a s) (y1) : Kept a (State.edgeStep s y1) := by
  unfold State.edgeStep
  repeat' first | with_reducible assumption | with_reducible apply kept_setRf

theorem kept_edgeWrite (h : Kept a s) (y1) (y2) : Kept a (State.edgeWrite s y1 y2) := by
  unfold State.edgeWrite
  repeat' first
    | with_reducible assumption
    | (intro x; refine Kept.cut (a := a) (x := x) ?_ ?_ <;> [subst x; (clear_value x; intro hx)])
    | (intro x; subst x) | (beta_reduce; lift_lets; intro x) | with_reducible apply kept_setRb
    | with_reducible apply kept_lateNote | with_reducible apply kept_soil | (beta_reduce; split)
    | (refine Kept.mkMem ?_ rfl (fun m => m) rfl rfl rfl rfl rfl rfl rfl rfl)

theorem kept_edgePort (h : Kept a s) (p c v via) : Kept a (s.edgePort p c v via) :=
  kept_gateWriteAll h _ _ _ _ _ _ _ _ (fun _ k => kept_edgeStep (kept_edgeWrite k ..) ..) (fun _ k => kept_edgeStep k ..)
    fun _ k => k

theorem kept_auxClampSet (h : Kept a s) (y1) (y2) : Kept a (State.auxClampSet s y1 y2) := by
  unfold State.auxClampSet
  repeat' first
    | with_reducible assumption
    | (beta_reduce; lift_lets; intro x; refine Kept.cut (a := a) (x := x) ?_ ?_ <;> [subst x; (clear_value x; intro hx)])
    | with_reducible apply kept_setRb | (beta_reduce; split)
    | (refine Kept.mkMem ?_ rfl (fun m => m) rfl rfl rfl rfl rfl rfl rfl rfl)

theorem kept_clamp (h : Kept a s) (y1) (y2) : Kept a (State.clamp s y1 y2) := by
  unfold State.clamp
  repeat' first
    | with_reducible assumption
    | (intro x; refine Kept.cut (a := a) (x := x) ?_ ?_ <;> [subst x; (clear_value x; intro hx)])
    | (intro x; subst x) | (beta_reduce; lift_lets; intro x) | with_reducible apply kept_setRb
    | with_reducible apply kept_fire | with_reducible apply kept_chFlag | with_reducible apply kept_flagSite
    | (beta_reduce; split)

theorem kept_edgeFlag (h : Kept a s) (y1) (y2) : Kept a (State.edgeFlag s y1 y2) := by
  unfold State.edgeFlag
  repeat' first | with_reducible assumption | with_reducible apply kept_setRb

theorem kept_cmpEdge (h : Kept a s) (y1) (y2) : Kept a (State.cmpEdge s y1 y2) := by
  unfold State.cmpEdge
  repeat' first
    | with_reducible assumption | with_reducible apply kept_capTrigger | with_reducible apply kept_fire
    | with_reducible apply kept_edgeFlag

theorem kept_wake (h : Kept a s) (y1) : Kept a (State.wake s y1) := by
  unfold State.wake
  repeat' first
    | with_reducible assumption
    | (beta_reduce; lift_lets; intro x; refine Kept.cut (a := a) (x := x) ?_ ?_ <;> [subst x; (clear_value x; intro hx)])
    | with_reducible apply kept_fire | with_reducible apply kept_setRb | with_reducible apply kept_clUnpark
    | (beta_reduce; split)

theorem kept_cmpWatch (h : Kept a s) (y1) (y2) (y3) : Kept a (State.cmpWatch s y1 y2 y3) := by
  unfold State.cmpWatch
  repeat' first
    | with_reducible assumption
    | (intro x; refine Kept.cut (a := a) (x := x) ?_ ?_ <;> [subst x; (clear_value x; intro hx)])
    | (beta_reduce; lift_lets; intro x) | with_reducible apply kept_setWatch | with_reducible apply kept_wake
    | with_reducible apply kept_edgeFlag | (beta_reduce; split)

theorem kept_cmpMove (h : Kept a s) (y1) (y2) (y3) : Kept a (State.cmpMove s y1 y2 y3) := by
  unfold State.cmpMove
  repeat' first
    | with_reducible assumption
    | (intro x; refine Kept.cut (a := a) (x := x) ?_ ?_ <;> [subst x; (clear_value x; intro hx)])
    | (intro x; subst x)
    | (beta_reduce; lift_lets; intro x; refine Kept.cut (a := a) (x := x) ?_ ?_ <;> [subst x; (clear_value x; intro hx)])
    | with_reducible apply kept_setSide | with_reducible apply kept_cmpWatch | with_reducible apply kept_setUnkAt
    | with_reducible apply kept_setCmp | with_reducible apply kept_cmpEdge | with_reducible apply kept_tripCheck
    | (beta_reduce; split)

theorem kept_execComparatorTransition (y0) (y1) (y2) {t : State} (e : execComparatorTransition y0 y1 y2 s = .next t) : Kept s t := by
  cases e
  repeat' first | with_reducible exact Kept.refl | with_reducible apply kept_cmpMove

theorem kept_execUnkTimeout (y0) (y1) {t : State} (e : execUnkTimeout y0 y1 s = .next t) : Kept s t := by
  cases e
  repeat' first
    | with_reducible exact Kept.refl | with_reducible apply kept_monTrip | with_reducible apply kept_setUnkAt
    | (beta_reduce; split)

theorem kept_execClampEngage (y0) (y1) {t : State} (e : execClampEngage y0 y1 s = .next t) : Kept s t := by
  cases e
  repeat' first
    | with_reducible exact Kept.refl | with_reducible apply kept_clamp | with_reducible apply kept_auxClampSet
    | (beta_reduce; split)

theorem kept_execTsEdataRead (y0) (y1) {t : State} (e : execTsEdataRead y0 y1 s = .next t) : Kept s t := by
  cases e
  repeat' first
    | with_reducible assumption | with_reducible exact Kept.refl | intro x | with_reducible apply kept_gateRead
    | with_reducible apply kept_edgeStep | with_reducible apply kept_answer

theorem kept_execTsEdataWrite (y0) (y1) (y2) {t : State} (e : execTsEdataWrite y0 y1 y2 s = .next t) : Kept s t := by
  cases e
  repeat' first | with_reducible exact Kept.refl | with_reducible apply kept_edgePort

/-! Machine/FaultCtl.lean -/

theorem kept_clrRej (h : Kept a s)  : Kept a (State.clrRej s) := by
  unfold State.clrRej
  repeat' first | with_reducible assumption | with_reducible apply kept_setRb

theorem kept_f2clrWrite (h : Kept a s) (y1) : Kept a (State.f2clrWrite s y1) := by
  unfold State.f2clrWrite
  repeat' first
    | with_reducible assumption | (beta_reduce; lift_lets; intro x) | with_reducible apply kept_clrRej
    | (beta_reduce; split) | (refine Kept.mkMem ?_ rfl (fun m => m) rfl rfl rfl rfl rfl rfl rfl rfl)

theorem kept_safeFrom (h : Kept a s) (y1) : Kept a (State.safeFrom s y1) := by
  unfold State.safeFrom
  repeat' first | with_reducible assumption | with_reducible apply kept_enterF4

theorem kept_safereqWrite (h : Kept a s) (y1) (y2) : Kept a (State.safereqWrite s y1 y2) := by
  unfold State.safereqWrite
  repeat' first
    | with_reducible assumption | with_reducible apply kept_clrRej | with_reducible apply kept_safeFrom
    | (beta_reduce; split)

theorem kept_hclrWrite (h : Kept a s) (y1) : Kept a (State.hclrWrite s y1) := by
  unfold State.hclrWrite
  repeat' first
    | with_reducible assumption | (beta_reduce; lift_lets; intro x) | (beta_reduce; split)
    | (refine Kept.mkMem ?_ rfl (fun m => m) rfl rfl rfl rfl rfl rfl rfl rfl)

theorem kept_execSafeRequest (y0) (y1) {t : State} (e : execSafeRequest y0 y1 s = .next t) : Kept s t := by
  cases e
  repeat' first
    | with_reducible assumption | with_reducible exact Kept.refl | intro x | with_reducible apply kept_gateWrite
    | with_reducible apply kept_safereqWrite

theorem kept_execF2Clear (y0) (y1) {t : State} (e : execF2Clear y0 y1 s = .next t) : Kept s t := by
  cases e
  repeat' first
    | with_reducible assumption | with_reducible exact Kept.refl | intro x | with_reducible apply kept_gateWrite
    | with_reducible apply kept_f2clrWrite

theorem kept_execHistoryClear (y0) (y1) {t : State} (e : execHistoryClear y0 y1 s = .next t) : Kept s t := by
  cases e
  repeat' first
    | with_reducible assumption | with_reducible exact Kept.refl | intro x | with_reducible apply kept_gateWrite
    | with_reducible apply kept_hclrWrite

/-! Machine/Thermal.lean -/

theorem kept_diffStep (h : Kept a s) (y1) : Kept a (State.diffStep s y1) := by
  unfold State.diffStep
  repeat' first
    | with_reducible assumption | with_reducible apply kept_count | with_reducible apply kept_setRb
    | (dsimp only; split) | split | (refine Kept.mkMem ?_ rfl (fun m => m) rfl rfl rfl rfl rfl rfl rfl rfl)

theorem kept_diffAll (h : Kept a s)  : Kept a (State.diffAll s) := by
  unfold State.diffAll
  repeat' first
    | with_reducible assumption
    | (intro x; refine Kept.cut (a := a) (x := x) ?_ ?_ <;> [subst x; (clear_value x; intro hx)]) | intro x
    | (beta_reduce; lift_lets; intro x) | with_reducible apply kept_each | with_reducible apply kept_diffStep
    | with_reducible apply kept_f2 | (beta_reduce; split)

theorem kept_nodesAStep (h : Kept a s) (y1) (y2) (y3) : Kept a (State.nodesAStep s y1 y2 y3) := by
  unfold State.nodesAStep
  repeat' first
    | with_reducible assumption
    | (intro x; refine Kept.cut (a := a) (x := x) ?_ ?_ <;> [subst x; (clear_value x; intro hx)])
    | (intro x; subst x) | intro x | (beta_reduce; lift_lets; intro x) | with_reducible apply kept_each
    | with_reducible apply kept_setRg | (refine Kept.mkMem ?_ rfl (fun m => m) rfl rfl rfl rfl rfl rfl rfl rfl)

theorem kept_modelA (h : Kept a s) (y1) (y2) (y3) : Kept a (State.modelA s y1 y2 y3) := by
  unfold State.modelA
  repeat' first
    | with_reducible assumption
    | (intro x; refine Kept.cut (a := a) (x := x) ?_ ?_ <;> [subst x; (clear_value x; intro hx)])
    | (beta_reduce; lift_lets; intro x) | with_reducible apply kept_nodesAStep | with_reducible apply kept_enterF4
    | (beta_reduce; split)

theorem kept_modelB (h : Kept a s) (y1) : Kept a (State.modelB s y1) := by
  unfold State.modelB
  repeat' first
    | with_reducible assumption
    | (intro x; refine Kept.cut (a := a) (x := x) ?_ ?_ <;> [subst x; (clear_value x; intro hx)]) | intro x
    | (beta_reduce; lift_lets; intro x) | with_reducible apply kept_fresh | with_reducible apply kept_each
    | with_reducible apply kept_setRg | (refine Kept.mkMem ?_ rfl (fun m => m) rfl rfl rfl rfl rfl rfl rfl rfl)

theorem kept_modelBHot (h : Kept a s) (y1) : Kept a (State.modelBHot s y1) := by
  unfold State.modelBHot
  repeat' first | with_reducible assumption | with_reducible apply kept_wardenSafe | (beta_reduce; split)

theorem kept_execPowerInterval (y0) {t : State} (e : execPowerInterval y0 s = .next t) : Kept s t := by
  cases e
  repeat' first
    | with_reducible assumption | with_reducible exact Kept.refl | intro x | (beta_reduce; lift_lets; intro x)
    | with_reducible apply kept_each | with_reducible apply kept_change | with_reducible apply kept_setRg
    | with_reducible apply kept_fresh | (beta_reduce; split)

theorem kept_execModelAUpdate (y0) (y1) (y2) {t : State} (e : execModelAUpdate y0 y1 y2 s = .next t) : Kept s t := by
  cases e
  repeat' first
    | with_reducible exact Kept.refl | with_reducible apply kept_putBehind | with_reducible apply kept_modelA
    | (beta_reduce; split)

theorem kept_execModelBUpdate (tb) {t : State} (e : execModelBUpdate tb s = .next t) : Kept s t := by
  unfold execModelBUpdate at e
  injection e with e
  rw [← e]
  exact kept_modelBHot (kept_diffAll (kept_modelB Kept.refl _)) _

end Sys2Proof.Machine
end

