-- ==== Sys2Proof/Laws/KeptReset.lean ====
section
/-!
SUPPORT. Kept by the microcode, the steep, resets, the service and card ports, register reads, calibration, capture control and alignment.
-/
set_option linter.unusedTactic false
set_option linter.unreachableTactic false
namespace Sys2Proof.Machine

open Sys2Proof

variable {a s : State}

/-! Machine/CardPort.lean -/

theorem kept_cpBusy (h : Kept a s)  : Kept a (State.cpBusy s) := by
  unfold State.cpBusy
  repeat' first | with_reducible assumption | with_reducible apply kept_setRb

theorem kept_saveGo (h : Kept a s)  : Kept a (State.saveGo s) := by
  unfold State.saveGo
  repeat' first
    | with_reducible assumption | (intro x; subst x)
    | (beta_reduce; lift_lets; intro x; refine Kept.cut (a := a) (x := x) ?_ ?_ <;> [subst x; (clear_value x; intro hx)])
    | with_reducible apply kept_contEnd | with_reducible apply kept_cpBusy | (beta_reduce; split)
    | (refine Kept.mkMem ?_ rfl (fun m => m) rfl rfl rfl rfl rfl rfl rfl rfl)

theorem kept_cpReject (h : Kept a s)  : Kept a (State.cpReject s) := by
  unfold State.cpReject
  repeat' first | with_reducible assumption | with_reducible apply kept_setRb

theorem kept_cpDevWrite (h : Kept a s) (y1) (y2) (y3) : Kept a (State.cpDevWrite s y1 y2 y3) := by
  unfold State.cpDevWrite
  repeat' first
    | with_reducible assumption | with_reducible apply kept_cpReject | with_reducible apply kept_setRg
    | (beta_reduce; split)

theorem kept_cpXipWrite (h : Kept a s) (y1) (y2) : Kept a (State.cpXipWrite s y1 y2) := by
  unfold State.cpXipWrite
  repeat' first
    | with_reducible assumption | with_reducible apply kept_cpReject | with_reducible apply kept_setRg
    | (beta_reduce; split)

theorem kept_cpFlashWrite (h : Kept a s) (y1) (y2) : Kept a (State.cpFlashWrite s y1 y2) := by
  unfold State.cpFlashWrite
  repeat' first
    | with_reducible assumption | with_reducible apply kept_setRg | with_reducible apply kept_cpReject
    | (beta_reduce; split)

theorem kept_cpStore (h : Kept a s) (y1) (y2) : Kept a (State.cpStore s y1 y2) := by
  revert h
  fun_induction State.cpStore s y1 y2 <;> intro h
  all_goals
    repeat' first | with_reducible assumption | with_reducible apply kept_storeRow | with_reducible apply_assumption

theorem kept_writeW4 (h : Kept a s) (y1) (y2) (y3) : Kept a (State.writeW4 s y1 y2 y3) := by
  unfold State.writeW4
  repeat' first
    | with_reducible assumption | (intro x; subst x) | (beta_reduce; lift_lets; intro x)
    | with_reducible apply kept_writeRow

theorem kept_cpDone (h : Kept a s) (y1) (y2) (y3) : Kept a (State.cpDone s y1 y2 y3) := by
  unfold State.cpDone
  repeat' first
    | with_reducible assumption
    | (intro x; refine Kept.cut (a := a) (x := x) ?_ ?_ <;> [subst x; (clear_value x; intro hx)])
    | (intro x; subst x)
    | (beta_reduce; lift_lets; intro x; refine Kept.cut (a := a) (x := x) ?_ ?_ <;> [subst x; (clear_value x; intro hx)])
    | with_reducible apply kept_cpStore | with_reducible apply kept_writeW4 | with_reducible apply kept_setRb
    | with_reducible apply kept_cpBusy | with_reducible apply kept_retire | with_reducible apply kept_haltSeq
    | (beta_reduce; split) | (refine Kept.mkMem ?_ rfl (fun m => m) rfl rfl rfl rfl rfl rfl rfl rfl)

theorem kept_cpRows (h : Kept a s) (y1) (y2) (y3) : Kept a (State.cpRows s y1 y2 y3).1 := by
  revert h
  fun_induction State.cpRows s y1 y2 y3 <;> intro h
  all_goals
    repeat' first | with_reducible assumption | with_reducible apply kept_rowSeen | with_reducible apply_assumption

theorem kept_lineFill (h : Kept a s) (y1) (y2) (y3) : Kept a (State.lineFill s y1 y2 y3) := by
  unfold State.lineFill
  repeat' first
    | with_reducible assumption
    | (intro x; refine Kept.cut (a := a) (x := x) ?_ ?_ <;> [subst x; (clear_value x; intro hx)])
    | (intro x; subst x) | (beta_reduce; lift_lets; intro x) | with_reducible apply kept_setRb
    | with_reducible apply kept_count | (beta_reduce; split)
    | (refine Kept.mkMem ?_ rfl (fun m => m) rfl rfl rfl rfl rfl rfl rfl rfl)

theorem kept_pollEnd (h : Kept a s) (y1) : Kept a (State.pollEnd s y1) := by
  unfold State.pollEnd
  repeat' first
    | with_reducible assumption
    | (intro x; refine Kept.cut (a := a) (x := x) ?_ ?_ <;> [subst x; (clear_value x; intro hx)])
    | (intro x; subst x) | (beta_reduce; lift_lets; intro x) | with_reducible apply kept_cpBusy
    | with_reducible apply kept_haltSeq | (beta_reduce; split)
    | (refine Kept.mkMem ?_ rfl (fun m => m) rfl rfl rfl rfl rfl rfl rfl rfl)

theorem kept_saveFail (h : Kept a s)  : Kept a (State.saveFail s) := by
  unfold State.saveFail
  repeat' first
    | with_reducible assumption
    | (intro x; refine Kept.cut (a := a) (x := x) ?_ ?_ <;> [subst x; (clear_value x; intro hx)])
    | (beta_reduce; lift_lets; intro x) | with_reducible apply kept_setRb | with_reducible apply kept_noticeAt
    | (refine Kept.mkMem ?_ rfl (fun m => m) rfl rfl rfl rfl rfl rfl rfl rfl)

theorem kept_pollTimeout (h : Kept a s) (y1) : Kept a (State.pollTimeout s y1) := by
  unfold State.pollTimeout
  repeat' first
    | with_reducible assumption
    | (intro x; refine Kept.cut (a := a) (x := x) ?_ ?_ <;> [subst x; (clear_value x; intro hx)])
    | (intro x; subst x)
    | (beta_reduce; lift_lets; intro x; refine Kept.cut (a := a) (x := x) ?_ ?_ <;> [subst x; (clear_value x; intro hx)])
    | with_reducible apply kept_setRb | with_reducible apply kept_pollEnd | with_reducible apply kept_saveFail
    | (beta_reduce; split) | (refine Kept.mkMem ?_ rfl (fun m => m) rfl rfl rfl rfl rfl rfl rfl rfl)

theorem kept_cpxBegin (h : Kept a s) (y0) (y1) : FlowKept a (cpxBegin y0 y1 s) := by
  unfold cpxBegin
  repeat' first
    | with_reducible assumption
    | (intro x; refine Kept.cut (a := a) (x := x) ?_ ?_ <;> [subst x; (clear_value x; intro hx)])
    | (intro x; subst x) | (beta_reduce; lift_lets; intro x) | with_reducible apply kept_setSq
    | with_reducible apply kept_cpRows | with_reducible apply kept_exception | with_reducible apply kept_writeW4
    | with_reducible apply kept_contEnd | with_reducible apply kept_cpBusy | with_reducible apply FlowKept.hold'
    | with_reducible apply FlowKept.next'
    | (beta_reduce; split <;> try (rename_i heq; have k := congrArg Prod.fst heq; dsimp only at k; subst k))
    | (refine Kept.mkMem ?_ rfl (fun m => m) rfl rfl rfl rfl rfl rfl rfl rfl)

theorem kept_execCpx (y0) (y1) (y2) {t : State} (e : execCpx y0 y1 y2 s = .next t) : Kept s t := by
  cases e
  repeat' first
    | with_reducible assumption | with_reducible exact Kept.refl | intro x | with_reducible apply kept_instr
    | with_reducible apply kept_cpxBegin

theorem kept_execCpTransferDone (y0) (y1) {t : State} (e : execCpTransferDone y0 y1 s = .next t) : Kept s t := by
  cases e
  repeat' first
    | with_reducible exact Kept.refl | with_reducible apply kept_slotHold | with_reducible apply kept_cpDone
    | (beta_reduce; split)

theorem kept_execSeqhLineFill (y0) (y1) {t : State} (e : execSeqhLineFill y0 y1 s = .next t) : Kept s t := by
  cases e
  repeat' first | with_reducible exact Kept.refl | with_reducible apply kept_lineFill | (beta_reduce; split)

theorem kept_execLinePrefetch (y0) (y1) {t : State} (e : execLinePrefetch y0 y1 s = .next t) : Kept s t := by
  cases e
  repeat' first | with_reducible exact Kept.refl | with_reducible apply kept_lineFill | (beta_reduce; split)

theorem kept_execFlashPoll (y0) {t : State} (e : execFlashPoll y0 s = .next t) : Kept s t := by
  cases e
  repeat' first
    | with_reducible exact Kept.refl | (beta_reduce; lift_lets; intro x) | with_reducible apply kept_pollEnd
    | with_reducible apply kept_pollTimeout | (beta_reduce; split)
    | (refine Kept.mkMem ?_ rfl (fun m => m) rfl rfl rfl rfl rfl rfl rfl rfl)

/-! Machine/Cal.lean -/

theorem kept_calNext (h : Kept a s) (y1) : Kept a (State.calNext s y1) := by
  unfold State.calNext
  repeat' first | with_reducible assumption | with_reducible apply kept_setRf

theorem kept_saveReject (h : Kept a s)  : Kept a (State.saveReject s) := by
  unfold State.saveReject
  repeat' first | with_reducible assumption | with_reducible apply kept_setRb

theorem kept_calSaveWrite (h : Kept a s) (y1) : Kept a (State.calSaveWrite s y1) := by
  unfold State.calSaveWrite
  repeat' first
    | with_reducible assumption | (intro x; subst x) | (beta_reduce; lift_lets; intro x)
    | with_reducible apply kept_saveReject | with_reducible apply kept_saveGo | with_reducible apply kept_setRb
    | (beta_reduce; split) | (refine Kept.mkMem ?_ rfl (fun m => m) rfl rfl rfl rfl rfl rfl rfl rfl)

theorem kept_calSavePort (h : Kept a s) (p v via) : Kept a (s.calSavePort p v via) := by
  refine kept_gateWriteAll h _ _ _ _ _ _ _ _ (fun _ k => kept_calSaveWrite k ..) (fun _ k => k) fun _ k => ?_
  split
  · exact kept_saveReject k
  · exact k

theorem kept_udataWrite (h : Kept a s) (y1) : Kept a (State.udataWrite s y1) := by
  unfold State.udataWrite
  repeat' first
    | with_reducible assumption
    | (intro x; refine Kept.cut (a := a) (x := x) ?_ ?_ <;> [subst x; (clear_value x; intro hx)])
    | (intro x; subst x) | (beta_reduce; lift_lets; intro x) | with_reducible apply kept_setRb
    | with_reducible apply kept_lateNote | with_reducible apply kept_calNext | (beta_reduce; split)
    | (refine Kept.mkMem ?_ rfl (fun m => m) rfl rfl rfl rfl rfl rfl rfl rfl)

theorem kept_bgApply (h : Kept a s) (y1) (y2) (y3) : Kept a (State.bgApply s y1 y2 y3) := by
  unfold State.bgApply
  repeat' first
    | with_reducible assumption
    | (intro x; refine Kept.cut (a := a) (x := x) ?_ ?_ <;> [subst x; (clear_value x; intro hx)])
    | (intro x; subst x) | (beta_reduce; lift_lets; intro x) | with_reducible apply kept_setRf
    | with_reducible apply kept_noticeAt | with_reducible apply kept_setRb | with_reducible apply kept_setCh
    | (beta_reduce; split)

theorem kept_execCalUdataRead (y0) {t : State} (e : execCalUdataRead y0 s = .next t) : Kept s t := by
  cases e
  repeat' first
    | with_reducible assumption | with_reducible exact Kept.refl | intro x | with_reducible apply kept_gateRead
    | with_reducible apply kept_calNext | with_reducible apply kept_answer

theorem kept_execCalUdataWrite (y0) (y1) {t : State} (e : execCalUdataWrite y0 y1 s = .next t) : Kept s t := by
  cases e
  repeat' first
    | with_reducible assumption | with_reducible exact Kept.refl | intro x | with_reducible apply kept_gateWrite
    | with_reducible apply kept_udataWrite

theorem kept_execCalFdataRead (y0) {t : State} (e : execCalFdataRead y0 s = .next t) : Kept s t := by
  cases e
  repeat' first
    | with_reducible assumption | with_reducible exact Kept.refl | intro x | with_reducible apply kept_gateRead
    | with_reducible apply kept_calNext | with_reducible apply kept_answer

theorem kept_execCalSave (y0) (y1) {t : State} (e : execCalSave y0 y1 s = .next t) : Kept s t := by
  cases e
  repeat' first | with_reducible exact Kept.refl | with_reducible apply kept_calSavePort

theorem kept_execCalSaveDone (y0) {t : State} (e : execCalSaveDone y0 s = .next t) : Kept s t := by
  cases e
  repeat' first
    | with_reducible assumption | with_reducible exact Kept.refl
    | (intro x; refine Kept.cut (a := s) (x := x) ?_ ?_ <;> [subst x; (clear_value x; intro hx)])
    | (beta_reduce; lift_lets; intro x) | with_reducible apply kept_setRb | with_reducible apply kept_setRg
    | with_reducible apply kept_setRf | with_reducible apply kept_saveFail | (beta_reduce; split)
    | (refine Kept.mkMem ?_ rfl (fun m => m) rfl rfl rfl rfl rfl rfl rfl rfl)

theorem kept_execBgCalStart (y0) (y1) (y2) {t : State} (e : execBgCalStart y0 y1 y2 s = .next t) : Kept s t := by
  cases e
  repeat' first
    | with_reducible exact Kept.refl | with_reducible apply kept_setRb | with_reducible apply kept_setCl
    | (beta_reduce; split)

theorem kept_execBgCalDone (y0) (y1) {t : State} (e : execBgCalDone y0 y1 s = .next t) : Kept s t := by
  cases e
  repeat' first
    | with_reducible assumption | with_reducible exact Kept.refl
    | (intro x; refine Kept.cut (a := s) (x := x) ?_ ?_ <;> [subst x; (clear_value x; intro hx)])
    | (beta_reduce; lift_lets; intro x) | with_reducible apply kept_setCl | with_reducible apply kept_setRb
    | with_reducible apply kept_bgApply | (beta_reduce; split)

/-! Machine/Microcode.lean -/

theorem kept_mcpWrite (h : Kept a s) (y1) (y2) : Kept a (State.mcpWrite s y1 y2) := by
  unfold State.mcpWrite
  repeat' first
    | with_reducible assumption
    | (intro x; refine Kept.cut (a := a) (x := x) ?_ ?_ <;> [subst x; (clear_value x; intro hx)])
    | (intro x; subst x) | (beta_reduce; lift_lets; intro x) | with_reducible apply kept_noticeAt
    | with_reducible apply kept_setRb | with_reducible apply kept_mcSweep | with_reducible apply kept_mcZero
    | (beta_reduce; split) | (refine Kept.mkMem ?_ rfl (fun m => m) rfl rfl rfl rfl rfl rfl rfl rfl)

theorem kept_mcLoad (h : Kept a s) (y1) : Kept a (State.mcLoad s y1) := by
  unfold State.mcLoad
  repeat' first
    | with_reducible assumption
    | (intro x; refine Kept.cut (a := a) (x := x) ?_ ?_ <;> [subst x; (clear_value x; intro hx)])
    | (intro x; subst x) | intro x | (beta_reduce; lift_lets; intro x) | with_reducible apply kept_mcZero
    | with_reducible apply kept_setRg | with_reducible apply kept_setRf | with_reducible apply kept_mcCover
    | with_reducible apply Kept.foldl | (refine Kept.mkMem ?_ rfl (fun m => m) rfl rfl rfl rfl rfl rfl rfl rfl)

theorem kept_mcInval (h : Kept a s) (y1) : Kept a (State.mcInval s y1) := by
  unfold State.mcInval
  repeat' first
    | with_reducible assumption | with_reducible apply kept_noticeAt | with_reducible apply kept_setRf
    | with_reducible apply kept_setRb

theorem kept_memRows (h : Kept a s) (r n) : Kept a (State.memRows s r n).1 := by
  induction n generalizing s r with
  | zero => exact h
  | succ n ih =>
    unfold State.memRows
    dsimp only
    exact ih (kept_fresh (kept_rowSeen h ..)) _

theorem kept_memImage (h : Kept a s) (y1) : Kept a (State.memImage s y1).1 := by
  unfold State.memImage
  repeat' first
    | with_reducible assumption | with_reducible apply kept_memRows | dsimp only
    | (beta_reduce; split <;> try (rename_i heq; have k := congrArg Prod.fst heq; dsimp only at k; subst k))

theorem kept_loadImage (h : Kept a s) (y1) (y2) : Kept a (State.loadImage s y1 y2).1 := by
  unfold State.loadImage
  repeat' first
    | with_reducible assumption | with_reducible apply kept_memImage | with_reducible apply kept_contEnd
    | (beta_reduce; split <;> try (rename_i heq; have k := congrArg Prod.fst heq; dsimp only at k; subst k))

theorem kept_loadOver (h : Kept a s)  : Kept a (State.loadOver s) := by
  unfold State.loadOver
  repeat' first
    | with_reducible assumption | (beta_reduce; lift_lets; intro x) | with_reducible apply kept_setRb
    | (refine Kept.mkMem ?_ rfl (fun m => m) rfl rfl rfl rfl rfl rfl rfl rfl)

theorem kept_passOne (h : Kept a s) (y1) (y2) : Kept a (State.passOne s y1 y2) := by
  unfold State.passOne
  repeat' first
    | with_reducible assumption | (intro x; subst x) | intro x
    | (beta_reduce; lift_lets; intro x; refine Kept.cut (a := a) (x := x) ?_ ?_ <;> [subst x; (clear_value x; intro hx)])
    | with_reducible apply kept_loadImage | with_reducible apply kept_mcSweep | with_reducible apply kept_mcInval
    | with_reducible apply kept_loadOver | with_reducible apply kept_each | with_reducible apply kept_setRb
    | with_reducible apply kept_setRg | with_reducible apply kept_setRf
    | (beta_reduce; split <;> try (rename_i heq; have k := congrArg Prod.fst heq; dsimp only at k; subst k))
    | (refine Kept.mkMem ?_ rfl (fun m => m) rfl rfl rfl rfl rfl rfl rfl rfl)

theorem kept_loadGo (h : Kept a s)  : Kept a (State.loadGo s) := by
  unfold State.loadGo
  repeat' first | with_reducible assumption | with_reducible apply kept_passOne | (beta_reduce; split)

theorem kept_passTwo (h : Kept a s) (y1) (y2) : Kept a (State.passTwo s y1 y2) := by
  unfold State.passTwo
  repeat' first
    | with_reducible assumption | with_reducible apply kept_loadImage | with_reducible apply kept_mcSweep
    | with_reducible apply kept_setRb | with_reducible apply kept_mcLoad | with_reducible apply kept_loadOver
    | with_reducible apply kept_mcTorn
    | (beta_reduce; split <;> try (rename_i heq; have k := congrArg Prod.fst heq; dsimp only at k; subst k))

theorem kept_execPatchLoad (y0) (y1) (y2) {t : State} (e : execPatchLoad y0 y1 y2 s = .next t) : Kept s t := by
  cases e
  repeat' first
    | with_reducible assumption | with_reducible exact Kept.refl | intro x | with_reducible apply kept_gateWrite
    | with_reducible apply kept_mcpWrite | (beta_reduce; split)

theorem kept_execPatchClear (y0) (y1) {t : State} (e : execPatchClear y0 y1 s = .next t) : Kept s t := by
  cases e
  repeat' first
    | with_reducible assumption | with_reducible exact Kept.refl | intro x | with_reducible apply kept_gateWrite
    | with_reducible apply kept_mcpWrite | (beta_reduce; split)

theorem kept_execPatchLoadDone (y0) {t : State} (e : execPatchLoadDone y0 s = .next t) : Kept s t := by
  cases e
  repeat' first
    | with_reducible assumption | with_reducible exact Kept.refl
    | (beta_reduce; lift_lets; intro x; refine Kept.cut (a := s) (x := x) ?_ ?_ <;> [subst x; (clear_value x; intro hx)])
    | with_reducible apply kept_passOne | with_reducible apply kept_passTwo | (beta_reduce; split)

/-! Machine/Sync.lean -/

theorem kept_syncCfgWrite (h : Kept a s) (y1) : Kept a (State.syncCfgWrite s y1) := by
  unfold State.syncCfgWrite
  repeat' first
    | with_reducible assumption | (beta_reduce; lift_lets; intro x) | with_reducible apply kept_noticeAt
    | with_reducible apply kept_setRg | (beta_reduce; split)

theorem kept_syncSend (h : Kept a s)  : Kept a (State.syncSend s) := by
  unfold State.syncSend
  repeat' first
    | with_reducible assumption | (beta_reduce; lift_lets; intro x) | with_reducible apply kept_setRb
    | (beta_reduce; split) | (refine Kept.mkMem ?_ rfl (fun m => m) rfl rfl rfl rfl rfl rfl rfl rfl)

theorem kept_syncArm (h : Kept a s)  : Kept a (State.syncArm s) := by
  unfold State.syncArm
  repeat' first
    | with_reducible assumption | (intro x; subst x) | (beta_reduce; lift_lets; intro x)
    | with_reducible apply kept_setRb | (beta_reduce; split)
    | (refine Kept.mkMem ?_ rfl (fun m => m) rfl rfl rfl rfl rfl rfl rfl rfl)

theorem kept_syncCmdWrite (h : Kept a s) (y1) : Kept a (State.syncCmdWrite s y1) := by
  unfold State.syncCmdWrite
  repeat' first
    | with_reducible assumption
    | (beta_reduce; lift_lets; intro x; refine Kept.cut (a := a) (x := x) ?_ ?_ <;> [subst x; (clear_value x; intro hx)])
    | with_reducible apply kept_syncSend | with_reducible apply kept_syncArm | (beta_reduce; split)

theorem kept_syncLoad (h : Kept a s)  : Kept a (State.syncLoad s) := by
  unfold State.syncLoad
  repeat' first
    | with_reducible assumption
    | (intro x; refine Kept.cut (a := a) (x := x) ?_ ?_ <;> [subst x; (clear_value x; intro hx)])
    | (intro x; subst x) | (beta_reduce; lift_lets; intro x) | with_reducible apply kept_setRb | (beta_reduce; split)
    | (refine Kept.mkMem ?_ rfl (fun m => m) rfl rfl rfl rfl rfl rfl rfl rfl)

theorem kept_syncLaunch (h : Kept a s)  : Kept a (State.syncLaunch s) := by
  unfold State.syncLaunch
  repeat' first
    | with_reducible assumption | (beta_reduce; lift_lets; intro x) | (beta_reduce; split)
    | (refine Kept.mkMem ?_ rfl (fun m => m) rfl rfl rfl rfl rfl rfl rfl rfl)

theorem kept_syncMeasure (h : Kept a s) (y1) : Kept a (State.syncMeasure s y1) := by
  unfold State.syncMeasure
  repeat' first
    | with_reducible assumption
    | (intro x; refine Kept.cut (a := a) (x := x) ?_ ?_ <;> [subst x; (clear_value x; intro hx)])
    | (intro x; subst x) | (beta_reduce; lift_lets; intro x) | with_reducible apply kept_setRg
    | with_reducible apply kept_setRb | (beta_reduce; split)
    | (refine Kept.mkMem ?_ rfl (fun m => m) rfl rfl rfl rfl rfl rfl rfl rfl)

theorem kept_syncRephase (h : Kept a s) (y1) : Kept a (State.syncRephase s y1) := by
  unfold State.syncRephase
  repeat' first
    | with_reducible assumption | (beta_reduce; lift_lets; intro x) | with_reducible apply kept_setRb
    | with_reducible apply kept_noticeAt | (beta_reduce; split)
    | (refine Kept.mkMem ?_ rfl (fun m => m) rfl rfl rfl rfl rfl rfl rfl rfl)

theorem kept_syncPulse (h : Kept a s) (y1) (y2) : Kept a (State.syncPulse s y1 y2) := by
  unfold State.syncPulse
  repeat' first
    | with_reducible assumption | (beta_reduce; lift_lets; intro x) | with_reducible apply kept_count
    | with_reducible apply kept_syncMeasure | with_reducible apply kept_syncRephase | (beta_reduce; split)
    | (refine Kept.mkMem ?_ rfl (fun m => m) rfl rfl rfl rfl rfl rfl rfl rfl)

theorem kept_execSyncSend (y0) (y1) {t : State} (e : execSyncSend y0 y1 s = .next t) : Kept s t := by
  cases e
  repeat' first
    | with_reducible assumption | with_reducible exact Kept.refl | intro x | with_reducible apply kept_gateWrite
    | with_reducible apply kept_syncCmdWrite

theorem kept_execSyncArm (y0) (y1) {t : State} (e : execSyncArm y0 y1 s = .next t) : Kept s t := by
  cases e
  repeat' first
    | with_reducible assumption | with_reducible exact Kept.refl | intro x | with_reducible apply kept_gateWrite
    | with_reducible apply kept_syncCmdWrite

theorem kept_execSyncPulse (y0) {t : State} (e : execSyncPulse y0 s = .next t) : Kept s t := by
  cases e
  repeat' first | with_reducible exact Kept.refl | with_reducible apply kept_syncPulse

/-! Machine/Steep.lean -/

theorem kept_clampTick (h : Kept a s)  : Kept a (State.clampTick s) := by
  unfold State.clampTick
  repeat' first
    | with_reducible assumption | intro x | with_reducible apply kept_each | with_reducible apply kept_flagSite
    | (beta_reduce; split)

theorem kept_clearEdges (h : Kept a s)  : Kept a (State.clearEdges s) := by
  unfold State.clearEdges
  repeat' first
    | with_reducible assumption | (intro x; subst x) | intro x | (beta_reduce; lift_lets; intro x)
    | with_reducible apply kept_each | with_reducible apply kept_setRb | with_reducible apply Kept.foldl
    | (beta_reduce; split)

theorem kept_govTick (h : Kept a s) (y1) : Kept a (State.govTick s y1) := by
  unfold State.govTick
  repeat' first
    | with_reducible assumption
    | (intro x; refine Kept.cut (a := a) (x := x) ?_ ?_ <;> [subst x; (clear_value x; intro hx)])
    | (intro x; subst x) | (beta_reduce; lift_lets; intro x) | with_reducible apply kept_setCap
    | with_reducible apply kept_setRb | with_reducible apply kept_setRf | (beta_reduce; split)

theorem kept_hbSeen (h : Kept a s)  : Kept a (State.hbSeen s) := by
  unfold State.hbSeen
  repeat' first | with_reducible assumption | with_reducible refine kept_setSg ?_ _ (by decide) | (beta_reduce; split)

theorem kept_slip (h : Kept a s) (y1) (y2) (y3) : Kept a (State.slip s y1 y2 y3) := by
  unfold State.slip
  repeat' first
    | with_reducible assumption
    | (intro x; refine Kept.cut (a := a) (x := x) ?_ ?_ <;> [subst x; (clear_value x; intro hx)])
    | (intro x; subst x) | (beta_reduce; lift_lets; intro x) | with_reducible apply kept_count
    | with_reducible apply kept_setRb | with_reducible apply kept_flagCl | with_reducible apply kept_noticeCl

theorem kept_judge (h : Kept a s) (y1) (y2) (y3) : Kept a (State.judge s y1 y2 y3) := by
  unfold State.judge
  repeat' first
    | with_reducible assumption
    | (intro x; refine Kept.cut (a := a) (x := x) ?_ ?_ <;> [subst x; (clear_value x; intro hx)])
    | (beta_reduce; lift_lets; intro x) | with_reducible apply kept_slip | with_reducible apply kept_setRf
    | with_reducible apply kept_setRb | with_reducible apply kept_fenceCluster | (beta_reduce; split)

theorem kept_maskEnd (h : Kept a s) (y1) : Kept a (State.maskEnd s y1) := by
  unfold State.maskEnd
  repeat' first
    | with_reducible assumption
    | (intro x; refine Kept.cut (a := a) (x := x) ?_ ?_ <;> [subst x; (clear_value x; intro hx)])
    | (intro x; subst x) | intro x | (beta_reduce; lift_lets; intro x) | with_reducible apply kept_each
    | with_reducible apply kept_setRb | with_reducible apply kept_setSt | with_reducible apply kept_setCl
    | (beta_reduce; split)

theorem kept_pourSeq (h : Kept a s) (y1) (y2) : Kept a (State.pourSeq s y1 y2) := by
  unfold State.pourSeq
  repeat' first
    | with_reducible assumption | (intro x; subst x) | (beta_reduce; lift_lets; intro x)
    | with_reducible apply kept_setSq

theorem kept_pourDone (h : Kept a s) (y1) (y2) : Kept a (State.pourDone s y1 y2) := by
  unfold State.pourDone
  repeat' first
    | with_reducible assumption
    | (intro x; refine Kept.cut (a := a) (x := x) ?_ ?_ <;> [subst x; (clear_value x; intro hx)])
    | (intro x; subst x) | intro x
    | (beta_reduce; lift_lets; intro x; refine Kept.cut (a := a) (x := x) ?_ ?_ <;> [subst x; (clear_value x; intro hx)])
    | (beta_reduce; lift_lets; intro x) | with_reducible apply kept_commitAll | with_reducible apply kept_holdStat
    | with_reducible apply kept_each | with_reducible apply kept_setCl | with_reducible apply kept_setRf
    | with_reducible apply kept_maskEnd | with_reducible apply kept_pourSeq | with_reducible apply kept_fire
    | with_reducible apply kept_capTriggerAll
    | (refine Kept.mkMem ?_ rfl (fun m => m) rfl rfl rfl rfl rfl rfl rfl rfl)

theorem kept_seqTick (h : Kept a s) (y1) : Kept a (State.seqTick s y1) := by
  unfold State.seqTick
  repeat' first
    | with_reducible assumption | (beta_reduce; lift_lets; intro x) | with_reducible apply kept_seqBegin
    | with_reducible apply kept_setSq | (beta_reduce; split)

theorem kept_unparkTick (h : Kept a s)  : Kept a (State.unparkTick s) := by
  unfold State.unparkTick
  repeat' first
    | with_reducible assumption | intro x | with_reducible apply kept_each | with_reducible apply kept_setRb
    | (beta_reduce; split)

theorem kept_tick (h : Kept a s)  : Kept a (State.tick s) := by
  unfold State.tick
  repeat' first
    | with_reducible assumption
    | (intro x; refine Kept.cut (a := a) (x := x) ?_ ?_ <;> [subst x; (clear_value x; intro hx)])
    | (intro x; subst x) | intro x | (beta_reduce; lift_lets; intro x) | with_reducible apply kept_each
    | with_reducible apply kept_judge | with_reducible apply kept_takeUp | with_reducible apply kept_clampTick
    | with_reducible apply kept_setRf | with_reducible apply kept_thermalTick | with_reducible apply kept_unparkTick
    | with_reducible apply kept_unparkChan | with_reducible apply kept_tapsTick
    | with_reducible apply kept_clearEdges | with_reducible apply kept_setTu | with_reducible apply kept_seqTick
    | with_reducible apply kept_govTick | with_reducible apply kept_capSteepEnd
    | with_reducible apply kept_capTriggerAll | with_reducible apply kept_weTrigger | with_reducible apply kept_fire
    | with_reducible apply kept_hbSeen | with_reducible apply kept_syncLaunch
    | (refine Kept.mkMem ?_ rfl (fun m => m) rfl rfl rfl rfl rfl rfl rfl rfl)

theorem kept_execTick  {t : State} (e : execTick s = .next t) : Kept s t := by
  cases e
  repeat' first
    | with_reducible exact Kept.refl | with_reducible apply kept_putBehind | with_reducible apply kept_tick
    | (beta_reduce; split)

theorem kept_execHeartbeatToggle  {t : State} (e : execHeartbeatToggle s = .next t) : Kept s t := by
  cases e
  repeat' first
    | with_reducible exact Kept.refl | (beta_reduce; lift_lets; intro x) | with_reducible apply kept_hbSeen
    | (beta_reduce; split) | (refine Kept.mkMem ?_ rfl (fun m => m) rfl rfl rfl rfl rfl rfl rfl rfl)

theorem kept_execClusterPourDone (y0) {t : State} (e : execClusterPourDone y0 s = .next t) : Kept s t := by
  cases e
  repeat' first
    | with_reducible exact Kept.refl | (beta_reduce; lift_lets; intro x) | with_reducible apply kept_setCl
    | (beta_reduce; split)

theorem kept_execPourDone  {t : State} (e : execPourDone s = .next t) : Kept s t := by
  cases e
  repeat' first | with_reducible exact Kept.refl | with_reducible apply kept_pourDone | (beta_reduce; split)

theorem kept_execPourLimitExpiry  {t : State} (e : execPourLimitExpiry s = .next t) : Kept s t := by
  cases e
  repeat' first
    | with_reducible assumption | with_reducible exact Kept.refl
    | (intro x; refine Kept.cut (a := s) (x := x) ?_ ?_ <;> [subst x; (clear_value x; intro hx)]) | intro x
    | (beta_reduce; lift_lets; intro x) | with_reducible apply kept_putBehind | with_reducible apply kept_each
    | with_reducible apply kept_fenceCluster | (beta_reduce; split)
    | (refine Kept.mkMem ?_ rfl (fun m => m) rfl rfl rfl rfl rfl rfl rfl rfl)

/-! Machine/Reset.lean -/

theorem kept_askReset (h : Kept a s) (y1) : Kept a (State.askReset s y1) := by
  unfold State.askReset
  repeat' first
    | with_reducible assumption | (beta_reduce; lift_lets; intro x) | (beta_reduce; split)
    | (refine Kept.mkMem ?_ rfl (fun m => m) rfl rfl rfl rfl rfl rfl rfl rfl)

theorem kept_rstReqWrite (h : Kept a s) (y1) (y2) : Kept a (State.rstReqWrite s y1 y2) := by
  unfold State.rstReqWrite
  repeat' first
    | with_reducible assumption | with_reducible apply kept_noticeAt | with_reducible apply kept_askReset
    | (beta_reduce; split)

theorem kept_bistFence (h : Kept a s) (y1) : Kept a (State.bistFence s y1) := by
  unfold State.bistFence
  repeat' first
    | with_reducible assumption
    | (intro x; refine Kept.cut (a := a) (x := x) ?_ ?_ <;> [subst x; (clear_value x; intro hx)])
    | (beta_reduce; lift_lets; intro x) | with_reducible apply kept_f2 | with_reducible apply kept_parkCluster
    | with_reducible apply kept_haltSeq | (beta_reduce; split)

theorem kept_userLoad (h : Kept a s) (y1) (y2) : Kept a (State.userLoad s y1 y2) := by
  unfold State.userLoad
  repeat' first
    | with_reducible assumption | with_reducible apply kept_noticeAt | with_reducible apply kept_setRg
    | with_reducible apply kept_setRf | with_reducible apply kept_setRb | (dsimp only; split) | split
    | (refine Kept.mkMem ?_ rfl (fun m => m) rfl rfl rfl rfl rfl rfl rfl rfl)

theorem kept_bootPatch (h : Kept a s) (y1) : Kept a (State.bootPatch s y1) := by
  unfold State.bootPatch
  repeat' first
    | with_reducible assumption | with_reducible apply kept_setRb | with_reducible apply kept_mcLoad
    | with_reducible apply kept_mcInval | (beta_reduce; split)

theorem kept_flashLoad (h : Kept a s) (y1) : Kept a (State.flashLoad s y1) := by
  unfold State.flashLoad
  repeat' first
    | with_reducible assumption | with_reducible apply kept_setRb | with_reducible apply kept_setRg
    | with_reducible apply kept_userLoad | with_reducible apply kept_mcCover | with_reducible apply kept_bootPatch
    | with_reducible apply kept_noticeAt | (dsimp only; split) | split
    | (refine Kept.mkMem ?_ rfl (fun m => m) rfl rfl rfl rfl rfl rfl rfl rfl)

theorem kept_romSweep (h : Kept a s) (y1) : Kept a (State.romSweep s y1) := by
  unfold State.romSweep
  repeat' first
    | with_reducible assumption
    | (intro x; refine Kept.cut (a := a) (x := x) ?_ ?_ <;> [subst x; (clear_value x; intro hx)])
    | (intro x; subst x) | intro x | (beta_reduce; lift_lets; intro x) | with_reducible apply kept_each
    | with_reducible apply kept_setRg | (refine Kept.mkMem ?_ rfl (fun m => m) rfl rfl rfl rfl rfl rfl rfl rfl)

theorem kept_selfTest (h : Kept a s) (y1) : Kept a (State.selfTest s y1) := by
  unfold State.selfTest
  repeat' first
    | with_reducible assumption | intro x | with_reducible apply kept_setRb | with_reducible apply Kept.foldl

theorem kept_otpLoad (h : Kept a s) (y1) : Kept a (State.otpLoad s y1) := by
  unfold State.otpLoad
  repeat' first
    | with_reducible assumption
    | (intro x; refine Kept.cut (a := a) (x := x) ?_ ?_ <;> [subst x; (clear_value x; intro hx)])
    | (intro x; subst x) | intro x
    | (beta_reduce; lift_lets; intro x; refine Kept.cut (a := a) (x := x) ?_ ?_ <;> [subst x; (clear_value x; intro hx)])
    | with_reducible apply kept_uncorrected | with_reducible apply kept_setRb | with_reducible apply kept_noticeAt
    | with_reducible apply kept_corrected | with_reducible apply kept_each | with_reducible apply kept_setRf
    | with_reducible apply kept_setAp | with_reducible apply Kept.foldl | (beta_reduce; split)
    | (refine Kept.mkMem ?_ rfl (fun m => m) rfl rfl rfl rfl rfl rfl rfl rfl)

theorem kept_nodesStart (h : Kept a s)  : Kept a (State.nodesStart s) := by
  unfold State.nodesStart
  repeat' first | with_reducible assumption | (refine Kept.mkMem ?_ rfl (fun m => m) rfl rfl rfl rfl rfl rfl rfl rfl)

theorem kept_bootGo (h : Kept a s)  : Kept a (State.bootGo s) := by
  unfold State.bootGo
  repeat' first
    | with_reducible assumption
    | (intro x; refine Kept.cut (a := a) (x := x) ?_ ?_ <;> [subst x; (clear_value x; intro hx)])
    | (intro x; subst x)
    | (beta_reduce; lift_lets; intro x; refine Kept.cut (a := a) (x := x) ?_ ?_ <;> [subst x; (clear_value x; intro hx)])
    | (beta_reduce; lift_lets; intro x) | with_reducible apply kept_flashLoad | with_reducible apply kept_romSweep
    | with_reducible apply kept_selfTest | with_reducible apply kept_otpLoad | with_reducible apply kept_nodesStart
    | with_reducible apply kept_setRf | with_reducible apply kept_setRb | (beta_reduce; split)
    | (refine Kept.mkMem ?_ rfl (fun m => m) rfl rfl rfl rfl rfl rfl rfl rfl)

theorem kept_powerUp (h : Kept a s) (hs : a.InSafeState → s.InSafeState) (ht : s.now = a.now) (b) :
    Kept a (State.powerUp s b) := by
  refine kept_bootGo (Kept.cut ?_ id)
  exact ⟨h.mem, h.regs, h.latch, fun m => .inl (hs m), h.queue, .inl ht⟩

theorem kept_readySafe (h : Kept a s) (y1) : Kept a (State.readySafe s y1) := by
  unfold State.readySafe
  repeat' first
    | with_reducible assumption
    | (intro x; refine Kept.cut (a := a) (x := x) ?_ ?_ <;> [subst x; (clear_value x; intro hx)])
    | (intro x; subst x) | intro x | (beta_reduce; lift_lets; intro x) | with_reducible apply kept_wardenAll
    | with_reducible apply kept_each | with_reducible apply kept_wardenSafe | with_reducible apply kept_enterF4
    | with_reducible apply kept_safeFrom | with_reducible apply kept_estopAct | (beta_reduce; split)
    | (refine Kept.mkSafe ?_ rfl (fun m => m) rfl rfl rfl rfl (by simp) rfl rfl)

theorem kept_wardenStart (h : Kept a s) (y1) : Kept a (State.wardenStart s y1) := by
  unfold State.wardenStart
  repeat' first
    | with_reducible assumption
    | (intro x; refine Kept.cut (a := a) (x := x) ?_ ?_ <;> [subst x; (clear_value x; intro hx)])
    | (intro x; subst x) | (beta_reduce; lift_lets; intro x) | with_reducible refine kept_setSg ?_ _ (by decide)
    | (refine Kept.mkMem ?_ rfl (fun m => m) rfl rfl rfl rfl rfl rfl rfl rfl)

theorem kept_tickZero (h : Kept a s)  : Kept a (State.tickZero s) := by
  unfold State.tickZero
  repeat' first
    | with_reducible assumption
    | (intro x; refine Kept.cut (a := a) (x := x) ?_ ?_ <;> [subst x; (clear_value x; intro hx)])
    | (intro x; subst x) | intro x
    | (beta_reduce; lift_lets; intro x; refine Kept.cut (a := a) (x := x) ?_ ?_ <;> [subst x; (clear_value x; intro hx)])
    | with_reducible apply kept_takeUp | with_reducible apply kept_setRb | with_reducible apply kept_setRf
    | with_reducible apply kept_each | with_reducible apply kept_thermalTick | with_reducible apply kept_tapsTick
    | (refine Kept.mkMem ?_ rfl (fun m => m) rfl rfl rfl rfl rfl rfl rfl rfl)

theorem kept_readyUp (h : Kept a s) (y1) : Kept a (State.readyUp s y1) := by
  unfold State.readyUp
  repeat' first
    | with_reducible assumption
    | (intro x; refine Kept.cut (a := a) (x := x) ?_ ?_ <;> [subst x; (clear_value x; intro hx)])
    | (intro x; subst x) | intro x | (beta_reduce; lift_lets; intro x) | with_reducible apply kept_setRb
    | with_reducible apply kept_setRf | with_reducible apply kept_setRg | with_reducible apply kept_readySafe
    | with_reducible apply kept_wardenStart | with_reducible apply kept_tickZero | with_reducible apply kept_seqBegin
    | with_reducible apply kept_each | with_reducible apply kept_bistFence | with_reducible apply kept_liftOk
    | with_reducible apply kept_mcSweep | (beta_reduce; split)
    | (refine Kept.mkMem ?_ rfl (fun m => m) rfl rfl rfl rfl rfl rfl rfl rfl)

theorem kept_resetTo (y1) (y2) : Kept s (State.resetTo s y1 y2) := by
  have e : (State.resetTo s y1 y2).sg Off.wdF5 = s.sg Off.wdF5 := by
    simp [State.resetTo, State.sg, State.setRg, State.setSg]
  refine ⟨fun _ => rfl, fun _ => ⟨?_, ?_, rfl, rfl⟩, fun _ => e, fun _ => .inr rfl, rfl, .inr rfl⟩
  · exact tblWf_tblSet _ _ (t := []) rfl
  · exact tblWf_tblSet _ _ (t := []) rfl

theorem kept_execColdReset (y0) {t : State} (e : execColdReset y0 s = .next t) : Kept s t := by
  cases e
  repeat' first | with_reducible apply kept_resetTo

theorem kept_execFullReset {t : State} (e : execFullReset s = .next t) : Kept s t := by
  cases e
  have c : Kept s { s with rst := { s.rst with low := true } } := Kept.refl.same rfl rfl rfl rfl rfl rfl rfl rfl rfl rfl
  dsimp only
  split
  · exact c
  · have k := kept_resetTo (s := { s with rst := { s.rst with low := true } }) 2 2
    exact ⟨fun m => k.mem (c.mem m), fun m => k.regs (c.regs m), k.latch, k.safe, k.queue, k.time⟩

theorem kept_execPcieReset {t : State} (e : execPcieReset s = .next t) : Kept s t := by
  cases e
  split
  · exact Kept.refl.same rfl rfl rfl rfl rfl rfl rfl rfl rfl rfl
  · have k : Kept s { s with qm := { s.qm with link := false, mode := none, bme := false, aer := [], perst := true } } :=
      Kept.refl.same rfl rfl rfl rfl rfl rfl rfl rfl rfl rfl
    exact ⟨k.mem, fun m => ⟨m.1, m.2.1, tblWf_filter _ m.2.2.1, m.2.2.2⟩, k.latch, k.safe, k.queue, k.time⟩

theorem kept_execRstRequest (y0) (y1) {t : State} (e : execRstRequest y0 y1 s = .next t) : Kept s t := by
  cases e
  repeat' first
    | with_reducible assumption | with_reducible exact Kept.refl | intro x | with_reducible apply kept_gateWrite
    | with_reducible apply kept_rstReqWrite

theorem kept_execResetDelayExpiry  {t : State} (e : execResetDelayExpiry s = .next t) : Kept s t := by
  cases e
  repeat' first | with_reducible exact Kept.refl | with_reducible apply kept_resetTo | (beta_reduce; split)

theorem kept_execReady  {t : State} (e : execReady s = .next t) : Kept s t := by
  cases e
  repeat' first | with_reducible exact Kept.refl | with_reducible apply kept_readyUp | (beta_reduce; split)

theorem kept_execResetRelease (k b) {t : State} (e : execResetRelease k b s = .next t) : Kept s t := by
  cases e
  have c (r : Bool × Bool) : Kept s { s with rst := { s.rst with held := s.rst.held, cold := r.1, low := r.2 } } :=
    Kept.refl.same rfl rfl rfl rfl rfl rfl rfl rfl rfl rfl
  cases k with
  | cold =>
    dsimp only
    split
    · exact Kept.refl
    split
    · exact kept_setRf (c (false, s.rst.low)) ..
    · exact kept_powerUp (c (false, s.rst.low)) id rfl _
  | full =>
    dsimp only
    split
    · exact kept_powerUp (c (s.rst.cold, false)) id rfl _
    · exact c (s.rst.cold, false)
  | pcie => exact Kept.refl.same rfl rfl rfl rfl rfl rfl rfl rfl rfl rfl

/-! Machine/ServicePort.lean -/

theorem kept_spFlag (h : Kept a s) (y1) (y2) : Kept a (State.spFlag s y1 y2) := by
  unfold State.spFlag
  repeat' first | with_reducible assumption | with_reducible apply kept_changeWg

theorem kept_spRefuse (h : Kept a s)  : Kept a (State.spRefuse s) := by
  unfold State.spRefuse
  repeat' first | with_reducible assumption | with_reducible apply kept_spFlag

theorem kept_spStart (h : Kept a s) (y1) (y2) : Kept a (State.spStart s y1 y2) := by
  unfold State.spStart
  repeat' first
    | with_reducible assumption | (beta_reduce; lift_lets; intro x) | with_reducible apply kept_spRefuse
    | with_reducible apply kept_spFlag | (beta_reduce; split)
    | (refine Kept.mkMem ?_ rfl (fun m => m) rfl rfl rfl rfl rfl rfl rfl rfl)

theorem kept_spAdvance (h : Kept a s)  : Kept a (State.spAdvance s) := by
  unfold State.spAdvance
  repeat' first | with_reducible assumption | with_reducible apply kept_setWg

theorem kept_spDataTaken (h : Kept a s)  : Kept a (State.spDataTaken s) := by
  unfold State.spDataTaken
  repeat' first
    | with_reducible assumption | with_reducible apply kept_spStart | with_reducible apply kept_spAdvance
    | (beta_reduce; split)

theorem kept_spCmdWrite (h : Kept a s) (y1) : Kept a (State.spCmdWrite s y1) := by
  unfold State.spCmdWrite
  repeat' first
    | with_reducible assumption
    | (intro x; refine Kept.cut (a := a) (x := x) ?_ ?_ <;> [subst x; (clear_value x; intro hx)])
    | (intro x; subst x) | (beta_reduce; lift_lets; intro x) | with_reducible apply kept_safeFrom
    | with_reducible apply kept_askReset | with_reducible apply kept_spRefuse | (beta_reduce; split)
    | (refine Kept.mkMem ?_ rfl (fun m => m) rfl rfl rfl rfl rfl rfl rfl rfl)

theorem kept_spPtrWrite (h : Kept a s) (y1) : Kept a (State.spPtrWrite s y1) := by
  unfold State.spPtrWrite
  repeat' first
    | with_reducible assumption
    | (beta_reduce; lift_lets; intro x; refine Kept.cut (a := a) (x := x) ?_ ?_ <;> [subst x; (clear_value x; intro hx)])
    | with_reducible apply kept_spRefuse | with_reducible apply kept_setWg | with_reducible apply kept_spStart
    | (beta_reduce; split)

theorem kept_spDataWrite (h : Kept a s) (y1) : Kept a (State.spDataWrite s y1) := by
  unfold State.spDataWrite
  repeat' first
    | with_reducible assumption | with_reducible apply kept_spRefuse | with_reducible apply kept_spStart
    | with_reducible apply kept_setWg | (beta_reduce; split)

theorem kept_execSpCmdSafe (y0) {t : State} (e : execSpCmdSafe y0 s = .next t) : Kept s t := by
  cases e
  repeat' first
    | with_reducible assumption | with_reducible exact Kept.refl | intro x | with_reducible apply kept_gateWrite
    | with_reducible apply kept_spCmdWrite

theorem kept_execSpCmdRst (y0) {t : State} (e : execSpCmdRst y0 s = .next t) : Kept s t := by
  cases e
  repeat' first
    | with_reducible assumption | with_reducible exact Kept.refl | intro x | with_reducible apply kept_gateWrite
    | with_reducible apply kept_spCmdWrite

theorem kept_execSpPtrWrite (y0) {t : State} (e : execSpPtrWrite y0 s = .next t) : Kept s t := by
  cases e
  repeat' first
    | with_reducible assumption | with_reducible exact Kept.refl | intro x | with_reducible apply kept_gateWrite
    | with_reducible apply kept_spPtrWrite

theorem kept_execSpDataWrite (y0) {t : State} (e : execSpDataWrite y0 s = .next t) : Kept s t := by
  cases e
  repeat' first
    | with_reducible assumption | with_reducible exact Kept.refl | intro x | with_reducible apply kept_gateWrite
    | with_reducible apply kept_spDataWrite

theorem kept_execSpDataRead  {t : State} (e : execSpDataRead s = .next t) : Kept s t := by
  cases e
  repeat' first
    | with_reducible assumption | with_reducible exact Kept.refl | intro x | with_reducible apply kept_gateRead
    | with_reducible apply kept_spDataTaken | with_reducible apply kept_answer

theorem kept_execSpFrameError  {t : State} (e : execSpFrameError s = .next t) : Kept s t := by
  cases e
  repeat' first
    | with_reducible assumption | with_reducible exact Kept.refl | (intro x; subst x)
    | (beta_reduce; lift_lets; intro x; refine Kept.cut (a := s) (x := x) ?_ ?_ <;> [subst x; (clear_value x; intro hx)])
    | with_reducible apply kept_changeWg | with_reducible apply kept_fresh | (beta_reduce; split)

/-! Machine/RegRead.lean -/

theorem kept_pairRead (h : Kept a s) (y1) (y2) (y3) (y4) : Kept a (State.pairRead s y1 y2 y3 y4).1 := by
  unfold State.pairRead
  repeat' first
    | with_reducible assumption | dsimp only | (beta_reduce; split)
    | (refine Kept.mkMem ?_ rfl (fun m => m) rfl rfl rfl rfl rfl rfl rfl rfl)

theorem kept_readClear (h : Kept a s) (high sp r i off) (ho : sp = .pf1 → off = Off.wdF5 → r.rc = 0) :
    Kept a (s.readClear high sp r i off) := by
  unfold State.readClear
  split
  · next hn =>
    have k (v) : Kept a (s.setRegAt sp off v) := kept_setRegAt h _ _ _ fun e1 e2 => by
      simp [State.rcActs, ho e1 e2] at hn
    exact (k _).same rfl rfl rfl rfl rfl rfl rfl rfl rfl rfl
  · exact h

theorem kept_readBase (h : Kept a s) (p sp off) : Kept a (s.readBase p sp off).1 := by
  unfold State.readBase
  split
  · split
    · exact h
    · exact kept_unmapped h _ _
  · next r ix e =>
    dsimp only
    split
    · exact kept_calNext h _
    · exact kept_calNext h _
    · exact kept_edgeStep h _
    · have hq : Kept a (if r.id = .qdW then s.queueUe (s.rf Off.qdSel 0 20) else s) := by
        split
        · exact kept_queueUe h _ _
        · exact h
      generalize (if r.id = .qdW then s.queueUe (s.rf Off.qdSel 0 20) else s) = s' at hq
      have hc (t) (ht : Kept a t) : Kept a (t.readClear (secureParty p) sp r (ix.getD 0 0) off) := by
        refine kept_readClear ht _ _ _ _ _ fun e1 e2 => ?_
        subst e1; rw [findReg_wdF5 e e2]
      apply hc
      split
      · exact kept_pairRead hq _ _ _ _
      · exact hq

theorem kept_p1wNext (h : Kept a s)  : Kept a (State.p1wNext s) := by
  unfold State.p1wNext
  repeat' first | with_reducible assumption | with_reducible refine kept_setSg ?_ _ (by decide)

theorem kept_p1wRead (h : Kept a s)  : Kept a (State.p1wRead s).1 := by
  unfold State.p1wRead
  repeat' first | with_reducible assumption | with_reducible apply kept_readBase | with_reducible apply kept_p1wNext

theorem kept_readReg (h : Kept a s) (y1) (y2) (y3) : Kept a (State.readReg s y1 y2 y3).1 := by
  unfold State.readReg
  repeat' first
    | with_reducible assumption | with_reducible apply kept_p1wRead | with_reducible apply kept_spDataTaken
    | with_reducible apply kept_exception | with_reducible apply kept_readBase
    | (beta_reduce; split <;> try (rename_i heq; have k := congrArg Prod.fst heq; dsimp only at k; subst k))

theorem kept_readCmd (h : Kept a s) (y1) (y2) (y3) (y4) (y5) : Kept a (State.readCmd s y1 y2 y3 y4 y5) := by
  unfold State.readCmd
  repeat' first
    | with_reducible assumption | intro x | with_reducible apply kept_gateRead | with_reducible apply kept_putBehind
    | with_reducible apply kept_answer | with_reducible apply kept_count | with_reducible apply kept_readReg
    | (beta_reduce; split <;> try (rename_i heq; have k := congrArg Prod.fst heq; dsimp only at k; subst k))

theorem kept_execLowWordRead (y0) (y1) (y2) (y3) {t : State} (e : execLowWordRead y0 y1 y2 y3 s = .next t) : Kept s t := by
  cases e
  repeat' first | with_reducible exact Kept.refl | with_reducible apply kept_readCmd

theorem kept_execP1wDataRead  {t : State} (e : execP1wDataRead s = .next t) : Kept s t := by
  cases e
  repeat' first | with_reducible exact Kept.refl | with_reducible apply kept_readCmd

theorem kept_execReadClear (y0) (y1) (y2) (y3) {t : State} (e : execReadClear y0 y1 y2 y3 s = .next t) : Kept s t := by
  cases e
  repeat' first | with_reducible exact Kept.refl | with_reducible apply kept_readCmd

/-! Machine/CaptureCtl.lean -/

theorem kept_caplConfig (h : Kept a s) (y1) (y2) (y3) (y4) : Kept a (State.caplConfig s y1 y2 y3 y4) := by
  unfold State.caplConfig
  repeat' first
    | with_reducible assumption | with_reducible apply kept_noticeCl | with_reducible apply kept_setRb
    | with_reducible apply kept_setRg | (beta_reduce; split)

theorem kept_clampD (h : Kept a s) (y1) : Kept a (State.clampD s y1) := by
  unfold State.clampD
  repeat' first
    | with_reducible assumption
    | (intro x; refine Kept.cut (a := a) (x := x) ?_ ?_ <;> [subst x; (clear_value x; intro hx)])
    | (intro x; subst x) | (beta_reduce; lift_lets; intro x) | with_reducible apply kept_setCap
    | with_reducible apply kept_govSplit | with_reducible apply kept_setRf | (beta_reduce; split)

theorem kept_capGovWrite (h : Kept a s) (y1) (y2) : Kept a (State.capGovWrite s y1 y2) := by
  unfold State.capGovWrite
  repeat' first
    | with_reducible assumption | (beta_reduce; lift_lets; intro x) | with_reducible apply kept_noticeCl
    | with_reducible apply kept_capTouch | with_reducible apply kept_clampD | with_reducible apply kept_setRg
    | (beta_reduce; split)

theorem kept_listArm (h : Kept a s) (y1) (y2) (y3) : Kept a (State.listArm s y1 y2 y3) := by
  unfold State.listArm
  repeat' first
    | with_reducible assumption
    | (intro x; refine Kept.cut (a := a) (x := x) ?_ ?_ <;> [subst x; (clear_value x; intro hx)])
    | (intro x; subst x)
    | (beta_reduce; lift_lets; intro x; refine Kept.cut (a := a) (x := x) ?_ ?_ <;> [subst x; (clear_value x; intro hx)])
    | with_reducible apply kept_capDisarm | with_reducible apply kept_setCap | with_reducible apply kept_clampD
    | with_reducible apply kept_capArmedNow | with_reducible apply kept_setRf

theorem kept_rearm (h : Kept a s) (y1) : Kept a (State.rearm s y1) := by
  unfold State.rearm
  repeat' first
    | with_reducible assumption | (beta_reduce; lift_lets; intro x) | with_reducible apply kept_capArmedNow
    | with_reducible apply kept_setCap | (beta_reduce; split)

theorem kept_execCapTrig (y0) (y1) (y2) {t : State} (e : execCapTrig y0 y1 y2 s = .next t) : Kept s t := by
  cases e
  repeat' first
    | with_reducible assumption | with_reducible exact Kept.refl | intro x | with_reducible apply kept_instr
    | with_reducible apply kept_pushEntry | with_reducible apply FlowKept.next' | (beta_reduce; split)

theorem kept_execCapArm (y0) (y1) (y2) {t : State} (e : execCapArm y0 y1 y2 s = .next t) : Kept s t := by
  cases e
  repeat' first
    | with_reducible assumption | with_reducible exact Kept.refl | intro x | (beta_reduce; lift_lets; intro x)
    | with_reducible apply kept_instr | with_reducible apply kept_pushEntry | with_reducible apply FlowKept.trap'
    | with_reducible apply FlowKept.next' | (beta_reduce; split)

theorem kept_execCapClose (y0) (y1) (y2) {t : State} (e : execCapClose y0 y1 y2 s = .next t) : Kept s t := by
  cases e
  repeat' first
    | with_reducible assumption | with_reducible exact Kept.refl | intro x | with_reducible apply kept_instr
    | with_reducible apply kept_pushEntry | with_reducible apply FlowKept.next' | (beta_reduce; split)

theorem kept_execCapDisarm (y0) (y1) (y2) {t : State} (e : execCapDisarm y0 y1 y2 s = .next t) : Kept s t := by
  cases e
  repeat' first
    | with_reducible assumption | with_reducible exact Kept.refl | intro x | with_reducible apply kept_instr
    | with_reducible apply kept_pushEntry | with_reducible apply FlowKept.next' | (beta_reduce; split)

theorem kept_execListArmApply (y0) {t : State} (e : execListArmApply y0 s = .next t) : Kept s t := by
  cases e
  repeat' first
    | with_reducible exact Kept.refl | with_reducible apply kept_listArm | with_reducible apply kept_popEntry
    | (beta_reduce; split)

theorem kept_execListTrigApply (y0) {t : State} (e : execListTrigApply y0 s = .next t) : Kept s t := by
  cases e
  repeat' first
    | with_reducible exact Kept.refl | with_reducible apply kept_capTrigger | with_reducible apply kept_popEntry
    | (beta_reduce; split)

theorem kept_execListCloseApply (y0) {t : State} (e : execListCloseApply y0 s = .next t) : Kept s t := by
  cases e
  repeat' first
    | with_reducible exact Kept.refl | with_reducible apply kept_closeSegment | with_reducible apply kept_popEntry
    | (beta_reduce; split)

theorem kept_execListDisarmApply (y0) {t : State} (e : execListDisarmApply y0 s = .next t) : Kept s t := by
  cases e
  repeat' first
    | with_reducible exact Kept.refl | with_reducible apply kept_capDisarm | with_reducible apply kept_popEntry
    | (beta_reduce; split)

theorem kept_execEvsEntryApply (y0) {t : State} (e : execEvsEntryApply y0 s = .next t) : Kept s t := by
  cases e
  repeat' first
    | with_reducible exact Kept.refl | with_reducible apply kept_fire | with_reducible apply kept_popEntry
    | (beta_reduce; split)

theorem kept_execCaplConfigWrite (y0) (y1) (y2) (y3) (y4) {t : State} (e : execCaplConfigWrite y0 y1 y2 y3 y4 s = .next t) : Kept s t := by
  cases e
  repeat' first
    | with_reducible assumption | with_reducible exact Kept.refl | intro x | with_reducible apply kept_gateWrite
    | with_reducible apply kept_caplConfig

theorem kept_execCapGovWrite (y0) (y1) (y2) {t : State} (e : execCapGovWrite y0 y1 y2 s = .next t) : Kept s t := by
  cases e
  repeat' first
    | with_reducible assumption | with_reducible exact Kept.refl | intro x | with_reducible apply kept_gateWrite
    | with_reducible apply kept_capGovWrite

theorem kept_execRearmComplete (y0) {t : State} (e : execRearmComplete y0 s = .next t) : Kept s t := by
  cases e
  repeat' first | with_reducible exact Kept.refl | with_reducible apply kept_rearm

theorem kept_execGovRise (y0) {t : State} (e : execGovRise y0 s = .next t) : Kept s t := by
  cases e
  repeat' first | with_reducible exact Kept.refl | with_reducible apply kept_govRise | (beta_reduce; split)

end Sys2Proof.Machine
end

