-- ==== Sys2Proof/Laws/KeptCommands.lean ====
section
/-!
SUPPORT. Kept by clocks, control, events, vector memory, register accesses, the host link, time and the instructions.
-/
set_option linter.unusedTactic false
set_option linter.unreachableTactic false
namespace Sys2Proof.Machine

open Sys2Proof

variable {a s : State}

/-! Machine/Clocks.lean -/

theorem kept_clkOutWrite (h : Kept a s) (y1) (y2) : Kept a (State.clkOutWrite s y1 y2) := by
  unfold State.clkOutWrite
  repeat' first
    | with_reducible assumption | (intro x; subst x) | (beta_reduce; lift_lets; intro x)
    | with_reducible apply kept_setShadow | with_reducible apply kept_notice | with_reducible apply kept_setRb
    | (beta_reduce; split) | (refine Kept.mkMem ?_ rfl (fun m => m) rfl rfl rfl rfl rfl rfl rfl rfl)

theorem kept_clockF2 (h : Kept a s) (y1) : Kept a (State.clockF2 s y1) := by
  unfold State.clockF2
  repeat' first
    | with_reducible assumption | with_reducible apply kept_f2Done | with_reducible apply kept_f2
    | (beta_reduce; split)

theorem kept_refPres (h : Kept a s) (y1) : Kept a (State.refPres s y1) := by
  unfold State.refPres
  repeat' first | with_reducible assumption | with_reducible apply kept_setRb

theorem kept_unlock (h : Kept a s) (y1) : Kept a (State.unlock s y1) := by
  unfold State.unlock
  repeat' first
    | with_reducible assumption
    | (intro x; refine Kept.cut (a := a) (x := x) ?_ ?_ <;> [subst x; (clear_value x; intro hx)])
    | (intro x; subst x)
    | (beta_reduce; lift_lets; intro x; refine Kept.cut (a := a) (x := x) ?_ ?_ <;> [subst x; (clear_value x; intro hx)])
    | with_reducible apply kept_setRb | with_reducible apply kept_count | with_reducible apply kept_refPres
    | (beta_reduce; split) | (refine Kept.mkMem ?_ rfl (fun m => m) rfl rfl rfl rfl rfl rfl rfl rfl)

theorem kept_clockPark (h : Kept a s) (y1) : Kept a (State.clockPark s y1) := by
  unfold State.clockPark
  repeat' first
    | with_reducible assumption | with_reducible apply kept_setRb | with_reducible apply kept_parkCluster
    | (beta_reduce; split)

theorem kept_clockLoss (h : Kept a s) (y1) : Kept a (State.clockLoss s y1) := by
  unfold State.clockLoss
  repeat' first
    | with_reducible assumption
    | (intro x; refine Kept.cut (a := a) (x := x) ?_ ?_ <;> [subst x; (clear_value x; intro hx)])
    | (intro x; subst x) | intro x
    | (beta_reduce; lift_lets; intro x; refine Kept.cut (a := a) (x := x) ?_ ?_ <;> [subst x; (clear_value x; intro hx)])
    | with_reducible apply kept_setRb | with_reducible apply kept_unlock | with_reducible apply kept_count
    | with_reducible apply kept_each | with_reducible apply kept_clockPark | with_reducible apply kept_tiuFinish
    | with_reducible apply kept_weFlag | with_reducible apply kept_weEnd | with_reducible apply kept_flagAll
    | with_reducible apply kept_clockF2 | with_reducible apply Kept.foldl | (beta_reduce; split)
    | (refine Kept.mkMem ?_ rfl (fun m => m) rfl rfl rfl rfl rfl rfl rfl rfl)

theorem kept_execRefclkLoss  {t : State} (e : execRefclkLoss s = .next t) : Kept s t := by
  cases e
  repeat' first
    | with_reducible exact Kept.refl | with_reducible apply kept_clockLoss | with_reducible apply kept_unlock
    | (beta_reduce; split)

theorem kept_execPllaLockLoss  {t : State} (e : execPllaLockLoss s = .next t) : Kept s t := by
  cases e
  repeat' first
    | with_reducible exact Kept.refl | with_reducible apply kept_clockLoss | with_reducible apply kept_unlock
    | (beta_reduce; split)

theorem kept_execRefclkPresent  {t : State} (e : execRefclkPresent s = .next t) : Kept s t := by
  cases e
  repeat' first
    | with_reducible assumption | with_reducible exact Kept.refl | (intro x; subst x)
    | (beta_reduce; lift_lets; intro x; refine Kept.cut (a := s) (x := x) ?_ ?_ <;> [subst x; (clear_value x; intro hx)])
    | with_reducible apply kept_refPres | (beta_reduce; split)
    | (refine Kept.mkMem ?_ rfl (fun m => m) rfl rfl rfl rfl rfl rfl rfl rfl)

theorem kept_execPllaLock (y0) {t : State} (e : execPllaLock y0 s = .next t) : Kept s t := by
  cases e
  repeat' first
    | with_reducible assumption | with_reducible exact Kept.refl
    | (intro x; refine Kept.cut (a := s) (x := x) ?_ ?_ <;> [subst x; (clear_value x; intro hx)])
    | (intro x; subst x) | (beta_reduce; lift_lets; intro x) | with_reducible apply kept_setRf
    | with_reducible apply kept_setRb | (beta_reduce; split)
    | (refine Kept.mkMem ?_ rfl (fun m => m) rfl rfl rfl rfl rfl rfl rfl rfl)

theorem kept_execPllaLockTimeout  {t : State} (e : execPllaLockTimeout s = .next t) : Kept s t := by
  cases e
  repeat' first
    | with_reducible assumption | with_reducible exact Kept.refl
    | (intro x; refine Kept.cut (a := s) (x := x) ?_ ?_ <;> [subst x; (clear_value x; intro hx)])
    | (beta_reduce; lift_lets; intro x) | with_reducible apply kept_count | with_reducible apply kept_notice
    | (beta_reduce; split) | (refine Kept.mkMem ?_ rfl (fun m => m) rfl rfl rfl rfl rfl rfl rfl rfl)

theorem kept_execRelockComplete  {t : State} (e : execRelockComplete s = .next t) : Kept s t := by
  cases e
  repeat' first
    | with_reducible assumption | with_reducible exact Kept.refl
    | (intro x; refine Kept.cut (a := s) (x := x) ?_ ?_ <;> [subst x; (clear_value x; intro hx)])
    | (beta_reduce; lift_lets; intro x) | with_reducible apply kept_setRb | with_reducible apply kept_notice
    | with_reducible apply kept_f2Done | (beta_reduce; split)
    | (refine Kept.mkMem ?_ rfl (fun m => m) rfl rfl rfl rfl rfl rfl rfl rfl)

theorem kept_execOvoReadyRise  {t : State} (e : execOvoReadyRise s = .next t) : Kept s t := by
  cases e
  repeat' first
    | with_reducible exact Kept.refl | with_reducible apply kept_setRb | with_reducible apply kept_setRf
    | (beta_reduce; split)

theorem kept_execOvoReadyFall  {t : State} (e : execOvoReadyFall s = .next t) : Kept s t := by
  cases e
  repeat' first
    | with_reducible assumption | with_reducible exact Kept.refl
    | (intro x; refine Kept.cut (a := s) (x := x) ?_ ?_ <;> [subst x; (clear_value x; intro hx)]) | intro x
    | (beta_reduce; lift_lets; intro x; refine Kept.cut (a := s) (x := x) ?_ ?_ <;> [subst x; (clear_value x; intro hx)])
    | with_reducible apply kept_setRb | with_reducible apply kept_fresh | with_reducible apply kept_each
    | with_reducible apply kept_tiuFinish | with_reducible apply kept_notice | (beta_reduce; split)

theorem kept_execClkOutWrite (y0) (y1) (y2) {t : State} (e : execClkOutWrite y0 y1 y2 s = .next t) : Kept s t := by
  cases e
  repeat' first
    | with_reducible assumption | with_reducible exact Kept.refl | intro x | with_reducible apply kept_gateWrite
    | with_reducible apply kept_clkOutWrite

theorem kept_execClkDelayStep (y0) {t : State} (e : execClkDelayStep y0 s = .next t) : Kept s t := by
  cases e
  repeat' first
    | with_reducible exact Kept.refl | (intro x; subst x) | (beta_reduce; lift_lets; intro x) | (beta_reduce; split)
    | (refine Kept.mkMem ?_ rfl (fun m => m) rfl rfl rfl rfl rfl rfl rfl rfl)

/-! Machine/Control.lean -/

theorem kept_clearLatch (h : Kept a s) (y1) (y2) (y3) : Kept a (State.clearLatch s y1 y2 y3) := by
  unfold State.clearLatch
  repeat' first
    | with_reducible assumption | (intro x; subst x) | (beta_reduce; lift_lets; intro x)
    | with_reducible apply kept_setRg

theorem kept_waitTick (h : Kept a s) (y1) : Kept a (State.waitTick s y1) := by
  unfold State.waitTick
  repeat' first
    | with_reducible assumption | with_reducible apply kept_retire | with_reducible apply kept_setSq
    | with_reducible apply kept_clearLatch | (dsimp only; split) | split

theorem kept_haltCode (h : Kept a s) (y1) (y2) : Kept a (State.haltCode s y1 y2) := by
  unfold State.haltCode
  repeat' first
    | with_reducible assumption | (intro x; subst x)
    | (beta_reduce; lift_lets; intro x; refine Kept.cut (a := a) (x := x) ?_ ?_ <;> [subst x; (clear_value x; intro hx)])
    | with_reducible apply kept_irq | with_reducible apply kept_change | with_reducible apply kept_haltSeq
    | with_reducible apply kept_setSq

theorem kept_loopIn (h : Kept a s) (y1) (y2) : Kept a (State.loopIn s y1 y2) := by
  unfold State.loopIn
  repeat' first
    | with_reducible assumption | (intro x; subst x)
    | (beta_reduce; lift_lets; intro x; refine Kept.cut (a := a) (x := x) ?_ ?_ <;> [subst x; (clear_value x; intro hx)])
    | with_reducible apply kept_unlockLoop | with_reducible apply kept_setSq | (beta_reduce; split)

theorem kept_loopOut (h : Kept a s) (y1) (y2) : Kept a (State.loopOut s y1 y2) := by
  unfold State.loopOut
  repeat' first | with_reducible assumption | with_reducible apply kept_unlockLoop | (beta_reduce; split)

theorem kept_loopPass (h : Kept a s) (y1) (y2) : Kept a (State.loopPass s y1 y2) := by
  unfold State.loopPass
  repeat' first | with_reducible assumption | (beta_reduce; lift_lets; intro x) | with_reducible apply kept_setSq

theorem kept_yield (h : Kept a s) (y1) : Kept a (State.yield s y1) := by
  unfold State.yield
  repeat' first
    | with_reducible assumption
    | (intro x; refine Kept.cut (a := a) (x := x) ?_ ?_ <;> [subst x; (clear_value x; intro hx)])
    | (beta_reduce; lift_lets; intro x) | with_reducible apply kept_setSq | with_reducible apply kept_haltSeq
    | (beta_reduce; split)

theorem kept_execSteep (y0) (y1) (y2) {t : State} (e : execSteep y0 y1 y2 s = .next t) : Kept s t := by
  cases e
  repeat' first
    | with_reducible assumption | with_reducible exact Kept.refl | intro x | with_reducible apply kept_instr
    | with_reducible apply kept_yield | with_reducible apply FlowKept.hold'

theorem kept_execPour (y0) (y1) (y2) {t : State} (e : execPour y0 y1 y2 s = .next t) : Kept s t := by
  cases e
  repeat' first
    | with_reducible assumption | with_reducible exact Kept.refl | intro x | (beta_reduce; lift_lets; intro x)
    | with_reducible apply kept_instr | with_reducible apply kept_setSq | with_reducible apply FlowKept.next'
    | with_reducible apply FlowKept.hold' | (beta_reduce; split)

theorem kept_execHalt (y0) (y1) (y2) {t : State} (e : execHalt y0 y1 y2 s = .next t) : Kept s t := by
  cases e
  repeat' first
    | with_reducible assumption | with_reducible exact Kept.refl | intro x | with_reducible apply kept_instr
    | with_reducible apply kept_haltCode | with_reducible apply FlowKept.hold'

theorem kept_tretBody (h : Kept a s) (y0) (y1) : FlowKept a (tretBody y0 y1 s) := by
  unfold tretBody
  repeat' first
    | with_reducible assumption
    | (intro x; refine Kept.cut (a := a) (x := x) ?_ ?_ <;> [subst x; (clear_value x; intro hx)])
    | (beta_reduce; lift_lets; intro x) | with_reducible apply kept_setSq | with_reducible apply kept_setRb
    | with_reducible apply FlowKept.trap' | with_reducible apply FlowKept.jump' | (beta_reduce; split)

theorem kept_execTret (y0) (y1) (y2) {t : State} (e : execTret y0 y1 y2 s = .next t) : Kept s t := by
  cases e
  repeat' first
    | with_reducible assumption | with_reducible exact Kept.refl | intro x | with_reducible apply kept_instr
    | with_reducible apply kept_tretBody

theorem kept_execJmp (y0) (y1) (y2) {t : State} (e : execJmp y0 y1 y2 s = .next t) : Kept s t := by
  cases e
  repeat' first
    | with_reducible assumption | with_reducible exact Kept.refl | intro x | (beta_reduce; lift_lets; intro x)
    | with_reducible apply kept_instr | with_reducible apply FlowKept.jump' | with_reducible apply FlowKept.next'
    | (beta_reduce; split)

theorem kept_execJf (y0) (y1) (y2) {t : State} (e : execJf y0 y1 y2 s = .next t) : Kept s t := by
  cases e
  repeat' first
    | with_reducible assumption | with_reducible exact Kept.refl | (intro x; subst x) | intro x
    | (beta_reduce; lift_lets; intro x) | with_reducible apply kept_instr | with_reducible apply kept_setSq
    | with_reducible apply FlowKept.hold' | with_reducible apply FlowKept.jump' | with_reducible apply FlowKept.next'
    | (beta_reduce; split)

theorem kept_execJe (y0) (y1) (y2) {t : State} (e : execJe y0 y1 y2 s = .next t) : Kept s t := by
  cases e
  repeat' first
    | with_reducible assumption | with_reducible exact Kept.refl | intro x | (beta_reduce; lift_lets; intro x)
    | with_reducible apply kept_instr | with_reducible apply kept_clearLatch | with_reducible apply FlowKept.trap'
    | with_reducible apply FlowKept.next' | with_reducible apply FlowKept.jump' | (beta_reduce; split)

theorem kept_execCall (y0) (y1) (y2) {t : State} (e : execCall y0 y1 y2 s = .next t) : Kept s t := by
  cases e
  repeat' first
    | with_reducible assumption | with_reducible exact Kept.refl | intro x | (beta_reduce; lift_lets; intro x)
    | with_reducible apply kept_instr | with_reducible apply kept_setSq | with_reducible apply FlowKept.trap'
    | with_reducible apply FlowKept.jump' | (beta_reduce; split)

theorem kept_execRet (y0) (y1) (y2) {t : State} (e : execRet y0 y1 y2 s = .next t) : Kept s t := by
  cases e
  repeat' first
    | with_reducible assumption | with_reducible exact Kept.refl | intro x | (beta_reduce; lift_lets; intro x)
    | with_reducible apply kept_instr | with_reducible apply kept_setSq | with_reducible apply FlowKept.trap'
    | with_reducible apply FlowKept.jump' | (beta_reduce; split)

theorem kept_execLoop (y0) (y1) (y2) {t : State} (e : execLoop y0 y1 y2 s = .next t) : Kept s t := by
  cases e
  repeat' first
    | with_reducible assumption | with_reducible exact Kept.refl
    | (intro x; refine Kept.cut (a := s) (x := x) ?_ ?_ <;> [subst x; (clear_value x; intro hx)])
    | (intro x; subst x) | intro x | (beta_reduce; lift_lets; intro x) | with_reducible apply kept_instr
    | with_reducible apply kept_setSq | with_reducible apply kept_loopIn | with_reducible apply FlowKept.jump'
    | with_reducible apply FlowKept.next' | (beta_reduce; split)

theorem kept_execEndl (y0) (y1) (y2) {t : State} (e : execEndl y0 y1 y2 s = .next t) : Kept s t := by
  cases e
  repeat' first
    | with_reducible assumption | with_reducible exact Kept.refl
    | (intro x; refine Kept.cut (a := s) (x := x) ?_ ?_ <;> [subst x; (clear_value x; intro hx)])
    | (intro x; subst x) | intro x | (beta_reduce; lift_lets; intro x) | with_reducible apply kept_instr
    | with_reducible apply kept_setSq | with_reducible apply kept_loopOut | with_reducible apply kept_loopPass
    | with_reducible apply FlowKept.next' | with_reducible apply FlowKept.jump' | (beta_reduce; split)

theorem kept_execEvs (y0) (y1) (y2) {t : State} (e : execEvs y0 y1 y2 s = .next t) : Kept s t := by
  cases e
  repeat' first
    | with_reducible assumption | with_reducible exact Kept.refl | intro x | (beta_reduce; lift_lets; intro x)
    | with_reducible apply kept_instr | with_reducible apply kept_pushEntry | with_reducible apply kept_fire
    | with_reducible apply FlowKept.next' | (beta_reduce; split)

theorem kept_execEvw (y0) (y1) (y2) {t : State} (e : execEvw y0 y1 y2 s = .next t) : Kept s t := by
  cases e
  repeat' first
    | with_reducible assumption | with_reducible exact Kept.refl | (intro x; subst x) | intro x
    | (beta_reduce; lift_lets; intro x) | with_reducible apply kept_instr | with_reducible apply kept_setSq
    | with_reducible apply FlowKept.trap' | with_reducible apply FlowKept.hold' | (beta_reduce; split)

theorem kept_execEvwTimeout (y0) {t : State} (e : execEvwTimeout y0 s = .next t) : Kept s t := by
  cases e
  repeat' first
    | with_reducible exact Kept.refl | (beta_reduce; lift_lets; intro x) | with_reducible apply kept_retire
    | with_reducible apply kept_setSq | (beta_reduce; split)

theorem kept_execQpush (y0) (y1) (y2) {t : State} (e : execQpush y0 y1 y2 s = .next t) : Kept s t := by
  cases e
  repeat' first
    | with_reducible assumption | with_reducible exact Kept.refl
    | (intro x; refine Kept.cut (a := s) (x := x) ?_ ?_ <;> [subst x; (clear_value x; intro hx)]) | intro x
    | (beta_reduce; lift_lets; intro x) | with_reducible apply kept_instr | with_reducible apply kept_setSq
    | with_reducible apply kept_produce | with_reducible apply FlowKept.trap' | with_reducible apply FlowKept.hold'
    | (beta_reduce; split)

theorem kept_execSfclr (y0) (y1) (y2) {t : State} (e : execSfclr y0 y1 y2 s = .next t) : Kept s t := by
  cases e
  repeat' first
    | with_reducible assumption | with_reducible exact Kept.refl | intro x | (beta_reduce; lift_lets; intro x)
    | with_reducible apply kept_instr | with_reducible apply kept_setSq | with_reducible apply FlowKept.next'

theorem kept_execRdr (y0) (y1) {t : State} (e : execRdr y0 y1 s = .next t) : Kept s t := by
  cases e
  repeat' first
    | with_reducible assumption | with_reducible exact Kept.refl | (intro x; subst x) | intro x
    | (beta_reduce; lift_lets; intro x) | with_reducible apply kept_instr | with_reducible apply kept_setSq
    | with_reducible apply FlowKept.trap' | with_reducible apply FlowKept.hold' | (beta_reduce; split)

theorem kept_execWrr (y0) (y1) {t : State} (e : execWrr y0 y1 s = .next t) : Kept s t := by
  cases e
  repeat' first
    | with_reducible assumption | with_reducible exact Kept.refl | (intro x; subst x) | intro x
    | (beta_reduce; lift_lets; intro x) | with_reducible apply kept_instr | with_reducible apply kept_setSq
    | with_reducible apply FlowKept.trap' | with_reducible apply FlowKept.hold' | (beta_reduce; split)

theorem kept_execWaitc (y0) (y1) {t : State} (e : execWaitc y0 y1 s = .next t) : Kept s t := by
  cases e
  repeat' first
    | with_reducible assumption | with_reducible exact Kept.refl | (intro x; subst x) | intro x
    | (beta_reduce; lift_lets; intro x) | with_reducible apply kept_instr | with_reducible apply kept_setSq
    | with_reducible apply FlowKept.hold'

theorem kept_execWaitcExpiry  {t : State} (e : execWaitcExpiry s = .next t) : Kept s t := by
  cases e
  repeat' first | with_reducible exact Kept.refl | with_reducible apply kept_retire | (beta_reduce; split)

/-! Machine/Events.lean -/

theorem kept_ecStore (h : Kept a s) (y1) (y2) (y3) : Kept a (State.ecStore s y1 y2 y3) := by
  unfold State.ecStore
  repeat' first
    | with_reducible assumption
    | (beta_reduce; lift_lets; intro x; refine Kept.cut (a := a) (x := x) ?_ ?_ <;> [subst x; (clear_value x; intro hx)])
    | with_reducible apply kept_regNote | with_reducible apply kept_setRg | (beta_reduce; split)

theorem kept_ecReject (h : Kept a s) (y1) : Kept a (State.ecReject s y1) := by
  unfold State.ecReject
  repeat' first | with_reducible assumption | with_reducible apply kept_notice | with_reducible apply kept_count

theorem kept_ecWrite (h : Kept a s) (y1) (y2) (y3) (y4) : Kept a (State.ecWrite s y1 y2 y3 y4) := by
  unfold State.ecWrite
  repeat' first
    | with_reducible assumption | (intro x; subst x) | (beta_reduce; lift_lets; intro x)
    | with_reducible apply kept_ecStore | with_reducible apply kept_ecReject | (beta_reduce; split)

theorem kept_fireNext (h : Kept a s) (y1) : Kept a (State.fireNext s y1) := by
  unfold State.fireNext
  repeat' first | with_reducible assumption | (refine Kept.mkMem ?_ rfl (fun m => m) rfl rfl rfl rfl rfl rfl rfl rfl)

theorem kept_paDrive (h : Kept a s) (y1) (y2) : Kept a (State.paDrive s y1 y2) := by
  unfold State.paDrive
  repeat' first
    | with_reducible assumption | (intro x; subst x) | (beta_reduce; lift_lets; intro x)
    | with_reducible apply kept_setCh | (beta_reduce; split)

theorem kept_paStart (h : Kept a s)  : Kept a (State.paStart s) := by
  unfold State.paStart
  repeat' first
    | with_reducible assumption
    | (intro x; refine Kept.cut (a := a) (x := x) ?_ ?_ <;> [subst x; (clear_value x; intro hx)]) | intro x
    | (beta_reduce; lift_lets; intro x) | with_reducible apply kept_paDrive | with_reducible apply Kept.foldl
    | (refine Kept.mkMem ?_ rfl (fun m => m) rfl rfl rfl rfl rfl rfl rfl rfl)

theorem kept_paPulse (h : Kept a s) (y1) (y2) : Kept a (State.paPulse s y1 y2) := by
  unfold State.paPulse
  repeat' first
    | with_reducible assumption | (intro x; subst x) | (beta_reduce; lift_lets; intro x) | (beta_reduce; split)
    | (refine Kept.mkMem ?_ rfl (fun m => m) rfl rfl rfl rfl rfl rfl rfl rfl)

theorem kept_deliver (h : Kept a s) (y1) : Kept a (State.deliver s y1) := by
  unfold State.deliver
  repeat' first
    | with_reducible assumption
    | (intro x; refine Kept.cut (a := a) (x := x) ?_ ?_ <;> [subst x; (clear_value x; intro hx)]) | intro x
    | (beta_reduce; lift_lets; intro x; refine Kept.cut (a := a) (x := x) ?_ ?_ <;> [subst x; (clear_value x; intro hx)])
    | with_reducible apply kept_setRb | with_reducible apply kept_capTriggerAll | with_reducible apply kept_each
    | with_reducible apply kept_tiuPulse | with_reducible apply kept_weEvent | with_reducible apply kept_paStart
    | with_reducible apply kept_paPulse | with_reducible apply Kept.foldl

theorem kept_arrive (h : Kept a s)  : Kept a (State.arrive s) := by
  unfold State.arrive
  repeat' first
    | with_reducible assumption | intro x | with_reducible apply kept_deliver | with_reducible apply Kept.foldl
    | (refine Kept.mkMem ?_ rfl (fun m => m) rfl rfl rfl rfl rfl rfl rfl rfl)

theorem kept_evLoop (h : Kept a s) (y1) : Kept a (State.evLoop s y1) := by
  unfold State.evLoop
  repeat' first
    | with_reducible assumption | with_reducible apply kept_notice | with_reducible apply kept_setRf
    | with_reducible apply kept_setRb

theorem kept_evPass (h : Kept a s) (y1) (y2) (y3) (y4) : Kept a (State.evPass s y1 y2 y3 y4) := by
  unfold State.evPass
  repeat' first
    | with_reducible assumption
    | (intro x; refine Kept.cut (a := a) (x := x) ?_ ?_ <;> [subst x; (clear_value x; intro hx)])
    | (intro x; subst x)
    | (beta_reduce; lift_lets; intro x; refine Kept.cut (a := a) (x := x) ?_ ?_ <;> [subst x; (clear_value x; intro hx)])
    | with_reducible apply kept_count | with_reducible apply kept_setRb | with_reducible apply kept_fenceSite
    | with_reducible apply kept_pulse | (beta_reduce; split)
    | (refine Kept.mkMem ?_ rfl (fun m => m) rfl rfl rfl rfl rfl rfl rfl rfl)

theorem kept_eventPass (h : Kept a s) (y1) : Kept a (State.eventPass s y1) := by
  unfold State.eventPass
  repeat' first
    | with_reducible assumption | with_reducible apply kept_evLoop | with_reducible apply kept_evPass
    | (dsimp only; split) | split | (refine Kept.mkMem ?_ rfl (fun m => m) rfl rfl rfl rfl rfl rfl rfl rfl)

theorem kept_execEcConfigWrite (y0) (y1) (y2) (y3) {t : State} (e : execEcConfigWrite y0 y1 y2 y3 s = .next t) : Kept s t := by
  cases e
  repeat' first
    | with_reducible assumption | with_reducible exact Kept.refl | intro x | with_reducible apply kept_gateWrite
    | with_reducible apply kept_ecWrite

theorem kept_execEvSwPulse (y0) (y1) {t : State} (e : execEvSwPulse y0 y1 s = .next t) : Kept s t := by
  cases e
  repeat' first
    | with_reducible assumption | with_reducible exact Kept.refl | intro x | with_reducible apply kept_gateWrite
    | with_reducible apply kept_fireNext | with_reducible apply Kept.foldl

theorem kept_execEventPass (y0) {t : State} (e : execEventPass y0 s = .next t) : Kept s t := by
  cases e
  repeat' first | with_reducible exact Kept.refl | with_reducible apply kept_eventPass

theorem kept_execPinActionHoldEnd (y0) {t : State} (e : execPinActionHoldEnd y0 s = .next t) : Kept s t := by
  cases e
  repeat' first
    | with_reducible exact Kept.refl | with_reducible apply kept_paDrive | (beta_reduce; split)
    | (refine Kept.mkMem ?_ rfl (fun m => m) rfl rfl rfl rfl rfl rfl rfl rfl)

/-! Machine/VectorMemory.lean -/

theorem kept_fillGo (h : Kept a s) (y1) : Kept a (State.fillGo s y1) := by
  unfold State.fillGo
  repeat' first
    | with_reducible assumption | with_reducible apply kept_setRb | with_reducible apply kept_fillNext
    | (dsimp only; split) | split | (refine Kept.mkMem ?_ rfl (fun m => m) rfl rfl rfl rfl rfl rfl rfl rfl)

theorem kept_aerLog (h : Kept a s) (y1) (y2) (y3) : Kept a (State.aerLog s y1 y2 y3) := by
  unfold State.aerLog
  repeat' first
    | with_reducible assumption | (intro x; subst x) | (beta_reduce; lift_lets; intro x)
    | with_reducible apply kept_fresh | (refine Kept.mkMem ?_ rfl (fun m => m) rfl rfl rfl rfl rfl rfl rfl rfl)

theorem kept_bar2Get (h : Kept a s) (y1) (y2) : Kept a (State.bar2Get s y1 y2) := by
  unfold State.bar2Get
  repeat' first
    | with_reducible assumption
    | (intro x; refine Kept.cut (a := a) (x := x) ?_ ?_ <;> [subst x; (clear_value x; intro hx)])
    | (beta_reduce; lift_lets; intro x) | with_reducible apply kept_answer | with_reducible apply kept_rowSeen
    | with_reducible apply kept_aerLog | (beta_reduce; split)
    | (refine Kept.mkMem ?_ rfl (fun m => m) rfl rfl rfl rfl rfl rfl rfl rfl)

theorem kept_bar2Put (h : Kept a s) (y1) (y2) (y3) (y4) : Kept a (State.bar2Put s y1 y2 y3 y4) := by
  unfold State.bar2Put
  repeat' first
    | with_reducible assumption
    | (beta_reduce; lift_lets; intro x; refine Kept.cut (a := a) (x := x) ?_ ?_ <;> [subst x; (clear_value x; intro hx)])
    | with_reducible apply kept_answer | with_reducible apply kept_qmCount | with_reducible apply kept_potRewrite
    | with_reducible apply kept_slotHold | with_reducible apply kept_aerLog | with_reducible apply kept_writeRow
    | (beta_reduce; split)

theorem kept_leak (h : Kept a s) (y1) : Kept a (State.leak s y1) := by
  unfold State.leak
  repeat' first
    | with_reducible assumption | with_reducible apply kept_setAp | with_reducible apply kept_setRf
    | (dsimp only; split) | split | (refine Kept.mkMem ?_ rfl (fun m => m) rfl rfl rfl rfl rfl rfl rfl rfl)

theorem kept_strainClear (h : Kept a s) (y1) (y2) : Kept a (State.strainClear s y1 y2) := by
  unfold State.strainClear
  repeat' first
    | with_reducible assumption | (intro x; subst x) | (beta_reduce; lift_lets; intro x)
    | with_reducible apply kept_setCl | with_reducible apply kept_setCap | (beta_reduce; split)
    | (refine Kept.mkMem ?_ rfl (fun m => m) rfl rfl rfl rfl rfl rfl rfl rfl)

theorem kept_strainMark (h : Kept a s) (y1) (y2) : Kept a (State.strainMark s y1 y2) := by
  unfold State.strainMark
  repeat' first
    | with_reducible assumption | (intro x; subst x) | (beta_reduce; lift_lets; intro x)
    | with_reducible apply kept_setSq | with_reducible apply kept_setCl | with_reducible apply kept_setCap
    | with_reducible apply kept_fresh | with_reducible apply kept_poison | (beta_reduce; split)
    | (refine Kept.mkMem ?_ rfl (fun m => m) rfl rfl rfl rfl rfl rfl rfl rfl)

theorem kept_strainWord (h : Kept a s) (y1) (y2) : Kept a (State.strainWord s y1 y2) := by
  unfold State.strainWord
  repeat' first
    | with_reducible assumption | with_reducible apply kept_setRg | with_reducible apply kept_fresh
    | with_reducible apply kept_strainClear | with_reducible apply kept_notice | with_reducible apply kept_setRb
    | with_reducible apply kept_uncorrected | with_reducible apply kept_strainMark
    | with_reducible apply kept_corrected | (dsimp only; split) | split
    | (refine Kept.mkMem ?_ rfl (fun m => m) rfl rfl rfl rfl rfl rfl rfl rfl)

theorem kept_execBar2Read (y0) (y1) {t : State} (e : execBar2Read y0 y1 s = .next t) : Kept s t := by
  cases e
  repeat' first
    | with_reducible exact Kept.refl | with_reducible apply kept_hold | with_reducible apply kept_putBehind
    | with_reducible apply kept_bar2Get | (beta_reduce; split)

theorem kept_execBar2Write (y0) (y1) (y2) (y3) {t : State} (e : execBar2Write y0 y1 y2 y3 s = .next t) : Kept s t := by
  cases e
  repeat' first
    | with_reducible exact Kept.refl | with_reducible apply kept_hold | with_reducible apply kept_putBehind
    | with_reducible apply kept_bar2Put | (beta_reduce; split)

theorem kept_execFillGo (y0) (y1) {t : State} (e : execFillGo y0 y1 s = .next t) : Kept s t := by
  cases e
  repeat' first
    | with_reducible assumption | with_reducible exact Kept.refl | intro x | with_reducible apply kept_gateWrite
    | with_reducible apply kept_fillGo

theorem kept_execFillRegionComplete  {t : State} (e : execFillRegionComplete s = .next t) : Kept s t := by
  cases e
  repeat' first | with_reducible exact Kept.refl | with_reducible apply kept_fillDone | (beta_reduce; split)

theorem kept_execStrainerWord (y0) (y1) {t : State} (e : execStrainerWord y0 y1 s = .next t) : Kept s t := by
  cases e
  repeat' first | with_reducible exact Kept.refl | with_reducible apply kept_strainWord

theorem kept_execBucketLeak (y0) {t : State} (e : execBucketLeak y0 s = .next t) : Kept s t := by
  cases e
  repeat' first | with_reducible exact Kept.refl | with_reducible apply kept_leak

/-! Machine/RegAccess.lean -/

theorem kept_chStatWrite (h : Kept a s) (y1) (y2) : Kept a (State.chStatWrite s y1 y2) := by
  unfold State.chStatWrite
  repeat' first | with_reducible assumption | with_reducible apply kept_w1cPf0

theorem kept_auxStatWrite (h : Kept a s) (y1) (y2) : Kept a (State.auxStatWrite s y1 y2) := by
  unfold State.auxStatWrite
  repeat' first | with_reducible assumption | with_reducible apply kept_w1cPf0

theorem kept_steepWrite (h : Kept a s) (y1) : Kept a (State.steepWrite s y1) := by
  unfold State.steepWrite
  repeat' first
    | with_reducible assumption
    | (intro x; refine Kept.cut (a := a) (x := x) ?_ ?_ <;> [subst x; (clear_value x; intro hx)])
    | (beta_reduce; lift_lets; intro x) | with_reducible apply kept_setShadow | with_reducible apply kept_noticeAt
    | (beta_reduce; split)

theorem kept_pourWrite (h : Kept a s) (y1) : Kept a (State.pourWrite s y1) := by
  unfold State.pourWrite
  repeat' first | with_reducible assumption | with_reducible apply kept_setShadow

theorem kept_storePlain (h : Kept a s) (sp r off v) (ho : sp = .pf1 → off = Off.wdF5 → r.rw = 0 ∧ r.w1c = 0) :
    Kept a (s.storePlain sp r off v) := by
  unfold State.storePlain
  dsimp only
  split
  · exact kept_setShadow h _ _
  · refine kept_setRegAt h _ _ _ fun e1 e2 => ?_
    obtain ⟨e3, e4⟩ := ho e1 e2
    subst e1 e2
    simp only [State.regAt, State.clearing, e3, e4, BitVec.ofNat_eq_ofNat, BitVec.and_zero, BitVec.zero_and, BitVec.or_zero,
      BitVec.not_zero, BitVec.and_allOnes]

theorem kept_clSteepWrite (h : Kept a s) (y1) (y2) : Kept a (State.clSteepWrite s y1 y2) := by
  unfold State.clSteepWrite
  repeat' first | with_reducible assumption | with_reducible apply kept_setShadow

theorem kept_kzStatWrite (h : Kept a s) (y1) (y2) : Kept a (State.kzStatWrite s y1 y2) := by
  unfold State.kzStatWrite
  repeat' first | with_reducible assumption | with_reducible apply kept_w1cPf0

theorem kept_miCfgWrite (h : Kept a s) (y1) (y2) : Kept a (State.miCfgWrite s y1 y2) := by
  unfold State.miCfgWrite
  repeat' first | with_reducible assumption | with_reducible apply kept_setRg

theorem kept_evflagWrite (h : Kept a s) (y1) (y2) (y3) : Kept a (State.evflagWrite s y1 y2 y3) := by
  unfold State.evflagWrite
  repeat' first | with_reducible assumption | with_reducible apply kept_w1cPf0

theorem kept_evSwWrite (h : Kept a s) (y1) : Kept a (State.evSwWrite s y1) := by
  unfold State.evSwWrite
  repeat' first
    | with_reducible assumption | intro x | with_reducible apply kept_fireNext | with_reducible apply Kept.foldl

theorem kept_admWrite (h : Kept a s) (y1) : Kept a (State.admWrite s y1) := by
  unfold State.admWrite
  repeat' first | with_reducible assumption | with_reducible apply kept_setRg

theorem kept_writePf0 (h : Kept a s) (p r i j off v) : Kept a (s.writePf0 p r i j off v) := by
  unfold State.writePf0
  split <;> first
    | with_reducible exact kept_storePlain h _ _ _ _ nofun
    | with_reducible exact kept_chsiteWrite h ..
    | with_reducible exact kept_chStatWrite h ..
    | with_reducible exact kept_clSteepWrite h ..
    | with_reducible exact kept_railsiteWrite h ..
    | with_reducible exact kept_auxsiteWrite h ..
    | with_reducible exact kept_siteCtlWrite h ..
    | with_reducible exact kept_siteStatWrite h ..
    | with_reducible exact kept_steepWrite h ..
    | with_reducible exact kept_pourWrite h ..
    | with_reducible exact kept_seqCtl h ..
    | with_reducible exact kept_seqRegWrite h ..
    | with_reducible exact kept_idmaCtl h ..
    | with_reducible exact kept_seqhCtl h ..
    | with_reducible exact kept_potCfgWrite h ..
    | with_reducible exact kept_potBaseWrite h ..
    | with_reducible exact kept_potWrWrite h ..
    | with_reducible exact kept_fillGo h ..
    | with_reducible exact kept_clParkWrite h ..
    | with_reducible exact kept_edgeStep (kept_edgeWrite h ..) ..
    | with_reducible exact kept_caplConfig h ..
    | with_reducible exact kept_capGovWrite h ..
    | with_reducible exact kept_qmHold h ..
    | with_reducible exact kept_qdWrite h ..
    | with_reducible exact kept_headAdv h ..
    | with_reducible exact kept_tiuConfig h ..
    | with_reducible exact kept_tiuCmd h ..
    | with_reducible exact kept_tiuCalctl h ..
    | with_reducible exact kept_weConfig h ..
    | with_reducible exact kept_weCtl h ..
    | with_reducible exact kept_syncCfgWrite h ..
    | with_reducible exact kept_syncCmdWrite h ..
    | with_reducible exact kept_railVset h ..
    | with_reducible exact kept_railVmax h ..
    | with_reducible exact kept_railIlim h ..
    | with_reducible exact kept_railRamp h ..
    | with_reducible exact kept_railCfg h ..
    | with_reducible exact kept_sitePwrWrite h ..
    | with_reducible exact kept_kzCtlWrite h ..
    | with_reducible exact kept_kzThWrite h ..
    | with_reducible exact kept_kzStatWrite h ..
    | with_reducible exact kept_auxCfgWrite h ..
    | with_reducible exact kept_auxStatWrite h ..
    | with_reducible exact kept_auxCodeWrite h ..
    | with_reducible exact kept_f2clrWrite h ..
    | with_reducible exact kept_safereqWrite h ..
    | with_reducible exact kept_hclrWrite h ..
    | with_reducible exact kept_miCfgWrite h ..
    | with_reducible exact kept_ecWrite h ..
    | with_reducible exact kept_evflagWrite h ..
    | with_reducible exact kept_evSwWrite h ..
    | with_reducible exact kept_admWrite h ..
    | with_reducible exact kept_udataWrite h ..
    | with_reducible exact kept_calSaveWrite h ..
    | with_reducible exact kept_clkOutWrite h ..
    | with_reducible exact kept_cpDevWrite h ..
    | with_reducible exact kept_cpXipWrite h ..
    | with_reducible exact kept_cpFlashWrite h ..

theorem kept_writePf1 (h : Kept a s) (p r off v) (ho : off = Off.wdF5 → r = ⟨.wdF5, 0x1008, [], 0, 0, 0, 0⟩)
    (hl : r.id = .wlRvmax ∨ r.id = .wlRimax ∨ r.id = .wlZone ∨ r.id = .wlSite → off ≠ Off.wdF5) :
    Kept a (s.writePf1 p r off v) := by
  have hp : Kept a (s.storePlain .pf1 r off v) := kept_storePlain h _ _ _ _ fun _ e => by rw [ho e]; exact ⟨rfl, rfl⟩
  unfold State.writePf1
  split <;> first
    | exact hp
    | exact kept_rstReqWrite h _ _
    | (split <;> first
        | exact hp
        | exact h
        | exact kept_tbndWrite h _
        | exact kept_mcpWrite h _ _
        | exact kept_limitWrite h _ _ (hl (by simp [*])))

theorem kept_writeWin (h : Kept a s) (r off v) : Kept a (s.writeWin r off v) := by
  unfold State.writeWin
  split
  · exact kept_spCmdWrite h _
  · exact kept_spPtrWrite h _
  · exact kept_spDataWrite h _
  · exact kept_storePlain h _ _ _ _ (by simp)

theorem kept_writeReg (h : Kept a s) (p sp off v) : Kept a (s.writeReg p sp off v) := by
  unfold State.writeReg
  split
  · exact h
  · next r ix e =>
    split
    · exact kept_writePf0 h _ _ _ _ _ _
    · refine kept_writePf1 h _ _ _ _ (fun eo => findReg_wdF5 e eo) fun ei eo => ?_
      rw [findReg_wdF5 e eo] at ei
      simp at ei
    · exact kept_writeWin h _ _ _
    · next h2 _ => exact kept_storePlain h _ _ _ _ fun e1 => absurd e1 h2

theorem kept_regWriteBase (h : Kept a s) (y1) (y2) (y3) (y4) (y5) : Kept a (State.regWriteBase s y1 y2 y3 y4 y5) := by
  unfold State.regWriteBase
  repeat' first
    | with_reducible assumption | intro x | with_reducible apply kept_edgePort
    | with_reducible apply kept_calSavePort | with_reducible apply kept_gateWrite
    | with_reducible apply kept_writeReg | (beta_reduce; split)

theorem kept_p1wWrite (h : Kept a s) (y1) : Kept a (State.p1wWrite s y1) := by
  unfold State.p1wWrite
  repeat' first
    | with_reducible assumption
    | (beta_reduce; lift_lets; intro x; refine Kept.cut (a := a) (x := x) ?_ ?_ <;> [subst x; (clear_value x; intro hx)])
    | with_reducible apply kept_regWriteBase | with_reducible apply kept_p1wNext | (beta_reduce; split)

theorem kept_regWrite (h : Kept a s) (y1) (y2) (y3) (y4) : Kept a (State.regWrite s y1 y2 y3 y4) := by
  unfold State.regWrite
  repeat' first
    | with_reducible assumption | intro x | with_reducible apply kept_putBehind | with_reducible apply kept_gateWrite
    | with_reducible apply kept_p1wWrite | with_reducible apply kept_exception
    | with_reducible apply kept_regWriteBase | (beta_reduce; split)

theorem kept_accessDone (h : Kept a s)  : Kept a (State.accessDone s) := by
  unfold State.accessDone
  repeat' first
    | with_reducible assumption | (beta_reduce; lift_lets; intro x) | with_reducible apply kept_readReg
    | with_reducible apply kept_retire | with_reducible apply kept_setSq | with_reducible apply kept_regWrite
    | (beta_reduce; split <;> try (rename_i heq; have k := congrArg Prod.fst heq; dsimp only at k; subst k))

theorem kept_spAccess (h : Kept a s)  : Kept a (State.spAccess s) := by
  unfold State.spAccess
  repeat' first
    | with_reducible assumption | with_reducible apply kept_regWrite | with_reducible apply kept_spAdvance
    | with_reducible apply kept_readReg | with_reducible apply kept_setWg | with_reducible apply kept_spFlag
    | (dsimp only; split <;> try (rename_i heq; have k := congrArg Prod.fst heq; dsimp only at k; subst k)) | split
    | (refine Kept.mkMem ?_ rfl (fun m => m) rfl rfl rfl rfl rfl rfl rfl rfl)

theorem kept_execRegisterWrite (y0) (y1) (y2) (y3) (y4) {t : State} (e : execRegisterWrite y0 y1 y2 y3 y4 s = .next t) : Kept s t := by
  cases e
  repeat' first
    | with_reducible exact Kept.refl | with_reducible apply kept_hold | with_reducible apply kept_putBehind
    | with_reducible apply kept_count | with_reducible apply kept_answer | with_reducible apply kept_regWrite
    | (beta_reduce; split)

theorem kept_execRegAccessDone  {t : State} (e : execRegAccessDone s = .next t) : Kept s t := by
  cases e
  repeat' first
    | with_reducible exact Kept.refl | with_reducible apply kept_putBehind | with_reducible apply kept_accessDone
    | (beta_reduce; split)

theorem kept_execSpAccessDone  {t : State} (e : execSpAccessDone s = .next t) : Kept s t := by
  cases e
  repeat' first
    | with_reducible exact Kept.refl | with_reducible apply kept_putBehind | with_reducible apply kept_spAccess
    | (beta_reduce; split)

theorem kept_execP1wDataWrite (y0) {t : State} (e : execP1wDataWrite y0 s = .next t) : Kept s t := by
  cases e
  repeat' first | with_reducible exact Kept.refl | with_reducible apply kept_regWrite

/-! Machine/Pcie.lean -/

theorem kept_tapLoad (h : Kept a s) (y1) : Kept a (State.tapLoad s y1) := by
  unfold State.tapLoad
  repeat' first
    | with_reducible assumption | (beta_reduce; split)
    | (refine Kept.mkMem ?_ rfl (fun m => m) rfl rfl rfl rfl rfl rfl rfl rfl)

theorem kept_tapReset (h : Kept a s)  : Kept a (State.tapReset s) := by
  unfold State.tapReset
  repeat' first | with_reducible assumption | (refine Kept.mkMem ?_ rfl (fun m => m) rfl rfl rfl rfl rfl rfl rfl rfl)

/-! Machine/Time.lean -/

theorem kept_pass (n) : Kept s { s.pass n with now := s.now } :=
  Kept.refl.same rfl rfl rfl rfl rfl rfl rfl rfl rfl rfl

theorem kept_seqCycle (h : Kept a s) (y1) : Kept a (State.seqCycle s y1) := by
  unfold State.seqCycle
  repeat' first
    | with_reducible assumption | with_reducible apply kept_issueTick | with_reducible apply kept_waitTick
    | with_reducible apply kept_copyTick | (beta_reduce; split)

theorem kept_cclk : Kept (s.tiuEnds.pass (s.now + if s.bypass then 2 else 1)) s.cclk := by
  unfold State.cclk
  dsimp only
  generalize s.tiuEnds.pass (s.now + if s.bypass then 2 else 1) = b
  have h := kept_saveGo (kept_loadGo (kept_bootGo (kept_tiuFalls (kept_arrive (kept_enter (Kept.refl (a := b)))))))
  generalize b.enter.arrive.tiuFalls.bootGo.loadGo.saveGo = t at h ⊢
  have h2 : Kept b (if t.vmWait then t else t.fillTick) := by
    split
    · exact h
    · exact kept_fillTick h
  exact kept_each (kept_paStart (kept_syncLoad (kept_railsGo (kept_sitesGo (kept_drivers h2)))))
    fun i t ht => kept_seqCycle ht i

theorem kept_idle : (∃ c l, s.behind = c :: l ∧ s.idle = { s with pending := c :: l, behind := [] }) ∨
    (s.behind = [] ∧ (s.idle = s.cclk ∨
      s.held ≠ [] ∧ s.idle = { s.cclk with pending := s.cclk.held, held := [], retried := s.cclk.held })) := by
  cases hb : s.behind with
  | cons c l => exact .inl ⟨c, l, rfl, by simp [State.idle, hb]⟩
  | nil =>
    refine .inr ⟨rfl, ?_⟩
    cases hd : s.held with
    | nil => exact .inl (by simp [State.idle, hb, hd])
    | cons c l =>
      by_cases hc : (decide (s.cclk.mem.slots.length < 16) && !s.cclk.vmWait) = true
      · exact .inr ⟨by simp, by simp only [State.idle, hb, hd, hc, if_true]⟩
      · exact .inl (by simp only [State.idle, hb, hd]; rw [if_neg hc])

/-! Machine/Move.lean -/

theorem kept_ldvDone (h : Kept a s) (y1) (y2) (y3) (y4) (y5) : Kept a (State.ldvDone s y1 y2 y3 y4 y5) := by
  unfold State.ldvDone
  repeat' first
    | with_reducible assumption
    | (intro x; refine Kept.cut (a := a) (x := x) ?_ ?_ <;> [subst x; (clear_value x; intro hx)])
    | (intro x; subst x) | (beta_reduce; lift_lets; intro x) | with_reducible apply kept_rowSeen
    | with_reducible apply kept_exception | with_reducible apply kept_retire | with_reducible apply kept_setSq
    | (beta_reduce; split)

theorem kept_stvDone (h : Kept a s) (y1) (y2) (y3) (y4) (y5) (y6) : Kept a (State.stvDone s y1 y2 y3 y4 y5 y6) := by
  unfold State.stvDone
  repeat' first
    | with_reducible assumption | (intro x; subst x) | (beta_reduce; lift_lets; intro x)
    | with_reducible apply kept_count | with_reducible apply kept_setSq | with_reducible apply kept_exception
    | with_reducible apply kept_writeRow | with_reducible apply kept_retire | with_reducible apply kept_potRewrite
    | (beta_reduce; split)

theorem kept_accessBegin (h : Kept a s) (y0) (y1) (y2) : FlowKept a (accessBegin y0 y1 y2 s) := by
  unfold accessBegin
  repeat' first
    | with_reducible assumption | (intro x; subst x) | (beta_reduce; lift_lets; intro x)
    | with_reducible apply kept_setSq | with_reducible apply FlowKept.trap' | with_reducible apply FlowKept.hold'
    | (beta_reduce; split)

theorem kept_execLdv (y0) (y1) (y2) {t : State} (e : execLdv y0 y1 y2 s = .next t) : Kept s t := by
  cases e
  repeat' first
    | with_reducible assumption | with_reducible exact Kept.refl | intro x | with_reducible apply kept_instr
    | with_reducible apply kept_accessBegin

theorem kept_execStv (y0) (y1) (y2) {t : State} (e : execStv y0 y1 y2 s = .next t) : Kept s t := by
  cases e
  repeat' first
    | with_reducible assumption | with_reducible exact Kept.refl | intro x | with_reducible apply kept_instr
    | with_reducible apply kept_accessBegin

theorem kept_execVmemAccessDone (y0) (y1) {t : State} (e : execVmemAccessDone y0 y1 s = .next t) : Kept s t := by
  cases e
  repeat' first
    | with_reducible exact Kept.refl | with_reducible apply kept_stvDone | with_reducible apply kept_ldvDone
    | (beta_reduce; split)

theorem kept_ovlBegin (h : Kept a s) (y0) (y1) : FlowKept a (ovlBegin y0 y1 s) := by
  unfold ovlBegin
  repeat' first
    | with_reducible assumption | (intro x; subst x) | (beta_reduce; lift_lets; intro x)
    | with_reducible apply kept_setSq | with_reducible apply kept_copyStart | with_reducible apply FlowKept.trap'
    | with_reducible apply FlowKept.hold' | with_reducible apply FlowKept.next' | (beta_reduce; split)

theorem kept_execOvl (y0) (y1) (y2) {t : State} (e : execOvl y0 y1 y2 s = .next t) : Kept s t := by
  cases e
  repeat' first
    | with_reducible assumption | with_reducible exact Kept.refl | intro x | with_reducible apply kept_instr
    | with_reducible apply kept_ovlBegin

theorem kept_execOvlw (y0) (y1) (y2) {t : State} (e : execOvlw y0 y1 y2 s = .next t) : Kept s t := by
  cases e
  repeat' first
    | with_reducible assumption | with_reducible exact Kept.refl | intro x | (beta_reduce; lift_lets; intro x)
    | with_reducible apply kept_instr | with_reducible apply kept_setSq | with_reducible apply FlowKept.hold'
    | with_reducible apply FlowKept.next' | (beta_reduce; split)

/-! Machine/Alu.lean -/

theorem kept_aluImm (h : Kept a s) (y0) (y1) (y2) : FlowKept a (aluImm y0 y1 y2 s) := by
  unfold aluImm
  repeat' first
    | with_reducible assumption | (beta_reduce; lift_lets; intro x) | with_reducible apply kept_setSq
    | with_reducible apply FlowKept.next'

theorem kept_aluReg (h : Kept a s) (y0) (y1) (y2) (y3) : FlowKept a (aluReg y0 y1 y2 y3 s) := by
  unfold aluReg
  repeat' first
    | with_reducible assumption | (beta_reduce; lift_lets; intro x) | with_reducible apply kept_setSq
    | with_reducible apply FlowKept.next'

theorem kept_aluTest (h : Kept a s) (y0) (y1) (y2) : FlowKept a (aluTest y0 y1 y2 s) := by
  unfold aluTest
  repeat' first
    | with_reducible assumption | (intro x; subst x) | (beta_reduce; lift_lets; intro x)
    | with_reducible apply kept_setSq | with_reducible apply FlowKept.next'

theorem kept_execNop (y0) (y1) (y2) {t : State} (e : execNop y0 y1 y2 s = .next t) : Kept s t := by
  cases e
  repeat' first
    | with_reducible assumption | with_reducible exact Kept.refl | intro x | with_reducible apply kept_instr
    | with_reducible apply FlowKept.next'

theorem kept_execAdd (y0) (y1) (y2) {t : State} (e : execAdd y0 y1 y2 s = .next t) : Kept s t := by
  cases e
  repeat' first
    | with_reducible assumption | with_reducible exact Kept.refl | intro x | with_reducible apply kept_instr
    | with_reducible apply kept_aluReg

theorem kept_execSub (y0) (y1) (y2) {t : State} (e : execSub y0 y1 y2 s = .next t) : Kept s t := by
  cases e
  repeat' first
    | with_reducible assumption | with_reducible exact Kept.refl | intro x | with_reducible apply kept_instr
    | with_reducible apply kept_aluReg

theorem kept_execAnd (y0) (y1) (y2) {t : State} (e : execAnd y0 y1 y2 s = .next t) : Kept s t := by
  cases e
  repeat' first
    | with_reducible assumption | with_reducible exact Kept.refl | intro x | with_reducible apply kept_instr
    | with_reducible apply kept_aluReg

theorem kept_execOr (y0) (y1) (y2) {t : State} (e : execOr y0 y1 y2 s = .next t) : Kept s t := by
  cases e
  repeat' first
    | with_reducible assumption | with_reducible exact Kept.refl | intro x | with_reducible apply kept_instr
    | with_reducible apply kept_aluReg

theorem kept_execXor (y0) (y1) (y2) {t : State} (e : execXor y0 y1 y2 s = .next t) : Kept s t := by
  cases e
  repeat' first
    | with_reducible assumption | with_reducible exact Kept.refl | intro x | with_reducible apply kept_instr
    | with_reducible apply kept_aluReg

theorem kept_execShl (y0) (y1) (y2) {t : State} (e : execShl y0 y1 y2 s = .next t) : Kept s t := by
  cases e
  repeat' first
    | with_reducible assumption | with_reducible exact Kept.refl | intro x | with_reducible apply kept_instr
    | with_reducible apply kept_aluReg

theorem kept_execShr (y0) (y1) (y2) {t : State} (e : execShr y0 y1 y2 s = .next t) : Kept s t := by
  cases e
  repeat' first
    | with_reducible assumption | with_reducible exact Kept.refl | intro x | with_reducible apply kept_instr
    | with_reducible apply kept_aluReg

theorem kept_execSar (y0) (y1) (y2) {t : State} (e : execSar y0 y1 y2 s = .next t) : Kept s t := by
  cases e
  repeat' first
    | with_reducible assumption | with_reducible exact Kept.refl | intro x | with_reducible apply kept_instr
    | with_reducible apply kept_aluReg

theorem kept_execCmp (y0) (y1) (y2) {t : State} (e : execCmp y0 y1 y2 s = .next t) : Kept s t := by
  cases e
  repeat' first
    | with_reducible assumption | with_reducible exact Kept.refl | intro x | with_reducible apply kept_instr
    | with_reducible apply kept_aluTest

theorem kept_execMul (y0) (y1) (y2) {t : State} (e : execMul y0 y1 y2 s = .next t) : Kept s t := by
  cases e
  repeat' first
    | with_reducible assumption | with_reducible exact Kept.refl | intro x | with_reducible apply kept_instr
    | with_reducible apply kept_aluReg

theorem kept_execAddi (y0) (y1) (y2) {t : State} (e : execAddi y0 y1 y2 s = .next t) : Kept s t := by
  cases e
  repeat' first
    | with_reducible assumption | with_reducible exact Kept.refl | intro x | with_reducible apply kept_instr
    | with_reducible apply kept_aluImm

theorem kept_execSubi (y0) (y1) (y2) {t : State} (e : execSubi y0 y1 y2 s = .next t) : Kept s t := by
  cases e
  repeat' first
    | with_reducible assumption | with_reducible exact Kept.refl | intro x | with_reducible apply kept_instr
    | with_reducible apply kept_aluImm

theorem kept_execAndi (y0) (y1) (y2) {t : State} (e : execAndi y0 y1 y2 s = .next t) : Kept s t := by
  cases e
  repeat' first
    | with_reducible assumption | with_reducible exact Kept.refl | intro x | with_reducible apply kept_instr
    | with_reducible apply kept_aluImm

theorem kept_execOri (y0) (y1) (y2) {t : State} (e : execOri y0 y1 y2 s = .next t) : Kept s t := by
  cases e
  repeat' first
    | with_reducible assumption | with_reducible exact Kept.refl | intro x | with_reducible apply kept_instr
    | with_reducible apply kept_aluImm

theorem kept_execXori (y0) (y1) (y2) {t : State} (e : execXori y0 y1 y2 s = .next t) : Kept s t := by
  cases e
  repeat' first
    | with_reducible assumption | with_reducible exact Kept.refl | intro x | with_reducible apply kept_instr
    | with_reducible apply kept_aluImm

theorem kept_execShli (y0) (y1) (y2) {t : State} (e : execShli y0 y1 y2 s = .next t) : Kept s t := by
  cases e
  repeat' first
    | with_reducible assumption | with_reducible exact Kept.refl | intro x | with_reducible apply kept_instr
    | with_reducible apply kept_aluImm

theorem kept_execShri (y0) (y1) (y2) {t : State} (e : execShri y0 y1 y2 s = .next t) : Kept s t := by
  cases e
  repeat' first
    | with_reducible assumption | with_reducible exact Kept.refl | intro x | with_reducible apply kept_instr
    | with_reducible apply kept_aluImm

theorem kept_execSari (y0) (y1) (y2) {t : State} (e : execSari y0 y1 y2 s = .next t) : Kept s t := by
  cases e
  repeat' first
    | with_reducible assumption | with_reducible exact Kept.refl | intro x | with_reducible apply kept_instr
    | with_reducible apply kept_aluImm

theorem kept_execCmpi (y0) (y1) (y2) {t : State} (e : execCmpi y0 y1 y2 s = .next t) : Kept s t := by
  cases e
  repeat' first
    | with_reducible assumption | with_reducible exact Kept.refl | intro x | with_reducible apply kept_instr
    | with_reducible apply kept_aluTest

theorem kept_execMovi (y0) (y1) (y2) {t : State} (e : execMovi y0 y1 y2 s = .next t) : Kept s t := by
  cases e
  repeat' first
    | with_reducible assumption | with_reducible exact Kept.refl | intro x | with_reducible apply kept_instr
    | with_reducible apply kept_setSq | with_reducible apply FlowKept.next'

theorem kept_execMov (y0) (y1) (y2) {t : State} (e : execMov y0 y1 y2 s = .next t) : Kept s t := by
  cases e
  repeat' first
    | with_reducible assumption | with_reducible exact Kept.refl | intro x | with_reducible apply kept_instr
    | with_reducible apply kept_setSq | with_reducible apply FlowKept.next'

theorem kept_execMtlc (y0) (y1) (y2) {t : State} (e : execMtlc y0 y1 y2 s = .next t) : Kept s t := by
  cases e
  repeat' first
    | with_reducible assumption | with_reducible exact Kept.refl | intro x | with_reducible apply kept_instr
    | with_reducible apply kept_setSq | with_reducible apply FlowKept.next'

theorem kept_execMflc (y0) (y1) (y2) {t : State} (e : execMflc y0 y1 y2 s = .next t) : Kept s t := by
  cases e
  repeat' first
    | with_reducible assumption | with_reducible exact Kept.refl | intro x | with_reducible apply kept_instr
    | with_reducible apply kept_setSq | with_reducible apply FlowKept.next'

theorem kept_execMfs (y0) (y1) (y2) {t : State} (e : execMfs y0 y1 y2 s = .next t) : Kept s t := by
  cases e
  repeat' first
    | with_reducible assumption | with_reducible exact Kept.refl | intro x | (beta_reduce; lift_lets; intro x)
    | with_reducible apply kept_instr | with_reducible apply kept_setSq | with_reducible apply FlowKept.next'

end Sys2Proof.Machine
end

