-- ==== Sys2Proof/WellFormed.lean ====
section
/-!
DEFINITION. Well-formed commands: what a command's operands must satisfy for the event to be one that the spec describes.
A block decodes no words, so nothing checks this on the way into the queue; the meanings are total on any operands.
-/
namespace Sys2Proof

/-- Bytes of a space (R248, R441). -/
def Space.bytes : Space → Nat
  | .pf0 => 0x4000000 | .pf1 => 0x100000 | .win => 128 | .msix0 => 0x10000 | .msix1 => 0x10000

/-- A party that issues register accesses reaches the space (R459). -/
def Space.reachedBy (sp : Space) (p : Party) : Bool := match sp, p with
  | _, .warden => false
  | .pf0, .pf1 => false
  | .pf0, _ => true
  | .pf1, .pf1 => true
  | .pf1, .sp => true
  | .win, .sp => true
  | .msix0, .pf0 => true
  | .msix1, .pf1 => true
  | _, _ => false

/-- A register access: within the space and by a party that reaches it, PF1 reaching PF0 BAR0 through its window only (R459).
Only PF0 and PF1 issue memory requests, of any shape; the others access aligned dwords (R441, R443, R458). -/
def accessWf (p : Party) (sp : Space) (off : BitVec 26) (shape : Shape) : Bool :=
  sp.reachedBy p && decide (off.toNat < sp.bytes) &&
    (decide (p = .pf0) || decide (p = .pf1) || decide (shape = .dword) && decide (off.toNat % 4 = 0))

/-- A report of the control store tells of at least one fetch. -/
def microWf : Option Micro → Bool
  | some m => !m.words.isEmpty
  | none => true

/-- An ADC or sense code of 18 bits (R6). -/
def codeWf (v : Int) : Bool := decide (-131072 ≤ v ∧ v ≤ 131071)

/-- What the control store reports while an instruction runs. -/
def Instr.micro : Instr → Option Micro
  | .nop _ _ m | .vec _ _ m _ | .vecr _ _ m _ | .tset _ _ m | .sitem _ _ m | .add _ _ m | .sub _ _ m
  | .and _ _ m | .or _ _ m | .xor _ _ m | .shl _ _ m | .shr _ _ m | .sar _ _ m | .cmp _ _ m | .mul _ _ m
  | .addi _ _ m | .subi _ _ m | .andi _ _ m | .ori _ _ m | .xori _ _ m | .shli _ _ m | .shri _ _ m
  | .sari _ _ m | .cmpi _ _ m | .movi _ _ m | .mov _ _ m | .mtlc _ _ m | .mflc _ _ m | .mfs _ _ m | .ldv _ _ m
  | .stv _ _ m | .ovl _ _ m | .ovlw _ _ m | .steep _ _ m | .pour _ _ m | .halt _ _ m | .tret _ _ m | .jmp _ _ m
  | .jf _ _ m | .je _ _ m | .call _ _ m | .ret _ _ m | .loop _ _ m | .endl _ _ m | .mloop _ _ m _
  | .range _ _ m | .force _ _ m | .meas _ _ m | .capTrig _ _ m | .capArm _ _ m | .capClose _ _ m
  | .capDisarm _ _ m | .evs _ _ m | .evw _ _ m | .qpush _ _ m | .sfclr _ _ m | .rdr _ m | .wrr _ m | .waitc _ m
  | .cpx _ m _ | .fetchException _ _ m => m
  | _ => none

/-- The space and party of a write that is named by its register. -/
def Instr.writer : Instr → Option (Space × Party)
  | .wardenLimitWrite p _ _ | .wlTbndWrite p _ | .patchLoad p _ _ | .patchClear p _ | .rstRequest p _ => some (.pf1, p)
  | .chsiteWrite p _ _ | .railsiteWrite p _ _ | .auxsiteWrite p _ _ | .siteEnable p _ _ | .siteDisable p _ _
  | .siteUnfence p _ _ | .clusterPark p _ _ | .clusterUnpark p _ _ | .seqRun p _ _ | .seqStop p _ _
  | .seqRegWrite p _ _ _ | .idmaGo p _ _ | .potCfgWrite p _ _ | .potWrWrite p _ _ | .fillGo p _
  | .tsEdataRead p _ | .tsEdataWrite p _ _ | .caplConfigWrite p _ _ _ _ | .capGovWrite p _ _ | .qdWrite p _ _
  | .qheadAdv p _ | .qmHoldWrite p _ _ | .tiuGo p _ _ | .tiuAbort p _ _ | .tiuConfigWrite p _ _ _
  | .tiuCalGo p _ _ | .weGo p _ _ | .weStop p _ _ | .weConfigWrite p _ _ _ | .syncSend p _ | .syncArm p _
  | .railVsetWrite p _ _ | .railVmaxWrite p _ _ | .railCfgWrite p _ _ | .sitePowerRequest p _ _
  | .sitePowerRelease p _ _ | .auxCfgWrite p _ _ | .auxCodeWrite p _ _ | .kzEnable p _ _ | .kzDisable p _ _
  | .kzThWrite p _ _ | .safeRequest p _ | .f2Clear p _ | .historyClear p _ | .ecConfigWrite p _ _ _
  | .evSwPulse p _ | .calUdataRead p | .calUdataWrite p _ | .calFdataRead p | .calSave p _ | .clkOutWrite p _ _
  | .seqhRun p _ | .seqhStop p _ => some (.pf0, p)
  | _ => none

/-- Well-formedness of the data that a command carries. -/
def Instr.dataWf : Instr → Bool
  | .cpTransferDone data _ => decide (data.length ≤ 4096)
  | .seqhLineFill data _ => decide (data.length = 32)
  | .linePrefetch data _ => decide (data.length = 32)
  | .tiuCalDone _ hits => decide (hits.length = 256) && decide (hits.foldl (· + ·) 0 = 2 ^ 20)
  | .powerInterval mw => decide (mw.length = 40)
  | .modelAUpdate ta _ _ => decide (ta.length = 4)
  | .modelBUpdate tb => decide (tb.length = 4)
  | .limitCopyCompare _ second _ _ => second.all fun e => decide (e.1 < 0xA00 ∧ e.1 % 4 = 0)
  | .wardenLimitWrite _ off _ => decide (off.toNat % 4 = 0)
  | .adcSampleDone _ _ code => codeWf code
  | .railMeasure _ v i => codeWf v && codeWf i
  | .gateReadbackFault f n => decide (f ≠ .railCopy) || decide (n.val < 64)
  | .resetRelease _ b => b.header.err || decide (b.header.bytes.length = 64)
  | _ => true

/-- Well-formedness of a register access named by its offset. -/
def Instr.accessWf : Instr → Bool
  | .registerWrite p sp off shape _ => Sys2Proof.accessWf p sp off shape
  | .lowWordRead p sp off shape => Sys2Proof.accessWf p sp off shape
  | .readClear p sp off shape => Sys2Proof.accessWf p sp off shape
  | _ => true

/-- A well-formed command. -/
def Instr.wf (i : Instr) : Bool :=
  i.dataWf && i.accessWf && microWf i.micro && (match i.writer with
    | some (sp, p) => sp.reachedBy p
    | none => true)

end Sys2Proof
end

