-- ==== Sys2Proof/Tests/Slice0.lean ====
section
/-!
SUPPORT. The model's own tests: a smoke test of WellFormed, states that meet the hypotheses of each statement
(`witness_<statement>`, a fact for each clause), and results worked out by hand from the rules (`test_<what>`).
-/
set_option Elab.async false

namespace Sys2Proof.Tests

open Sys2Proof Sys2Proof.Machine

/-- The part past READY. -/
def up : State := { State.reset with rst := { State.reset.rst with held := false, ready := true } }

/-- The part in F4. -/
def hurt : State := { up with fault := { up.fault with f4 := true } }

/-- The part before READY. -/
def early : State := { State.reset with rst := { State.reset.rst with held := false } }

/-- The state after a command. -/
def after (c : Instr) (s : State) : State := match exec c s with
  | .next t => t
  | _ => s

/-- `s` with sequencer `x` RUNNING. -/
def run (x : Nat) (s : State) : State := s.setSq x { s.sq x with mode := .running }

/-- `s` with sequencer `x` RUNNING and waiting for `w`. -/
def waits (x : Nat) (w : Wait) (s : State) : State := s.setSq x { s.sq x with mode := .running, wait := w }

/-- `s` with the instruction of command `i` before its sequencer, in word 0 of its memory or in line 0 of the card flash. -/
def ready (i : Instr) (s : State) : State := match formOf i with
  | some f =>
    let w := instrRow f.op f.w
    let t := s.setSq f.x { s.sq f.x with mode := .running, sram := [(0, { w := w, bad := false })] }
    { t with cp := { t.cp with
        hdr := some { entry := 0, cstart := 0, cend := 32, crcbase := 0, calA := 0, calB := 0, patch := 0 }
        lines := [(0, [w])] } }
  | none => s

/-- The instruction `i` is before its sequencer, which lets it run. -/
def goes (i : Instr) (s : State) : Prop := (ready i s).runs i = true

/-- `s` with event slot `k` of sequencer `x` enabled. -/
def slotOn (x k : Nat) (s : State) : State := s.setRb (Off.evSel x k) 31 true

/-- `s` with channel `n` assigned to site `k`. -/
def wired (n k : Nat) (s : State) : State := s.setRg (Off.chsite n) (BitVec.ofNat 32 (2 ^ 31 + k))

/-- The part while vector memory recalibrates. -/
def recal : State := { up with clk := { up.clk with relockAt := some 0 } }

/-! ### Steps and invariants -/

theorem witness_StepRunsFront : ({ up with pending := [.tick, .pourDone] } : State).pending = .tick :: [.pourDone] := rfl

theorem witness_EmptyQueueLetsTimePass : up.pending = [] ∧ up.behind = [] ∧ up.held = [] ∧
    ({ up with behind := [.pourDone] } : State).behind = .pourDone :: [] := ⟨rfl, rfl, rfl, rfl⟩

/-- A BAR2 write in the queue. -/
def queued : State := { up with pending := [.bar2Write 5 0x0102030405060708 0xFF .ok] }

theorem witness_EveryStepKeepsMemoryCanonical :
    queued.Steps (after (.bar2Write 5 0x0102030405060708 0xFF .ok) up) ∧ queued.MemCanonical :=
  ⟨rfl, by unfold State.MemCanonical; decide +kernel⟩

theorem witness_EveryStepKeepsImagesCanonical :
    queued.Steps (after (.bar2Write 5 0x0102030405060708 0xFF .ok) up) ∧ queued.ImagesCanonical :=
  ⟨rfl, by decide +kernel, by decide +kernel, by decide +kernel, by decide +kernel⟩

theorem witness_EveryStepKeepsF5Latched :
    let s : State := { up.setSg Off.wdF5 0x90000000 with pending := [.coldReset true] }
    s.Steps (after (.coldReset true) { s with pending := [] }) ∧ s.F5Latched :=
  ⟨rfl, by unfold State.F5Latched; decide +kernel⟩

theorem witness_SafeStateEndsOnlyInReset :
    let s : State := { hurt with pending := [.tick] }
    s.Steps (after (.tick) { s with pending := [] }) ∧ s.InSafeState := ⟨rfl, rfl⟩

theorem witness_CommandsLeaveQueueAndTime : exec (.coldReset false) up = .next (after (.coldReset false) up) := rfl

/-! ### The gate -/

theorem witness_SafeStateDiscardsWrites :
    writeOf (.siteEnable .sp 127 0x80000000) = some (.sp, .pf0, Off.siteCtl 127, 0x80000000) ∧ hurt.partyHeld .sp = false ∧
      hurt.partyBehind .sp = false ∧ reaches .sp .pf0 = true ∧ hurt.rst.ready = true ∧ hurt.safe = true ∧ ¬ (0x30000 ≤ Off.siteCtl 127 ∧ Off.siteCtl 127 < 0x40000) ∧
      Off.siteCtl 127 ≠ Off.calSave ∧ (findReg pf0Rows (Off.siteCtl 127)).isSome = true := by decide +kernel

theorem witness_WritesBeforeReady :
    writeOf (.rstRequest .pf1 0xB0070001) = some (.pf1, .pf1, Off.rstReq, 0xB0070001) ∧ early.partyHeld .pf1 = false ∧
      early.partyBehind .pf1 = false ∧ early.rst.ready = false := by decide +kernel

/-- The part in a CCLK in which the service port has written SITE_CTL[3]. -/
def taken : State := { up with wrote := [(rankOf .sp, Off.siteCtl 3)] }

theorem witness_LaterPartyLosesWrite :
    ({ up with pending := [.siteEnable .sp 3 0] } : State).outranked .pf0 .pf0 (Off.siteCtl 3) = true ∧
      taken.outranked .pf0 .pf0 (Off.siteCtl 3) = false ∧
    writeOf (.siteEnable .pf0 3 0x80000000) = some (.pf0, .pf0, Off.siteCtl 3, 0x80000000) ∧ taken.partyHeld .pf0 = false ∧
      taken.partyBehind .pf0 = false ∧ reaches .pf0 .pf0 = true ∧
      (∀ a < 4, Off.siteCtl 3 ≠ Off.auxsite a ∧ Off.siteCtl 3 ≠ Off.auxCfg a ∧ Off.siteCtl 3 ≠ Off.auxCode a) ∧
      taken.rst.ready = true ∧ taken.safe = false ∧ ((findReg pf0Rows (Off.siteCtl 3)).any fun e => e.1.rw + e.1.wo ≠ 0) ∧
      Off.siteCtl 3 ≠ Off.qheadAdv ∧ Off.siteCtl 3 ≠ Off.fuSafereq ∧ (∀ k : Cl, Off.siteCtl 3 ≠ Off.tsEdata k) ∧
      ∃ e ∈ taken.wrote, e.2 = Off.siteCtl 3 ∧ e.1 < rankOf .pf0 := by decide +kernel

/-! ### Sites, channels, clusters -/

theorem witness_SiteMapWrites : up.accepts .pf0 .pf0 (Off.chsite 0) = true ∧ up.accepts .seqh .pf0 (Off.chsite 511) = true ∧
    up.accepts .sp .pf0 (Off.railsite 63) = true ∧ up.accepts .pf0 .pf0 (Off.auxsite 15) = true := by decide +kernel

theorem witness_SiteControlWrites :
    up.accepts .pf0 .pf0 (Off.siteCtl 0) = true ∧ up.accepts .sp .pf0 (Off.siteStat 127) = true := by decide +kernel

/-- A cluster that is not parked: a channel of it is out of its park state. -/
def awake (n : Nat) (s : State) : State :=
  (s.setRg (Off.clPark (n / 32)) 0).setRb (Off.chStat (n / 32) (n % 32)) 31 false

theorem witness_ChannelParks : (awake 511 up).parkedCh 511 = false := by decide +kernel

/-- `s` with cluster `c` parked. -/
def parked (c : Nat) (s : State) : State := s.setRg (Off.clPark c) 0x80000001

/-- `s` after a write of `v` to CL_PARK[c] has cleared WAKEF and stored WAKEEN. -/
def wake (p : Party) (c : Cl) (v : Word) (s : State) : State :=
  ((s.took p .pf0 (Off.clPark c)).w1c .pf0 (Off.clPark c) 4 v).setRb (Off.clPark c) 1 (flag v 1)

theorem witness_ClusterParks :
    let a := awake 511 up
    let f := up.f2 { cls := 2, src := 15, cause := 1, off := 0, site := none, wd := false } true
    let b := a.setRb (Off.clPark 15) 0 true
    let p := parked 0 up
    let z := a.setCl 15 { a.cl 15 with parking := true }
    (a.accepts .pf0 .pf0 (Off.clPark 15) = true ∧ flag 7 0 = true ∧ (wake .pf0 15 7 a).parkReq 15 = false ∧
      (wake .pf0 15 7 a).clParked 15 = false ∧ (a.cl 15).parking = false) ∧
    (f.accepts .pf0 .pf0 (Off.clPark 15) = true ∧ flag 2 0 = false ∧ (wake .pf0 15 2 f).clF2 15 = true) ∧
    (p.accepts .pf0 .pf0 (Off.clPark 0) = true ∧ (wake .pf0 0 2 p).clF2 0 = false ∧ (wake .pf0 0 2 p).parkReq 0 = true ∧
      (wake .pf0 0 2 p).clParked 0 = true) ∧
    (b.accepts .pf0 .pf0 (Off.clPark 15) = true ∧ (wake .pf0 15 2 b).clF2 15 = false ∧ (wake .pf0 15 2 b).parkReq 15 = true ∧
      (wake .pf0 15 2 b).clParked 15 = false) ∧
    ((z.cl 15).parking = true ∧ z.accepts .pf0 .pf0 (Off.clPark 15) = true ∧ (wake .pf0 15 1 z).parkReq 15 = false) := by
  decide +kernel

/-! ### The steep -/

theorem witness_TickBeginsSteep :
    let s := up.setRb Off.steepStat 31 true
    let late : State := { ready (.steep 0 0 none) s with pending := [.steep 0 0 none] }
    (s.ticking = true ∧ s.steep.tickLeft = 0 ∧ (s.steepComes || s.workComes) = false) ∧
      (late.ticking = true ∧ late.steep.tickLeft = 0 ∧ (late.steepComes || late.workComes) = true) ∧
      ¬ (up.ticking = true ∧ up.steep.tickLeft = 0) := by decide +kernel

/-- `s` with steep 4 ended and waiting for its POUR_DONE, its pour limit running. -/
def pouring (s : State) : State := { s with steep := { s.steep with ended := [(4, 0)], limitOn := true, lp := 0 } }

/-- `s` with an overrun policy of SLIP for cluster `c`, with at most `n` slips. -/
def slips (c n : Nat) (s : State) : State :=
  (s.setAp (Off.clSteep c) (BitVec.ofNat 32 (256 + n))).setRg (Off.clSteep c) (BitVec.ofNat 32 (256 + n))

/-- A strobe of channel `n` for site 127, in state `st`, of MLOOP pass `pass`, due at once. -/
def strobe (n : Nat) (st : BitVec 3) (pass : Nat) : Strobe :=
  { vid := 0, ch := n, st := st, steep := 4, pass := pass, counts := true, site := 127, window := false, due := 0,
    at4 := 0, at5 := 0, raw := false }

/-- `s` with a strobe waiting in the cluster of its channel. -/
def strobed (x : Strobe) (s : State) : State := s.setCl (x.ch / 32) { s.cl (x.ch / 32) with strobes := [x] }

/-- `s` with steep 4 ended, which has a strobe in cluster 3 that has not resolved. -/
def behind (s : State) : State := strobed (strobe 96 4 0) (pouring s)

theorem witness_TickJudgesSequencer :
    let y := up.setSq 3 { up.sq 3 with mode := .yielded }
    let late (s : State) := s.steep.limitOn = true ∧ ∃ e ∈ s.steep.ended, s.clPoured 3 e.1 = false
    ((parked 3 up).clOut 3 = true ∧ ((parked 3 up).sq 3).mode ≠ .yielded) ∧
    (∀ s ∈ [run 3 up, run 3 (behind up), run 3 (slips 3 0 up)], s.clOut 3 = false ∧ (s.sq 3).mode = .running ∧
      (flag (s.ap (Off.clSteep 3)) 8 = false ∨ s.rf (Off.clSteep 3) 0 4 < s.rf (Off.clSteepstat 3) 1 4 + 1)) ∧
    (∀ s ∈ [run 3 (slips 3 1 up), run 3 (behind (slips 3 15 up))], s.clOut 3 = false ∧ (s.sq 3).mode = .running ∧
      flag (s.ap (Off.clSteep 3)) 8 = true ∧ s.rf (Off.clSteepstat 3) 1 4 + 1 ≤ s.rf (Off.clSteep 3) 0 4) ∧
    (late (run 3 (behind up)) ∧ ¬ late (run 3 up) ∧ late (run 3 (behind (slips 3 15 up))) ∧
      ¬ late (run 3 (slips 3 1 up))) ∧
    (y.clOut 3 = false ∧ (y.sq 3).mode = .yielded ∧ ¬ late y) := by decide +kernel

/-- A cluster with a strobe of steep 4, which has ended. -/
def busy : State := strobed (strobe 511 4 0) (pouring up)

theorem witness_PourWindowEvents :
    (let s := { up with now := 800000 }
     s.rst.ready = true ∧ s.steep.hbAt + 800000 ≤ s.now) ∧
    ((pouring up).steep.ended = (4, 0) :: [] ∧ (4 : BitVec 64) ∉ ((pouring up).cl 15).poured ∧
      (pouring up).clOut 15 = false ∧ (pouring up).clDone 15 4 = true) ∧
    (busy.steep.ended = (4, 0) :: [] ∧ (4 : BitVec 64) ∉ (busy.cl 15).poured ∧ busy.clOut 15 = false ∧
      busy.clDone 15 4 = false) ∧
    (let s : State := { busy with pending := [.strobeResolve 15 31 ⟨false, false, false, false, false⟩] }
     s.steep.limitOn = true ∧ s.steep.lastTick + s.steep.lp ≤ s.now ∧ s.workComes = true) ∧
    ((pouring up).steep.limitOn = true ∧ (pouring up).steep.lastTick + (pouring up).steep.lp ≤ (pouring up).now ∧
      (pouring up).workComes = false ∧ .tick ∉ (pouring up).pending) := by
  decide +kernel

/-- `s` with every cluster parked. -/
def allParked (s : State) : State := (List.range 16).foldl (fun s c => parked c s) s

theorem witness_PourDoneCommits :
    let s := pouring (allParked up)
    let m := s.setSq 2 { s.sq 2 with due := [(4, 0, 0), (4, 1, 2), (5, 0, 0)] }
    ((pouring up).steep.ended = (4, 0) :: [] ∧ ∃ c : Cl, (4 : BitVec 64) ∉ ((pouring up).cl c).poured ∧
      (pouring up).clExcluded c = false) ∧
    (s.steep.ended = (4, 0) :: [] ∧ ∀ c : Cl, (4 : BitVec 64) ∈ (s.cl c).poured ∨ s.clExcluded c = true) ∧
    (((m.sq 2).due.filter fun e => e.1 = 4).getLast? = some (4, 1, 2) ∧ (∀ c : Cl, m.clExcluded c = true) ∧
      (m.st 127).fencedAt ≠ some m.now ∧
      ((m.setSt 0 { m.st 0 with fencedAt := some m.now }).st 0).fencedAt = some m.now) ∧
    ((waits 16 .pour s).sq 16).wait = .pour ∧ ∀ c : Cl, (waits 16 .pour s).clExcluded c = true := by decide +kernel

/-! ### Sequencer control and the instruction copy -/

theorem witness_SequencerControlWrites :
    (up.accepts .pf0 .pf0 (Off.seqCtl 0) = true ∧ up.accepts .sp .pf0 (Off.seqCtl 15) = true ∧
      up.accepts .pf0 .pf0 Off.seqhCtl = true) ∧
    (flag 0 0 = false ∧ flag 0 1 = false ∧ flag 2 0 = false ∧ flag 2 1 = true ∧ flag 3 0 = true ∧ flag 3 1 = true ∧
      flag 1 0 = true ∧ flag 1 1 = false) ∧
    (∀ s ∈ [run 15 up, parked 15 up, up.setRb Off.mcLstat 31 true], s.accepts .sp .pf0 (Off.seqCtl 15) = true ∧
      ((s.sq 15).mode ≠ .halted ∨ s.clOut 15 = true ∨ s.mcBusy = true)) ∧
    ((up.sq 15).mode = .halted ∧ up.clOut 15 = false ∧ up.mcBusy = false) ∧
    (∀ s ∈ [run 16 up, up.setRb Off.mcLstat 31 true, up.setRb (Off.miStat 80) 31 true,
        up.f2 { cls := 2, src := 0x1000, cause := 1, off := 0, site := none, wd := false } true],
      s.accepts .pf0 .pf0 Off.seqhCtl = true ∧
      ((s.sq 16).mode ≠ .halted ∨ s.mcBusy = true ∨ (s.f2Find 0x1000).isSome = true ∨ s.bistDead 16 = true)) ∧
    ((up.sq 16).mode = .halted ∧ up.mcBusy = false ∧ up.f2Find 0x1000 = none ∧ up.bistDead 16 = false) := by
  decide +kernel

theorem witness_SequencerControlWrites_registers :
    (up.accepts .pf0 .pf0 (Off.seqG 0 0) = true ∧ up.accepts .sp .pf0 (Off.seqG 16 15) = true ∧
      up.accepts .pf0 .pf0 (Off.seqLc 16 7) = true ∧ (up.sq 16).mode = .halted) ∧
    ((run 15 up).accepts .pf0 .pf0 (Off.seqLc 15 7) = true ∧ ((run 15 up).sq 15).mode ≠ .halted) := by decide +kernel

/-- A copy of `n` words to index 0, of which `d` are written. -/
def copyOf (n d : Nat) : Copy := { row := 0, dst := 0, len := n, wait := 0, done := d }

/-- `s` with copy `r` in cluster `c`. -/
def copying (c : Nat) (r : Copy) (s : State) : State := s.setSq c { s.sq c with copy := some r }

theorem witness_InstructionCopy :
    (up.accepts .pf0 .pf0 (Off.idmaCtl 15) = true ∧ flag 0 0 = false ∧ flag 1 0 = true) ∧
    (let full := (up.setRg (Off.idmaDst 15) 1).setRg (Off.idmaLen 15) 0x7FFF
     ((run 15 up).accepts .pf0 .pf0 (Off.idmaCtl 15) = true ∧ ((run 15 up).sq 15).mode ≠ .halted) ∧
     ((copying 15 (copyOf 1 0) up).sq 15).copy ≠ none ∧
     (32767 < full.rf (Off.idmaDst 15) 0 15 + full.rf (Off.idmaLen 15) 0 15)) ∧
    (let last := up.setRg (Off.idmaDst 15) 0x7FFF
     last.accepts .pf0 .pf0 (Off.idmaCtl 15) = true ∧ (last.sq 15).mode = .halted ∧ (last.sq 15).copy = none ∧
     last.rf (Off.idmaDst 15) 0 15 + last.rf (Off.idmaLen 15) 0 15 ≤ 32767) ∧
    (((copying 0 (copyOf 2 1) up).sq 0).copy = some (copyOf 2 1) ∧ (copyOf 2 1).done < (copyOf 2 1).len) ∧
    (((copying 0 (copyOf 2 2) up).sq 0).copy = some (copyOf 2 2) ∧ (copyOf 2 2).len ≤ (copyOf 2 2).done ∧
      ((copying 0 (copyOf 2 2) up).sq 0).wait = .none) ∧
    (let s := waits 0 .ovlw (copying 0 (copyOf 2 2) up)
     (s.sq 0).copy = some (copyOf 2 2) ∧ (s.sq 0).wait = .ovlw) ∧
    (let s := waits 0 (.ovl 5 6 7) (copying 0 (copyOf 2 2) up)
     (s.sq 0).copy = some (copyOf 2 2) ∧ (s.sq 0).wait = .ovl 5 6 7) := by decide +kernel

/-! ### Instructions -/

/-- A report of a microword of even parity. -/
def broken : Micro := { words := [{ cond := false, bad := true, ecc := .ok }] }

theorem witness_InstructionGate_form :
    formOf (.nop 0 0 none) = some { x := 0, op := 0x01, w := 0, mc := none, rsv := [(0, 56)], vals := [] } :=
  rfl

theorem witness_InstructionGate :
    up.canRun 0 0x01 0 = false ∧
    ((ready (.vec 16 0 none []) up).canRun 16 0x10 0 = true ∧ opLegal 16 0x10 = false) ∧
    (let i := Instr.mov 15 0xF0000000000000 none
     let s := ready i (up.setSq 15 { up.sq 15 with pend := [15] })
     s.canRun 15 0x41 0xF0000000000000 = true ∧ opLegal 15 0x41 = true ∧
      ∃ k ∈ regsOf 0x41 0xF0000000000000, k ∈ (s.sq 15).pend) ∧
    (let s := ready (.nop 0 0 (some broken)) up
     s.canRun 0 0x01 0 = true ∧ (∀ k ∈ regsOf 0x01 0, k ∉ (s.sq 0).pend) ∧ s.admWaits 0 = false ∧
      (∃ a, (s.microOf 0 (some broken)).check = some (1, a)) ∧ (s.microOf 0 (some broken)).drove = 0) ∧
    (let s := ready (.nop 16 0xC0000000000000 none) up
     s.canRun 16 0x01 0xC0000000000000 = true ∧ opLegal 16 0x01 = true ∧ (s.sq 16).pend = [] ∧ (s.microOf 16 none).check = none ∧
      (s.microOf 16 none).done = true ∧ offBit 0xC0000000000000 [(0, 56)] [] = some 54) := by
  refine ⟨by decide +kernel, by decide +kernel, by decide +kernel, ⟨by decide +kernel, by decide +kernel, by decide +kernel,
    ⟨_, rfl⟩, by decide +kernel⟩, by decide +kernel⟩

/-- A microword of odd parity that sends the sequencer to microaddress 0x3000, which holds it. -/
def stuckWord : BitVec 136 := BitVec.ofNat 136 (0xFE * 2 ^ 128 + 0x3000 * 2 ^ 11 + 4)

/-- `s` with that word in caddy 0, for the NOP routine. -/
def patched (s : State) : State :=
  { s with
    mc := { s.mc with caddy := [(0, stuckWord)] }
    reg := [(Off.mcMatch 0, BitVec.ofNat 32 (2 ^ 31 + (Config.microEntry 1).val))] }

/-- The word is fetched whole. -/
theorem caddy_word (s : State) (h : s.mc.ue.contains 0 = false) (hm : Tbl.get 0 s.mc.caddy 0 = stuckWord) (f : MicroFetch)
    (hf : f.ecc = .ok) : s.microWord 0 f (.caddy 0) = .inl stuckWord := by
  have hp : microParity stuckWord = true := by decide +kernel
  rw [State.microWord]
  simp only [Nat.mul_zero, Nat.add_zero, h, hf, hm, hp]
  rfl

/-- A word that sends the sequencer to itself holds it for good. -/
theorem held_in_caddy (s : State) (h : s.mc.ue.contains 0 = false) (hm : Tbl.get 0 s.mc.caddy 0 = stuckWord) :
    ∀ (n : Nat) (again : Bool) (e : MicroEnd), e.at_ = .caddy 0 → e.check = none → e.done = false →
      (s.microRun 0 n again [] e).check = none ∧ (s.microRun 0 n again [] e).done = false := by
  intro n
  induction n with
  | zero => intro again e _ hc hd; exact ⟨hc, hd⟩
  | succ n ih =>
    intro again e ha hc hd
    rw [State.microRun]
    simp only [ha, State.microAt]
    rw [caddy_word s h hm _ rfl]
    exact ih _ _ rfl hc hd

theorem witness_InstructionGate_stuck :
    let s := ready (.nop 0 0 none) (patched up)
    s.canRun 0 0x01 0 = true ∧ (s.microOf 0 none).check = none ∧ (s.microOf 0 none).done = false := by
  have ha : (ready (.nop 0 0 none) (patched up)).opAt 0 = 1 := by decide +kernel
  have hr : (ready (.nop 0 0 none) (patched up)).rg (Off.mcMatch 0) = BitVec.ofNat 32 (2 ^ 31 + (Config.microEntry 1).val) := rfl
  have hl : (Config.microEntry 1).val < 12288 := (Config.microEntry 1).isLt
  generalize hs : ready (.nop 0 0 none) (patched up) = s at ha hr ⊢
  have hb : s.rb (Off.mcMatch 0) 31 = true := by
    simp only [State.rb, hr, flag]
    rw [BitVec.getLsbD_ofNat, Nat.testBit_two_pow_add_eq, Nat.testBit_lt_two_pow (by omega)]
    rfl
  have hf : s.rf (Off.mcMatch 0) 0 14 = (Config.microEntry 1).val ∧ s.rf (Off.mcMatch 0) 16 9 = 0 := by
    simp only [State.rf, hr, fld, BitVec.toNat_ofNat, Nat.shiftRight_eq_div_pow]
    omega
  have hm : s.microAt (.rom (Config.microEntry 1)) = .caddy 0 := by
    have : (List.range 32).find? (fun k => s.rb (Off.mcMatch k) 31 && decide (s.rf (Off.mcMatch k) 0 14 = (Config.microEntry 1).val)) =
        some 0 := by
      rw [List.range_succ_eq_map, List.find?_cons_of_pos]
      simp [hb, hf.1]
    simp [State.microAt, this, hf.2]
  have hp : s.plainRom 0 = false := by
    rw [State.plainRom, List.range_succ_eq_map, List.all_cons, hb]
    rfl
  have hu : s.mc.ue.contains 0 = false ∧ Tbl.get 0 s.mc.caddy 0 = stuckWord := by rw [← hs]; exact ⟨rfl, rfl⟩
  refine ⟨by rw [← hs]; decide +kernel, ?_⟩
  have hq : s.microOf 0 none = s.microRun 0 microFuel false []
      { at_ := .rom (Config.microEntry 1), stack := [], drove := 0, cclk := 0, caddy := false, fixed := [], done := false,
        check := none } := by
    have : s.seqhTouch 0 = s := rfl
    simp only [State.microOf, this, State.micro, ha, State.routine, hp]
    rfl
  rw [hq, show microFuel = (2 ^ 24 - 1) + 1 from rfl, State.microRun]
  simp only [hm]
  rw [caddy_word s hu.1 hu.2 _ rfl]
  exact held_in_caddy s hu.1 hu.2 _ _ _ rfl rfl rfl

theorem witness_AluResults :
    (∀ i ∈ [Instr.add 16 0xFFF00000000000 none, .sub 0 0xFFF00000000000 none, .and 15 0xFFF00000000000 none,
        .or 16 0xFFF00000000000 none, .xor 0 0xFFF00000000000 none, .shl 15 0xFFF00000000000 none,
        .shr 16 0xFFF00000000000 none, .sar 0 0xFFF00000000000 none, .mul 15 0xFFF00000000000 none,
        .cmp 16 0x0FF00000000000 none], (ready i up).runs i = true) ∧
    (∀ i ∈ [Instr.addi 16 0xFF0000FFFFFFFF none, .subi 0 0xFF0000FFFFFFFF none, .andi 15 0xFF0000FFFFFFFF none,
        .ori 16 0xFF0000FFFFFFFF none, .xori 0 0xFF0000FFFFFFFF none, .shli 15 0xFF00000000001F none,
        .shri 16 0xFF00000000001F none, .sari 0 0xFF00000000001F none, .cmpi 16 0x0F0000FFFFFFFF none],
      (ready i up).runs i = true) := by decide +kernel

theorem witness_MovesAndClears :
    (∀ i ∈ [Instr.nop 16 0 none, .movi 0 0xF00000FFFFFFFF none, .mov 15 0xFF000000000000 none,
        .mtlc 16 0x7F000000000000 none, .mflc 0 0xF7000000000000 none, .mfs 15 0xF0000000000013 none,
        .sfclr 0 0x00000000000000 none, .sfclr 15 0x03000000000000 none], (ready i up).runs i = true) ∧
    (16 : Sq).val = 16 ∧ (15 : Sq).val < 16 := by decide +kernel

theorem witness_BranchesAndLoops :
    let full := up.setSq 15 { up.sq 15 with stack := List.replicate 16 7 }
    (∀ i ∈ [Instr.jmp 16 0x00000000FFFFFF none, .jmp 0 0xF8800000000000 none, .call 15 0x00000000007FFF none,
        .ret 16 0 none, .jf 0 0x06000000000000 none, .je 16 0x04000007FFFFFF none, .loop 0 0x07FFFFFF007FFF none,
        .endl 16 0x07000000FFFFFF none], (ready i up).runs i = true) ∧
    ((ready (.call 15 0 none) full).runs (.call 15 0 none) = true) ∧
    ((ready (.ret 16 0 none) up).sq 16).stack = [] ∧
    (let s := ready (.ret 15 0 none) full
     s.runs (.ret 15 0 none) = true ∧ (s.sq 15).stack = 7 :: List.replicate 15 7) ∧
    ((ready (.jf 0 0x0E000000000000 none) up).runs (.jf 0 0x0E000000000000 none) = true ∧
      (0x0E000000000000 : BitVec 56).getLsbD 51 = true ∧ (0x06000000000000 : BitVec 56).getLsbD 51 = false) ∧
    (let s := waits 0 (.jfw true false 127 0x7FFF) up
     (s.sq 0).mode = .running ∧ (s.sq 0).readyAt ≤ s.now ∧ (s.sq 0).wait = .jfw true false 127 0x7FFF) := by decide +kernel

theorem witness_SteepHaltAndReturn :
    (∀ i ∈ [Instr.steep 16 0 none, .pour 0 0 none, .halt 15 0xFFFF none, .tret 16 1 none], (ready i up).runs i = true) ∧
    (ready (.tret 16 1 none) up).trapAct 16 = false ∧
    (let s := ready (.tret 0 0 none) (up.setRb (Off.trapStat 0) 31 true)
     s.runs (.tret 0 0 none) = true ∧ s.trapAct 0 = true) := by decide +kernel

theorem witness_TrapEntry : 255 < 256 ∧ 0xFFFFFFFF < 2 ^ 32 ∧ 0xFFFFFF < 2 ^ 24 ∧ (up.sq 16).stopReq = false ∧
    up.plainRom 16 = true ∧ (∃ a, (up.routine 16 Config.trapRoutine (some broken)).check = some (1, a)) ∧
    (up.routine 16 Config.trapRoutine none).check = none ∧ (up.routine 16 Config.trapRoutine none).done = true := by
  refine ⟨by decide +kernel, by decide +kernel, by decide +kernel, by decide +kernel, by decide +kernel, ⟨_, rfl⟩, rfl, rfl⟩

theorem witness_ExceptionOutcomes :
    (let s := up.setRb (Off.trapCtl 16) 31 true
     s.trapEn 16 = true ∧ s.trapAct 16 = false) ∧
    (up.setRb (Off.trapStat 15) 31 true).trapAct 15 = true ∧ up.trapEn 0 = false ∧ up.trapAct 0 = false := by decide +kernel

/-- `s` with the traps of sequencer `x` enabled, events latched by `l`, interrupts enabled by `e`. -/
def armed (x : Nat) (l e : Word) (s : State) : State :=
  ((s.setRb (Off.trapCtl x) 31 true).setRg (Off.evLatch x) l).setRg (Off.intCtl x) e

theorem witness_InterruptsAndFetch :
    let opens (s : State) (x : Nat) := (s.sq x).mode = .running ∧ (s.sq x).readyAt ≤ s.now ∧
      ((s.sq x).wait = .none ∨ (s.sq x).wait.interruptible = true) ∧ s.trapEn x = true ∧ s.trapAct x = false
    let asks (s : State) (x k : Nat) := flag (s.rg (Off.evLatch x)) k = true ∧ flag (s.rg (Off.intCtl x)) k = true
    let slot (s : State) (x k : Nat) := asks s x k ∧ (s.sq x).evwSlots.getLsbD k = false
    ¬ opens up 0 ∧
    (let s := run 16 (armed 16 0x1FF 0x100 up)
     opens s 16 ∧ asks s 16 8) ∧
    (let s := waits 15 .pour (armed 15 0x1FF 0x80 up)
     opens s 15 ∧ ¬ asks s 15 8 ∧ slot s 15 7 ∧ ∀ j < 7, ¬ slot s 15 j) ∧
    (¬ asks up 0 8 ∧ ∀ k < 8, ¬ slot up 0 k) ∧
    (let at_ (pc : Nat) (m : SramWord) := (run 0 up).setSq 0 { (run 0 up).sq 0 with pc := pc, sram := [(pc, m)] }
     (up.atBoundary 0 = false) ∧
     (∀ pc ∈ [0, 32767, 32768], (at_ pc { w := 0, bad := true }).atBoundary 0 = true) ∧
     (let s := copying 0 (copyOf 2 0) (at_ 1 { w := 0, bad := false })
      s.atBoundary 0 = true ∧ (s.sq 0).pc < 32768 ∧ (s.sq 0).copyHolds (s.sq 0).pc = true) ∧
     (((at_ 32767 { w := 0, bad := true }).sq 0).copyHolds 32767 = false)) := by decide +kernel

theorem witness_LoadsAndStores :
    (∀ i ∈ [Instr.ldv 16 0xFF8000FFFFFFFF none, .stv 0 0xFF0000FFC00000 none, .ovl 15 0xF07FFF00000000 none,
        .ovlw 0 0 none, .ovl 0 0xF0000100007FFF none], (ready i up).runs i = true) ∧
    (recal.vmWait = true ∧ up.vmWait = false) ∧
    (let s := waits 16 (.access false 15 0 true false) up
     (s.sq 16).wait = .access false 15 0 true false ∧ (s.sq 16).readyAt ≤ s.now) ∧
    (let s := waits 0 (.access true 0 0xFFBFFFFF true false) up
     (s.sq 0).wait = .access true 0 0xFFBFFFFF true false ∧ (s.sq 0).readyAt ≤ s.now ∧
      s.writeEnd 0xFFBFFFFF 0xF0 .ok = .stored) ∧
    (let s := { up with mem := { up.mem with init := [0] } }
     s.writeEnd 0 0x0F .uncorrectable = .rejected) := by decide +kernel

/-! ### Vectors, the PMU, capture -/

/-- `s` with pot 63 enabled and owned by cluster 15. -/
def potted (s : State) : State := s.setRg (Off.potCfg 63) 0x8F0A0000

theorem witness_VectorInstructions :
    (∀ i ∈ [Instr.vec 15 0x03000000000000 none [], .vecr 15 0x13000000000000 none [], .vec 15 0x02000000000000 none [],
        .vecr 15 0x12000000000000 none [], .vec 15 0x01000000000000 none [], .vecr 15 0x01000000000040 none []],
      (ready i up).runs i = true) ∧
    (up.potEn 0 = false ∧ ¬ 0x40 < 64) ∧
    ((ready (.vecr 15 0x04000000000000 none []) up).runs (.vecr 15 0x04000000000000 none []) = true ∧
      ifld 0x04000000000000 48 2 = 0 ∧ offBit 0x04000000000000 (vecRsv 0x04000000000000 true) [] = some 50) ∧
    (let s := ready (.vec 15 0x0100000000003F none []) (potted up)
     s.runs (.vec 15 0x0100000000003F none []) = true ∧ s.potEn 63 = true ∧ s.potOwner 63 = (false, 15) ∧
      ifld 0x0100000000003F 48 2 = 1 ∧ offBit 0x0100000000003F [(50, 2), (8, 24)] [] = none) ∧
    ((ready (.vecr 15 0xE2000000000000 none []) up).runs (.vecr 15 0xE2000000000000 none []) = true ∧
      ifld 0xE2000000000000 48 2 = 2 ∧ ifld 0xE2000000000000 52 4 % 2 ≠ 1 ∧
      offBit 0xE2000000000000 [(50, 2), (0, 32)] [] = none) ∧
    (let w : BitVec 56 := 0x000001FFBFFFFE
     (ready (.vec 0 w none []) up).runs (.vec 0 w none []) = true ∧ ifld w 48 2 = 0 ∧ offBit w [] [] = none ∧
      ∀ k < ifld w 32 16 + 1, (ifld w 0 32 + k) % 2 ^ 32 < 0xFFC00000) ∧
    (let w : BitVec 56 := 0x000001FFBFFFFF
     (ready (.vec 0 w none []) up).runs (.vec 0 w none []) = true ∧ 1 < ifld w 32 16 + 1 ∧
      0xFFC00000 ≤ (ifld w 0 32 + 1) % 2 ^ 32 ∧ ∀ j < 1, (ifld w 0 32 + j) % 2 ^ 32 < 0xFFC00000) ∧
    (∀ i ∈ [Instr.tset 15 0xF8000000000000 none, .tset 0 0xFF none, .sitem 15 0xC0000000000003 none,
        .sitem 0 0x5200000000007F none, .sitem 0 0xF3000000000000 none], (ready i up).runs i = true) ∧
    (ready (.sitem 0 0xF3000000000000 none) up).steep.ended = [] ∧
    (ready (.sitem 0 0xF3000000000000 none) (pouring up)).steep.ended = [] ++ [(4, 0)] := by decide +kernel

/-- An MLOOP of limit 2 whose pass 1 left the pins at CCLK 0; pass 1 failed where `f` says so. -/
def loopOf (f : Bool) (limit : Nat) : MLoop :=
  { gt := 15, limit := limit, base := 0, cnt := 2, pass := 1, done := 0, failed := if f then [1] else [], ended := [0],
    hit := false }

/-- A job that has issued `k` vectors, with `left` to issue. -/
def jobOf (k left : Nat) (stalled : Bool) (src : VSrc) (m : Option MLoop) : Job :=
  { src := src, k := k, left := left, hold := false, zeros := false, avail := [], stalled := stalled, once := false, ml := m }

theorem witness_MatchLoopsAndStalls :
    (let w : BitVec 56 := 0x00F001FFBFFFFF
     (ready (.mloop 15 w none []) up).runs (.mloop 15 w none []) = true ∧ 1 < ifld w 32 12 + 1 ∧
      0xFFC00000 ≤ (ifld w 0 32 + 1) % 2 ^ 32 ∧ ∀ j < 1, (ifld w 0 32 + j) % 2 ^ 32 < 0xFFC00000) ∧
    (let w : BitVec 56 := 0x00F001FFBFFFFE
     (ready (.mloop 15 w none []) up).runs (.mloop 15 w none []) = true ∧
      (∀ k < ifld w 32 12 + 1, (ifld w 0 32 + k) % 2 ^ 32 < 0xFFC00000) ∧
      (((ready (.mloop 15 w none []) up).sq 15).gr 15).toNat = 0) ∧
    (let s := ready (.mloop 15 0x00F00000000000 none []) (up.setSq 15 ((up.sq 15).setG 15 0xFFFFFFFF))
     s.runs (.mloop 15 0x00F00000000000 none []) = true ∧ ((s.sq 15).gr 15).toNat ≠ 0) ∧
    (let st (f : Bool) (limit k left now : Nat) : State :=
       { waits 15 (.issue (jobOf k left false (.mem 0 1) (some (loopOf f limit)))) up with now := now }
     (∀ f : Bool, (loopOf f 2).ended = 0 :: []) ∧
     ((st true 2 1 1 63).now < 0 + 64 ∧
      ((st true 2 1 1 63).sq 15).wait = .issue (jobOf 1 1 false (.mem 0 1) (some (loopOf true 2)))) ∧
     (0 + 64 ≤ (st true 1 1 1 64).now ∧ 1 ∈ (loopOf true 1).failed ∧ (loopOf true 1).done + 1 = (loopOf true 1).limit) ∧
     (0 + 64 ≤ (st true 2 1 1 64).now ∧ 1 ∈ (loopOf true 2).failed ∧ (loopOf true 2).done + 1 ≠ (loopOf true 2).limit) ∧
     (0 + 64 ≤ (st false 2 1 0 64).now ∧ 1 ∉ (loopOf false 2).failed ∧
      (jobOf 1 0 false (.mem 0 1) (some (loopOf false 2))).left = 0) ∧
     (1 ∉ (loopOf false 2).failed ∧ (jobOf 1 1 false (.mem 0 1) (some (loopOf false 2))).left ≠ 0 ∧
      (jobOf 1 1 false (.mem 0 1) (some (loopOf false 2))).k ≠ 0)) ∧
    (let j := jobOf 1 1 false (.mem 0 1) (some (loopOf false 2))
     let q := (waits 15 (.issue j) up).sq 15
     q.wait = .issue j ∧ q.mtch = false ∧ ({ q with mtch := true } : SeqSt).mtch = true) ∧
    (let st (src : VSrc) (b : Bool) : State := waits 15 (.issue (jobOf 1 1 b src none)) up
     ((jobOf 1 1 true (.mem 0 1) none).stalled = true ∧ 0 < 1 ∧ ((st (.mem 0 1) true).sq 15).wait =
      .issue (jobOf 1 1 true (.mem 0 1) none)) ∧
     (((st (.pot 63) true).setRg (Off.potWr 63) 1).potLevel 63 = 1) ∧
     (jobOf 1 1 false (.mem 0 1) none).stalled = false ∧
     ¬ ((jobOf 1 1 false (.mem 0 1) none).stalled = true ∧ ((st (.mem 0 1) false).cl 15).idle = true ∧
      ((st (.mem 0 1) false).cl 15).gapAt = none) ∧
     (((st (.pot 63) true).cl 15).idle = true ∧ ((st (.pot 63) true).cl 15).gapAt = none)) := by decide +kernel

/-- A vector of timing set 255 for steep 0. -/
def vecOf (hold : Bool) (vm cm : BitVec 128) : Vec :=
  { row := 0, hold := hold, tset := 255, steep := 0, num := 1, vmask := vm, cmask := cm, masked := 0, issued := 0, pass := 0,
    last := false }

theorem witness_AppliedState :
    let all : BitVec 128 := BitVec.allOnes 128
    let one (w : Word) := fld ((up.setAp (Off.tsSmap 15 255) w).apAt 0 (Off.tsSmap 15 255)) 0 3
    (vecOf true all all).hold = true ∧
    ((vecOf false 0 all).hold = false ∧ (vecOf false 0 all).vmask.getLsbD 127 = false) ∧
    ((vecOf false all 0).vmask.getLsbD 127 = true ∧ (vecOf false all 0).cmask.getLsbD 127 = false ∧ 4 ≤ one 5) ∧
    ((vecOf false all all).cmask.getLsbD 127 = true ∧ up.vecMasked (vecOf false all all) 127 = false) ∧ one 3 < 4 := by
  decide +kernel

/-- `s` with a vector at the head of the FIFO of cluster 15. -/
def loaded (s : State) : State :=
  s.setCl 15 { s.cl 15 with fifo := [{ kind := .vec (vecOf false 0 0), steep := 0, issued := 0 }] }

theorem witness_VectorsAtThePins :
    ((loaded up).cl 15).fifo = { kind := .vec (vecOf false 0 0), steep := 0, issued := 0 } :: [] ∧
    ((up.now + 1) * 2500 ≤ max ((0 + 48) * 2500) ((0 + 624) / 625 * 625)) ∧
    (let s : State := { up with now := 48 }
     max ((0 + 48) * 2500) ((0 + 624) / 625 * 625) < (s.now + 1) * 2500) ∧
    ((loaded up).cl 15).lastEnd < (0 + 48) * 2500 ∧
    ([] ++ [7]).find? (fun i => decide (i / 256 = 256 * 15 + 255)) = none ∧
    ([] ++ [256 * (256 * 15 + 255) + 7]).find? (fun i => decide (i / 256 = 256 * 15 + 255)) =
      some (256 * (256 * 15 + 255) + 7) := by decide +kernel

theorem witness_StrobesResolve :
    (let s := strobed (strobe 511 4 0) up
     (s.cl 15).strobes.find? (fun x => x.ch = 32 * 15 + 31 ∧ x.due ≤ s.now) = some (strobe 511 4 0)) ∧
    ((strobe 511 4 0).pass = 0 ∧ (strobe 511 4 0).site < 128) ∧
    (up.rf (Off.siteCtl 127) 0 2 = 0) ∧
    (let s := up.setRg (Off.siteCtl 127) 1
     s.rf (Off.siteCtl 127) 0 2 = 1 ∧ s.fenced 127 = false ∧ (s.st 127).fencedAt ≠ some s.now) ∧
    (up.setRg (Off.siteCtl 127) 2).rf (Off.siteCtl 127) 0 2 = 2 ∧
    (let j := jobOf 1 1 false (.mem 0 1) (some (loopOf false 2))
     (strobe 511 4 1).pass ≠ 0 ∧ (strobe 511 4 1).pass ≠ passDead ∧ ((waits 15 (.issue j) up).sq 15).wait = .issue j ∧
      j.ml = some (loopOf false 2)) := by decide +kernel

/-- `s` with G15 of sequencer 15 selecting channel 31. -/
def masked31 (s : State) : State := s.setSq 15 ((s.sq 15).setG 15 0x80000000)

/-- `s` with channel 511 on site 127 in the role that may always force. -/
def power (s : State) : State := s.setRg (Off.chsite 511) 0x8000037F

/-- The channels that the mask selects are assigned. -/
abbrev free (s : State) : Prop := ∀ i < 32, (0x80000000 : Word).getLsbD i = true → (s.chSite (32 * 15 + i)).isSome

/-- Their roles allow force. -/
abbrev able (s : State) : Prop := ∀ i < 32, (0x80000000 : Word).getLsbD i = true → s.roleForce (32 * 15 + i) = true

/-- The selected channels whose role does not allow force are all of them. -/
abbrev mute (s : State) : Prop :=
  ∀ i < 32, (0x80000000 : Word).getLsbD i = ((0x80000000 : Word).getLsbD i && !s.roleForce (32 * 15 + i))

/-- `s` with the instruction `i` before sequencer 15, and a mask that selects channel 31. -/
def pmu (i : Instr) (s : State) : State := ready i (masked31 s)

/-- `s` with no power budget. -/
def broke (s : State) : State := s.setRg Off.admCtl 0

theorem witness_PmuInstructions :
    (∀ i ∈ [Instr.range 15 0xF6000000000000 none, .force 15 0xF0000000000000 none, .meas 15 0xF03E0000000000 none],
      (pmu i up).runs i = true) ∧
    (∀ i < 32, (0x80000000 : Word).getLsbD i = ((0x80000000 : Word).getLsbD i && (up.chSite (32 * 15 + i)).isNone)) ∧
    (let s := pmu (.meas 15 0xF03E0000000000 none) (wired 511 127 up)
     s.runs (.meas 15 0xF03E0000000000 none) = true ∧ s.chSite (32 * 15 + 31) = some 127) ∧
    up.chSite (32 * 15 + 31) = none := by decide +kernel

theorem witness_PmuInstructions_order :
    (pmu (.range 15 0xF6000000000000 none) up).admWaits 15 = false ∧
    ({ up with pending := [.sitePowerRequest .sp 0 0] } : State).admWaits 15 = true := by decide +kernel

theorem witness_PmuInstructions_range :
    (let s := pmu (.range 15 0xF6000000000000 none) (wired 511 127 up)
     s.runs (.range 15 0xF6000000000000 none) = true ∧ free (s.began 15 none) ∧
      ifld 0xF6000000000000 50 2 ≠ 0 ∧ mute (s.began 15 none)) ∧
    (let s := pmu (.range 15 0xF6000000000000 none) (broke (power up))
     let u := s.began 15 none
     let t := u.pushEntry 15 (.range 0x80000000 1 4) 3
     s.runs (.range 15 0xF6000000000000 none) = true ∧ free u ∧ able u ∧ u.budget < t.admSum ∧ u.admSum < t.admSum) ∧
    (let s := pmu (.range 15 0xF6000000000000 none) ((power up).setRg Off.admCtl 0x1FFF)
     let u := s.began 15 none
     let t := u.pushEntry 15 (.range 0x80000000 1 4) 3
     s.runs (.range 15 0xF6000000000000 none) = true ∧ free u ∧ able u ∧ t.admSum ≤ u.budget) := by decide +kernel

theorem witness_PmuInstructions_force :
    (let s := pmu (.force 15 0xF0000000000000 none) (wired 511 127 up)
     s.runs (.force 15 0xF0000000000000 none) = true ∧ free (s.began 15 none) ∧ mute (s.began 15 none)) ∧
    (let s := pmu (.force 15 0xF0000000000000 none) (broke ((power up).pushEntry 15 (.range 0x80000000 1 4) 3))
     s.runs (.force 15 0xF0000000000000 none) = true ∧ free (s.began 15 none) ∧ able (s.began 15 none) ∧
      (s.began 15 none).budget < (s.began 15 none).admSum) ∧
    (let s := pmu (.force 15 0xF0000000000000 none) (power up)
     s.runs (.force 15 0xF0000000000000 none) = true ∧ free (s.began 15 none) ∧ able (s.began 15 none) ∧
      (s.began 15 none).admSum ≤ (s.began 15 none).budget) := by decide +kernel

/-- A MEAS of channel 31 of its cluster with `n` samples, of which `k` are taken. -/
def measOf (n k due started : Nat) : Meas :=
  { ch := 31, rd := 15, qid := none, cur := false, n := n, set := 0, steep := 0, due := due, sum := 0, count := k, samples := [],
    recNo := 0, tsFirst := 0, started := started, lost := false }

/-- The part 48 CCLK after an entry of kind `k` was put into the empty FIFO of cluster 15. -/
def due (k : EKind) : State := { up.pushEntry 15 k 1 with now := 48 }

theorem witness_PmuAtThePins :
    (∀ k ∈ [EKind.range 0x80000001 2 4, .range 1 0 0, .force 0xFFFFFFFF 0x20000, .meas (measOf 1 0 0 0)],
      (due k).entryDue 15 = some { kind := k, steep := 0, issued := 0 }) ∧
    up.entryDue 15 = none ∧
    (let s : State := { up.setCl 15 { up.cl 15 with settling := [measOf 1 0 1 0] } with now := 1 }
     (s.cl 15).settling = measOf 1 0 1 0 :: [] ∧ (measOf 1 0 1 0).ch = 31 ∧ (measOf 1 0 1 0).due ≠ 0 ∧
      (measOf 1 0 1 0).due ≤ s.now ∧ s.adcList 15 (31 / 8) = []) ∧
    (let s (m : Meas) (now : Nat) : State := { up.setAdc 15 3 [m] with now := now }
     ((s (measOf 4096 0 0 0) 399).adcList 15 3 = measOf 4096 0 0 0 :: [] ∧ (measOf 4096 0 0 0).qid = none) ∧
     399 < (measOf 4096 0 0 0).started + 400 ∧
     ((measOf 4096 4094 0 0).started + 400 ≤ (s (measOf 4096 4094 0 0) 400).now ∧
      (measOf 4096 4094 0 0).count + 1 < (measOf 4096 4094 0 0).n) ∧
     ((measOf 4096 4095 0 0).started + 400 ≤ (s (measOf 4096 4095 0 0) 400).now ∧
      (measOf 4096 4095 0 0).n ≤ (measOf 4096 4095 0 0).count + 1)) := by decide +kernel

theorem witness_CaptureCommands :
    (∀ i ∈ [Instr.capTrig 15 0 none, .capClose 0 0x80000000000000 none, .capDisarm 15 0xC0000000000000 none,
        .capArm 0 0x4008000000FFFF none, .capArm 15 0x4007000000FFFF none], (ready i up).runs i = true) ∧
    (8 ≤ ifld 0x4008000000FFFF 40 8) ∧ (ifld 0x4007000000FFFF 40 8 < 8 ∧ up.rb (Off.caplCfg 15 7) 31 = false) ∧
    (let s := ready (.capArm 15 0x4007000000FFFF none) (up.setRg (Off.caplCfg 15 7) 0x80000000)
     s.runs (.capArm 15 0x4007000000FFFF none) = true ∧ s.rb (Off.caplCfg 15 7) 31 = true) ∧
    (∀ k ∈ [EKind.capTrig, .capClose, .capDisarm, .capArm 7 0xFFFF], (due k).entryDue 15 =
      some { kind := k, steep := 0, issued := 0 }) ∧ up.entryDue 0 = none := by decide +kernel

theorem witness_CaptureCommands_disarm :
    let s := (due .capDisarm).setCap 15 { (due .capDisarm).cap 15 with act := some 7 }
    s.entryDue 15 = some { kind := .capDisarm, steep := 0, issued := 0 } ∧
      (((s.popEntry 15).closeSegment 15 1 true false).cap 15).act = some 7 := by decide +kernel

/-- `s` with list 7 of cluster 15 active in state `st`. -/
def listed (st : Nat) (s : State) : State :=
  (s.setCap 15 { s.cap 15 with act := some 7 }).setRf (Off.caplStat 15 7) 30 2 st

theorem witness_CaptureGovernor :
    (up.accepts .pf0 .pf0 (Off.caplCfg 0 0 + 4 * 0) = true ∧ up.accepts .sp .pf0 (Off.caplCfg 15 7 + 4 * 11) = true ∧
      up.accepts .pf0 .pf0 (Off.capGov 15) = true) ∧
    (((listed 3 up).cap 15).act = some 7 ∧ (listed 3 up).capState 15 7 = 3 ∧ (listed 2 up).capState 15 7 ≠ 3) ∧
    (let s (now : Nat) : State :=
       { up.setCap 15 { up.cap 15 with pressAt := some 0, fill := 131072 } with now := now }
     ((s 800).cap 15).pressAt = some 0 ∧ (s 800).pressed 15 = true ∧ 0 + 800 ≤ (s 800).now ∧ (s 799).now < 0 + 800) ∧
    (up.cap 15).pressAt = none ∧
    (let s := (listed 2 up).setRg (Off.caplCfg 15 7) 0x81000000
     (s.cap 15).act = some 7 ∧ s.capD 15 < fld (s.rg (Off.caplCfg 15 7)) 24 4) ∧
    (let s := (listed 2 up).setRg (Off.caplCfg 15 7) 0xD0000000
     s.capD 15 = fld (s.rg (Off.caplCfg 15 7)) 24 4 ∧ fld (s.rg (Off.caplCfg 15 7)) 28 2 = 1 ∧
      flag (s.rg (Off.caplCfg 15 7)) 30 = true ∧ s.capFolded 15 = false) ∧
    (up.cap 15).act = none ∧
    ((listed 2 up).capState 15 7 ≠ 1 ∧ (listed 2 up).rf (Off.caplCnt 15 7) 16 16 + 8 < 2 ^ 16 ∧
      (listed 1 up).capState 15 7 = 1) := by decide +kernel

/-! ### Events, the card port, memory -/

/-- A record of site 127 for queue 0xFFFFF. -/
def recOf (steep : BitVec 64) (n : Nat) : Rec :=
  { tsStart := 0, tsEnd := 0, dead := 0, site := 127, segnum := 0, src := 0x10, decexp := 0, qid := 0xFFFFF, flags := 0, sthr := 0,
    body := List.replicate n 0, steep := steep, closing := false, made := 0 }

theorem witness_EventInstructions :
    (∀ i ∈ [Instr.evs 0 0x08000000000007 none, .evs 16 0x08000000000000 none, .evs 15 0x00000000000007 none,
        .evw 0 0x06008000000000 none, .evw 16 0xF8008000000000 none, .qpush 0 0x00F07F0000FFFF none,
        .qpush 16 0xF007F0000FFFF none], (ready i up).runs i = true) ∧
    ((0x08000000000007 : BitVec 56).getLsbD 51 = true ∧ (0x00000000000007 : BitVec 56).getLsbD 51 = false) ∧
    ((∀ k < 8, (0x80 : BitVec 8).getLsbD k = ((BitVec.ofNat 8 (ifld 0x06008000000000 32 8)).getLsbD k && !up.rb (Off.evSel 0 k) 31)) ∧
      (0x80 : BitVec 8) ≠ 0) ∧
    (let s := slotOn 0 7 up
     ∀ k < 8, (0 : BitVec 8).getLsbD k = ((BitVec.ofNat 8 (ifld 0x06008000000000 32 8)).getLsbD k && !s.rb (Off.evSel 0 k) 31)) ∧
    (up.siteIn 127 0 = false ∧ (wired 511 127 up).siteIn 127 15 = true) ∧
    (let s (l : Word) (now : Nat) : State := { (waits 16 (.evw 0x81 true true 2 5) up).setRg (Off.evLatch 16) l with now := now }
     ((s 1 7).sq 16).wait = .evw 0x81 true true 2 5 ∧
     ((0x81 : BitVec 8) &&& ((s 1 7).rg (Off.evLatch 16)).setWidth 8 ≠ 0x81 ∧ 5 ≠ 0 ∧ 2 + 5 ≤ (s 1 7).now) ∧
     ((s 1 6).now < 2 + 5) ∧
     ((0x81 : BitVec 8) &&& ((s 0x81 6).rg (Off.evLatch 16)).setWidth 8 = 0x81 ∧ ((s 0x81 6).sq 16).mode = .running ∧
      ((s 0x81 6).sq 16).readyAt ≤ (s 0x81 6).now)) ∧
    (due (.evs 0x87F)).entryDue 15 = some { kind := .evs 0x87F, steep := 0, issued := 0 } := by decide +kernel

/-- A transfer of `n` bytes from device `dev`, by the descriptor of row 0, into row 4. -/
def xferOf (dev n : Nat) : Xfer :=
  { row := 0, dev := dev, write := false, poll := false, tmo := false, ended := false, len := n, buf := 4, w0 := 0 }

/-- `s` with a valid header of the card flash: code from line 0 on, 32 instructions long. -/
def carded (s : State) : State := { s with cp := { s.cp with
  hdr := some { entry := 0, cstart := 0, cend := 32, crcbase := 0, calA := 0, calB := 0, patch := 0 } } }

/-- `s` with three rows written, `w0` in the first. -/
def rows (w0 : Row) (s : State) : State :=
  after (.bar2Write 2 0 0xFF .ok) (after (.bar2Write 1 0 0xFF .ok) (after (.bar2Write 0 w0 0xFF .ok) s))

theorem witness_CardPort :
    (∀ i ∈ [Instr.rdr 0xF00000FFFFFFFF none, .wrr 0 none, .waitc 0xF8000000000000 none, .waitc 0x000000FFFFFFFF none,
        .cpx 0 none []], (ready i up).runs i = true) ∧
    (Space.mapped .pf0 0xFFFFFFFC = false ∧ Space.mapped .pf0 0 = true) ∧
    ((waits 16 (.waitc 5) up).sq 16).wait = .waitc 5 ∧
    (let s := waits 16 (.regWrite 0 7) up
     (s.sq 16).wait = .regWrite 0 7 ∧ (s.sq 16).readyAt ≤ s.now ∧ s.readWaits .seqh .regAccessDone = false) ∧
    (let s : State := { waits 16 (.regRead 15 Off.mapStat) up with
       pending := [.readClear .pf0 .pf0 (BitVec.ofNat 26 Off.mapStat) .dword] }
     s.readWaits .seqh .regAccessDone = true) ∧
    (let s := waits 16 (.regRead 15 0) up
     (s.sq 16).wait = .regRead 15 0 ∧ (s.sq 16).readyAt ≤ s.now ∧ s.readWaits .seqh .regAccessDone = false ∧
      (s.readReg .seqh .pf0 0).2 ≠ .none ∧ (s.readReg .seqh .pf0 0).2 ≠ .abort ∧
      (s.readReg .seqh .pf0 0).2 ≠ .unsupported) ∧
    (ready (.cpx 0 none []) hurt).safe = true ∧
    (let s := ready (.cpx 0 none []) { up with cp := { up.cp with xfer := some (xferOf 1 1) } }
     s.safe = false ∧ s.cp.xfer.isSome = true) ∧
    (let s := ready (.cpx 0 none []) up
     s.safe = false ∧ s.cp.xfer = none ∧ (s.cpRows 0 [] 3).2 = some 0) ∧
    (let s := ready (.cpx 0 none []) (rows 0xF0000000 up)
     s.cp.xfer = none ∧ (s.cpRows 0 [] 3).2 = none ∧ descErr 0xF0000000 0 false = 1) ∧
    (let s := ready (.cpx 0 none []) (rows 0 up)
     (s.cpRows 0 [] 3).2 = none ∧ descErr 0 0 false = 0 ∧ flag 0 27 = false ∧ flag 0 26 = false) := by decide +kernel

theorem witness_CardPort_port :
    (let s : State := waits 16 (.cpx 0) { rows 0 up with cp := { up.cp with xfer := some (xferOf 14 4) } }
     let t := (s.cpStore 4 (padRows (([1, 2] ++ List.replicate (4 - 2) 0).take 4))).writeW4 0 0 4
     s.cp.xfer = some (xferOf 14 4) ∧ s.safe = false ∧ s.xferWaits (xferOf 14 4) = false ∧ s.vmWait = false ∧ (s.slotsFor ((List.range 1).map fun i => (4 + i) % rowCount)) = true ∧
      s.flashBusy = false ∧ (s.sq 16).wait = .cpx (xferOf 14 4).row ∧ t.safe = false ∧
      (t.sq 16).wait = .cpx 0) ∧
    (let s := run 16 (carded up)
     s.cpFree = true ∧ s.fillWaits = true) ∧
    (let s : State := { carded up with cp := { (carded up).cp with want := some 0 } }
     s.cp.want = some 0 ∧ s.savePort = true ∧ s.cal.save = none ∧ s.lineWanted 0 = true ∧ 0 ∉ s.cp.retry) ∧
    (3 ∈ ({ up with cp := { up.cp with retry := [3] } } : State).cp.retry ∧ 3 ∉ up.cp.retry) := by
  decide +kernel

theorem witness_CardPort_crc : lineCrc [] ≠ lineCrc [] + 1 ∧ lineCrc [] = lineCrc [] := by
  refine ⟨fun h => ?_, rfl⟩
  have := congrArg (· - lineCrc []) h
  simp at this

/-- `s` with a program or erase of device `dev`, for `what`, whose limit is CCLK 4,000,000, at CCLK `now`. -/
def polled (dev : Nat) (what : PollFor) (now : Nat) (s : State) : State :=
  { s with cp := { s.cp with polls := [{ dev := dev, what := what, limit := some 4000000, next := 0 }] }, now := now }

theorem witness_CardPort_polls :
    (polled 0 .past 0 up).xferWaits (xferOf 0 4) = true ∧ up.pollDue = none ∧
    (∀ what : PollFor, what = .cpx ∨ what = .save ∨ what = .past) ∧
    (∀ what ∈ [PollFor.cpx, .save, .past], ∀ now ∈ [3999999, 4000000],
      (polled 15 what now up).pollDue = some { dev := 15, what := what, limit := some 4000000, next := 0 }) ∧
    (let s : State := polled 0 .save 4000000 { up with cal := { up.cal with
       save := some { toB := true, seq := 7, left := 1, busy := true } } }
     ((s.setRb Off.cpStat 28 true).pollEnd { dev := 0, what := .save, limit := some 4000000, next := 0 }).cal.save.isSome =
      true) := by
  refine ⟨by decide +kernel, by decide +kernel, fun what => by cases what <;> simp, by decide +kernel, by decide +kernel⟩

/-- The part in whose vector memory every implicit-fill slot is in use. -/
def full : State := { up with mem := { up.mem with slots := (List.range 16).map fun k => { region := k, lines := [] } } }

theorem witness_LoadsAndStores_slots :
    (∀ w : Bool, (let s : State := { full with seq := (waits 0 (.access true 0 0xFFBFFFFF false w) up).seq }
      (s.sq 0).wait = .access true 0 0xFFBFFFFF false w ∧ s.writeEnd 0xFFBFFFFF 0x0F .ok = .waits)) ∧
    ({ up with mem := { up.mem with init := [0], bad := [7] } } : State).writeEnd 7 0x0F .ok = .rejected := by decide +kernel

theorem witness_PotsAndBar2 :
    (up.accepts .pf0 .pf0 (Off.potCfg 63) = true ∧ up.accepts .seqh .pf0 (Off.potWr 63) = true ∧
      flag ((potted up).rg (Off.potCfg 63)) 31 = true ∧ flag (up.rg (Off.potCfg 63)) 31 = false) ∧
    (flag 0x801B0000 31 = true ∧ ¬ (10 ≤ fld 0x801B0000 16 5 ∧ fld 0x801B0000 16 5 ≤ 26)) ∧
    (let s := up.setRg (Off.potBase 63) 0xFBC00000
     flag 0x801A0000 31 = true ∧ (s.rg (Off.potBase 63)).toNat + 2 ^ fld 0x801A0000 16 5 ≤ 0xFFC00000) ∧
    (let u := (potted up).took .pf0 .pf0 (Off.potWr 63)
     u.held.any isBar2Write = false ∧ (u.behind.any isBar2Write || u.waiting.any (u.advances 63)) = false ∧
     ({ u with held := [.bar2Write 0 0 1 .ok] } : State).held.any isBar2Write = true ∧
     ({ u with behind := [.bar2Write 0 0 1 .ok] } : State).behind.any isBar2Write = true) ∧
    (((potted up).sq 15).mode = .halted ∧ flag 0 31 = false ∧ flag ((potted up).rg (Off.potCfg 63)) 30 = false ∧
      fld ((potted up).rg (Off.potCfg 63)) 24 4 = 15 ∧ ((run 15 (potted up)).sq 15).mode ≠ .halted) ∧
    (let s : State := { up with held := [.bar2Read 0 .ok] }
     (s.partyHeld .pf0 || s.vmWait) = true ∧ (recal.partyHeld .pf0 || recal.vmWait) = true) ∧
    (({ up with behind := [.bar2Read 0 .ok] } : State).partyBehind .pf0 = true ∧ up.partyBehind .pf0 = false) ∧
    ((early.partyHeld .pf0 || early.vmWait) = false ∧ early.partyBehind .pf0 = false ∧ early.rst.ready = false) ∧
    ((up.partyHeld .pf0 || up.vmWait) = false ∧ up.rst.ready = true ∧ 0xFFC00000 ≤ (0xFFC00000 : BitVec 32).toNat ∧
      (0xFFBFFFFF : BitVec 32).toNat < 0xFFC00000) ∧
    (full.slotFree 0xFFBFFFFF = false ∧ (full.partyHeld .pf0 || full.vmWait) = false ∧ full.rst.ready = true) ∧
    (up.slotFree 0xFFBFFFFF = true ∧ up.writeEnd 0xFFBFFFFF 0x80 .ok = .stored) ∧
    (let s : State := { up with mem := { up.mem with init := [0] } }
     s.slotFree 0 = true ∧ (0x80 : BitVec 8) ≠ 0xFF ∧ s.lineLive 0 = true ∧ (s.partyHeld .pf0 || s.vmWait) = false ∧
      s.rst.ready = true ∧ 0 ∉ s.mem.bad) := by
  decide +kernel

theorem witness_FillsAndIntegrity :
    let busy : State := { up with mem := { up.mem with fill := some (5, 6), cur := some (5, true) } }
    (up.accepts .pf0 .pf0 Off.vmFillCtl = true ∧ flag 0 0 = false ∧ flag 1 0 = true) ∧
    (busy.accepts .pf0 .pf0 Off.vmFillCtl = true ∧ busy.mem.fill.isSome = true) ∧
    (0x7FE0 ≤ (up.setRg Off.vmFillBase 0x7FE0).rf Off.vmFillBase 0 15 + (up.setRg Off.vmFillBase 0x7FE0).rf Off.vmFillLen 0 15) ∧
    (let s := up.setRg Off.vmFillBase 0x7FDF
     s.mem.fill = none ∧ s.rf Off.vmFillBase 0 15 + s.rf Off.vmFillLen 0 15 < 0x7FE0) ∧
    (up.mem.cur = none ∧ up.mem.slots = [] ∧ up.mem.fill = none ∧ up.vmWait = false ∧ recal.vmWait = true ∧
      full.mem.slots ≠ [] ∧ full.mem.cur = none) ∧
    (let s : State := { up with mem := { up.mem with fill := some (5, 6) } }
     s.mem.cur = none ∧ s.mem.slots = [] ∧ s.mem.fill = some (5, 6)) ∧
    ({ up with mem := { up.mem with cur := some (7, false) } } : State).mem.cur = some (7, false) ∧
    (busy.mem.cur = some (5, true) ∧ busy.mem.fill = some (5, 6) ∧ 5 < 6) ∧
    (let s : State := { up with mem := { up.mem with fill := some (6, 6), cur := some (6, true) } }
     s.mem.cur = some (6, true) ∧ s.mem.fill = some (6, 6)) ∧
    (up.strainNext 0 (Tbl.get (0, none) up.strain 0).1 = some (0, false) ∧
      (let v : State := { up with strain := Tbl.set (0, none) up.strain 0 (1, some up.now) }
       v.strainBad 0 0 = false ∧ 0 ∉ v.strainLost 0)) ∧
    (let due := Tbl.get 0 up.leakAt 100 + max 1 (fld (up.ap (Off.miCfg 100)) 0 16) * 800000
     up.now < due ∧ due ≤ ({ up with now := due } : State).now) := by decide +kernel

/-! ### Pins, events, time intervals, waves -/

/-- `s` with comparator `k` of channel 511 enabled, both edges selected, at the level of code `lv`. -/
def compared (k lv : Nat) (s : State) : State :=
  (s.setAp (chOff Off.chCmpcfg 511) (BitVec.ofNat 32 (0x8C * 2 ^ (8 * k)))).setRf (chOff Off.chCmpstat 511) (2 * k) 2 lv

/-- `s` with channel 511 parked, and watched as a wake channel that last found comparator 1 at `v`. -/
def watching (v : Cmp) (s : State) : State :=
  ((((wired 511 127 s).setRb (Off.siteCtl 127) 31 true).setRb (Off.clPark 15) 0 true).setAp (Off.chMoncfg 15 31)
    0x40000000).setWatch 511 1 v

/-- `e` is an edge that the configuration of comparator `k` of channel 511 selects. -/
abbrev edgeOf (s : State) (k : Nat) (e : Cmp) : Prop :=
  (e = .high ∧ nbit (s.cmpCfg 511 k / 4 % 4) 0 = true) ∨ (e = .low ∧ nbit (s.cmpCfg 511 k / 4 % 4) 1 = true)

theorem witness_PinReports :
    (let s := (watching .low (compared 1 3 up)).setSide 511 1 .high
     s.parkedCh 511 = true ∧ s.wakes 511 = true ∧ s.watchOf 511 1 ≠ .unk ∧ s.watchOf 511 1 ≠ .high ∧
      (s.setWatch 511 1 .high).cmpEn 511 1 = true ∧ edgeOf s 1 .high) ∧
    (((watching .unk (compared 1 3 up)).setSide 511 1 .high).watchOf 511 1 = .unk) ∧
    (let s := (compared 1 0 up).setSide 511 1 .high
     s.parkedCh 511 = true ∧ s.wakes 511 = false) ∧
    (let s := (awake 511 (compared 3 3 up)).setSide 511 3 .high
     s.parkedCh 511 = false ∧ s.cmp 511 3 = .off) ∧
    (let s := (awake 511 (compared 3 0 up)).setSide 511 3 .high
     s.cmpEn 511 3 = true ∧ s.parkedCh 511 = false ∧ s.cmp 511 3 = .low ∧ s.cmp 511 3 ≠ .high ∧ s.cmp 511 3 ≠ .off ∧
      edgeOf s 3 .high) ∧
    (let s := up.setCh 511 { up.ch 511 with unkAt := (none, some 0) }
     (if (1 : Fin 2) = 0 then (s.ch 511).unkAt.1 else (s.ch 511).unkAt.2) = some 0) ∧
    (up.parkedCh 0 = true ∧ (awake 511 up).parkedCh 511 = false) ∧
    (flag (up.setNow (Off.chStat 0 0)) 31 = false ∧
      (let s := ((awake 511 up).setRg (Off.chsite 511) 0x8000007F).parkChan 511
       s.parkedCh 511 = true ∧ flag (s.setNow (Off.chStat 15 31)) 31 = true)) ∧
    (up.partyHeld .sp = false ∧ up.rst.ready = true) ∧ up.accepts .pf0 .pf0 (Off.tsEdata 15) = true := by decide +kernel

/-- A pulse on its way into event channel 1023, in CCLK 0, that has passed `hc` channels of configuration `cfg`. -/
def pulseOf (hc : Nat) (cfg : Word) : Pulse := { ch := 1023, prod := 0, at_ := 0, hc := hc, cfg := cfg }

/-- The part in CCLK 1 with that pulse. -/
def pulsed (hc : Nat) (cfg : Word) : State := { up with pulses := [pulseOf hc cfg], now := 1 }

theorem witness_EventChannelWrites :
    (up.accepts .sp .pf0 (Off.ecCfg 0) = true ∧ up.accepts .seqh .pf0 (Off.ecCfg 1023 + 4 * 4) = true ∧
      up.accepts .pf0 .pf0 (Off.ecCfg 0) = true) ∧
    (let u := up.took .pf0 .pf0 (Off.ecCfg 0)
     flag (u.regBack.rg (Off.ecCfg 0)) 30 = false ∧ fld (u.regBack.rg (Off.ecCfg 0)) 20 3 = 0 ∧ fld 0x80000000 29 2 = 0 ∧
      flag 0x80000000 28 = false ∧ fld 0xC0000000 29 2 ≠ 0) ∧
    ((flag 0x10400000 28 = true ∧ fld 0x10400000 20 3 = 4) ∧ (flag 0x10000000 28 = true ∧ fld 0x10000000 20 3 ≠ 4)) ∧
    (let s := (up.setRg (Off.ecCfg 1023) 0x80000000).setRg (Off.ecProd 1023 3) 0x8B8F0000
     (1023, 7) ∈ s.regBack.producers 0xB8F ∧ s.regBack.rb (Off.ecCfg 1023) 31 = true) := by
  decide +kernel

theorem witness_EventPulsesAndPinActions :
    up.accepts .pf0 .pf0 Off.evSw = true ∧
    (∀ p ∈ [(0, 0), (8, 0x80000000), (7, 0x80000000)], ((pulsed p.1 (BitVec.ofNat 32 p.2)).pulses.filter fun y =>
      decide (y.ch = 1023) && decide (y.at_ < (pulsed p.1 (BitVec.ofNat 32 p.2)).now)) = [pulseOf p.1 (BitVec.ofNat 32 p.2)]) ∧
    ((∀ y ∈ [pulseOf 7 0x80000000], 0 ≤ y.at_) ∧ ∃ y ∈ [pulseOf 7 0x80000000], y.at_ = 0) ∧
    (let live (hc : Nat) (cfg : Word) := [pulseOf hc cfg].filter fun y => decide (y.at_ = 0) && flag y.cfg 31
     (live 0 0).filter (fun y => decide (y.hc < 8)) = [] ∧ (live 8 0x80000000).filter (fun y => decide (y.hc < 8)) = [] ∧
     (live 7 0x80000000).filter (fun y => decide (y.hc < 8)) = pulseOf 7 0x80000000 :: []) ∧
    ((pulsed 0 0).pulses.filter fun y => decide (y.ch = 5) && decide (y.at_ < (pulsed 0 0).now)) = [] ∧
    (let h : Hold := { slot := 63, start := 0, stop := 3, on := true }
     let s : State := { up with holds := [h] }
     (s.holds.find? (fun h => h.slot = 63 ∧ h.on ∧ h.stop < 4 * s.now + 4) = some h) ∧
     ∀ h ∈ s.holds, h.slot = 0 → h.on = true → 4 * s.now + 4 ≤ h.stop) := by decide +kernel

/-- An edge in bin `b` of TCLK cycle `n`, of a path without a delay. -/
def edgeIn (n : Nat) (b : BitVec 8) : TiuTime := { tclk := n, bin := b, delay := 0, slow := false }

/-- `s` with TIU 7 in state `st`, its shot armed, and started where `b` says so, after `n` prescaled stop edges. -/
def timing (st : Nat) (b : Bool) (n : Nat) (s : State) : State :=
  (s.setRf (Off.tiuStat 7) 30 2 st).setTu 7 { s.tu 7 with armed := true, started := b, start := edgeIn 100 0, preA := n, preB := n }

/-- `s` with TIU 7 timing edges of TIU_IN0 and TIU_IN1: from a LOW to a HIGH, and back. -/
def paths (s : State) : State := (s.setRg (Off.tiuStart 7) 0x2400).setRg (Off.tiuStop 7) 0x3800

theorem witness_TimeIntervals :
    let runs (s : State) := s.tiuState 7 = 1 ∧ (s.tu 7).armed = true
    let presc (s : State) := prescOf (s.rf (Off.tiuCfg 7) 24 3)
    (up.accepts .pf0 .pf0 (Off.tiuCmd 7) = true ∧ up.accepts .sp .pf0 (Off.tiuCfg 7) = true ∧
      up.accepts .seqh .pf0 (Off.tiuRoute 7) = true ∧ up.accepts .sp .pf0 (Off.tiuCalctl 7) = true) ∧
    (let s := paths up
     s.tiuQual 7 false true = true ∧ s.tiuQual 7 false false = false ∧ s.tiuQual 7 true false = true ∧
      s.tiuQual 7 true true = false) ∧
    (up.tiuState 7 ≠ 1 ∧ runs (timing 1 false 0 up)) ∧
    (let s := (timing 1 false 0 up).setRf (Off.tiuCfg 7) 24 3 1
     runs s ∧ (s.tu 7).preA + 1 < presc s) ∧
    (∀ b : Bool, let s := timing 1 b 0 up
     runs s ∧ presc s ≤ (s.tu 7).preA + 1 ∧ (s.tu 7).started = b) ∧
    (let s (l : List TiuTime) (same signed : Bool) : State :=
       let s := paths ((timing 1 false 0 up).setRb (Off.tiuCfg 7) 30 signed)
       let s := if same then s.setRg (Off.tiuStop 7) 0x2000 else s
       s.setTu 7 { s.tu 7 with latest := l }
     (∀ l ∈ [[], [edgeIn 100 0], [edgeIn 90 1]], runs (s l false true) ∧ (s l false true).rb (Off.tiuCfg 7) 30 = true) ∧
     (s [] false true).tiuLatest 7 (edgeIn 100 0) = none ∧
     (s [edgeIn 100 0] false true).tiuLatest 7 (edgeIn 100 0) = some (edgeIn 100 0) ∧
     (s [edgeIn 100 0] true true).tiuLatest 7 (edgeIn 100 0) = none ∧
     (s [edgeIn 90 1] false false).tiuLatest 7 (edgeIn 100 0) = some (edgeIn 90 1) ∧
     (s [] false false).rb (Off.tiuCfg 7) 30 = false) ∧
    (let s := paths (timing 1 true 0 up)
     runs s ∧ (s.tu 7).started = true ∧ s.tiuSame 7 = false ∧ presc s ≤ (s.tu 7).preB + 1 ∧
      (s.tu 7).start.tclk + 2 ^ 40 ≤ 100 + 2 ^ 40 ∧ 101 < (s.tu 7).start.tclk + 2 ^ 40 ∧
      s.rf (Off.tiuCfg 7) 0 16 < (s.tu 7).stops + 1 ∧ (s.tu 7).start.spot = (edgeIn 100 0).spot ∧
      (edgeIn 99 0).before (s.tu 7).start = true ∧ (edgeIn 100 1).before (s.tu 7).start = false) ∧
    (let s := (timing 1 true 0 up).setRf (Off.tiuCfg 7) 0 16 1
     (s.tu 7).stops + 1 ≤ s.rf (Off.tiuCfg 7) 0 16) ∧
    (let s := (timing 1 true 0 up).setRf (Off.tiuCfg 7) 24 3 1
     (s.tu 7).preB + 1 < presc s) ∧
    (let s := (timing 1 true 0 up).setRf (Off.tiuCount 7) 0 25 1
     s.rf (Off.tiuN 7) 0 24 ≤ s.rf (Off.tiuCount 7) 0 25) ∧
    (let s := up.setRf (Off.tiuStat 7) 30 2 3
     s.tiuState 7 = 3) := by decide +kernel

/-- Hits of a code-density test: 250 bins of 4,194 and one of 76. -/
def evenHits : List Nat := List.replicate 250 4194 ++ 76 :: List.replicate 5 0

theorem witness_TimeIntervals_bins :
    let ws (hits : List Nat) := (List.range 256).map fun b => min 65535 ((hits.getD b 0 * 312500 + 2 ^ 19) / 2 ^ 20)
    160 ≤ ((ws evenHits).filter (0 < ·)).length ∧ (ws evenHits).foldl max 0 ≤ 4000 ∧ ((ws []).filter (0 < ·)).length < 160 := by
  decide +kernel

theorem witness_TimeIntervals_sign :
    let s := paths (timing 1 true 0 up)
    let x (n : Nat) := s.edgeFs 7 true (edgeIn n 0) - s.edgeFs 7 false (s.tu 7).start
    let gap := s.edgeFs 7 false (edgeIn 100 0) - s.edgeFs 7 true (edgeIn 90 1)
    0 < x 101 ∧ x 99 ≤ 0 ∧ ((s.rf (Off.tiuWin 7) 0 16 : Nat) : Int) * 312500 < gap ∧
      gap ≤ (((s.setRg (Off.tiuWin 7) 11).rf (Off.tiuWin 7) 0 16 : Nat) : Int) * 312500 ∧
      s.edgeFs 7 true (edgeIn 103 0) - s.edgeFs 7 true (edgeIn 100 0) ≤ 937500 := by decide +kernel

/-- `s` with waveform engine 15 in state `st`. -/
def playing (st : Nat) (s : State) : State := s.setRf (Off.weStat 15) 30 2 st

theorem witness_WaveAndSync :
    (up.accepts .pf0 .pf0 (Off.weCtl 15) = true ∧ up.accepts .seqh .pf0 (Off.weStep 15) = true ∧
      up.accepts .sp .pf0 Off.syncCmd = true) ∧
    (let s := (playing 1 up).setWv 15 { up.wv 15 with start := some 5 }
     (s.wv 15).start = some 5 ∧ s.weState 15 = 1) ∧
    ((up.wv 15).start = none ∧ up.weState 15 < 2) ∧
    (let s := (playing 2 up).setWv 15 { up.wv 15 with stop := true }
     2 ≤ s.weState 15 ∧ (s.wv 15).nextAt ≤ s.now ∧ (s.wv 15).stop = true) ∧
    ((playing 3 up).weState 15 = 3 ∧ ((playing 3 up).wv 15).nextAt ≤ up.now ∧ ((playing 3 up).wv 15).stop = false) ∧
    (let s := (playing 2 up).setWv 15 { up.wv 15 with hist := [0x1FFFF] }
     s.weState 15 = 2 ∧ (s.wv 15).nextAt ≤ s.now ∧ (s.wv 15).stop = false ∧ (s.wv 15).phase < 0x1000000 ∧
      s.rb (Off.weCfg 15) 31 = false ∧ (s.wv 15).hist.head? = some 0x1FFFF) ∧
    (let s := (playing 3 up).setWv 15 { up.wv 15 with idx := 0 }
     let p := (s.setRg (Off.weSegb 15 0) 0x80000000).setRg (Off.potCfg 0) 0x80000000
     s.weState 15 = 3 ∧ s.wePlace 15 = some ⟨0, 0, 0⟩ ∧ s.rb (Off.weSegb 15 0) 31 = false ∧
      p.wePlace 15 = some ⟨0, 0, 0⟩ ∧ p.rb (Off.weSegb 15 0) 31 = true ∧
      (Tbl.find (p.wv 15).potRow (p.rf (Off.weSega 15 0) 0 6)).isSome = false ∧ p.potLevel (p.rf (Off.weSega 15 0) 0 6) = 0) ∧
    (let s := up.setRb Off.syncStat 30 true
     let t : State := { s with sync := { s.sync with lastAt := some 64 } }
     let near (s : State) (e a : Nat) := ∃ t, s.sync.lastAt = some t ∧ (e < t + 64 ∨ (e = t + 64 ∧ a = 0))
     up.rb Off.syncStat 30 = false ∧ (t.sync.lastAt = some 64 ∧ 4 * t.now + 3 < 64 + 64) ∧ ¬ near s 0 0 ∧
      s.rb Off.syncStat 30 = true ∧ s.rb Off.syncCfg 30 = false ∧ t.syncQuiet = true ∧ (run 0 t).syncQuiet = false ∧
      (s.setRb Off.syncCfg 30 true).rb Off.syncCfg 30 = true) := by
  refine ⟨by decide +kernel, by decide +kernel, by decide +kernel, by decide +kernel, by decide +kernel, by decide +kernel,
    by decide +kernel, by decide +kernel, by decide +kernel, ?_, by decide +kernel, by decide +kernel, by decide +kernel,
    by decide +kernel, by decide +kernel⟩
  rintro ⟨t, h, _⟩
  exact nomatch (show (none : Option Nat) = some t from h)

/-! ### Rails, sites, the warden, temperatures -/

/-- `s` with rail 63 in state `st`. -/
def railed (st : Nat) (s : State) : State := s.setRf (Off.railStat 63) 29 3 st

/-- `s` with the warden ready to grant the permits of rail 63 and zone 3. -/
def granting (s : State) : State :=
  let s : State := { s with ward := { s.ward with granting := true, alive := 15, safeAct := false } }
  let s := (s.setSg (Off.wlRvmax 63) 0x1FFFF).setSg (Off.wlRimax 63) 0x1FFFF
  let s := (s.setSg (Off.wlZone 3) 100).setSg Off.wdStat 0xFD000000
  let s := wired 511 127 s
  let s := (s.setRg (Off.railsite 63) 0x8000007F).setRb (Off.siteCtl 127) 31 true
  let s := (s.setRl 63 { s.rl 63 with breq := true }).setKz 3 { s.kz 3 with ena := true }
  { s with ward := { s.ward with
      railCopy := [(63, 0x8000007F)], chCopy := [(511, 0x8000007F)]
      lim2 := [(Off.wlRvmax 63, 0x1FFFF), (Off.wlRimax 63, 0x1FFFF), (Off.wlZone 3, 100)] } }

/-- `s` at CCLK `n`. -/
def atCclk (n : Nat) (s : State) : State := { s with now := n }

theorem witness_Rails :
    (up.accepts .pf0 .pf0 (Off.railVset 63) = true ∧ up.accepts .sp .pf0 (Off.railVmax 63) = true ∧
      up.accepts .seqh .pf0 (Off.railCfg 63) = true) ∧
    ((railed 1 (granting up)).railState 63 = 1 ∧ (railed 1 (granting up)).railGrant 63 = true) ∧
    (up.railState 63 ≠ 1 ∧ (railed 1 up).railGrant 63 = false) ∧
    (let s := railed 2 (up.setRl 63 { up.rl 63 with tolAt := some 0 })
     (s.rl 63).tolAt = some 0 ∧ s.railState 63 = 2 ∧
      max 0 (s.railReach 63) + s.rf (Off.railTime 63) 16 16 ≤ (atCclk 100000 s).now) ∧
    ((up.rl 63).tolAt = none ∧ (up.rl 63).ilimAt = none) ∧
    (((up.setRl 63 { up.rl 63 with ilimAt := some 0 }).rl 63).ilimAt = some 0) ∧
    (let s := atCclk 8000 (railed 5 (up.setRl 63 { up.rl 63 with lowAt := some 0 }))
     (s.rl 63).lowAt = some 0 ∧ s.railState 63 = 5 ∧ 0 + 8000 ≤ s.now) ∧
    (let s := (up.setRl 63 { up.rl 63 with aLowAt := some 0, bLowAt := some 0 }).setKz 3 { up.kz 3 with
       aLowAt := some 0, bLowAt := some 0 }
     (∀ e ∈ [Enable.railA 63, .railB 63, .kenA 3, .kenB 3], s.lowSince e = some 0) ∧ (atCclk 1599 s).now < 0 + 1600 ∧
      0 + 1600 ≤ (atCclk 1600 s).now) := by decide +kernel

/-- `s` with site 127 enabled, rail 63 its only rail, settled touchdown and contact, and the power budget at its widest. -/
def sited (s : State) : State :=
  (((s.setRb (Off.siteCtl 127) 31 true).setRg (Off.railsite 63) 0x8000007F).setRg Off.tdStat 0xC0000000).setRg Off.admCtl 0x1FFF

/-- `s` with everything that rail 63 needs before it may go on. -/
def railOk (s : State) : State :=
  (((s.setRg (Off.railVset 63) 0x1000).setRf (Off.railCfg 63) 0 14 100).setRg (Off.railVmax 63) 0x2000).setRg (Off.railIlim 63) 0x100

theorem witness_SitePowerAndTouchdown :
    let bad (s : State) := s.siteRails 127 = [] ∨ ∃ r ∈ s.siteRails 127, s.railReady r = false
    (up.accepts .pf0 .pf0 (Off.sitePwr 0) = true ∧ up.accepts .sp .pf0 (Off.sitePwr 127) = true ∧
      (sited up).accepts .pf0 .pf0 (Off.sitePwr 127) = true) ∧
    (flag 0x80000000 31 = true ∧ flag 0 31 = false ∧ (up.setRb (Off.sitePwr 127) 31 true).rb (Off.sitePwr 127) 31 = true ∧
      up.rb (Off.sitePwr 127) 31 = false) ∧
    up.enabled 127 = false ∧
    ((sited up).enabled 127 = true ∧ (sited up).fenced 127 = false ∧
      bad (((sited up).setRg (Off.railsite 63) 0))) ∧
    (up.accepts .pf0 .pf0 (Off.auxCfg 3) = true ∧ up.accepts .pf0 .pf0 (Off.auxCfg 15) = true ∧
      up.accepts .pf0 .pf0 (Off.auxCode 0) = true ∧ up.accepts .pf0 .pf0 (Off.auxCode 4) = true ∧ up.weOnAux 4 = false) ∧
    (up.accepts .pf0 .pf0 (Off.kzTh 3) = true ∧ up.accepts .pf0 .pf0 (Off.kzCtl 3) = true) ∧
    ((up.setKz 3 { up.kz 3 with stopAt := some 5 }).kz 3).stopAt = some 5 ∧ (up.kz 3).stopAt = none ∧
    (let s := up.setKzState 3 3
     up.kzState 3 ≠ 3 ∧ s.kzState 3 = 3 ∧ (s.kz 3).ena = false) ∧
    (up.rb Off.tdStat 31 = false ∧ up.rb Off.tdStat 29 = false ∧ (∀ r < 64, up.energized r = false)) ∧
    (let s := up.setRg Off.tdStat 0x80000000
     s.rb Off.tdStat 31 = true ∧ s.rb Off.tdStat 30 = false ∧ (∀ r < 64, s.energized r = false)) ∧
    (({ up with contactAt := some 0 } : State).contactAt = some 0) ∧
    (up.setRg Off.tdStat 0x20000000).rb Off.tdStat 29 = true := by decide +kernel

theorem witness_SitePowerAndTouchdown_conditions :
    (let s := (railOk (sited up)).setRg Off.tdStat 0x80000000
     s.enabled 127 = true ∧ s.fenced 127 = false ∧ s.siteRails 127 = [63] ∧ s.railReady 63 = true ∧ s.rb Off.tdStat 30 = false) ∧
    (let s := (railOk (sited up)).setRg Off.admCtl 0
     s.rb Off.tdStat 30 = true ∧ s.rb Off.tdStat 29 = false ∧
      s.budget < s.admSum - s.admNow + 80000 * ((s.siteRails 127).filter fun r => !s.railCounts r).length) ∧
    (let s := railOk (sited up)
     ¬ s.budget < s.admSum - s.admNow + 80000 * ((s.siteRails 127).filter fun r => !s.railCounts r).length) ∧
    ((up.setRg (Off.weTgt 0) 4).setRf (Off.weStat 0) 30 2 2).weOnAux 4 = true := by decide +kernel

theorem witness_WardenAndFaultUnit :
    (up.ward.granting = false ∧ (granting up).ward.granting = true ∧ (granting up).ward.alive.getLsbD 3 = true ∧
      ({ up with ward := { up.ward with alive := 7 } } : State).ward.alive.getLsbD 3 = false) ∧
    (({ up with fault := { up.fault with estop := true } } : State).fault.estop = true ∧ up.fault.estop = false) ∧
    (up.fault.f4 = false ∧ hurt.fault.f4 = true ∧ hurt.fault.swept = false ∧
      hurt.fault.f4At + 80000000 ≤ (atCclk 80000000 hurt).now) ∧
    (up.ward.err1.getLsbD 3 = false ∧ up.ward.err2.getLsbD 3 = false) ∧
    (up.accepts .pf1 .pf1 0 = true ∧ up.accepts .sp .pf1 0x1FC = true ∧ up.accepts .pf1 .pf1 0x40C = true ∧
      up.accepts .pf1 .pf1 0x9FC = true ∧ up.accepts .pf1 .pf1 Off.wlTbnd = true) ∧
    (up.accepts .seqh .pf0 Off.fuSafereq = true ∧ up.accepts .pf0 .pf0 Off.fuF2clr = true ∧
      up.accepts .pf0 .pf0 Off.fuHclr = true) ∧
    (let ev : Ev := { cls := 2, src := 0x400F, cause := 1, off := 0, site := none, wd := false }
     (∃ k, (up.f2 ev true).f2Find (fld 0x400F 0 16) = some k ∧ (Tbl.get F2.none (up.f2 ev true).fault.f2 k).done = true) ∧
     (∃ k, (up.f2 ev false).f2Find (fld 0x400F 0 16) = some k ∧ (Tbl.get F2.none (up.f2 ev false).fault.f2 k).done = false) ∧
     up.f2Find (fld 0x400F 0 16) = none) := by
  refine ⟨by decide +kernel, by decide +kernel, by decide +kernel, by decide +kernel, by decide +kernel, by decide +kernel, ?_⟩
  exact ⟨⟨0, by decide +kernel⟩, ⟨0, by decide +kernel⟩, by decide +kernel⟩

/-- `s` with the temperatures of quadrant 3 by model A and model B, in sixteenths of a degree. -/
def heated (a b : Word) (s : State) : State := (s.setRg (Off.thmTa 3) a).setRg (Off.thmTb 3) b

theorem witness_Temperatures :
    (List.replicate 40 (0xFFFF : BitVec 16)).length = 40 ∧
    ((List.replicate 40 (1 : BitVec 16)).map (·.toNat)).sum < 2 ^ 16 ∧
    (up.waiting.any isTick = false ∧ ({ up with pending := [.tick] } : State).waiting.any isTick = true) ∧
    (hurt.safe = true ∧ up.safe = false ∧ 1920 ≤ (heated 1920 0 hurt).tgov 3 ∧ ∀ q < 4, hurt.tgov q < 1920) ∧
    (let set (z : State) (q : Nat) := z.rb (Off.thmQstat q) 31 = true
     let near : State := { heated 0 97 up with diffRun := [(3, (9, 0))] }
     let after (z : State) := (((z.diffStep 0).diffStep 1).diffStep 2).diffStep 3
     (∀ r < 4, ¬ set near r) ∧ set (after near) 3 ∧ (∀ r < 3, ¬ set (after near) r) ∧ (∀ q < 4, ¬ set (after up) q) ∧
      set (up.setRb (Off.thmQstat 3) 31 true) 3) ∧
    (1920 ≤ (heated 1920 0 up).tgov 3 ∧ ∀ r < 3, (heated 1920 0 up).tgov r < 1920) ∧ (∀ q < 4, up.tgov q < 1920) ∧
    (let run (n : Nat × Nat) (s : State) : State := { s with diffRun := [(3, n)] }
     let now (s : State) := if 96 < (temp (s.rf (Off.thmTb 3) 0 16) - temp (s.rf (Off.thmTa 3) 0 16)).natAbs
       then (min 10 ((Tbl.get (0, 0) s.diffRun 3).1 + 1), 0) else (0, min 10 ((Tbl.get (0, 0) s.diffRun 3).2 + 1))
     ((now up).1 < 10 ∧ (now up).2 < 10) ∧
     ((now (run (9, 0) (heated 0 97 up))).1 = 10 ∧ up.rb (Off.thmQstat 3) 31 = false) ∧
     ((now (run (0, 9) (heated 0 96 up))).2 = 10 ∧ (up.setRb (Off.thmQstat 3) 31 true).rb (Off.thmQstat 3) 31 = true)) := by
  decide +kernel

theorem witness_CalibrationTables :
    (up.partyHeld .pf0 = false ∧ up.partyBehind .pf0 = false ∧ reaches .pf0 .pf0 = true ∧ up.rst.ready = true) ∧
    (up.accepts .pf0 .pf0 Off.calUdata = true ∧ up.accepts .pf0 .pf0 Off.calSave = true ∧ up.safe = false) ∧
    (hurt.safe = true ∧ hurt.rst.ready = true ∧ hurt.partyHeld .pf0 = false ∧ hurt.partyBehind .pf0 = false ∧
      flag 1 0 = true) ∧ up.cal.save = none ∧
    (let s (left : Nat) : State := { up with cal := { up.cal with
       save := some { toB := true, seq := 7, left := left, busy := false } } }
     (∀ n ∈ [0, 1], (s n).cal.save = some { toB := true, seq := 7, left := n, busy := false } ∧ (s n).savePort = true) ∧
     (polled 0 .save 0 (s 1)).savePort = false) ∧
    (let s := awake 511 ((up.setRb Off.calCtl 31 true).setCl 15 { up.cl 15 with bgNext := 63 })
     s.rst.ready = true ∧ s.rb Off.calCtl 31 = true ∧ (s.cl 15).bg = none ∧ s.bgTurn 15 = some (2 * 31 + 1)) ∧
    up.bgTurn 15 ≠ some (2 * 31 + 1) ∧
    (let s := up.setCl 15 { up.cl 15 with bg := some (31, true, 0) }
     (s.cl 15).bg = some (31, true, 0) ∧ (atCclk 399 s).now < 0 + 400 ∧ 0 + 400 ≤ (atCclk 400 s).now) := by decide +kernel

/-! ### Records, queues, patches, resets, registers -/

/-- `s` with queue 0xFFFFF of 128 units, its first descriptor word being `w`. -/
def queue (w : Word) (s : State) : State := s.setQWord 0xFFFFF 0 w

/-- A closed piece of list 7 of cluster 15 that holds channel 31 and no entry. -/
def pieceOf : Piece :=
  { list := 7, step := 0, seg := 0, num := 0, cont := false, mode := 0, d := 0, fold := false, steep := 0, trig := 0, dead := 0,
    gap := 0, vstart := 0, mask := 0x80000000, sites := [(127, 0x80000000)], sthr := 0, made := 0, entries := [],
    tsStart := 0, tsEnd := 0, cause := 1, trunc := false, fenced := [],
    marked := [], filed := [], cut := [], closing := false, split := false }

/-- The part with site 127 enabled. -/
def served : State := up.setRb (Off.siteCtl 127) 31 true

/-- `s` with queue 0xFFFFF full. -/
def fullQ (s : State) : State := (queue 0x800E0000 s).setQIdx 0xFFFFF 6 128

theorem witness_RecordAcceptance :
    let r := recOf 0 100
    let gone (s : State) := 16 ≤ r.src.toNat ∧ (s.fenced r.site.toNat = true ∨ s.enabled r.site.toNat = false)
    let lost (s : State) := s.count Off.vmNotinit 0 32 1
    (hurt.safe = true ∧ served.safe = false ∧ served.vmWait = false ∧ recal.vmWait = true ∧ served.headComes = false ∧
      ({ served with pending := [.qheadAdv .pf0 1] } : State).headComes = true) ∧
    (served.lineLive (0xFFC00000 + 4 * 0xFFFFF) = false ∧ (lost up).qBad 0xFFFFF = false ∧ gone (lost up) ∧ ¬ gone (lost served) ∧
      (lost served).qEn 0xFFFFF = false) ∧
    (let s := (queue 0x800E0000 (pouring { served with steep := { served.steep with num := 5 } })).setRg Off.qmHoldLen 1
     s.safe = false ∧ s.lineLive (0xFFC00000 + 4 * 0xFFFFF) = true ∧ s.qBad 0xFFFFF = false ∧ ¬ gone s ∧
      s.qEn 0xFFFFF = true ∧ s.mayPlace 5 = false ∧ s.holdRoom (recOf 5 100).units = true ∧
      s.slotsFor (s.holdPlan (recOf 5 100).units) = true) ∧
    (let s := queue 0x800E0000 (pouring { served with steep := { served.steep with num := 5 } })
     s.mayPlace 5 = false ∧ s.holdRoom (recOf 5 100).units = false) ∧
    (let s := queue 0x800E0000 served
     s.qEn 0xFFFFF = true ∧ s.mayPlace 0 = true ∧ (s.qm.hold.any fun x => x.rcd.qid = r.qid) = false ∧
      s.qRoom 0xFFFFF r.units = true ∧ s.slotsFor (s.ringPlan 0xFFFFF r.units) = true) ∧
    (let s : State := queue 0x800E0000 served
     ({ s with qm := { s.qm with hold := [{ rcd := r, units := [0] }] } } : State).qm.hold.any (fun x => x.rcd.qid = r.qid) = true) ∧
    (let s := queue 0x800E0000 served
     ({ s with qm := { s.qm with hold := [{ rcd := { r with steep := 9 }, units := [0] }] } } : State).qm.hold.any
      (fun x => x.rcd.qid = { r with closing := true }.qid) = true) ∧
    (let s := (queue 0xA00E0000 served).setQIdx 0xFFFFF 6 128
     s.qBad 0xFFFFF = false ∧ s.qEn 0xFFFFF = true ∧ s.mayPlace 0 = true ∧ s.qRoom 0xFFFFF r.units = false ∧
      s.qDrop 0xFFFFF = true) ∧
    (let s := fullQ served
     s.qEn 0xFFFFF = true ∧ s.qRoom 0xFFFFF r.units = false ∧ s.qDrop 0xFFFFF = false ∧ r.closing = false) ∧
    (let s := State.f2 { served with
        mem := { served.mem with bad := [descRow + 4 * 0xFFFFF], init := [0x7FFF] }, qm := { served.qm with badSeen := [0xFFFFF] } }
       { cls := 2, src := 0x7FFF, cause := 0, off := 0, site := none, wd := false } true
     s.safe = false ∧ ¬ gone s ∧ s.qBad 0xFFFFF = true ∧ 0xFFFFF ∈ s.qm.badSeen ∧
      (s.f2Find (0x7000 + 0xFFFFF % 0x1000)).isSome = true) := by
  decide +kernel

theorem witness_RecordAcceptance_producers :
    let r := recOf 0 100
    let w (s : State) : State := waits 16 (.qpush r) s
    let ends (s : State) := (w s).fileEnd ((w s).pushFinal 16 r)
    (((w served).sq 16).wait = .qpush r ∧ ((w served).sq 16).mode = .running ∧ ((w served).sq 16).readyAt ≤ served.now) ∧
    (ends (fullQ served) = .waits ∧ ends served = .off ∧ ends (queue 0x800E0000 served) = .filed) ∧
    (let s : State := (queue 0x800E0000 served).setQWord 0xFFFFF 2 0
     ends { s with mem := { s.mem with slots := s.mem.slots ++ List.replicate 16 { region := 1, lines := [] } } } = .slot) ∧
    (((up.setCl 15 { up.cl 15 with out := [r] }).cl 15).out = r :: [] ∧ (up.cl 15).out = [] ∧
      up.olderWaits 15 0 0xFFFFF = false) ∧
    (let s := wired 511 127 (up.setCap 15 { up.cap 15 with closed := [pieceOf] })
     let r := s.pieceRec 15 pieceOf 127
     s.capOffer 15 = some (pieceOf, 127) ∧ s.olderWaits 15 0 r.qid.toNat = false ∧
      ((s.capWords 15 r []).1.cap 15).lost = []) ∧ up.capOffer 15 = none ∧
    (let s := wired 511 127 (up.setCl 15 { up.cl 15 with out := [r] })
     let p : Piece := { pieceOf with made := 1, closing := true }
     let t := (s.setCap 15 { s.cap 15 with closed := [p] }).setRg (Off.caplRoute 15 7) 0xFFF80
     t.olderWaits 15 p.made (t.pieceRec 15 p 127).qid.toNat = true) ∧
    (let t (s : State) : State := (s.setRf (Off.tiuStat 7) 30 2 2).setRg (Off.tiuRoute 7) 0x07FFFFFF
     (up.tiuState 7 ≠ 2 ∧ (t up).tiuState 7 = 2) ∧ (t (fullQ served)).fileEnd ((t (fullQ served)).tiuRec 7) = .waits ∧
      (t (queue 0x800E0000 served)).fileEnd ((t (queue 0x800E0000 served)).tiuRec 7) = .filed ∧
      (t served).fileEnd ((t served).tiuRec 7) = .off) := by decide +kernel

theorem witness_RecordAcceptance_holdover :
    let r := recOf 0 100
    let h (s : State) : State := { s with qm := { s.qm with hold := [{ rcd := r, units := [0, 1, 2, 3, 4, 5] }] } }
    let desc := 0xFFC00000 + 4 * 0xFFFFF
    (up.headComes = false ∧ up.qm.hold = [] ∧ (h up).mayPlace r.steep = true ∧ (h up).vmWait = false) ∧
    (let s := h (queue 0x000E0000 served)
     s.qBad 0xFFFFF = false ∧ s.lineLive desc = true ∧ s.qEn 0xFFFFF = false) ∧
    (let s := h (queue 0x800E0000 served)
     s.qEn 0xFFFFF = true ∧ s.qRoom 0xFFFFF r.units = true ∧ s.slotsFor (s.ringPlan 0xFFFFF r.units) = true) ∧
    (let s := h ((queue 0xA00E0000 served).setQIdx 0xFFFFF 6 128)
     s.qEn 0xFFFFF = true ∧ s.qRoom 0xFFFFF r.units = false ∧ s.qDrop 0xFFFFF = true ∧ s.lineLive desc = true ∧
      s.mayPlace r.steep = true ∧ s.qBad 0xFFFFF = false) := by decide +kernel

/-- A host queue with one committed record to copy, first in the order of DMA engine 0. -/
def copies : State :=
  let s := (queue 0xC00E0000 { up with steep := { up.steep with num := 1 } }).placeRec 0xFFFFF (recOf 0 0) (recOf 0 0).bytes
  { s with qm := { s.qm with order := [(0, [0xFFFFF])], link := true, bme := true } }

theorem witness_QueuesAndLink :
    (up.accepts .pf0 .pf0 (Off.qdW 0) = true ∧ up.accepts .sp .pf0 (Off.qdW 7) = true ∧ up.accepts .pf0 .pf0 Off.qheadAdv = true ∧
      up.accepts .pf0 .pf0 Off.qmHoldBase = true ∧ up.accepts .pf0 .pf0 Off.qmHoldLen = true) ∧
    (let s := up.setRg Off.qdSel 0xFFFFF
     s.accepts .pf0 .pf0 (Off.qdW 0) = true ∧ s.qBad (s.rf Off.qdSel 0 20) = false ∧ s.qEn (s.rf Off.qdSel 0 20) = false) ∧
    (flag 0x800C0000 31 = true ∧ fld 0x800C0000 17 5 < 7 ∧ 22 < fld 0x802E0000 17 5 ∧ 7 ≤ fld 0x800E0000 17 5 ∧
      fld 0x800E0000 17 5 ≤ 22 ∧ up.qBase 0xFFFFF + 32 * 2 ^ fld 0x800E0000 17 5 ≤ 0xFFC00000 * 8) ∧
    ((queue 0x800E0000 up).qEn 0xFFFFF = true ∧ (0x80100000 ^^^ (queue 0x800E0000 up).qWord 0xFFFFF 0) &&& 0x6FFE0000 ≠ 0) ∧
    (let s := ((queue 0x800E0000 up).setRg Off.qdSel 0xFFFFF).took .pf0 .pf0 (Off.qdW 0)
     s.lineLive (0xFFC00000 + 4 * 0xFFFFF) = true ∧ s.slotsFor [0xFFC00000 + 4 * 0xFFFFF] = true ∧ s.qBad 0xFFFFF = false) ∧
    (up.linkOk = false ∧ Tbl.get [] up.qm.order 63 = [] ∧ recal.vmWait = true) ∧
    (let s : State := { up with rst := { up.rst with held := false } }
     let s := (s.setRf Off.rstStat 16 4 8).setRb Off.clkStat 29 true
     (s.rst.held = false ∧ 7 ≤ s.rf Off.rstStat 16 4 ∧ s.rb Off.clkStat 29 = true ∧ s.qm.perst = false) ∧
      State.reset.rst.held = true) ∧
    (Tbl.get [] copies.qm.order 0 = 0xFFFFF :: [] ∧ copies.linkOk = true ∧ copies.dmaHalted 0 = false ∧
      copies.qBad 0xFFFFF = false ∧ copies.qEn 0xFFFFF = true ∧ copies.vmWait = false ∧
      copies.lineLive (0xFFC00000 + 4 * 0xFFFFF) = true ∧ copies.qIdx 0xFFFFF 7 ≠ copies.qIdx 0xFFFFF 5) ∧
    (let t := State.descCache { copies with qm := { copies.qm with order := Tbl.set [] copies.qm.order 0 [] } } .ok
     (t.dmaLoop 0 0xFFFFF (copies.qIdx 0xFFFFF 7) [] (idxDiff (copies.qIdx 0xFFFFF 5) (copies.qIdx 0xFFFFF 7))).2 =
      (copies.qIdx 0xFFFFF 5, none)) := by decide +kernel

/-- What power-up meets where all is well, with no valid header, copies and patch. -/
def bootOf : Boot :=
  let none : FlashRead := { bytes := List.replicate 64 0, err := true }
  { slices := 15, bistBad := [], romBad := [], otpBad := [], otpFixed := [], factoryOk := true, header := none, copyA := none, copyB := none,
    patch := none, dramOk := true, ovoWarm := false }

/-- A patch image of version `v` without entries, for the part's ROM. -/
def patchOf (v : Nat) : List Byte :=
  let h := wordBytes 0x5120CADD ++ wordBytes (BitVec.ofNat 32 (up.romver * 65536 + v)) ++ List.replicate 20 0
  h ++ wordBytes (crc32 h)

theorem witness_PatchesAndClocks :
    (up.accepts .sp .pf1 Off.mcpCtl = true ∧ up.accepts .pf1 .pf1 Off.mcpCtl = true ∧ (run 16 up).accepts .pf1 .pf1 Off.mcpCtl = true) ∧
    ((List.range 17).any (fun x => decide (((run 16 up).sq x).mode ≠ .halted)) = true ∧
      ((List.range 17).any (fun x => decide ((up.sq x).mode ≠ .halted)) || up.mc.load.isSome || up.safe) = false) ∧
    (flag 2 1 = true ∧ flag 1 1 = false ∧ flag 1 0 = true) ∧ up.mc.load = none ∧
    (∃ c, readPatch up.romver { bytes := [], err := true } = .inr c) ∧
    ((readPatch up.romver { bytes := patchOf 1, err := false }).isLeft = true ∧
      (readPatch up.romver { bytes := patchOf 0, err := false }).isLeft = false) ∧
    (let l (mem second : Bool) : Load := { mem := mem, second := second, image := none }
     (∀ mem : Bool, ({ up with mc := { up.mc with load := some (l mem true) } } : State).mc.load = some (l mem true)) ∧
     up.vmWait = false ∧ up.loadPort = true ∧ recal.vmWait = true ∧ (polled 0 .save 0 up).loadPort = false ∧
     (up.passOne (l false false) { bytes := [], err := true }).mc.load = none ∧
     (up.passOne (l false false) { bytes := patchOf 1, err := false }).mc.load = some (l false true)) ∧
    ((up.setRg Off.clkStat 0xA0000000).rb Off.clkStat 29 = true ∧ (up.setRg Off.clkStat 0xA0000000).rb Off.clkStat 31 = true ∧
      (up.setRg Off.clkStat 0x40000000).rb Off.clkStat 29 = false ∧ (up.setRg Off.clkStat 0x20000000).rb Off.clkStat 31 = false) ∧
    (let s : State := { up.setRg Off.clkStat 0x20000000 with
       clk := { up.clk with lockAt := some 0 }, rst := { up.rst with boot := some bootOf } }
     s.clk.lockAt = some 0 ∧ s.rst.boot.isSome = true ∧ s.rb Off.clkStat 29 = true) ∧
    (up.clk.relockAt = none ∧ ({ up with clk := { up.clk with relockAt := some 0 } } : State).clk.relockAt.isSome = true) ∧
    ((up.setRg Off.pllbStat 0).rb Off.pllbStat 31 = false ∧ (up.setRg Off.pllbStat 0xE0000000).rb Off.pllbStat 31 = true) ∧
    (up.accepts .pf0 .pf0 (Off.clkOut 0) = true ∧ up.accepts .pf0 .pf0 (Off.clkOut 5) = true) ∧
    (((List.range 16).all fun c => up.clParked c) = false ∧ ((List.range 16).all fun c => (allParked up).clParked c) = true) ∧
    (Tbl.find up.clk.delay 5 = none ∧
      Tbl.find ({ up with clk := { up.clk with delay := [(5, 63)] } } : State).clk.delay 5 = some 63 ∧
      Tbl.get 0 up.clk.stepAt 5 ≤ up.now ∧ up.now < Tbl.get 0 [(5, 800)] 5) := by
  refine ⟨by decide +kernel, by decide +kernel, by decide +kernel, rfl, ⟨6, by decide +kernel⟩, by decide +kernel,
    by decide +kernel, by decide +kernel, by decide +kernel, ⟨rfl, rfl⟩, by decide +kernel, by decide +kernel, by decide +kernel, by decide +kernel⟩

theorem witness_Resets :
    ((4 < 8) ∧ (2 < 16) ∧ Off.clkStat ≠ Off.rstStat) ∧
    (up.rst.reqAt = none ∧ ({ up with rst := { up.rst with reqAt := some (0, 3) } } : State).rst.reqAt = some (0, 3)) ∧
    (let s : State := { early.setRg Off.clkStat 0xA0000000 with rst := { early.rst with boot := some bootOf, loaded := true } }
     s.rst.boot = some bootOf ∧ s.rst.loaded = true ∧ s.rst.held = false ∧ s.rst.ready = false ∧ s.rb Off.clkStat 31 = true) ∧
    (up.rst.boot = none ∧ State.reset.rst.held = true) ∧
    (∃ x ∈ (polled 0 .past 0 up).cp.polls, x.dev = 0) ∧
    (let u (s : State) : State := { s with rst := { s.rst with held := false, relAt := s.now, boot := some bootOf, loaded := false } }
     (u (polled 0 .past 0 up)).flashBusy = true ∧ (u up).flashBusy = false) ∧
    (up.accepts .sp .pf1 Off.rstReq = true ∧ up.accepts .pf1 .pf1 Off.rstReq = true) := by decide +kernel

/-- The part in a CCLK in which the part has counted a rejected write of the site map, and set its count from 2 to 3. -/
def counted : State := State.count ((up.setRg Off.mapStat 2)) Off.mapStat 0 16 1

theorem witness_RegisterAccess :
    let own := Instr.readClear .pf0 .pf0 (BitVec.ofNat 26 Off.mapStat) .dword
    (up.partyHeld .pf0 = false ∧ up.rst.ready = true ∧ early.rst.ready = false ∧ reaches .pf0 .pf0 = true ∧
      reaches .pf1 .pf1 = true ∧ reaches .sp .win = true ∧ reaches .pf0 .win = false ∧ reaches .pf1 .pf0 = false) ∧
    (({ up with held := [.bar2Read 0 .ok] } : State).partyHeld .pf0 = true) ∧
    (up.partyBehind .pf0 = false ∧ ({ up with behind := [.bar2Read 0 .ok] } : State).partyBehind .pf0 = true) ∧
    (badShape .pf0 4 .dword = false ∧ badShape .pf1 8 (.dwords 7) = false ∧ badShape .pf0 4 (.dwords 7) = true ∧
      badShape .sp 4 (.dwords 7) = false) ∧
    (up.coldHeld = false ∧ State.reset.coldHeld = true ∧ up.readWaits .pf0 own = false) ∧
    (({ up with pending := [.readClear .sp .pf0 (BitVec.ofNat 26 Off.mapStat) .dword] } : State).readWaits .pf0 own = true) ∧
    (up.accepts .seqh .pf0 0 = true ∧ Space.mapped .pf0 0xFFFFFFC = false ∧ Space.mapped .pf0 Off.mapStat = true) ∧
    ((findReg (Space.rows .pf0) (Off.chMoncfg 15 31)).isSome = true ∧
      (∀ c : Fin 16, Off.chMoncfg 15 31 ≠ Off.tsEdata c) ∧ Off.chMoncfg 15 31 ≠ Off.calSave) ∧
    (∃ r ix, findReg pf0Rows (Off.chMoncfg 15 31) = some (r, ix) ∧ isSetting r.id = true ∧ r.id ≠ .steep ∧ r.id ≠ .pourCtl ∧
      r.id ≠ .clSteep ∧ up.accepts .pf0 .pf0 (Off.chMoncfg 15 31) = true) ∧
    (∃ r ix, findReg pf0Rows Off.mapStat = some (r, ix) ∧ r.rc ≠ 0 ∧ up.rcActs false r 0 = true ∧ (counted.marks.find? fun m => m.off = Off.mapStat) =
      some { off := Off.mapStat, was := 2, new := 1 }) ∧
    (Tbl.find ({ up with snap := [(rankOf .pf0, (Off.steepNumLo, 7))] } : State).snap (rankOf .pf0) = some (Off.steepNumLo, 7)) ∧
    (up.partyHeld .pf1 = false ∧ up.partyBehind .pf1 = false ∧ up.readWaits .pf1 .p1wDataRead = false ∧
      up.p1wWaits .pf1 = false ∧ up.accepts .pf1 .pf1 Off.p1wData = true) := by
  refine ⟨by decide +kernel, by decide +kernel, by decide +kernel, by decide +kernel, by decide +kernel, by decide +kernel,
    by decide +kernel, by decide +kernel, ⟨_, _, rfl, by decide +kernel⟩, ⟨_, _, rfl, by decide +kernel⟩, by decide +kernel,
    by decide +kernel⟩

theorem witness_ServicePort :
    (up.accepts .sp .win Off.spCmd = true ∧ up.accepts .sp .win Off.spPtr = true ∧ up.accepts .sp .win Off.spData = true) ∧
    (let wrong (v : Word) := (fld v 16 16 ≠ 0x5AFE ∧ fld v 16 16 ≠ 0xB007) ∨ (flag v 0 = true ∧ fld v 16 16 ≠ 0x5AFE) ∨
       (flag v 1 = true ∧ fld v 16 16 ≠ 0xB007)
     ¬ wrong 0x5AFE0001 ∧ ¬ wrong 0xB0070002 ∧ wrong 0x5AFE0003 ∧ wrong 3) ∧
    (up.partyHeld .sp = false ∧ up.partyBehind .sp = false ∧ up.coldHeld = false ∧ State.reset.coldHeld = true ∧ up.spp.busy = none) ∧
    (let s : State := { up with spp := { up.spp with busy := some (true, true, 0, 7) } }
     s.spp.busy = some (true, true, 0, 7)) ∧
    (let s : State := { up with spp := { up.spp with busy := some (false, false, Off.mapStat, 0) } }
     s.spp.busy = some (false, false, Off.mapStat, 0) ∧ s.readWaits .sp .spAccessDone = false ∧
      ({ s.setSg Off.p1wPtr (BitVec.ofNat 32 Off.mapStat) with pending := [.p1wDataRead] } : State).readWaits .sp
        .spAccessDone = true) ∧
    (∃ t w, ({ up with spp := { up.spp with busy := none } } : State).readReg .sp .pf1 0 = (t, .data w)) := by
  refine ⟨by decide +kernel, by decide +kernel, by decide +kernel, by decide +kernel, by decide +kernel, ⟨_, _, rfl⟩⟩

/-! ### Well-formed commands -/

theorem test_wf_ok : (Instr.registerWrite .pf0 .pf0 (BitVec.ofNat 26 Off.steep) .dword 0).wf = true ∧
    (Instr.addi 0 0 (some broken)).wf = true ∧ (Instr.rstRequest .sp 0xB0070001).wf = true ∧
    (Instr.cpTransferDone [] false).wf = true ∧ (Instr.resetRelease .cold bootOf).wf = true := by decide +kernel

/-- A register access: no party that reaches the space, past the end of the space, of another party than PF0 and PF1 not on a
dword. -/
theorem test_wf_access : (Instr.registerWrite .pf0 .pf1 0 .dword 0).wf = false ∧ (Instr.lowWordRead .warden .pf0 0 .dword).wf = false ∧
    (Instr.readClear .pf1 .pf1 0x100000 .dword).wf = false ∧ (Instr.registerWrite .sp .win 128 .dword 0).wf = false ∧
    (Instr.registerWrite .sp .pf0 2 .dword 0).wf = false := by decide +kernel

/-- A control store fault without a cause; a write of a register by a party that does not reach its space. -/
theorem test_wf_micro_writer : (Instr.nop 0 0 (some { words := [] })).wf = false ∧
    (Instr.rstRequest .pf0 0).wf = false ∧ (Instr.chsiteWrite .warden 0 0).wf = false := by decide +kernel

/-- Data of the wrong size. -/
theorem test_wf_data : (Instr.cpTransferDone (List.replicate 4097 0) false).wf = false ∧ (Instr.seqhLineFill [] 0).wf = false ∧
    (Instr.linePrefetch [0] 0).wf = false ∧ (Instr.tiuCalDone 0 (List.replicate 256 0)).wf = false ∧
    (Instr.tiuCalDone 0 [2 ^ 20]).wf = false ∧ (Instr.powerInterval []).wf = false ∧ (Instr.modelAUpdate [] none none).wf = false ∧
    (Instr.modelBUpdate [none]).wf = false ∧ (Instr.limitCopyCompare 0 [(0xA00, 0)] false false).wf = false ∧
    (Instr.limitCopyCompare 0 [(2, 0)] false false).wf = false ∧ (Instr.wardenLimitWrite .pf1 2 0).wf = false ∧
    (Instr.adcSampleDone 0 0 131072).wf = false ∧ (Instr.railMeasure 0 0 (-131073)).wf = false ∧
    (Instr.railMeasure 0 131072 0).wf = false ∧
    (Instr.resetRelease .cold { bootOf with header := { bytes := [], err := false } }).wf = false := by decide +kernel

/-- No row of the table gives bits, so no word spells a command. -/
theorem test_no_words : decodeTableWord 64 0 = none ∧ up.withFetchWord 64 0 = up := ⟨rfl, rfl⟩

/-! ### Instructions -/

/-- `s` with G1 and G2 of sequencer 0. -/
def regs (a b : Word) (s : State) : State := s.setSq 0 (((s.sq 0).setG 1 a).setG 2 b)

/-- Sequencer 0 after the instruction `i`. -/
def ran (i : Instr) (s : State) : SeqSt := (after i (ready i s)).sq 0

/-- R81: 0xFFFFFFFF + 1 wraps to 0, with ZERO and CARRY. -/
theorem test_add_wraps : let q := ran (.add 0 0x31200000000000 none) (regs 0xFFFFFFFF 1 up)
    q.gr 3 = 0 ∧ q.zero = true ∧ q.carry = true ∧ q.pc = 1 := by decide +kernel

/-- R81: SUB sets CARRY on a borrow; the operands are in order. -/
theorem test_sub_borrow : let q := ran (.sub 0 0x11200000000000 none) (regs 1 2 up)
    q.gr 1 = 0xFFFFFFFF ∧ q.zero = false ∧ q.carry = true := by decide +kernel

/-- R81: SAR keeps the sign; CARRY is the last bit shifted out. -/
theorem test_sar_sign : let q := ran (.sari 0 0x31000000000004 none) (regs 0x80000008 0 up)
    q.gr 3 = 0xF8000000 ∧ q.carry = true := by decide +kernel

/-- R81: SHL by 0 leaves CARRY 0; by 1 the top bit goes to CARRY. -/
theorem test_shl_carry : (ran (.shl 0 0x31200000000000 none) (regs 0x80000000 32 up)).carry = false ∧
    (ran (.shl 0 0x31200000000000 none) (regs 0x80000000 33 up)).carry = true := by decide +kernel

/-- R81: MUL gives the low half; CARRY says that the high half is not 0. -/
theorem test_mul_high : let q := ran (.mul 0 0x31200000000000 none) (regs 0x10000 0x10000 up)
    q.gr 3 = 0 ∧ q.zero = true ∧ q.carry = true ∧ q.readyAt = 3 := by decide +kernel

/-- R83: source 18 is the sequencer's own number, source 17 its PC. -/
theorem test_mfs : (ran (.mfs 0 0x30000000000012 none) up).gr 3 = 0 ∧ (ran (.mfs 0 0x30000000000011 none) up).gr 3 = 0 ∧
    ((after (.mfs 16 0x30000000000012 none) (ready (.mfs 16 0x30000000000012 none) up)).sq 16).gr 3 = 16 := by decide +kernel

/-- R100, the worked example: SFCLR on quad 0 with G0 = 6 clears sites 1 and 2 alone. -/
theorem test_sfclr_example :
    let s := up.setSq 0 { (up.sq 0).setG 0 6 with siteFail := 0x47 }
    (ran (.sfclr 0 0 none) s).siteFail = 0x41 := by decide +kernel

/-- R91: JMP on ZERO; a call pushes the next index. -/
theorem test_jmp_call : (ran (.jmp 0 0x01000000000064 none) up).pc = 1 ∧
    (ran (.jmp 0 0x02000000000064 none) up).pc = 100 ∧ (ran (.call 0 0x64 none) up).stack = [1] := by decide +kernel

/-- R93: a LOOP of 0 passes goes on after its ENDL; ENDL of count 0 wraps and jumps back. -/
theorem test_loop_zero : (ran (.loop 0 0x00000000000009 none) up).pc = 10 ∧
    (ran (.endl 0 0x00000000000009 none) up).pc = 9 ∧ (ran (.endl 0 0x00000000000009 none) up).lcr 0 = 0xFFFFFFFF := by
  decide +kernel

/-- R118: with traps off, an illegal opcode halts with its cause. -/
theorem test_exception_halts : let t := after (.vec 16 0 none []) (ready (.vec 16 0 none []) up)
    (t.sq 16).mode = .halted ∧ t.rf (Off.trapStat 16) 0 8 = 1 ∧ (t.rg (Off.trapInfo 16)).toNat = 0x10 := by decide +kernel

/-- R84: STV writes its word where LDV and BAR2 find it, least significant byte first. -/
theorem test_stv_bytes :
    let i := Instr.stv 0 0x21800000000000 none
    let t := after (.vmemAccessDone 0 .ok) { after i (ready i (regs 5 0x11223344 up)) with now := 2 }
    t.mem.byte 44 = 0x44 ∧ t.mem.byte 47 = 0x11 ∧ t.mem.byte 40 = 0 ∧ (t.sq 0).pc = 1 := by decide +kernel

/-- R43: LP of the overlapping steeps: floor(80,000 × 16 ÷ 64) = 20,000. -/
theorem test_pour_limit :
    let s := ((up.setRb Off.steepStat 31 true).setAp Off.steep 80000).setAp Off.pourCtl 16
    (after (.tick) s).steep.lp = 20000 ∧ (after (.tick) s).steep.num = 1 := by decide +kernel

/-- R257, the worked example: 208 bins of 1,500 fs and one of 500 fs; start in bin 40, stop three edges later in bin 17. -/
theorem test_tiu_shot :
    let u := (paths (timing 1 true 0 up)).setRg (Off.tiuN 7) 1
    let s := u.setTu 7 { u.tu 7 with
      armed := true, runTab := ((List.range 208).map fun b => (b, 1500)) ++ [(208, 500)], start := edgeIn 100 40 }
    let t := after (.tiuStopEdge 7 103 ⟨17, false⟩) s
    binFrac (s.tu 7).runTab 40 = 60750 ∧ binFrac (s.tu 7).runTab 17 = 26250 ∧
      t.getLong (Off.tiuLast 7 0) (Off.tiuLast 7 1) = 903000 ∧ t.rf (Off.tiuCount 7) 0 25 = 1 := by decide +kernel

/-! ### Registers, sites, the host -/

/-- R36: the default period is 80,000 CCLK; a value below 800 is stored as 800. -/
theorem test_steep_period : up.rf Off.steep 0 24 = 80000 ∧
    (after (.registerWrite .pf0 .pf0 (BitVec.ofNat 26 Off.steep) .dword 799) up).rf Off.steep 0 24 = 800 := by decide +kernel

/-- R14: CHSITE is taken while its cluster is parked on request, and counted in MAP_STAT.REJCNT otherwise. -/
theorem test_chsite : (after (.chsiteWrite .pf0 32 0x80000101) (parked 1 up)).rg (Off.chsite 32) = 0x80000101 ∧
    (after (.chsiteWrite .pf0 32 0x80000101) up).rg (Off.chsite 32) = 0 ∧
    (after (.chsiteWrite .pf0 32 0x80000101) up).rf Off.mapStat 0 16 = 1 := by decide +kernel

/-- R19: EN enables a site. R31: a fence in the CCLK of the enable leaves it fenced. -/
theorem test_site_enable : (after (.siteEnable .pf0 5 0x80000000) up).enabled 5 = true ∧
    (after (.siteEnable .pf0 5 0x80000003) up).rf (Off.siteCtl 5) 0 2 = 2 := by decide +kernel

/-- R287: VSET is taken as the nearest valid code, with SAT; a value above VMAX is rejected. -/
theorem test_rail_vset :
    (after (.railVsetWrite .pf0 4 0x3FFFF) (up.setRg (Off.railVmax 4) 0x100)).rb (Off.railStat 4) 19 = true ∧
    (after (.railVsetWrite .pf0 4 0x101) (up.setRg (Off.railVmax 4) 0x100)).rg (Off.railVset 4) = 0 ∧
    (after (.railVsetWrite .pf0 4 0x101) (up.setRg (Off.railVmax 4) 0x100)).rb (Off.railStat 4) 20 = true := by decide +kernel

/-- R329: a safe-state request without its key sets CLRREJ and nothing else. -/
theorem test_safe_request : (after (.safeRequest .pf0 0x5AFF0001) up).safe = false ∧
    (after (.safeRequest .pf0 0x5AFF0001) up).rb Off.fuStat 2 = true := by decide +kernel

/-- R420: RST_REQ needs its key, and the reset comes 2 µs later. -/
theorem test_reset_request : (after (.rstRequest .pf1 0xB0070001) up).rst.reqAt = some (0, 4) ∧
    (after (.rstRequest .pf1 0x5AFE0001) up).rst.reqAt = none ∧
    (after .resetDelayExpiry (atCclk 1600 (after (.rstRequest .pf1 0xB0070001) up))).rst.held = true ∧
    (after .resetDelayExpiry (atCclk 1599 (after (.rstRequest .pf1 0xB0070001) up))).rst.held = false := by decide +kernel

/-- R146: a write sets the bytes its enables select, and a read gives them back. -/
theorem test_bar2 :
    let t := after (.bar2Write 7 0x8877665544332211 0x81 .ok) up
    (after (.bar2Read 7 .ok) t).bar2 = some (7, 0x8800000000000011, false) := by decide +kernel

/-- The canonical form: a byte written as 0 is as data what a byte never written is. -/
theorem test_memory_canonical :
    (after (.bar2Write 7 0 0xFF .ok) (after (.bar2Write 7 0x11 0xFF .ok) up)).mem.cells = [] := by decide +kernel

/-- R137: POT_WR is taken within the ring, and rejected past it (1,024 rows). -/
theorem test_pot_wr : (after (.potWrWrite .pf0 63 1024) (potted up)).rg (Off.potWr 63) = 1024 ∧
    (after (.potWrWrite .pf0 63 1025) (potted up)).rg (Off.potWr 63) = 0 := by decide +kernel

/-- R306: SETTLED follows CONTACT after TD_SETTLE CCLK. -/
theorem test_touchdown :
    let s := after .contactRise (up.setRg Off.tdSettle 500)
    s.rb Off.tdStat 31 = true ∧ (after .tdSettled (atCclk 499 s)).rb Off.tdStat 30 = false ∧
      (after .tdSettled (atCclk 500 s)).rb Off.tdStat 30 = true := by decide +kernel

/-- R366: the difference of 6.0 °C is within bounds, and 6.0625 °C beyond. -/
theorem test_model_difference : (Tbl.get (0, 0) ((heated 0 96 up).diffStep 3).diffRun 3) = (0, 1) ∧
    (Tbl.get (0, 0) ((heated 0 97 up).diffStep 3).diffRun 3) = (1, 0) := by decide +kernel

/-- R462: the low word of STEEP_NUM is read with its high word kept for the party. -/
theorem test_snapshot :
    let s : State := { up with steep := { up.steep with num := 0x500000007 } }
    let t := after (.lowWordRead .sp .pf0 (BitVec.ofNat 26 Off.steepNumLo) .dword) s
    let u := after (.lowWordRead .sp .pf0 (BitVec.ofNat 26 Off.steepNumHi) .dword) { t with steep := { t.steep with num := 0 } }
    Tbl.get .none t.rdata (rankOf .sp) = .data 7 ∧ Tbl.get .none u.rdata (rankOf .sp) = .data 5 := by decide +kernel

/-- R4: a read of an RC count that the part has just moved from 2 to 3 returns 2, and leaves the 1 of its CCLK. -/
theorem test_read_clear_same_cclk :
    let t := after (.readClear .sp .pf0 (BitVec.ofNat 26 Off.mapStat) .dword) counted
    Tbl.get .none t.rdata (rankOf .sp) = .data 2 ∧ t.rf Off.mapStat 0 16 = 1 := by decide +kernel

/-- R394: RET on an empty micro-stack is a sequencing error at its microaddress; CALL stacks the next microaddress. -/
theorem test_micro_stack :
    let word (n : Nat) : BitVec 136 := BitVec.ofNat 136 (0xFE * 2 ^ 128 + n)
    let s : State := { up with mc := { up.mc with caddy := [(0, word 16), (5, word (2 ^ 11 * 0x3000 + 12 + 1))] } }
    let at_ (i : Nat) : MicroEnd :=
      { at_ := .caddy i, stack := [], drove := 0, cclk := 0, caddy := false, fixed := [], done := false, check := none }
    let f : MicroFetch := { cond := false, bad := false, ecc := .ok }
    (s.microRun 0 1 false [f] (at_ 0)).check = some (4, 0x3000) ∧ (s.microRun 0 1 false [f] (at_ 5)).stack = [0x3006] ∧
      (s.microRun 0 1 false [f] (at_ 5)).at_ = .caddy 0 ∧ (s.microRun 0 1 false [f] (at_ 5)).cclk = 2 := by decide +kernel

/-- R53: a SLIPMAX of 0 is stored as 1. -/
theorem test_slipmax : (after (.registerWrite .pf0 .pf0 (BitVec.ofNat 26 (Off.clSteep 5)) .dword 0x100) up).rg (Off.clSteep 5) =
    0x101 := by decide +kernel

/-- R357: a pulse that has passed eight channels is refused and noted. -/
theorem test_hops : (after (.eventPass 1023) (pulsed 8 0x80000000)).rb Off.evStat 31 = true ∧
    (after (.eventPass 1023) (pulsed 7 0x80000000)).rb Off.evStat 31 = false := by decide +kernel

end Sys2Proof.Tests
end

section
/-!
SUPPORT. The state of a sequencer at reset and at its start (R56): what the start `State.seqBegin` leaves in the sequencer it
starts, said once as a record (`SeqSt.started`), and the statement on both read off it.
-/
namespace Sys2Proof.Machine

/-! ### The sequencers under the parts of a start -/

/-- Steps that keep a sequencer, done at each index, keep it. -/
theorem State.each_sq {f : Nat → State → State} {x : Nat} (hf : ∀ n s, (f n s).sq x = s.sq x) (l : List Nat) (s : State) :
    (s.each l f).sq x = s.sq x := by
  induction l generalizing s with
  | nil => rfl
  | cons n l ih => exact (ih (f n s)).trans (hf n s)

/-- A cluster that loses its measurements takes the pending registers from its own sequencer, and nothing else (R107). -/
theorem State.dropMeas_sq_same (s : State) (c : Nat) : (s.dropMeas c).sq c = { s.sq c with pend := [] } := by
  simp only [State.dropMeas, State.setCl_acc_sq, State.sq_setSq_same]

/-! ### What a start leaves -/

/-- The sequencer state `q` after a start at index `pc` whose first instruction begins at CCLK `readyAt`: R56's, and beside
it what is no part of R55's state and stays (the instruction SRAM, a copy into it, the site noted for FNOTE). -/
def SeqSt.started (q : SeqSt) (pc readyAt : Nat) : SeqSt :=
  { SeqSt.reset with
    mode := .running, pc := pc, g := q.g, lc := q.lc, readyAt := readyAt, copy := q.copy, sram := q.sram,
    fnSite := q.fnSite }

/-- A start puts the sequencer into the state of R56; the measurements it loses and the channels of its cluster, whose
previous state it makes Z, are no part of that. -/
theorem State.seqBegin_sq_same (s : State) (x pc : Nat) :
    (s.seqBegin x pc).sq x = (s.sq x).started pc (s.now + 1) := by
  by_cases hx : x < 16
  · simp only [State.seqBegin, if_pos hx]
    rw [State.each_sq fun n s => State.setCh_acc_sq s n _ x, State.setRb_acc_sq, State.dropMeas_sq_same,
      State.sq_setSq_same]
    rfl
  · simp only [State.seqBegin, if_neg hx]
    rw [State.setRb_acc_sq, State.sq_setSq_same]
    rfl

/-- No sequencer is listed after reset, so each reads as `SeqSt.reset`. -/
theorem State.sq_reset (x : Nat) : State.reset.sq x = SeqSt.reset := rfl

/-- No register of R55's files is listed after reset. -/
theorem SeqSt.gr_reset (k : Nat) : SeqSt.reset.gr k = 0 := rfl
/-- Nor is a loop counter. -/
theorem SeqSt.lcr_reset (k : Nat) : SeqSt.reset.lcr k = 0 := rfl

end Sys2Proof.Machine

namespace Sys2Proof
open Machine

/-- Settles O22: every sequencer reads as `SeqSt.reset` after reset, and as `SeqSt.started` after a start. -/
theorem sequencerStartState : Obligations.SequencerStartState := by
  unfold Obligations.SequencerStartState
  constructor
  · intro x
    rw [State.sq_reset]
    exact ⟨rfl, rfl, SeqSt.gr_reset, SeqSt.lcr_reset, rfl, rfl, rfl, rfl, rfl, rfl, rfl, rfl, rfl⟩
  · intro x pc s
    rw [State.seqBegin_sq_same]
    exact ⟨rfl, rfl, rfl, rfl, rfl, rfl, rfl, rfl, rfl, rfl, rfl, rfl, rfl, rfl, rfl, rfl, rfl, rfl⟩

end Sys2Proof
end

section
/-!
SUPPORT. What the pins report, one case at a time: a transition of a comparator on an unparked and on a watched channel, a monitor
that stays in UNK, a clamp that acts, and an access of the edge data port; and the statement on all of them.
-/
namespace Sys2Proof.Machine

variable {s : State} {n k : Nat} {new : Cmp}

/-! ### What the notes on a comparator leave -/

@[simp] theorem State.setCmp_now (s : State) (n k : Nat) (v : Cmp) : (s.setCmp n k v).now = s.now := rfl

@[simp] theorem State.setUnkAt_now (s : State) (n k : Nat) (t : Option Nat) : (s.setUnkAt n k t).now = s.now := by
  unfold State.setUnkAt
  split
  · rfl
  · split <;> rfl

/-- The two bits of EDGE: a transition to HIGH and one to LOW (R169). -/
theorem State.edgeSel_iff : s.edgeSel n k new = true ↔
    (new = .high ∧ nbit (s.cmpCfg n k / 4 % 4) 0 = true) ∨ (new = .low ∧ nbit (s.cmpCfg n k / 4 % 4) 1 = true) := by
  simp [State.edgeSel]

/-- A selected edge reaches the capture engine with the point 5 ns after its CCLK (R205). -/
theorem State.cmpEdge_eq : s.cmpEdge n k =
    ((s.setRb (Off.chCmpstat (n / 32) (n % 32)) (8 + k) true).fire (evCmp n k)).capTrigger (n / 32) 2
      (s.now * 2500 + 16 * 625) fun sel => decide (sel % 128 = n % 32 + 32 * k) := rfl

/-- Of the comparators only MH and ML trip, in HIGH, where SAFE is applied (R172). -/
theorem State.tripCheck_eq : s.tripCheck n k new =
    if 2 ≤ k ∧ new = .high ∧ flag (s.ap (Off.chMoncfg (n / 32) (n % 32))) 31 = true then s.monTrip n else s := by
  simp only [State.tripCheck, State.monCfg, chOff, Bool.and_eq_true, decide_eq_true_eq, and_assoc]

/-! ### The watch of a parked channel (R157) -/

/-- A wake edge shows in CL_PARK, pulses the cluster's source, and unparks it where WAKEEN is 1. -/
theorem State.wake_eq {c : Nat} : s.wake c =
    let v := (s.setRb (Off.clPark c) 2 true).fire (0x901 + 8 * c)
    if v.rb (Off.clPark c) 1 then v.clUnpark c else v := by
  simp only [State.wake, evCluster, Nat.add_right_comm]

/-- A channel that does not watch keeps what it sees, for a later watch. -/
theorem State.cmpWatch_of_asleep (h : s.wakes n = false) : s.cmpWatch n k new = s.setWatch n k new := by
  simp [State.cmpWatch, h]

/-- An input inside the HYST band says nothing to the watch. -/
theorem State.cmpWatch_unk (h : s.wakes n = true) : s.cmpWatch n k .unk = s := by
  simp [State.cmpWatch, h]

/-- A watch that resolves wakes its cluster with a selected edge from a known level, and else only notes it. -/
theorem State.cmpWatch_of_wakes (h : s.wakes n = true) (hn : new ≠ .unk) :
    let u := s.setWatch n k new
    s.cmpWatch n k new =
      if s.watchOf n k ≠ .unk ∧ s.watchOf n k ≠ new ∧ u.cmpEn n k = true ∧
        ((new = .high ∧ nbit (s.cmpCfg n k / 4 % 4) 0 = true) ∨ (new = .low ∧ nbit (s.cmpCfg n k / 4 % 4) 1 = true))
      then (u.edgeFlag n k).wake (n / 32) else u := by
  intro u
  have edge : u.edgeSel n k new = true ↔ _ := State.edgeSel_iff
  rw [State.cmpWatch, if_neg (by simp [h]), if_neg hn]
  exact if_congr (and_congr_right' (and_congr_right' (and_congr_right' edge))) rfl rfl

/-! ### A comparator's input moves (R167, R169) -/

@[simp] theorem State.cmpMove_off : s.cmpMove n k .off = s := by simp [State.cmpMove]

/-- On a parked channel CH and CL are watched, and MH and ML are not. -/
theorem State.cmpMove_of_parked (hn : new ≠ .off) (hp : (s.setSide n k new).parkedCh n = true) :
    s.cmpMove n k new = if k < 2 then (s.setSide n k new).cmpWatch n k new else s.setSide n k new := by
  simp [State.cmpMove, hn, hp]

/-- A comparator that is disabled, OFF or already there does not move, and none moves into UNK. -/
theorem State.cmpMove_of_rest (hn : new ≠ .off) (hp : (s.setSide n k new).parkedCh n = false)
    (h : new = .unk ∨ (s.setSide n k new).cmpEn n k = false ∨ (s.setSide n k new).cmp n k = new ∨
      (s.setSide n k new).cmp n k = .off) : s.cmpMove n k new = s.setSide n k new := by
  simp [State.cmpMove, hn, hp, h]

/-- A comparator that resolves takes its state; from a known level it may make an edge, and a safety monitor may trip. -/
theorem State.cmpMove_of_moves (hn : new ≠ .off) (hp : (s.setSide n k new).parkedCh n = false) (hu : new ≠ .unk)
    (he : (s.setSide n k new).cmpEn n k = true) (hc : (s.setSide n k new).cmp n k ≠ new)
    (ho : (s.setSide n k new).cmp n k ≠ .off) :
    let t := s.setSide n k new
    let u := (t.setCmp n k new).setUnkAt n k none
    s.cmpMove n k new = (if t.cmp n k ≠ .unk ∧ t.edgeSel n k new = true then u.cmpEdge n k else u).tripCheck n k new := by
  simp [State.cmpMove, hn, hp, hu, he, hc, ho]

/-! ### A monitor in UNK (R168) -/

/-- 8,000 CCLK, 10 µs, are the time that a safety monitor may stand in UNK. -/
theorem execUnkTimeout_of_since {n : Chan} {k : Fin 2} {t : Nat} {s : State}
    (ht : (if k = 0 then (s.ch n).unkAt.1 else (s.ch n).unkAt.2) = some t) : execUnkTimeout n k s =
      .next (if flag (s.ap (Off.chMoncfg (n / 32) (n % 32))) 31 = true ∧ t + 8000 ≤ s.now ∧ s.cmp n (2 + k) = .unk
        then (s.setUnkAt n (2 + k) none).monTrip n else s) := by
  simp only [execUnkTimeout, ht, State.monCfg, chOff, Bool.and_eq_true, decide_eq_true_eq, and_assoc]

/-! ### A clamp acts (R178, R455) -/

/-- Flags the records of the site of channel `n`, where it has one. -/
def State.clampSite (s : State) (n : Nat) : State := match s.chSite n with
  | some k => s.flagSite k s.steep.num fClamp
  | none => s

/-- A channel that parked in an earlier CCLK has no clamp. -/
theorem State.clamp_of_parked_before {acts : Bool} (hp : s.parkedCh n = true)
    (hf : flag (s.setNow (Off.chStat (n / 32) (n % 32))) 31 = false) : s.clamp n acts = s := by
  simp [State.clamp, chOff, hp, hf]

/-- A clamp that acts as its channel parks is recorded, but CL_CLAMP no longer shows it. -/
theorem State.clamp_of_parks_now (hp : s.parkedCh n = true)
    (hf : flag (s.setNow (Off.chStat (n / 32) (n % 32))) 31 = true) :
    s.clamp n true =
      ((s.setRb (Off.chStat (n / 32) (n % 32)) 7 true).fire (0x902 + 8 * (n / 32))).clampSite n := by
  simp only [State.clamp, chOff, hp, hf, evCluster, Nat.add_right_comm]
  rfl

/-- On an unparked channel CL_CLAMP shows the clamp until it ceases to act. -/
theorem State.clamp_of_unparked (hp : s.parkedCh n = false) :
    s.clamp n false = s.setRb (Off.clClamp (n / 32)) (n % 32) false ∧
    s.clamp n true = (((s.setRb (Off.clClamp (n / 32)) (n % 32) true).setRb (Off.chStat (n / 32) (n % 32)) 7 true).fire
      (0x902 + 8 * (n / 32))).clampSite n := by
  constructor
  · simp [State.clamp, hp]
  · simp only [State.clamp, hp, evCluster, Nat.add_right_comm]
    rfl

/-! ### The edge data port (R186, R187) -/

/-- A read that no access of its party holds up, past READY, is answered. -/
theorem State.gateRead_of_open {p : Party} {cmd : Instr} {act : State → State} (h1 : s.partyHeld p = false)
    (h0 : s.partyBehind p = false) (hr : reaches p .pf0 = true) (h2 : s.rst.ready = true) :
    s.gateRead p .pf0 cmd act = act s := by
  simp [State.gateRead, h1, h0, hr, h2]

/-- The entry written: with VIEW = 1 the write is discarded, slot 7 is reserved, and slot 6 is a driver mode of three bits (R185,
R186). -/
theorem State.edgeWrite_eq {c : Nat} {v : Word} : s.edgeWrite c v =
    let i := s.rf (Off.tsEaddr c) 0 16
    let k := 65536 * c + i
    if s.rb (Off.tsEaddr c) 31 then s.setRb (Off.tsErr c) 28 true
    else if i % 8 = 7 then s
    else
      let z := s.lateNote (edgeOff k)
      State.soil { z with edge := Tbl.set 0 z.edge k (v &&& if i % 8 = 6 then 7 else 0xFFFFFF),
                          edgeBad := z.edgeBad.filter (· ≠ k) } (edgeOff k) := by
  have slot (i : Nat) : (65536 * c + i) % 8 = i % 8 := by omega
  simp only [State.edgeWrite, State.edgeAt, slot]
  rfl

/-- A write of TS_EDATA that is taken writes its entry and steps INDEX. -/
theorem State.edgePort_of_accepts {p : Party} {c : Nat} {v : Word} (hc : c < 16)
    (h : s.accepts p .pf0 (Off.tsEdata c) = true) :
    s.edgePort p c v = ((s.took p .pf0 (Off.tsEdata c)).edgeWrite c v).edgeStep c :=
  gateWrite_of_accepts h (found_tsEdata c hc)

end Sys2Proof.Machine

namespace Sys2Proof
open Machine

/-- Settles O45, part by part: the moves of a comparator, a monitor's UNK, the clamps and the edge data port. -/
theorem pinReports : Obligations.PinReports := by
  unfold Obligations.PinReports
  refine ⟨fun n k new s => ⟨?_, fun hn hp => ?_, fun hn hp => ⟨fun h => ?_, fun hu he hc ho => ?_⟩⟩, fun n k t s ht => ?_,
    fun n acts s => ⟨fun hp hf => ?_, fun hp hf => ?_, fun hp => ?_, fun a => ?_⟩,
    fun p c s h1 h0 hr h2 => ?_, fun p c v s h => ?_⟩
  · rintro rfl
    exact congrArg Host.Outcome.next State.cmpMove_off
  · have parked := State.cmpMove_of_parked hn hp
    refine ⟨fun h => congrArg _ (parked.trans ?_), fun hk hw => congrArg _ (parked.trans ?_), fun hk hw hu => ?_⟩
    · rcases h with hk | ⟨hw, rfl⟩
      · exact if_neg (Nat.not_lt.mpr hk)
      · rw [State.cmpWatch_unk hw, ite_self]
    · rw [if_pos hk, State.cmpWatch_of_asleep hw]
    · have watch := (parked.trans (if_pos hk)).trans (State.cmpWatch_of_wakes hw hu)
      exact ⟨fun h => congrArg _ (watch.trans (if_neg h)),
        fun h => congrArg _ ((watch.trans (if_pos h)).trans State.wake_eq)⟩
  · exact congrArg _ (State.cmpMove_of_rest hn hp h)
  · refine congrArg _ ((State.cmpMove_of_moves hn hp hu he hc ho).trans ?_)
    simp only [State.tripCheck_eq, State.edgeSel_iff, State.cmpEdge_eq, State.setUnkAt_now, State.setCmp_now]
    rfl
  · exact execUnkTimeout_of_since ht
  · exact congrArg _ (State.clamp_of_parked_before hp hf)
  · exact congrArg _ (State.clamp_of_parks_now hp hf)
  · exact ⟨congrArg _ (State.clamp_of_unparked hp).1, congrArg _ (State.clamp_of_unparked hp).2⟩
  · exact ⟨rfl, rfl⟩
  · exact congrArg _ (State.gateRead_of_open h1 h0 hr h2)
  · exact congrArg Host.Outcome.next ((State.edgePort_of_accepts c.isLt h).trans (by rw [State.edgeWrite_eq]; rfl))

end Sys2Proof
end

section
/-!
SUPPORT. The capture engine's registers, re-arm, governor and triggers, one command at a time: what a write of a list register
and of CAP_GOV does once it is taken, what ends a re-arm, when and how D rises, and what a condition does at one trigger slot
and so at all that it meets; and the statement on all of them.
-/
namespace Sys2Proof.Machine

variable {s : State} {p : Party} {c l : Nat} {v : Word}

/-! ### The engine of one cluster -/

@[simp] theorem State.cap_setCap_same (e : CapSt) : (s.setCap c e).cap c = e := by
  simp only [State.cap, State.setCap, State.cl_setCl_same]

/-! ### Registers (R204, R229) -/

/-- The twelve registers of a list stand one behind the other: CFG, LEN, CHMASK, ROUTE, TRG0 to TRG7. -/
theorem found_caplConfig (hc : c < 16) (hl : l < 8) (k : Fin 12) :
    (findReg (Space.rows .pf0) (Off.caplCfg c l + 4 * k)).isSome = true := by
  have place {o : Nat} (found : (findReg pf0Rows o).isSome = true) (h : Off.caplCfg c l + 4 * k = o) :
      (findReg (Space.rows .pf0) (Off.caplCfg c l + 4 * k)).isSome = true := h ▸ found
  obtain h | h | h | h | h : k.val = 0 ∨ k.val = 1 ∨ k.val = 2 ∨ k.val = 3 ∨ 4 ≤ k.val := by omega
  · exact place (found_caplCfg c hc l hl) (by omega)
  · exact place (found_caplLen c hc l hl) (by simp only [Off.caplCfg, Off.caplLen]; omega)
  · exact place (found_caplChmask c hc l hl) (by simp only [Off.caplCfg, Off.caplChmask]; omega)
  · exact place (found_caplRoute c hc l hl) (by simp only [Off.caplCfg, Off.caplRoute]; omega)
  · exact place (found_caplTrg c hc l hl (k - 4) (by omega)) (by simp only [Off.caplCfg, Off.caplTrg]; omega)

/-- A list register is taken while its list is IDLE, and discarded with CFGREJ and a notice otherwise. -/
theorem State.caplConfig_eq {k : Nat} : s.caplConfig c l k v =
    if s.capState c l = 0 then s.setRg (Off.caplCfg c l + 4 * k)
      (v &&& (if k = 0 then 0xFF0FFFFF else if k = 1 then 0xFFFFFF else if k = 2 then 0xFFFFFFFF
        else if k = 3 then 0xF00FFFFF else 0xF00003FF))
    else (s.setRb (Off.caplStat c l) 28 true).notice c 0 (Off.caplStat c l) :=
  ite_not ..

/-- The 20 implemented bits of CAP_GOV hold both bounds of the fill. -/
theorem fld_and_capGov {lo : Nat} (h : lo + 8 ≤ 20) : fld (v &&& 0xFFFFF) lo 8 = fld v lo 8 := by
  apply Nat.eq_of_testBit_eq
  intro i
  rw [fld_testBit, fld_testBit]
  by_cases hi : i < 8
  · have kept : (0xFFFFF : Word).getLsbD (lo + i) = true := by
      rw [show (0xFFFFF : Word) = BitVec.ofNat 32 (2 ^ 20 - 1) from rfl, BitVec.getLsbD_ofNat, Nat.testBit_two_pow_sub_one]
      simp only [Bool.and_eq_true, decide_eq_true_eq]
      omega
    rw [BitVec.getLsbD_and, kept, Bool.and_true]
  · simp [hi]

/-- CAP_GOV is taken unless HIGH is 0 or LOW is not below it. -/
theorem State.capGovWrite_eq : s.capGovWrite c v =
    if fld v 8 8 = 0 ∨ fld v 8 8 ≤ fld v 0 8 then s.notice c 0 (Off.capGov c)
    else ((s.setRg (Off.capGov c) (v &&& 0xFFFFF)).clampD c).capTouch c := by
  have high : fld (v &&& 0xFFFFF) 8 8 = fld v 8 8 := fld_and_capGov (by omega)
  have low : fld (v &&& 0xFFFFF) 0 8 = fld v 0 8 := fld_and_capGov (by omega)
  simp only [State.capGovWrite, high, low]
  rfl

/-! ### Re-arm (R202) -/

/-- The end of a re-arm acts on the active list alone, and only where it re-arms. -/
theorem State.rearm_of_act (h : (s.cap c).act = some l) : s.rearm c =
    if s.capState c l = 3 then (s.setCap c { s.cap c with
      dead := if (s.cap c).closedAt ≤ s.tstamp then (s.tstamp - (s.cap c).closedAt).toNat else 0, fired := [] }).capArmedNow c l
    else s := by
  simp only [State.rearm, h, capRearm]

/-! ### The governor (R220) -/

/-- GOV_RISE acts under pressure whose last rise is 800 CCLK ago. -/
theorem execGovRise_of_press {c : Cl} {t : Nat} (h : (s.cap c).pressAt = some t) :
    execGovRise c s = .next (if s.pressed c = true ∧ t + 800 ≤ s.now then s.govRise c else s) := by
  simp only [execGovRise, h]

/-- Without pressure nothing rises. -/
theorem execGovRise_of_none {c : Cl} (h : (s.cap c).pressAt = none) : execGovRise c s = .next s := by
  simp only [execGovRise, h]

/-- What a rise leaves beside D or the fold: a count, a new piece for the next entry, and the event of its cluster. -/
def State.rose (s : State) (c : Nat) : State :=
  ((s.count (Off.capGovstat c) 0 16 1).govSplit c).fire (0x905 + 8 * c)

/-- A rise under an active list: D below MAXEXP goes up by one; D at MAXEXP folds a RAW list with FOLD once. -/
theorem State.govRise_of_act (h : (s.cap c).act = some l) : s.govRise c =
    let u := s.setCap c { s.cap c with pressAt := some s.now }
    let cfg := s.rg (Off.caplCfg c l)
    if s.capD c < fld cfg 24 4 then (u.setRf (Off.capGovstat c) 28 4 (s.capD c + 1)).rose c
    else if s.capD c = fld cfg 24 4 ∧ fld cfg 28 2 = 1 ∧ flag cfg 30 = true ∧ (!s.capFolded c) = true
      then (u.setRb (Off.capGovstat c) 27 true).rose c
    else u := by
  have source : evCluster c 5 = 0x905 + 8 * c := by simp only [evCluster]; omega
  simp only [State.govRise, State.cap_setCap_same, h, source]
  rfl

/-! ### Triggers (R205, R206) -/

/-- A condition meets slot `k` of list `l`: in ARMED the slot fires, unless it has fired, with the point `due` from which a
vector may open the segment; else it is counted in MISSCNT. -/
def State.trigSlot (s : State) (c l due k : Nat) : State :=
  if s.capState c l = 1 then
    if (s.cap c).fired.any (fun f => f.1 = k) then s
    else s.setCap c { s.cap c with fired := (s.cap c).fired ++ [(k, due)] }
  else s.count (Off.caplCnt c l) 16 16 1

/-- The slots of list `l` that a condition of type `ty` meets, in order. -/
def State.trigHits (s : State) (c l ty : Nat) (sel : Nat → Bool) : List Nat :=
  (List.range 8).filter fun k =>
    s.rb (Off.caplTrg c l k) 31 && decide (s.rf (Off.caplTrg c l k) 28 3 = ty) && sel (s.rf (Off.caplTrg c l k) 0 10)

variable {ty due k : Nat} {sel : Nat → Bool} {ks : List Nat}

/-- With no active list a condition does nothing. -/
theorem State.capTrigger_of_none (h : (s.cap c).act = none) : s.capTrigger c ty due sel = s := by
  simp only [State.capTrigger, h]

/-- A condition meets its slots of the active list one by one, all with the same point. -/
theorem State.capTrigger_of_act (h : (s.cap c).act = some l) : ∃ d,
    s.capTrigger c ty due sel = (s.trigHits c l ty sel).foldl (fun s k => s.trigSlot c l d k) s := by
  simp only [State.capTrigger, h]
  exact ⟨_, rfl⟩

/-- At an ARMED list a slot fires once. -/
theorem State.trigSlot_of_armed (h : s.capState c l = 1) : s.trigSlot c l due k =
    if (s.cap c).fired.any (fun f => f.1 = k) then s
    else s.setCap c { s.cap c with fired := (s.cap c).fired ++ [(k, due)] } := if_pos h

/-- At any other list it is counted. -/
theorem State.trigSlot_of_not_armed (h : s.capState c l ≠ 1) :
    s.trigSlot c l due k = s.count (Off.caplCnt c l) 16 16 1 := if_neg h

/-- What a slot does leaves the state of its list: neither MISSCNT nor the fired slots are part of it. -/
@[simp] theorem State.trigSlot_capState : (s.trigSlot c l due k).capState c l = s.capState c l := by
  by_cases h : s.capState c l = 1
  · rw [State.trigSlot_of_armed h]
    split <;> rfl
  · rw [State.trigSlot_of_not_armed h]
    have apart : Off.caplStat c l ≠ Off.caplCnt c l := by simp only [Off.caplStat, Off.caplCnt]; omega
    simp only [State.capState, State.rf, State.rg_count_ne _ _ _ _ _ _ apart]

/-- Nor does it touch the faults or a sequencer. -/
theorem State.trigSlot_frame : (s.trigSlot c l due k).fault = s.fault ∧ (s.trigSlot c l due k).seq = s.seq := by
  by_cases h : s.capState c l = 1
  · rw [State.trigSlot_of_armed h]
    split <;> exact ⟨rfl, rfl⟩
  · rw [State.trigSlot_of_not_armed h]
    exact ⟨rfl, rfl⟩

/-- The slots that have fired after one more was met: those before it, and it. -/
theorem State.trigSlot_fired (h : s.capState c l = 1) (j : Nat) :
    (∃ d, (j, d) ∈ ((s.trigSlot c l due k).cap c).fired) ↔ (∃ d, (j, d) ∈ (s.cap c).fired) ∨ j = k := by
  rw [State.trigSlot_of_armed h]
  split
  case isTrue again =>
    obtain ⟨⟨_, d⟩, hd, hk⟩ := List.any_eq_true.mp again
    obtain rfl := of_decide_eq_true hk
    exact ⟨.inl, fun q => q.elim id fun e => ⟨d, e ▸ hd⟩⟩
  case isFalse =>
    simp only [State.cap_setCap_same, List.mem_append, List.mem_singleton, Prod.mk.injEq, exists_or, exists_and_left,
      exists_eq, and_true]

/-- All the slots that a condition meets leave the faults and the sequencers. -/
theorem State.foldl_trigSlot_frame : (ks.foldl (fun s k => s.trigSlot c l due k) s).fault = s.fault ∧
    (ks.foldl (fun s k => s.trigSlot c l due k) s).seq = s.seq := by
  induction ks generalizing s with
  | nil => exact ⟨rfl, rfl⟩
  | cons k ks ih =>
    obtain ⟨fault, seq⟩ := State.trigSlot_frame (s := s) (c := c) (l := l) (due := due) (k := k)
    exact ⟨ih.1.trans fault, ih.2.trans seq⟩

/-- At an ARMED list all the slots that a condition meets have fired, and no other has. -/
theorem State.foldl_trigSlot_fired (h : s.capState c l = 1) (j : Nat) :
    (∃ d, (j, d) ∈ ((ks.foldl (fun s k => s.trigSlot c l due k) s).cap c).fired) ↔
      (∃ d, (j, d) ∈ (s.cap c).fired) ∨ j ∈ ks := by
  induction ks generalizing s with
  | nil => simp
  | cons k ks ih =>
    rw [List.foldl_cons, ih (State.trigSlot_capState.trans h), State.trigSlot_fired h, List.mem_cons, or_assoc]

/-- At any other list MISSCNT, short of its end, counts each slot that a condition meets. -/
theorem State.foldl_trigSlot_missed (h : s.capState c l ≠ 1) (room : s.rf (Off.caplCnt c l) 16 16 + ks.length < 2 ^ 16) :
    (ks.foldl (fun s k => s.trigSlot c l due k) s).rf (Off.caplCnt c l) 16 16 =
      s.rf (Off.caplCnt c l) 16 16 + ks.length := by
  induction ks generalizing s with
  | nil => rfl
  | cons k ks ih =>
    rw [List.length_cons] at room ⊢
    have one : (s.trigSlot c l due k).rf (Off.caplCnt c l) 16 16 = s.rf (Off.caplCnt c l) 16 16 + 1 := by
      rw [State.trigSlot_of_not_armed h, State.rf, State.rg_count_same, fld_satAdd _ _ _ _ (by omega), State.rf]
      rw [State.rf] at room
      omega
    rw [List.foldl_cons, ih (fun h1 => h (State.trigSlot_capState.symm.trans h1)) (by omega), one]
    omega

end Sys2Proof.Machine

namespace Sys2Proof
open Machine

/-- Settles O40, part by part: the list registers and CAP_GOV, the end of a re-arm, the governor's rise and the triggers. -/
theorem captureGovernor : Obligations.CaptureGovernor := by
  unfold Obligations.CaptureGovernor
  refine ⟨⟨fun p c l k v s h => ?_, fun p c v s h => ?_, fun c l s h => ?_,
    fun c s => ⟨fun t ht hp hd => ?_, fun t ht hd => ?_, fun h => ?_⟩, fun c l s h => ?_⟩,
    fun c ty due sel s => ⟨State.capTrigger_of_none, fun l h => ?_⟩⟩
  · exact congrArg Host.Outcome.next ((gateWrite_of_accepts h (found_caplConfig c.isLt l.isLt k)).trans State.caplConfig_eq)
  · exact congrArg Host.Outcome.next ((gateWrite_of_accepts h (found_capGov c c.isLt)).trans State.capGovWrite_eq)
  · have rearm := State.rearm_of_act h
    exact ⟨fun h3 => congrArg Host.Outcome.next (rearm.trans (if_pos h3)),
      fun h3 => congrArg Host.Outcome.next (rearm.trans (if_neg h3))⟩
  · exact (execGovRise_of_press ht).trans (congrArg _ (if_pos ⟨hp, hd⟩))
  · exact (execGovRise_of_press ht).trans (congrArg _ (if_neg fun q => Nat.not_le.mpr hd q.2))
  · exact execGovRise_of_none h
  · have rise := State.govRise_of_act h
    refine ⟨fun below => rise.trans (if_pos below), fun top raw fold unfolded => rise.trans ?_⟩
    exact (if_neg (Nat.not_lt.mpr top.ge)).trans (if_pos ⟨top, raw, fold, congrArg not unfolded⟩)
  · obtain ⟨d, meets⟩ := State.capTrigger_of_act (ty := ty) (due := due) (sel := sel) h
    rw [meets]
    exact ⟨fun idle room _ => State.foldl_trigSlot_missed idle room, State.foldl_trigSlot_fired, State.foldl_trigSlot_frame⟩

end Sys2Proof
end

section
/-!
SUPPORT. The queue manager and the link, one command at a time: what a look at a sound descriptor leaves, which writes of the
descriptor window are stored and what they store, the moves of HEAD and of the holdover area, the service of a DMA engine and the
training of the link; and the statement on all of them.
-/
namespace Sys2Proof.Machine

variable {s : State} {p : Party} {q k : Nat} {v : Word}

/-! ### A look at a sound descriptor (R231, R234) -/

/-- A read of the descriptor cache of which the checker reports nothing changes nothing, takes a free value, or also meets and
counts a word that the strainer found bad. -/
theorem State.descCache_ok_cases (s : State) : s.descCache .ok = s ∨ s.descCache .ok = s.fresh ∨
    ∃ t w, s.descCache .ok = (State.uncorrected { s with qm := { s.qm with dcLost := t } } 81 w).fresh := by
  simp only [State.descCache, reduceCtorEq, if_false]
  split
  · exact .inl rfl
  case h_2 w t _ =>
    split
    · exact .inr (.inr ⟨t, w, rfl⟩)
    · exact .inr (.inl rfl)

/-- None of these touches vector memory. -/
@[simp] theorem State.descCache_ok_mem (s : State) : (s.descCache .ok).mem = s.mem := by
  rcases s.descCache_ok_cases with e | e | ⟨t, w, e⟩ <;> rw [e] <;> rfl

/-- Nor does any halt or release a DMA engine: the registers counted in are those of memory 81. -/
@[simp] theorem State.descCache_ok_dmaHalted (s : State) (e : Nat) : (s.descCache .ok).dmaHalted e = s.dmaHalted e := by
  rcases s.descCache_ok_cases with h | h | ⟨t, w, h⟩
  · rw [h]
  · rw [h]; rfl
  · have address : Off.dmaStat e ≠ Off.miAddr 81 := by simp only [Off.dmaStat, Off.miAddr]; omega
    have status : Off.dmaStat e ≠ Off.miStat 81 := by simp only [Off.dmaStat, Off.miStat]; omega
    rw [h]
    exact congrArg (flag · 31) ((State.rg_count_ne _ _ _ _ _ _ status).trans (State.rg_setRg_ne _ _ _ _ address))

/-- So every word of a descriptor, its soundness and its lines stand as they were. -/
@[simp] theorem State.descCache_ok_lineLive (s : State) (r : Nat) : (s.descCache .ok).lineLive r = s.lineLive r := by
  simp only [State.lineLive, State.descCache_ok_mem]
@[simp] theorem State.descCache_ok_qWord (s : State) (q k : Nat) : (s.descCache .ok).qWord q k = s.qWord q k := by
  simp only [State.qWord, State.descCache_ok_mem, State.descCache_ok_lineLive]
@[simp] theorem State.descCache_ok_qBad (s : State) (q : Nat) : (s.descCache .ok).qBad q = s.qBad q := by
  simp only [State.qBad, State.descCache_ok_mem]
@[simp] theorem State.descCache_ok_qEn (s : State) (q : Nat) : (s.descCache .ok).qEn q = s.qEn q := by
  simp only [State.qEn, State.descCache_ok_qWord]
@[simp] theorem State.descCache_ok_qHost (s : State) (q : Nat) : (s.descCache .ok).qHost q = s.qHost q := by
  simp only [State.qHost, State.descCache_ok_qWord]
@[simp] theorem State.descCache_ok_qIdx (s : State) (q k : Nat) : (s.descCache .ok).qIdx q k = s.qIdx q k := by
  simp only [State.qIdx, State.descCache_ok_qWord]

/-- A look at a descriptor that was written and has no uncorrectable error is a read of the cache and nothing more. -/
theorem State.queueUe_of_sound (hb : s.qBad q = false) (hl : s.lineLive (descRow + 4 * q) = true) :
    s.queueUe q = s.descCache .ok := by
  have live : s.lineLive (descWordRow q 0) = true := hl
  have seen : (s.descCache .ok).descSeen q = s.descCache .ok := by
    rw [State.descSeen, State.descCache_ok_lineLive, if_pos live]
  simp only [State.queueUe, seen, State.descCache_ok_qBad, hb, Bool.false_and, Bool.false_eq_true, if_false]

/-! ### Which writes of the descriptor window are stored (R232, R233) -/

/-- A ring fits with a size from 7 to 22 and an end at or below the descriptor region. -/
theorem State.ringFits_iff {n : Nat} : s.ringFits q n = true ↔
    7 ≤ n ∧ n ≤ 22 ∧ s.qBase q + 32 * 2 ^ n ≤ descRow * 8 := by
  simp only [State.ringFits, Bool.and_eq_true, decide_eq_true_eq, and_assoc]

/-- What is asked of a write does not turn on the read of the cache. -/
theorem State.qdOk_descCache_ok : (s.descCache .ok).qdOk q k v = s.qdOk q k v := by
  simp only [State.qdOk, State.ringFits, State.qBase, State.qHalted, State.qDmae, State.descCache_ok_qBad,
    State.descCache_ok_qEn, State.descCache_ok_qWord, State.descCache_ok_qHost, State.descCache_ok_qIdx,
    State.descCache_ok_dmaHalted]
  congr

/-- A disabled queue is enabled where its ring fits. -/
theorem State.qdOk_of_enables (hb : s.qBad q = false) (he : s.qEn q = false) (hv : flag v 31 = true) :
    s.qdOk q 0 v = s.ringFits q (fld v 17 5) := by
  simp [State.qdOk, hb, he, hv]

/-- The fixed bits of W0 of an enabled queue may not change. -/
theorem State.qdOk_of_changes_fixed (hb : s.qBad q = false) (he : s.qEn q = true)
    (hx : (v ^^^ s.qWord q 0) &&& 0x6FFE0000 ≠ 0) : s.qdOk q 0 v = false := by
  have fixed : ~~~(w0Any ||| 0x80000000) = (0x6FFE0000 : Word) := by decide
  rw [← fixed] at hx
  simp only [State.qdOk, hb, he, if_pos hx, Bool.false_eq_true, Bool.not_true, if_true, if_false]

/-- The host base is open while the queue is disabled. -/
theorem State.qdOk_of_host_base (hb : s.qBad q = false) (hk : k = 2 ∨ k = 3) : s.qdOk q k v = !s.qEn q := by
  rcases hk with rfl | rfl <;> simp [State.qdOk, hb]

/-- A write of an index word is let through. -/
theorem State.qdOk_of_index (hb : s.qBad q = false) (hk : 4 ≤ k) : s.qdOk q k v = true := by
  simp only [State.qdOk, hb, Bool.false_eq_true, if_false]
  rw [if_neg (by omega), if_neg (by omega), if_neg (by omega)]

/-! ### What a stored write leaves (R233, R234) -/

/-- Enabling a queue clears its indices. -/
theorem State.qdStore_of_enables (he : s.qEn q = false) (hv : flag v 31 = true) : s.qdStore q 0 v =
    (((((s.setQWord q 0 v).setQIdx q 4 0).setQIdx q 5 0).setQIdx q 6 0).setQIdx q 7 0) := by
  have off : flag (s.qWord q 0) 31 = false := he
  simp only [State.qdStore, hv, off, Bool.not_false, Bool.and_self, if_true]

/-- A write of an index word stores nothing. -/
theorem State.qdStore_of_index (hk : 4 ≤ k) : s.qdStore q k v = s := by
  obtain ⟨j, rfl⟩ := Nat.exists_eq_add_of_le' hk
  rfl

/-! ### The write through the window -/

section
variable {w : Fin 8} (ha : s.accepts p .pf0 (Off.qdW w) = true)
include ha

/-- A write of the window that the gate takes is the write of the queue selected. -/
theorem exec_qdWrite_of_accepts : exec (.qdWrite p w v) s = .next ((s.took p .pf0 (Off.qdW w)).qdWrite p w v) :=
  congrArg Host.Outcome.next (gateWrite_of_accepts ha (found_qdW w w.isLt))

variable {z : State} (hz : z = s.took p .pf0 (Off.qdW w)) (hq : q = z.rf Off.qdSel 0 20) (hb : z.qBad q = false)
  (hl : z.lineLive (descRow + 4 * q) = true)
include hz hq hb hl

/-- A write that the rules of its word forbid is counted with a notice. -/
theorem exec_qdWrite_of_forbidden (no : z.qdOk q w v = false) : exec (.qdWrite p w v) s =
    .next (((z.descCache .ok).qmCount Off.qmStat2 8 8).noticeQ q Off.qmStat2) := by
  subst hq hz
  rw [exec_qdWrite_of_accepts ha]
  simp only [State.qdWrite, no, Bool.false_and, Bool.false_eq_true, if_false, State.queueUe_of_sound hb hl,
    State.qdOk_descCache_ok]

/-- A write that they allow, and whose row finds a slot, is stored. -/
theorem exec_qdWrite_of_allowed (fits : z.slotsFor [descWordRow q w] = true) (ok : z.qdOk q w v = true) :
    exec (.qdWrite p w v) s = .next ((z.descCache .ok).qdStore q w v).touchOpen := by
  subst hq hz
  rw [exec_qdWrite_of_accepts ha]
  simp only [State.qdWrite, ok, fits, Bool.not_true, Bool.and_false, Bool.false_eq_true, if_false, if_true,
    State.queueUe_of_sound hb hl, State.qdOk_descCache_ok]

end

/-! ### HEAD and the holdover area (R240, R251) -/

/-- HEAD of an enabled queue moves by ADV up to what its reader may take; else the write is counted with a notice. -/
theorem State.headAdv_of_sound (hb : s.qBad (fld v 12 20) = false)
    (hl : s.lineLive (descRow + 4 * fld v 12 20) = true) : s.headAdv v =
    if s.qEn (fld v 12 20) = false ∨ idxDiff (s.qIdx (fld v 12 20) (if s.qHost (fld v 12 20) then 7 else 5))
        (s.qIdx (fld v 12 20) 4) < fld v 0 12
      then ((s.descCache .ok).qmCount Off.qmStat2 0 8).noticeQ (fld v 12 20) Off.qmStat2
      else ((s.descCache .ok).setQIdx (fld v 12 20) 4 (s.qIdx (fld v 12 20) 4 + fld v 0 12)).touchOpen := by
  simp only [State.headAdv, State.queueUe_of_sound hb hl, State.descCache_ok_qBad, State.descCache_ok_qEn,
    State.descCache_ok_qHost, State.descCache_ok_qIdx, hb, Bool.false_or, Bool.or_eq_true, Bool.not_eq_true',
    decide_eq_true_eq, apply_ite (s.qIdx (fld v 12 20))]

/-- The base of the holdover area moves only while the area is empty, and below the descriptor region. -/
theorem State.qmHold_base : s.qmHold false v =
    if s.rf Off.qmHoldStat 0 21 = 0 ∧ (s.rf Off.qmHoldLen 0 15 = 0 ∨ fld v 0 15 + s.rf Off.qmHoldLen 0 15 ≤ descRegion)
      then s.setRg Off.qmHoldBase (BitVec.ofNat 32 (fld v 0 15)) else s.qmCount Off.qmStat2 8 8 := rfl

/-- So does its length. -/
theorem State.qmHold_len : s.qmHold true v =
    if s.rf Off.qmHoldStat 0 21 = 0 ∧ (fld v 0 15 = 0 ∨ s.rf Off.qmHoldBase 0 15 + fld v 0 15 ≤ descRegion)
      then s.setRg Off.qmHoldLen (BitVec.ofNat 32 (fld v 0 15)) else s.qmCount Off.qmStat2 8 8 := rfl

/-! ### DMA engines (R241 to R245) -/

section
variable {e : Nat} {ecc : List Ecc}

/-- While the link cannot carry requests, or the engine is halted, it serves no queue. -/
theorem State.dmaServe_of_stopped (h : s.linkOk = false ∨ s.dmaHalted e = true) : s.dmaServe e ecc = s :=
  if_pos (by simpa using h)

/-- An engine with no queue in its order does nothing. -/
theorem State.dmaServe_of_nil (h : Tbl.get [] s.qm.order e = []) : s.dmaServe e ecc = s := by
  simp only [State.dmaServe, h, ite_self]

/-- The engine takes the first queue of its order and looks at its descriptor. -/
def State.dmaTake (s : State) (e : Nat) (rest : List Nat) : State :=
  State.descCache { s with qm := { s.qm with order := Tbl.set [] s.qm.order e rest } } .ok

/-- It finds the descriptor as it was. -/
@[simp] theorem State.dmaTake_qBad (s : State) (e : Nat) (l : List Nat) (q : Nat) : (s.dmaTake e l).qBad q = s.qBad q :=
  State.descCache_ok_qBad _ q
@[simp] theorem State.dmaTake_qEn (s : State) (e : Nat) (l : List Nat) (q : Nat) : (s.dmaTake e l).qEn q = s.qEn q :=
  State.descCache_ok_qEn _ q
@[simp] theorem State.dmaTake_qIdx (s : State) (e : Nat) (l : List Nat) (q k : Nat) :
    (s.dmaTake e l).qIdx q k = s.qIdx q k := State.descCache_ok_qIdx _ q k

/-- How a service of `q` ends whose copies went from index `i` to `j`, up to `bad`, the row that failed, if one did: the host
learns of what was copied, and at a bad row the engine halts. -/
def State.dmaEnd (s : State) (e q i j : Nat) : Option Nat → State
  | none => s.dmaUpdate q j
  | some r => (if j = i then s else s.dmaUpdate q j).dmaHalt e q r

variable {rest : List Nat} (ho : Tbl.get [] s.qm.order e = q :: rest) (hk : s.linkOk = true)
  (hh : s.dmaHalted e = false) (hb : s.qBad q = false) (hl : s.lineLive (descRow + 4 * q) = true)
include ho hk hh hb hl

/-- A queue that is disabled or has nothing to copy leaves the order. -/
theorem State.dmaServe_of_idle (h : s.qEn q = false ∨ s.qIdx q 7 = s.qIdx q 5) : s.dmaServe e ecc = s.dmaTake e rest := by
  have look : State.queueUe { s with qm := { s.qm with order := Tbl.set [] s.qm.order e rest } } q = s.dmaTake e rest :=
    State.queueUe_of_sound hb hl
  have idle : (!s.qEn q || decide (s.qIdx q 7 = s.qIdx q 5)) = true := by simpa using h
  simp only [State.dmaServe, hk, hh, ho, look, State.dmaTake_qBad, State.dmaTake_qEn, State.dmaTake_qIdx, hb, idle,
    Bool.not_true, Bool.or_self, Bool.false_eq_true, if_false, if_true]

/-- Any other is copied from COPY towards CTAIL. -/
theorem State.dmaServe_of_copies {u : State} {j : Nat} {bad : Option Nat} (he : s.qEn q = true)
    (hi : s.qIdx q 7 ≠ s.qIdx q 5)
    (hu : (s.dmaTake e rest).dmaLoop e q (s.qIdx q 7) ecc (idxDiff (s.qIdx q 5) (s.qIdx q 7)) = (u, j, bad)) :
    s.dmaServe e ecc = u.dmaEnd e q (s.qIdx q 7) j bad := by
  have look : State.queueUe { s with qm := { s.qm with order := Tbl.set [] s.qm.order e rest } } q = s.dmaTake e rest :=
    State.queueUe_of_sound hb hl
  simp only [State.dmaServe, hk, hh, ho, look, State.dmaTake_qBad, State.dmaTake_qEn, State.dmaTake_qIdx, hb, he, hi, hu,
    Bool.not_true, Bool.or_self, decide_false, Bool.false_eq_true, if_false]
  cases bad <;> rfl

end

/-! ### The link (R414, R422) -/

/-- When the link may train. -/
theorem State.mayTrain_iff : s.mayTrain = true ↔
    s.rst.held = false ∧ 7 ≤ s.rf Off.rstStat 16 4 ∧ s.rb Off.clkStat 29 = true ∧ s.qm.perst = false := by
  simp only [State.mayTrain, Bool.and_eq_true, Bool.not_eq_true', decide_eq_true_eq, and_assoc]

end Sys2Proof.Machine

namespace Sys2Proof
open Machine

/-- Settles O56, part by part: the descriptor window, HEAD and the holdover area, the DMA engines and the link. -/
theorem queuesAndLink : Obligations.QueuesAndLink := by
  unfold Obligations.QueuesAndLink
  refine ⟨fun p k v s ha => ?_, fun p v s => ⟨fun ha => ?_, fun ha => ?_, fun ha => ?_⟩,
    fun e ecc s => ⟨fun h => ?_, fun h => ?_, fun q rest ho hk hh hb hw hl => ?_⟩,
    fun s => ⟨rfl, rfl, fun may => ?_, fun may => ?_⟩⟩
  · intro z u q i reject hb hl hs
    have forbidden := exec_qdWrite_of_forbidden (v := v) ha rfl rfl hb hl
    have allowed := exec_qdWrite_of_allowed (v := v) ha rfl rfl hb hl hs
    refine ⟨fun he hk hv => ⟨fun h => ?_, fun h7 h22 hr => ?_⟩, fun he hk => ?_, fun he hk hx => ?_, fun hk he => ?_,
      fun hk he => ?_, fun hk => ?_⟩
    · obtain rfl : k = 0 := Fin.ext hk
      refine forbidden ((State.qdOk_of_enables hb he hv).trans (Bool.eq_false_iff.mpr fun fits => ?_))
      obtain ⟨h7, h22, hr⟩ := State.ringFits_iff.mp fits
      exact h.elim (Nat.not_lt.mpr h7) fun h => h.elim (Nat.not_lt.mpr h22) (Nat.not_lt.mpr hr)
    · obtain rfl : k = 0 := Fin.ext hk
      rw [allowed ((State.qdOk_of_enables hb he hv).trans (State.ringFits_iff.mpr ⟨h7, h22, hr⟩))]
      exact congrArg (Host.Outcome.next ∘ State.touchOpen) (State.qdStore_of_enables ((z.descCache_ok_qEn q).trans he) hv)
    · exact forbidden ((State.qdOk_of_host_base hb hk).trans (congrArg not he))
    · obtain rfl : k = 0 := Fin.ext hk
      exact forbidden (State.qdOk_of_changes_fixed hb he hx)
    · obtain rfl : k = 2 := Fin.ext hk
      exact allowed ((State.qdOk_of_host_base hb (.inl rfl)).trans (congrArg not he))
    · obtain rfl : k = 3 := Fin.ext hk
      exact allowed ((State.qdOk_of_host_base hb (.inr rfl)).trans (congrArg not he))
    · rw [allowed (State.qdOk_of_index hb hk), State.qdStore_of_index hk]
  · intro z u q adv limit hb hl
    exact congrArg Host.Outcome.next ((gateWrite_of_accepts ha found_qheadAdv).trans (State.headAdv_of_sound hb hl))
  · exact congrArg Host.Outcome.next ((gateWrite_of_accepts ha found_qmHoldBase).trans State.qmHold_base)
  · exact congrArg Host.Outcome.next ((gateWrite_of_accepts ha found_qmHoldLen).trans State.qmHold_len)
  · refine congrArg Host.Outcome.next ?_
    rcases h with hw | h
    · exact if_pos hw
    · rw [State.dmaServe_of_stopped h, ite_self]
  · exact congrArg Host.Outcome.next (by rw [State.dmaServe_of_nil h, ite_self])
  · intro t i
    have serve : exec (.dmaCopy e ecc) s = .next (s.dmaServe e ecc) :=
      congrArg Host.Outcome.next (if_neg (Bool.eq_false_iff.mp hw))
    rw [serve]
    refine ⟨fun h => congrArg Host.Outcome.next (State.dmaServe_of_idle ho hk hh hb hl h), fun u j bad he hi hu => ?_⟩
    rw [State.dmaServe_of_copies ho hk hh hb hl he hi hu]
    cases bad <;> rfl
  · exact congrArg Host.Outcome.next (if_pos (State.mayTrain_iff.mpr may))
  · exact congrArg Host.Outcome.next (if_neg (mt State.mayTrain_iff.mp may))

end Sys2Proof
end

section
/-!
SUPPORT. One command and one step: every command keeps what `Kept` promises, by cases on the command; a step is a command or a
CCLK, and both keep it but for the queue and the time; and the statements on all steps, on time and on the state of reset.
-/
namespace Sys2Proof.Machine

variable {s t : State}

/-! ### One command -/

/-- Every command keeps the promises of `Kept`: one lemma of Laws/ per command. -/
theorem kept_exec {c : Instr} (done : exec c s = .next t) : Kept s t :=
  match c with
  | .registerWrite p sp off shape v => kept_execRegisterWrite p sp off shape v done
  | .lowWordRead p sp off shape => kept_execLowWordRead p sp off shape done
  | .chsiteWrite p n v => kept_execChsiteWrite p n v done
  | .railsiteWrite p r v => kept_execRailsiteWrite p r v done
  | .auxsiteWrite p a v => kept_execAuxsiteWrite p a v done
  | .siteEnable p site v => kept_execSiteEnable p site v done
  | .siteDisable p site v => kept_execSiteDisable p site v done
  | .siteUnfence p site v => kept_execSiteUnfence p site v done
  | .clusterPark p c v => kept_execClusterPark p c v done
  | .parkComplete c => kept_execParkComplete c done
  | .clusterUnpark p c v => kept_execClusterUnpark p c v done
  | .tick => kept_execTick done
  | .heartbeatToggle => kept_execHeartbeatToggle done
  | .clusterPourDone c => kept_execClusterPourDone c done
  | .pourDone => kept_execPourDone done
  | .pourLimitExpiry => kept_execPourLimitExpiry done
  | .seqRun p c v => kept_execSeqRun p c v done
  | .seqStop p c v => kept_execSeqStop p c v done
  | .seqRegWrite p x k v => kept_execSeqRegWrite p x k v done
  | .idmaGo p c v => kept_execIdmaGo p c v done
  | .idmaComplete c => kept_execIdmaComplete c done
  | .nop x w mc => kept_execNop x w mc done
  | .vec x w mc avail => kept_execVec x w mc avail done
  | .vecr x w mc avail => kept_execVecr x w mc avail done
  | .tset x w mc => kept_execTset x w mc done
  | .sitem x w mc => kept_execSitem x w mc done
  | .add x w mc => kept_execAdd x w mc done
  | .sub x w mc => kept_execSub x w mc done
  | .and x w mc => kept_execAnd x w mc done
  | .or x w mc => kept_execOr x w mc done
  | .xor x w mc => kept_execXor x w mc done
  | .shl x w mc => kept_execShl x w mc done
  | .shr x w mc => kept_execShr x w mc done
  | .sar x w mc => kept_execSar x w mc done
  | .cmp x w mc => kept_execCmp x w mc done
  | .mul x w mc => kept_execMul x w mc done
  | .addi x w mc => kept_execAddi x w mc done
  | .subi x w mc => kept_execSubi x w mc done
  | .andi x w mc => kept_execAndi x w mc done
  | .ori x w mc => kept_execOri x w mc done
  | .xori x w mc => kept_execXori x w mc done
  | .shli x w mc => kept_execShli x w mc done
  | .shri x w mc => kept_execShri x w mc done
  | .sari x w mc => kept_execSari x w mc done
  | .cmpi x w mc => kept_execCmpi x w mc done
  | .movi x w mc => kept_execMovi x w mc done
  | .mov x w mc => kept_execMov x w mc done
  | .mtlc x w mc => kept_execMtlc x w mc done
  | .mflc x w mc => kept_execMflc x w mc done
  | .mfs x w mc => kept_execMfs x w mc done
  | .ldv x w mc => kept_execLdv x w mc done
  | .stv x w mc => kept_execStv x w mc done
  | .vmemAccessDone x ecc => kept_execVmemAccessDone x ecc done
  | .ovl x w mc => kept_execOvl x w mc done
  | .ovlw x w mc => kept_execOvlw x w mc done
  | .steep x w mc => kept_execSteep x w mc done
  | .pour x w mc => kept_execPour x w mc done
  | .halt x w mc => kept_execHalt x w mc done
  | .tret x w mc => kept_execTret x w mc done
  | .jmp x w mc => kept_execJmp x w mc done
  | .jf x w mc => kept_execJf x w mc done
  | .je x w mc => kept_execJe x w mc done
  | .call x w mc => kept_execCall x w mc done
  | .ret x w mc => kept_execRet x w mc done
  | .loop x w mc => kept_execLoop x w mc done
  | .endl x w mc => kept_execEndl x w mc done
  | .mloop x w mc avail => kept_execMloop x w mc avail done
  | .mloopPassResolve c avail => kept_execMloopPassResolve c avail done
  | .range x w mc => kept_execRange x w mc done
  | .force x w mc => kept_execForce x w mc done
  | .meas x w mc => kept_execMeas x w mc done
  | .capTrig x w mc => kept_execCapTrig x w mc done
  | .capArm x w mc => kept_execCapArm x w mc done
  | .capClose x w mc => kept_execCapClose x w mc done
  | .capDisarm x w mc => kept_execCapDisarm x w mc done
  | .evs x w mc => kept_execEvs x w mc done
  | .evw x w mc => kept_execEvw x w mc done
  | .evwTimeout x => kept_execEvwTimeout x done
  | .qpush x w mc => kept_execQpush x w mc done
  | .sfclr x w mc => kept_execSfclr x w mc done
  | .rdr w mc => kept_execRdr w mc done
  | .wrr w mc => kept_execWrr w mc done
  | .regAccessDone => kept_execRegAccessDone done
  | .waitc w mc => kept_execWaitc w mc done
  | .waitcExpiry => kept_execWaitcExpiry done
  | .cpx w mc ecc => kept_execCpx w mc ecc done
  | .cpTransferDone data pollTimeout => kept_execCpTransferDone data pollTimeout done
  | .interruptEntry x => kept_execInterruptEntry x done
  | .vectorApply c => kept_execVectorApply c done
  | .strobeResolve c y obs => kept_execStrobeResolve c y obs done
  | .rangeApply c => kept_execRangeApply c done
  | .forceApply c => kept_execForceApply c done
  | .measApply c => kept_execMeasApply c done
  | .measSettleEnd c y => kept_execMeasSettleEnd c y done
  | .adcSampleDone c k code => kept_execAdcSampleDone c k code done
  | .listArmApply c => kept_execListArmApply c done
  | .listTrigApply c => kept_execListTrigApply c done
  | .listCloseApply c => kept_execListCloseApply c done
  | .listDisarmApply c => kept_execListDisarmApply c done
  | .evsEntryApply c => kept_execEvsEntryApply c done
  | .vectorStallEnd c avail => kept_execVectorStallEnd c avail done
  | .underrunStart c => kept_execUnderrunStart c done
  | .potCfgWrite p k v => kept_execPotCfgWrite p k v done
  | .potWrWrite p k v => kept_execPotWrWrite p k v done
  | .bar2Read row ecc => kept_execBar2Read row ecc done
  | .bar2Write row data be ecc => kept_execBar2Write row data be ecc done
  | .fillGo p v => kept_execFillGo p v done
  | .fillRegionComplete => kept_execFillRegionComplete done
  | .strainerWord m ecc => kept_execStrainerWord m ecc done
  | .bucketLeak m => kept_execBucketLeak m done
  | .comparatorTransition n k new => kept_execComparatorTransition n k new done
  | .unkTimeout n k => kept_execUnkTimeout n k done
  | .clampEngage o acts => kept_execClampEngage o acts done
  | .tsEdataRead p c => kept_execTsEdataRead p c done
  | .tsEdataWrite p c v => kept_execTsEdataWrite p c v done
  | .caplConfigWrite p c l k v => kept_execCaplConfigWrite p c l k v done
  | .capGovWrite p c v => kept_execCapGovWrite p c v done
  | .rearmComplete c => kept_execRearmComplete c done
  | .govRise c => kept_execGovRise c done
  | .recordAccept o => kept_execRecordAccept o done
  | .holdoverMove => kept_execHoldoverMove done
  | .qdWrite p k v => kept_execQdWrite p k v done
  | .qheadAdv p v => kept_execQheadAdv p v done
  | .qmHoldWrite p len v => kept_execQmHoldWrite p len v done
  | .dmaCopy e ecc => kept_execDmaCopy e ecc done
  | .linkDown bmeCleared => kept_execLinkDown bmeCleared done
  | .linkUp => kept_execLinkUp done
  | .tiuGo p t v => kept_execTiuGo p t v done
  | .tiuAbort p t v => kept_execTiuAbort p t v done
  | .tiuConfigWrite p t k v => kept_execTiuConfigWrite p t k v done
  | .tiuStartEdge t tclk e => kept_execTiuStartEdge t tclk e done
  | .tiuStopEdge t tclk e => kept_execTiuStopEdge t tclk e done
  | .tiuShotArm t => kept_execTiuShotArm t done
  | .tiuOverflow t => kept_execTiuOverflow t done
  | .tiuCalGo p t v => kept_execTiuCalGo p t v done
  | .tiuCalDone t hits => kept_execTiuCalDone t hits done
  | .weGo p w v => kept_execWeGo p w v done
  | .weStop p w v => kept_execWeStop p w v done
  | .weConfigWrite p w k v => kept_execWeConfigWrite p w k v done
  | .weStart w => kept_execWeStart w done
  | .weUpdate w avail => kept_execWeUpdate w avail done
  | .weSampleArrive w => kept_execWeSampleArrive w done
  | .syncSend p v => kept_execSyncSend p v done
  | .syncArm p v => kept_execSyncArm p v done
  | .syncPulse phase => kept_execSyncPulse phase done
  | .railVsetWrite p r v => kept_execRailVsetWrite p r v done
  | .railVmaxWrite p r v => kept_execRailVmaxWrite p r v done
  | .railCfgWrite p r v => kept_execRailCfgWrite p r v done
  | .railEnableConfirm r => kept_execRailEnableConfirm r done
  | .railEnfail r => kept_execRailEnfail r done
  | .railSettled r => kept_execRailSettled r done
  | .railRampfail r => kept_execRailRampfail r done
  | .railMeasure r v y => kept_execRailMeasure r v y done
  | .railOcTrip r => kept_execRailOcTrip r done
  | .railDischDone r => kept_execRailDischDone r done
  | .railDtmo r => kept_execRailDtmo r done
  | .stuckEnable e => kept_execStuckEnable e done
  | .sitePowerRequest p site v => kept_execSitePowerRequest p site v done
  | .sitePowerRelease p site v => kept_execSitePowerRelease p site v done
  | .auxCfgWrite p a v => kept_execAuxCfgWrite p a v done
  | .auxCodeWrite p a v => kept_execAuxCodeWrite p a v done
  | .kzEnable p q v => kept_execKzEnable p q v done
  | .kzDisable p q v => kept_execKzDisable p q v done
  | .kzThWrite p q v => kept_execKzThWrite p q v done
  | .kzEnableConfirm q => kept_execKzEnableConfirm q done
  | .kzEnfail q => kept_execKzEnfail q done
  | .kzStopDelay q => kept_execKzStopDelay q done
  | .kzOff q => kept_execKzOff q done
  | .kzUpdate q ohms => kept_execKzUpdate q ohms done
  | .contactRise => kept_execContactRise done
  | .contactFall => kept_execContactFall done
  | .tdSettled => kept_execTdSettled done
  | .liftReqRise => kept_execLiftReqRise done
  | .liftReqFall => kept_execLiftReqFall done
  | .wardenRingMessage => kept_execWardenRingMessage done
  | .sliceSilent q => kept_execSliceSilent q done
  | .sliceDisagree => kept_execSliceDisagree done
  | .wardenSample r v y => kept_execWardenSample r v y done
  | .wardenThprotSample q ohms => kept_execWardenThprotSample q ohms done
  | .heartbeatTimeout q => kept_execHeartbeatTimeout q done
  | .estop => kept_execEstop done
  | .limitCopyCompare q second ue1 ue2 => kept_execLimitCopyCompare q second ue1 ue2 done
  | .f4PermitTimeout => kept_execF4PermitTimeout done
  | .safeRequest p v => kept_execSafeRequest p v done
  | .f2Clear p v => kept_execF2Clear p v done
  | .historyClear p v => kept_execHistoryClear p v done
  | .wardenLimitWrite p off v => kept_execWardenLimitWrite p off v done
  | .wlTbndWrite p v => kept_execWlTbndWrite p v done
  | .ecConfigWrite p k j v => kept_execEcConfigWrite p k j v done
  | .evSwPulse p v => kept_execEvSwPulse p v done
  | .eventPass k => kept_execEventPass k done
  | .pinActionHoldEnd slot => kept_execPinActionHoldEnd slot done
  | .powerInterval mw => kept_execPowerInterval mw done
  | .modelAUpdate ta tmem tmax => kept_execModelAUpdate ta tmem tmax done
  | .modelBUpdate tb => kept_execModelBUpdate tb done
  | .calUdataRead p => kept_execCalUdataRead p done
  | .calUdataWrite p v => kept_execCalUdataWrite p v done
  | .calFdataRead p => kept_execCalFdataRead p done
  | .calSave p v => kept_execCalSave p v done
  | .calSaveDone ok => kept_execCalSaveDone ok done
  | .bgCalStart c y strobe => kept_execBgCalStart c y strobe done
  | .bgCalDone c r => kept_execBgCalDone c r done
  | .patchLoad p v flash => kept_execPatchLoad p v flash done
  | .patchClear p v => kept_execPatchClear p v done
  | .patchLoadDone flash => kept_execPatchLoadDone flash done
  | .refclkLoss => kept_execRefclkLoss done
  | .pllaLockLoss => kept_execPllaLockLoss done
  | .refclkPresent => kept_execRefclkPresent done
  | .pllaLock band => kept_execPllaLock band done
  | .pllaLockTimeout => kept_execPllaLockTimeout done
  | .relockComplete => kept_execRelockComplete done
  | .ovoReadyRise => kept_execOvoReadyRise done
  | .ovoReadyFall => kept_execOvoReadyFall done
  | .clkOutWrite p k v => kept_execClkOutWrite p k v done
  | .clkDelayStep k => kept_execClkDelayStep k done
  | .coldReset supply => kept_execColdReset supply done
  | .fullReset => kept_execFullReset done
  | .pcieReset => kept_execPcieReset done
  | .rstRequest p v => kept_execRstRequest p v done
  | .resetDelayExpiry => kept_execResetDelayExpiry done
  | .ready => kept_execReady done
  | .seqhRun p v => kept_execSeqhRun p v done
  | .seqhStop p v => kept_execSeqhStop p v done
  | .seqhLineFill data crcOk => kept_execSeqhLineFill data crcOk done
  | .linePrefetch data crcOk => kept_execLinePrefetch data crcOk done
  | .flashPoll busy => kept_execFlashPoll busy done
  | .spCmdSafe v => kept_execSpCmdSafe v done
  | .spCmdRst v => kept_execSpCmdRst v done
  | .spPtrWrite v => kept_execSpPtrWrite v done
  | .spDataWrite v => kept_execSpDataWrite v done
  | .spDataRead => kept_execSpDataRead done
  | .spAccessDone => kept_execSpAccessDone done
  | .spFrameError => kept_execSpFrameError done
  | .p1wDataRead => kept_execP1wDataRead done
  | .p1wDataWrite v => kept_execP1wDataWrite v done
  | .readClear p sp off shape => kept_execReadClear p sp off shape done
  | .resetRelease k b => kept_execResetRelease k b done
  | .fetchException x ecc mc => kept_execFetchException x ecc mc done
  | .gateReadbackFault f n => kept_execGateReadbackFault f n done
  | .vectorPeriodEnd c => kept_execVectorPeriodEnd c done

/-! ### One step -/

/-- A step runs the command in front of the queue on the rest. -/
theorem step_of_cons {c : Instr} {rest : List Instr} (h : s.pending = c :: rest) :
    step s = exec c { s with pending := rest } := by
  simp only [step, h]

/-- On an empty queue it is the step of time. -/
theorem step_of_nil (h : s.pending = []) : step s = .next s.idle := by
  simp only [step, h]

/-- What a step keeps whatever it does with the queue and the time. -/
structure StepKept (a b : State) : Prop where
  mem   : a.mem.wf = true → b.mem.wf = true
  regs  : a.ImagesCanonical → b.ImagesCanonical
  latch : a.F5Latched → b.sg Off.wdF5 = a.sg Off.wdF5
  safe  : a.InSafeState → b.InSafeState ∨ b.InReset

theorem Kept.stepKept (h : Kept s t) : StepKept s t := ⟨h.mem, h.regs, h.latch, h.safe⟩

/-- The queues of commands are no part of the promises. -/
theorem StepKept.requeue (h : StepKept s t) (p b d r : List Instr) :
    StepKept s { t with pending := p, behind := b, held := d, retried := r } := ⟨h.mem, h.regs, h.latch, h.safe⟩

/-! ### The fault unit under the ends of TIU runs -/

/-- What each of a list of steps leaves, all of them leave. -/
theorem State.each_keeps {α : Type} (g : State → α) {f : Nat → State → State} (hf : ∀ n s, g (f n s) = g s) (l : List Nat)
    (s : State) : g (s.each l f) = g s := by
  induction l generalizing s with
  | nil => rfl
  | cons n l ih => exact (ih (f n s)).trans (hf n s)

/-- What both branches leave. -/
theorem ite_keeps {α : Type} (g : State → α) {p : Prop} [Decidable p] {a b s : State} (ha : g a = g s) (hb : g b = g s) :
    g (if p then a else b) = g s := by
  split
  · exact ha
  · exact hb

theorem State.fire_fault (s : State) (src : Nat) : (s.fire src).fault = s.fault := by
  unfold State.fire State.pulse
  split <;> rfl

theorem State.capTriggerAll_fault (s : State) (ty due : Nat) (sel : Nat → Bool) :
    (s.capTriggerAll ty due sel).fault = s.fault := by
  refine State.each_keeps State.fault (fun c s => ?_) _ s
  cases h : (s.cap c).act with
  | none => rw [State.capTrigger_of_none h]
  | some l =>
    obtain ⟨d, e⟩ := State.capTrigger_of_act (ty := ty) (due := due) (sel := sel) h
    exact e ▸ State.foldl_trigSlot_frame.1

theorem State.setLong_fault (s : State) (lo hi : Nat) (v : Int) : (s.setLong lo hi v).fault = s.fault := by
  simp only [State.setLong, State.setRg_fault]

theorem State.tiuCount_fault (s : State) (k stop : Nat) (x : Int) (under : Bool) :
    (s.tiuCount k stop x under).fault = s.fault := by
  unfold State.tiuCount
  extract_lets u y a b n c d mn mx e f g
  have ha : a.fault = s.fault := ite_keeps State.fault (State.fresh_fault s) rfl
  have hb : b.fault = a.fault := ite_keeps State.fault (State.count_fault ..) rfl
  have hd : d.fault = b.fault := (State.setLong_fault ..).trans (State.setRf_fault ..)
  have he : e.fault = d.fault := ite_keeps State.fault (State.setLong_fault ..) rfl
  have hf : f.fault = e.fault := ite_keeps State.fault (State.setLong_fault ..) rfl
  rw [State.capTriggerAll_fault, State.fire_fault, State.setTu_fault, hf, he, hd, hb, ha]

theorem State.tiuStats_fault (s : State) (k : Nat) : (s.tiuStats k).fault = s.fault := by
  unfold State.tiuStats
  extract_lets u n a b sd wide
  have ha : a.fault = s.fault := State.setLong_fault ..
  refine ite_keeps State.fault rfl (Eq.trans (ite_keeps State.fault (State.setRg_fault ..) ?_) ha)
  exact (State.setRg_fault ..).trans (State.setTu_fault ..)

theorem State.tiuLastShot_fault (s : State) (k : Nat) : (s.tiuLastShot k).fault = s.fault := by
  unfold State.tiuLastShot
  split
  · exact State.tiuCount_fault ..
  · rfl

/-- The end of a run with DONE: its last shot, the statistics, its flags and its state. -/
theorem State.tiuFinish_done_fault (s : State) (k : Nat) : (s.tiuFinish k .done).fault = s.fault := by
  unfold State.tiuFinish
  extract_lets a u slow b c d
  have ha : a.fault = s.fault := (State.tiuStats_fault ..).trans (State.tiuLastShot_fault ..)
  have hd : d.fault = a.fault := (State.setRb_fault ..).trans (State.setTu_fault ..)
  refine ite_keeps State.fault rfl (Eq.trans (ite_keeps State.fault ?_ (State.setRf_fault ..)) (hd.trans ha))
  exact (State.fire_fault ..).trans (State.setRf_fault ..)
/-- The runs that end with a CCLK leave the fault unit alone. -/
theorem State.tiuEnds_fault (s : State) : s.tiuEnds.fault = s.fault :=
  State.each_keeps State.fault (fun _ _ => State.tiuFinish_done_fault ..) _ s

/-! ### A CCLK -/

/-- The end of TIU runs and the passing of time keep the promises, and the safe state whatever the reset. -/
theorem stepKept_pass (n : Nat) : StepKept s (s.tiuEnds.pass n) ∧ (s.InSafeState → (s.tiuEnds.pass n).InSafeState) := by
  have ends : Kept s s.tiuEnds := kept_tiuEnds Kept.refl
  have safe : s.InSafeState → (s.tiuEnds.pass n).InSafeState := fun m =>
    show (s.tiuEnds.fault.f4 || s.tiuEnds.fault.f5) = true by rw [State.tiuEnds_fault]; exact m
  exact ⟨⟨ends.mem, ends.regs, ends.latch, fun m => .inl (safe m)⟩, safe⟩

/-- So does a whole CCLK. -/
theorem stepKept_cclk : StepKept s s.cclk := by
  obtain ⟨before, safe⟩ := stepKept_pass (s := s) (s.now + if s.bypass then 2 else 1)
  have after := kept_cclk (s := s)
  refine ⟨fun m => after.mem (before.mem m), fun m => after.regs (before.regs m), fun m => ?_, fun m => after.safe (safe m)⟩
  have same := before.latch m
  have latched : (s.tiuEnds.pass (s.now + if s.bypass then 2 else 1)).F5Latched := by
    rw [State.F5Latched, same]
    exact m
  exact (after.latch latched).trans same

/-- The step of time is a CCLK, or moves commands between their queues, or both. -/
theorem stepKept_idle : StepKept s s.idle := by
  rcases kept_idle (s := s) with ⟨c, l, -, e⟩ | ⟨-, e | ⟨-, e⟩⟩
  · exact e ▸ Kept.refl.stepKept.requeue _ _ _ _
  · exact e ▸ stepKept_cclk
  · exact e ▸ stepKept_cclk.requeue _ _ _ _

/-- Every step keeps the promises. -/
theorem State.Steps.kept (h : s.Steps t) : StepKept s t := by
  unfold State.Steps at h
  cases hp : s.pending with
  | nil =>
    rw [step_of_nil hp] at h
    cases h
    exact stepKept_idle
  | cons c rest =>
    rw [step_of_cons hp] at h
    obtain ⟨mem, regs, latch, safe⟩ := (kept_exec h).stepKept
    exact ⟨mem, regs, latch, safe⟩

end Sys2Proof.Machine

namespace Sys2Proof
open Machine

/-- Settles O1: the step's equation on a queue with a command in front. -/
theorem stepRunsFront : Obligations.StepRunsFront :=
  fun _ _ _ h => step_of_cons h

/-- Settles O2, by the cases of the step of time; the CCLK itself keeps the queue and, outside a reset, the time it passed to. -/
theorem emptyQueueLetsTimePass : Obligations.EmptyQueueLetsTimePass := by
  intro s hp
  rw [step_of_nil hp]
  rcases kept_idle (s := s) with ⟨c, l, hb, e⟩ | ⟨hb, e⟩
  · refine ⟨fun c' l' hb' => ?_, fun hn => absurd (hb.symm.trans hn) (List.cons_ne_nil c l)⟩
    obtain ⟨rfl, rfl⟩ := List.cons.inj (hb.symm.trans hb')
    rw [e]
  · refine ⟨fun c l hc => absurd (hc.symm.trans hb) (List.cons_ne_nil c l), fun _ => ⟨s.idle, rfl, ?_⟩⟩
    have queue : s.cclk.pending = [] :=
      (kept_cclk (s := s)).queue.trans ((kept_tiuEnds (Kept.refl (a := s))).queue.trans hp)
    have time : s.cclk.now = s.now + (if s.bypass then 2 else 1) ∨ s.cclk.InReset := (kept_cclk (s := s)).time
    generalize s.cclk = u at e queue time
    rcases e with e | ⟨hh, e⟩
    · rw [e]
      exact ⟨fun _ => queue, time⟩
    · rw [e]
      exact ⟨fun hn => absurd hn hh, time⟩

/-- Settles O3: nothing is listed at reset, and CH_STAT of every channel resets to PARKED. -/
theorem resetMeetsInvariants : Obligations.ResetMeetsInvariants := by
  have parked (n : Chan) : State.reset.parkedCh n = true := by
    have place : Off.chStat (n / 32) (n % 32) = 0x110050 + 0x40000 * (n / 32) + 0x100 * (n % 32) := rfl
    have cluster : (Off.chStat (n / 32) (n % 32) - 0x100000) % 0x40000 = 0x10050 + 0x100 * (n % 32) := by omega
    have value : State.reset.rg (Off.chStat (n / 32) (n % 32)) = 0xc0000000#32 := by
      change resetPf0 _ = _
      unfold resetPf0
      rw [if_pos (by omega)]
      dsimp only
      rw [cluster, if_pos (by omega), show (0x10050 + 0x100 * (n.val % 32)) % 0x100 = 0x50 by omega]
      rfl
    rw [State.parkedCh, value]
    rfl
  refine ⟨rfl, rfl, ⟨rfl, rfl, rfl, rfl⟩, by unfold State.F5Latched; decide, by unfold State.InSafeState; decide, rfl,
    fun n => ⟨parked n, rfl, rfl, fun l => ?_⟩, fun _ => rfl⟩
  rw [State.loadOn, parked]
  rfl

/-- Settles O4. -/
theorem everyStepKeepsMemoryCanonical : Obligations.EveryStepKeepsMemoryCanonical :=
  fun _ _ h => h.kept.mem

/-- Settles O5. -/
theorem everyStepKeepsImagesCanonical : Obligations.EveryStepKeepsImagesCanonical :=
  fun _ _ h => h.kept.regs

/-- Settles O6: a WD_F5 that stays as it is stays latched. -/
theorem everyStepKeepsF5Latched : Obligations.EveryStepKeepsF5Latched := fun s t h latched => by
  have same : t.sg Off.wdF5 = s.sg Off.wdF5 := h.kept.latch latched
  exact ⟨by rw [State.F5Latched, same]; exact latched, same⟩

/-- Settles O7. -/
theorem safeStateEndsOnlyInReset : Obligations.SafeStateEndsOnlyInReset :=
  fun _ _ h => h.kept.safe

/-- Settles O8. -/
theorem commandsLeaveQueueAndTime : Obligations.CommandsLeaveQueueAndTime :=
  fun _ _ _ e => ⟨(kept_exec e).queue, (kept_exec e).time⟩

end Sys2Proof
end

section
/-!
SUPPORT. The writes of registers through their gate: every command that writes a register hands its write to `State.gateWrite`,
said once for all of them (`writeOf_gate`); the registers found lie at aligned offsets inside the mapped blocks; and the statements
on what safe state, READY and the party order do with any write.
-/
namespace Sys2Proof.Machine

variable {s : State} {c : Instr} {p : Party} {sp : Space} {off : Nat} {v : Word}

/-! ### Where registers stand -/

/-- The bytes that the dimensions of a row span. -/
def dimSpan (ds : List (Nat × Nat)) : Nat := (ds.map fun d => d.1 * (d.2 - 1)).sum

/-- A place that the dimensions reach lies within their span, and is a sum of their strides. -/
theorem dimIdx_span {ds : List (Nat × Nat)} (h4 : ∀ d ∈ ds, 4 ∣ d.1) {rem : Nat} {ix : List Nat} (h : dimIdx rem ds = some ix) :
    rem ≤ dimSpan ds ∧ 4 ∣ rem := by
  induction ds generalizing rem ix with
  | nil =>
    by_cases h0 : rem = 0
    · subst h0
      exact ⟨le_rfl, dvd_zero 4⟩
    · simp [dimIdx, h0] at h
  | cons d ds ih =>
    obtain ⟨a, n⟩ := d
    simp only [dimIdx] at h
    split at h
    case isTrue small =>
      obtain ⟨l, hl, -⟩ := Option.map_eq_some_iff.mp h
      obtain ⟨below, part⟩ := ih (fun d hd => h4 d (List.mem_cons_of_mem _ hd)) hl
      have whole : a * (rem / a) + rem % a = rem := Nat.div_add_mod rem a
      have most : a * (rem / a) ≤ a * (n - 1) := Nat.mul_le_mul_left a (by omega)
      have span : dimSpan ((a, n) :: ds) = a * (n - 1) + dimSpan ds := by simp [dimSpan]
      refine ⟨by omega, whole ▸ Nat.dvd_add (Dvd.dvd.mul_right ?_ _) part⟩
      exact h4 (a, n) List.mem_cons_self
    case isFalse => cases h

/-- The register found is a row of the map, at the indexes that the row gives the offset. -/
theorem findReg_mem {l : List RegRow} {r : RegRow} {ix : List Nat} (h : findReg l off = some (r, ix)) :
    r ∈ l ∧ r.idx off = some ix := by
  induction l with
  | nil => cases h
  | cons a l ih =>
    unfold findReg at h
    split at h
    case h_1 jx hj =>
      cases h
      exact ⟨List.mem_cons_self, hj⟩
    case h_2 =>
      obtain ⟨hm, hi⟩ := ih h
      exact ⟨List.mem_cons_of_mem _ hm, hi⟩

/-- A row of PF0 BAR0 stands at aligned offsets within one mapped block. -/
def RegRow.placed (r : RegRow) : Bool :=
  decide (r.base % 4 = 0) && (r.dims.all fun d => decide (d.1 % 4 = 0)) &&
    (decide (r.base + dimSpan r.dims < 0xD0000) ||
      (decide (0x100000 ≤ r.base) && decide (r.base + dimSpan r.dims < 0x540000)) ||
      (decide (0x1000000 ≤ r.base) && decide (r.base + dimSpan r.dims < 0x1100000)))

theorem pf0Rows_placed : pf0Rows.all RegRow.placed = true := by decide +kernel

/-- A register of PF0 BAR0 that is found stands at an aligned offset, inside the mapped blocks. -/
theorem found_place (h : (findReg pf0Rows off).isSome = true) : off % 4 = 0 ∧ Space.mapped .pf0 off = true := by
  obtain ⟨⟨r, ix⟩, hr⟩ := Option.isSome_iff_exists.mp h
  obtain ⟨hm, hi⟩ := findReg_mem hr
  have placed := List.all_eq_true.mp pf0Rows_placed r hm
  simp only [RegRow.placed, Bool.and_eq_true, Bool.or_eq_true, decide_eq_true_eq, List.all_eq_true] at placed
  obtain ⟨⟨base, strides⟩, block⟩ := placed
  unfold RegRow.idx at hi
  split at hi
  case isTrue => cases hi
  case isFalse from_ =>
    obtain ⟨span, part⟩ := dimIdx_span (fun d hd => Nat.dvd_of_mod_eq_zero (strides d hd)) hi
    refine ⟨by omega, ?_⟩
    simp only [Space.mapped, Bool.or_eq_true, Bool.and_eq_true, decide_eq_true_eq]
    omega

/-! ### Every write goes through the gate -/

/-- A write that the gate takes in: the register acts in its own way, a write that loses does nothing more but at TS_EDATA, nor
does one that safe state discards but at CAL_SAVE. -/
def State.GateForm (s : State) (p : Party) (sp : Space) (off : Nat) (v : Word) (t : State) : Prop :=
  ∃ act lose drop, t = s.gateWrite p sp off v act false lose drop ∧ (off ≠ Off.calSave → drop = id) ∧
    ((∀ k : Cl, off ≠ Off.tsEdata k) → lose = id)

theorem edataOf_eq_none (h : ∀ k : Cl, off ≠ Off.tsEdata k) : edataOf .pf0 off = none :=
  List.find?_eq_none.mpr fun c hc e => h ⟨c, List.mem_range.mp hc⟩ (of_decide_eq_true e).symm

/-- A write by offset, past the window and SEQH's protection. -/
theorem State.regWriteBase_gate : s.GateForm p sp off v (s.regWriteBase p sp off v) := by
  unfold State.regWriteBase
  split
  case h_1 c hc =>
    unfold edataOf at hc
    split at hc
    case isTrue h0 =>
      subst h0
      have place : Off.tsEdata c = off := by simpa using List.find?_some hc
      subst place
      refine ⟨_, _, _, rfl, fun _ => rfl, fun apart => ?_⟩
      exact absurd rfl (apart ⟨c, List.mem_range.mp (List.mem_of_find?_eq_some hc)⟩)
    case isFalse => cases hc
  case h_2 =>
    split
    case isTrue save =>
      obtain ⟨rfl, rfl⟩ := save
      exact ⟨_, _, _, rfl, fun apart => absurd rfl apart, fun _ => rfl⟩
    case isFalse => exact ⟨_, _, _, rfl, fun _ => rfl, fun _ => rfl⟩

/-- A command that writes a register is REGISTER_WRITE, is P1W_DATA_WRITE, or hands its write to the gate as it stands. -/
theorem writeOf_cases (h : writeOf c = some (p, sp, off, v)) :
    (∃ o, c = .registerWrite p sp o .dword v ∧ o.toNat = off) ∨
      (c = .p1wDataWrite v ∧ p = .pf1 ∧ sp = .pf1 ∧ off = Off.p1wData) ∨
      ∃ t, exec c s = .next t ∧ s.GateForm p sp off v t := by
  unfold writeOf at h
  dsimp only at h
  split at h <;> cases h
  case h_1 o => exact .inl ⟨o, rfl, rfl⟩
  case h_17 k => exact .inr (.inr ⟨_, rfl, _, _, _, rfl, fun _ => rfl, fun apart => absurd rfl (apart k)⟩)
  case h_50 => exact .inr (.inr ⟨_, rfl, _, _, _, rfl, fun apart => absurd rfl apart, fun _ => rfl⟩)
  case h_61 => exact .inr (.inl ⟨rfl, rfl, rfl, rfl⟩)
  all_goals exact .inr (.inr ⟨_, rfl, _, _, _, rfl, fun _ => rfl, fun _ => rfl⟩)

/-- REGISTER_WRITE of an aligned dword of PF0 BAR0 inside the mapped blocks goes through the gate too. -/
theorem exec_registerWrite_found {o : BitVec 26} (h : (findReg pf0Rows o.toNat).isSome = true) :
    exec (.registerWrite p .pf0 o .dword v) s = .next (s.regWriteBase p .pf0 o.toNat v) := by
  obtain ⟨aligned, mapped⟩ := found_place h
  have shape : badShape p o.toNat .dword = false := by simp [badShape, aligned]
  have open_ : s.protects p .pf0 o.toNat = false := by simp [State.protects, mapped]
  refine congrArg Host.Outcome.next ?_
  rw [shape]
  simp only [Bool.false_eq_true, if_false, State.regWrite, open_, reduceCtorEq, false_and]

/-- Every command that writes a register of PF0 BAR0 that exists hands its write to the gate. -/
theorem writeOf_gate (h : writeOf c = some (p, .pf0, off, v)) (hr : (findReg pf0Rows off).isSome = true) :
    ∃ t, exec c s = .next t ∧ s.GateForm p .pf0 off v t := by
  rcases writeOf_cases (s := s) h with ⟨o, rfl, rfl⟩ | ⟨-, -, hsp, -⟩ | gate
  · exact ⟨_, exec_registerWrite_found hr, State.regWriteBase_gate⟩
  · cases hsp
  · exact gate

/-- Before READY a write by offset is answered as unsupported, also one through the window of PF1. -/
theorem State.regWrite_of_early (held : s.partyHeld p = false) (behind : s.partyBehind p = false) (early : s.rst.ready = false)
    (hsp : sp ≠ .win) : s.regWrite p sp off v = s.answer p .unsupported := by
  unfold State.regWrite
  split
  case isTrue window =>
    rw [if_neg (by simp [State.p1wWaits, early])]
    exact gateWrite_of_early held behind early (by decide)
  case isFalse =>
    rw [if_neg (by simp [State.protects, early])]
    obtain ⟨act, lose, drop, base, -, -⟩ := State.regWriteBase_gate (s := s) (p := p) (sp := sp) (off := off) (v := v)
    exact base.trans (gateWrite_of_early held behind early hsp)

/-! ### Writes that carry no field -/

/-- The reserved and read-only registers of AUX0 to AUX3 apart, a register with RW or WO fields can lose a write. -/
theorem mortalRow_of_found {r : RegRow} {ix : List Nat} (hr : findReg pf0Rows off = some (r, ix)) (hw : r.rw + r.wo ≠ 0)
    (ha : ∀ a < 4, off ≠ Off.auxsite a ∧ off ≠ Off.auxCfg a ∧ off ≠ Off.auxCode a) : mortalRow r (ix.getD 0 0) = true := by
  obtain ⟨hm, hi⟩ := findReg_mem hr
  have rows : ∀ r ∈ pf0Rows, (r.id = .auxsite → (r.base, r.dims) = (0x1000900, [(4, 16)])) ∧
      (r.id = .auxCfg → (r.base, r.dims) = (0x83000, [(0x10, 16)])) ∧
      (r.id = .auxCode → (r.base, r.dims) = (0x83004, [(0x10, 16)])) := by decide +kernel
  have place {base stride : Nat} (hd : (r.base, r.dims) = (base, [(stride, 16)])) : off = base + stride * ix.getD 0 0 := by
    obtain ⟨rfl, dims⟩ := Prod.mk.inj hd
    simp only [RegRow.idx, dims, dimIdx] at hi
    split at hi
    · cases hi
    · split at hi
      · split at hi
        · cases hi
          have whole := Nat.div_add_mod (off - r.base) stride
          simp only [List.getD_cons_zero]
          omega
        · cases hi
      · cases hi
  obtain ⟨site, cfg, code⟩ := rows r hm
  simp only [mortalRow, Bool.and_eq_true, decide_eq_true_eq, Bool.not_eq_true', Bool.and_eq_false_iff, Bool.or_eq_false_iff,
    decide_eq_false_iff_not]
  refine ⟨hw, or_iff_not_imp_left.mpr fun low => ?_⟩
  obtain ⟨noSite, noCfg, noCode⟩ := ha (ix.getD 0 0) (Decidable.not_not.mp low)
  exact ⟨⟨fun e => noSite (place (site e)), fun e => noCfg (place (cfg e))⟩, fun e => noCode (place (code e))⟩

end Sys2Proof.Machine

namespace Sys2Proof
open Machine

/-- Settles O9: in safe state the gate discards the write, and a register other than CAL_SAVE does nothing beside. -/
theorem safeStateDiscardsWrites : Obligations.SafeStateDiscardsWrites := by
  intro c p off v s hc held behind ready reach safe closed save found
  obtain ⟨t, e, act, lose, drop, rfl, hdrop, -⟩ := writeOf_gate (s := s) hc found
  have shut : openInSafe .pf0 off = false := by
    simp only [openInSafe, ne_eq, not_true_eq_false, decide_false, Bool.false_or, decide_eq_false_iff_not]
    exact closed
  rw [e, gateWrite_of_safe held behind ready reach safe shut found, hdrop save]
  rfl

/-- Settles O10: before READY the gate answers, and so does REGISTER_WRITE where the shape is refused. -/
theorem writesBeforeReady : Obligations.WritesBeforeReady := by
  intro c p sp off v s hc hsp held behind early
  rcases writeOf_cases (s := s) hc with ⟨o, rfl, rfl⟩ | ⟨rfl, rfl, rfl, rfl⟩ | ⟨t, e, act, lose, drop, rfl, -, -⟩
  · refine congrArg Host.Outcome.next ?_
    simp only [held, behind, early, State.regWrite_of_early held behind early hsp, Bool.false_eq_true, if_false, ite_self]
  · exact congrArg Host.Outcome.next (State.regWrite_of_early held behind early hsp)
  · rw [e, gateWrite_of_early held behind early hsp]

/-- Settles O11: the gate's cases for a register that can lose, and the byte of WRLOST_A of each party. -/
theorem laterPartyLosesWrite : Obligations.LaterPartyLosesWrite := by
  refine ⟨fun c p off v s r ix hc held behind ready reach safe hr hw haux hq hf hts => ?_,
    fun s => ⟨rfl, rfl, rfl, rfl, rfl⟩⟩
  obtain ⟨t, e, act, lose, drop, rfl, -, hlose⟩ := writeOf_gate (s := s) hc (Option.isSome_iff_exists.mpr ⟨_, hr⟩)
  have mortal : mortalRow r (ix.getD 0 0) = true := mortalRow_of_found hr hw haux
  refine ⟨fun later => ?_, fun first ⟨w, hw, here, earlier⟩ => ?_⟩
  · have party : ¬ (p = .pf1 ∧ Space.pf0 = .pf0) := by
      rintro ⟨rfl, -⟩
      cases reach
    rw [e, gateWrite_of_outranked held behind ready reach safe (by decide) hr mortal later, requeue, if_neg party]
    rfl
  · have never : neverLoses .pf0 off = false := by simp [neverLoses, hq, hf]
    have loses : s.loses p (regKey .pf0 off) = true :=
      List.any_eq_true.mpr ⟨w, hw, by simp [regKey, spaceNum, here, earlier]⟩
    rw [e, gateWrite_of_loses held behind ready reach safe (by decide) hr mortal never first loses, hlose hts]
    rfl

end Sys2Proof
end

section
/-!
SUPPORT. The site map and the site domain table: what their writes do, said by equations, and the park of a channel and of a
cluster.
-/
namespace Sys2Proof.Machine

variable {s : State} {c k n : Nat} {v : Word}

/-! ### The site map -/

/-- The write of CHSITE is taken where the cluster is parked and holds no uncleared F2. -/
theorem State.chsiteWrite_eq :
    s.chsiteWrite n v =
      if s.parkReq (n / 32) ∧ s.clParked (n / 32) ∧ s.f2Find (n / 32) = none ∧ ¬ s.bistDead (n / 32) then
        let t := s.regNote (Off.chsite n)
        State.gatesCheck { t.setRg (Off.chsite n) (v &&& 0x8000037F) with
          ward := { t.ward with chCopy := Tbl.set 0 t.ward.chCopy n (v &&& 0x8000037F) } }
      else s.mapReject :=
  if_congr (by simp [State.clF2, clusterOf, and_assoc]) rfl rfl

theorem State.railsiteWrite_eq {r : Nat} :
    s.railsiteWrite r v =
      if s.railState r = railOffSt then
        let t := s.regNote (Off.railsite r)
        let t : State := { t.setRg (Off.railsite r) (v &&& 0x8000077F) with
          ward := { t.ward with railCopy := Tbl.set 0 t.ward.railCopy r (v &&& 0x8000077F) } }
        let t := (s.railSite r).elim t t.powerCheck
        ((t.railSite r).elim t t.powerCheck).gatesCheck
      else s.mapReject := by
  refine if_congr Iff.rfl ?_ rfl
  extract_lets w old t ward t' u u'
  have mapped : u = old.elim t' t'.powerCheck := by cases h : old <;> simp only [u, h] <;> rfl
  have checked : u' = (u.railSite r).elim u u.powerCheck := by cases h : u.railSite r <;> simp only [u', h] <;> rfl
  rw [checked, mapped]
  rfl

theorem State.auxsiteWrite_eq {a : Nat} :
    s.auxsiteWrite a v =
      if a < 4 then s
      else if s.rb (Off.auxCfg a) 31 = false ∧ Tbl.get 0 s.auxOut a = 0 then
        ((s.regNote (Off.auxsite a)).setRg (Off.auxsite a) (v &&& 0x8000007F)).auxHoldSite a
      else s.mapReject :=
  if_congr Iff.rfl rfl (if_congr (by simp) rfl rfl)

/-! ### A site's enable -/

theorem State.siteDisable_eq :
    s.siteDisable k =
      let u := (s.setSt k { s.st k with heldEn := false }).enpend k
      if s.enabled k ∧ (s.st k).fencedAt ≠ some s.now then
        let u := (u.setRb (Off.siteCtl k) 31 false).setSt k { u.st k with enAt := some (s.now, true) }
        let u := (List.range 16).foldl (fun u c => u.dropPieces c k) u
        (((u.siteChans k).foldl State.parkChan u).rampDown k true).auxSiteHold k
      else u := by
  have on : ((s.setSt k { s.st k with heldEn := false }).enpend k).enabled k = s.enabled k := by
    have apart : Off.siteCtl k ≠ Off.siteStat k := by simp only [Off.siteCtl, Off.siteStat]; omega
    have bit (t : State) : t.enabled k = flag (t.rg (Off.siteCtl k)) 31 := rfl
    rw [bit, bit, State.enpend, State.rg_setRb_ne _ _ _ _ _ apart]
    rfl
  have fence : (((s.setSt k { s.st k with heldEn := false }).enpend k).st k).fencedAt = (s.st k).fencedAt := by
    simp only [State.enpend, State.setRb_acc_st, State.st_setSt_same]
  unfold State.siteDisable
  dsimp only
  rw [on, fence]
  rfl

/-- A write of SITE_STAT asks for the unfence of a fenced site. -/
theorem State.siteStatWrite_eq :
    s.siteStatWrite k v =
      if flag v 31 = true ∧ s.fenced k = true ∧ (s.st k).fencedAt ≠ some s.now then
        if (s.st k).down then (s.setSt k { s.st k with heldUnf := true }).enpend k
        else (s.setRb (Off.siteStat k) 31 false).auxSiteFree k
      else s := by
  unfold State.siteStatWrite
  by_cases asks : flag v 31 = true ∧ s.fenced k = true ∧ (s.st k).fencedAt ≠ some s.now
  · rw [if_pos asks, if_neg (by simpa using asks)]
    rfl
  · rw [if_neg asks, if_pos]
    rw [not_and_or, not_and_or, Decidable.not_not] at asks
    simpa using asks

/-! ### A channel parks -/

/-- What a channel's park leaves in a register of the channel. -/
theorem parkChan_rg_eq (h : s.parkedCh n = false) {o : Nat} (clamp : o ≠ Off.clClamp (n / 32)) (buf : o ≠ Off.capBuf (n / 32))
    (gov : o ≠ Off.capGovstat (n / 32)) : (s.parkChan n).rg o = (parkPins s n).rg o := by
  rw [parkChan_eq h, State.rg_setRb_ne _ _ _ _ _ clamp, parkEnds.rg o buf gov]

theorem parkChan_stat (h : s.parkedCh n = false) : (s.parkChan n).rb (chOff Off.chStat n) 30 = true := by
  obtain ⟨clamp, buf, gov⟩ := chStat_free n (n / 32)
  rw [State.rb, parkChan_rg_eq h clamp (buf) (gov), parkPins,
    State.rg_setRf_ne _ _ _ _ _ _ (by simp only [chOff, Off.chStat, Off.chCmpstat]; omega),
    State.setPmu, State.rg_setRg_ne _ _ _ _ (by simp only [chOff, Off.chStat, Off.chPmustat]; omega),
    State.rg_setRb_same, flag_setFlag _ _ _ (by omega)]

/-- Its PMU: mode FN, range 3 and code 0. -/
theorem parkChan_pmustat (h : s.parkedCh n = false) :
    (s.parkChan n).rg (chOff Off.chPmustat n) = setFld (setFld (setFld 0 30 2 0) 27 3 3) 0 18 (unsigned 18 0) := by
  rw [parkChan_rg_eq h (by simp only [chOff, Off.chPmustat, Off.clClamp]; omega)
    (by simp only [chOff, Off.chPmustat, Off.capBuf]; omega) (by simp only [chOff, Off.chPmustat, Off.capGovstat]; omega),
    parkPins, State.rg_setRf_ne _ _ _ _ _ _ (by simp only [chOff, Off.chPmustat, Off.chCmpstat]; omega), State.setPmu,
    State.rg_setRg_same]

theorem parkChan_pmu (h : s.parkedCh n = false) :
    (s.parkChan n).pmuMode n = 0 ∧ (s.parkChan n).pmuIr n = 3 ∧ (s.parkChan n).pmuCode n = 0 := by
  simp only [State.pmuMode, State.pmuIr, State.pmuCode, State.rf, parkChan_pmustat h]
  decide

/-- Its four comparators are OFF. -/
theorem parkChan_cmp (h : s.parkedCh n = false) (hk : k < 4) : (s.parkChan n).cmp n k = .off := by
  have all : (s.parkChan n).rf (chOff Off.chCmpstat n) (2 * k) 2 = 3 := by
    rw [State.rf, parkChan_rg_eq h (by simp only [chOff, Off.chCmpstat, Off.clClamp]; omega)
      (by simp only [chOff, Off.chCmpstat, Off.capBuf]; omega) (by simp only [chOff, Off.chCmpstat, Off.capGovstat]; omega),
      parkPins, State.rg_setRf_same]
    refine Nat.eq_of_testBit_eq fun i => ?_
    rw [fld_testBit]
    by_cases hi : i < 2
    · rw [setFld_getLsbD _ _ _ _ _ (by omega), if_pos (by omega)]
      have ones : (0xFF : Nat).testBit (2 * k + i - 0) = decide (2 * k + i - 0 < 8) := Nat.testBit_two_pow_sub_one 8 _
      have both : (3 : Nat).testBit i = decide (i < 2) := Nat.testBit_two_pow_sub_one 2 i
      rw [ones, both, decide_eq_true hi, Bool.true_and, decide_eq_true (by omega)]
    · have both : (3 : Nat).testBit i = decide (i < 2) := Nat.testBit_two_pow_sub_one 2 i
      simp [hi, both]
  simp only [State.cmp, all]

/-- Other channels keep their park state and their PMU. -/
theorem parkChan_others {m : Nat} (hn : n < 512) (hm : m < 512) (apart : m ≠ n) :
    (s.parkChan n).parkedCh m = s.parkedCh m ∧
      (s.parkChan n).rg (chOff Off.chPmustat m) = s.rg (chOff Off.chPmustat m) := by
  have bit (t : State) : t.parkedCh m = flag (t.rg (chOff Off.chStat m)) 31 := rfl
  rw [bit, bit, parkChan_rg, parkChan_rg]
  · exact ⟨rfl, rfl⟩
  all_goals
    constructor <;>
      simp only [chOff, Off.chStat, Off.chPmustat, Off.chCmpstat, Off.clClamp, Off.capBuf, Off.capGovstat] <;> omega

/-! ### A cluster parks -/

/-- The discard of a FIFO and the close of captures leave sequencers, channels, and CL_PARK. -/
theorem parkRest_before (c cause : Nat) :
    let u := (s.dropFifo c).capDisarm c cause true
    u.seq = s.seq ∧ u.chan = s.chan ∧ (u.cl c).fifo = [] := by
  have gap : CapFrame (fun _ => False) s (s.gapEnd c (s.now * hps)) := CapFrame.refl.gapEnd id _
  have free : listFree (fun _ => False) c := ⟨⟨id, id⟩, fun _ => id⟩
  have disarm : CapFrame (fun _ => False) (s.dropFifo c) ((s.dropFifo c).capDisarm c cause true) := CapFrame.refl.capDisarm free _ _
  refine ⟨disarm.seq.trans gap.seq, disarm.chan.trans gap.chan, ?_⟩
  rw [(disarm.clu c).1, dropFifo_fifo]

/-- CL_PARK is none of the registers that a channel's park writes. -/
theorem clPark_apart (c : Nat) {i : Nat} (_ : i < 32) : ParkReg (32 * c + i) (Off.clPark c) := by
  constructor <;>
    simp only [chOff, Off.chStat, Off.chPmustat, Off.chCmpstat, Off.clClamp, Off.capBuf, Off.capGovstat, Off.clPark] <;> omega

/-- What the last steps of a cluster's park leave: PARK and parking set, nothing in flight, every channel parked; sequencers stand
as before, and channels of other clusters do. -/
theorem parkRest_leaves (hc : c < 16) (cause : Nat) :
    let t := s.parkRest c cause
    t.parkReq c = true ∧ (t.cl c).parking = true ∧ (t.cl c).fifo = [] ∧ (t.cl c).strobes = [] ∧
      (∀ x, (s.sq x).SameBut (t.sq x)) ∧ (∀ i < 32, t.parkedCh (32 * c + i) = true) ∧
      ∀ m, m / 32 ≠ c → t.ch m = s.ch m := by
  intro t
  obtain ⟨seq, chan, fifo⟩ := parkRest_before (s := s) c cause
  have parked (u : State) := parkChans_frame (s := u) c (List.range 32)
  obtain ⟨psq, pcl, pch⟩ := parked (((s.dropFifo c).capDisarm c cause true).setRb (Off.clPark c) 0 true)
  have bit (u : State) : u.parkReq c = flag (u.rg (Off.clPark c)) 0 := rfl
  refine ⟨?_, ?_, ?_, ?_, fun x => ?_, fun i hi => ?_, fun m hm => ?_⟩
  · simp only [t]
    rw [bit, State.parkRest, State.setCl_acc_rg,
      parkChans_rg c _ _ fun i hi => clPark_apart c (List.mem_range.mp hi), State.rg_setRb_same,
      flag_setFlag _ _ _ (by decide)]
  · simp only [t, State.parkRest, State.cl_setCl_same]
  · simp only [t, State.parkRest, State.cl_setCl_same]
    rw [(pcl c).1, State.setRb_acc_cl, fifo]
  · simp only [t, State.parkRest, State.cl_setCl_same]
  · have before := psq x
    rw [State.setRb_acc_sq, sq_of_seq seq] at before
    simpa only [t, State.parkRest, State.setCl_acc_sq] using before
  · exact parkChans_parked c hc _ (fun j hj => List.mem_range.mp hj) i (List.mem_range.mpr hi)
  · have after := pch m fun i hi e => hm (by have := List.mem_range.mp hi; omega)
    rw [State.setRb_acc_ch, ch_of_chan chan] at after
    simpa only [t, State.parkRest, State.setCl_acc_ch] using after

/-! ### Writes of CL_PARK -/

theorem State.clPark_of_request (h : s.parkReq c = true) : s.clPark c = s := by
  rw [State.clPark, if_pos h]

/-- CL_PARK without its ENPEND shows PARKED as before. -/
theorem clParked_setRb_ne (i : Nat) (b : Bool) (hi : 31 ≠ i) : (s.setRb (Off.clPark c) i b).clParked c = s.clParked c := by
  have bit (u : State) : u.clParked c = flag (u.rg (Off.clPark c)) 31 := rfl
  rw [bit, bit, State.rg_setRb_same, flag_setFlag_ne _ _ _ _ hi]

/-- A request to a cluster that has its park or is on its way to it sets PARK. -/
theorem State.clPark_of_parked (h : s.parkReq c = false) (g : s.clParked c = true ∨ (s.cl c).parking = true) :
    s.clPark c = (s.setRb (Off.clPark c) 30 false).setRb (Off.clPark c) 0 true := by
  rw [State.clPark, if_neg (by simp [h])]
  exact if_pos (by rwa [clParked_setRb_ne _ _ (by decide), State.setRb_acc_cl])

/-- A request to a cluster at work stops and parks it. -/
theorem State.clPark_of_running (h : s.parkReq c = false) (g : s.clParked c = false) (g' : (s.cl c).parking = false) :
    s.clPark c = ((s.setRb (Off.clPark c) 30 false).parkStop c).parkRest c 6 := by
  rw [State.clPark, if_neg (by simp [h])]
  exact if_neg (by rw [clParked_setRb_ne _ _ (by decide), State.setRb_acc_cl]; simp [g, g'])

/-- A 0 to PARK under an uncleared F2, or without a request, does nothing. -/
theorem State.clUnpark_of_nothing (h : s.clF2 c = true ∨ s.parkReq c = false) : s.clUnpark c = s := by
  rw [State.clUnpark, if_pos (by simpa using h)]

/-- A 0 to PARK takes the request back, with ENPEND where the park still runs. -/
theorem State.clUnpark_of_request (h : s.clF2 c = false) (g : s.parkReq c = true) :
    s.clUnpark c = if s.clParked c then s.setRb (Off.clPark c) 0 false
      else (s.setRb (Off.clPark c) 0 false).setRb (Off.clPark c) 30 true := by
  rw [State.clUnpark, if_neg (by simp [h, g])]
  exact if_congr (by rw [clParked_setRb_ne _ _ (by decide)]) rfl rfl

end Sys2Proof.Machine

namespace Sys2Proof

open Machine

/-- Settles O12: the three writes of the site map, each taken by its gate. -/
theorem siteMapWrites : Obligations.SiteMapWrites := by
  refine ⟨fun p n v s h => ?_, fun p r v s h => ?_, fun p a v s h => ?_⟩
  · exact congrArg Host.Outcome.next ((gateWrite_of_accepts h (found_chsite n n.isLt)).trans State.chsiteWrite_eq)
  · exact congrArg Host.Outcome.next ((gateWrite_of_accepts h (found_railsite r r.isLt)).trans State.railsiteWrite_eq)
  · exact congrArg Host.Outcome.next ((gateWrite_of_accepts h (found_auxsite a a.isLt)).trans State.auxsiteWrite_eq)

/-- Settles O13: both commands hand their write to SITE_CTL's, which enables or disables. -/
theorem siteControlWrites : Obligations.SiteControlWrites := by
  refine ⟨fun p k v s h => ?_, fun p k v s h => ?_⟩
  · extract_lets u
    intro c hc
    have on : u.enabled k = s.enabled k := by
      have kept : flag (u.rg (Off.siteCtl k)) 31 = flag (s.rg (Off.siteCtl k)) 31 := by
        simp only [u]
        rw [State.rg_setRf_same, flag_setFld_apart _ _ _ _ _ (.inr (by decide))]
        rfl
      exact kept
    have written : exec c s = .next (s.gateWrite p .pf0 (Off.siteCtl k) v fun s => s.siteCtlWrite k v) := by
      rcases List.mem_pair.mp hc with rfl | rfl <;> rfl
    rw [written, gateWrite_of_accepts h (found_siteCtl k k.isLt), State.siteCtlWrite]
    refine congrArg _ (if_congr Iff.rfl (if_congr Iff.rfl rfl (if_congr (by rw [← on]; rfl) rfl rfl)) ?_)
    rw [State.siteDisable_eq]
    exact if_congr (by rw [← on]; rfl) rfl rfl
  · exact congrArg Host.Outcome.next ((gateWrite_of_accepts h (found_siteStat k k.isLt)).trans State.siteStatWrite_eq)

/-- Settles O14: each register that a channel's park writes, and those of other channels. -/
theorem channelParks : Obligations.ChannelParks := by
  intro n s free
  obtain ⟨mode, range, code⟩ := parkChan_pmu free
  refine ⟨parkChan_parked n.isLt, parkChan_stat free, parkChan_undriven n.isLt free, mode, range, code,
    fun k hk => parkChan_cmp free hk, ?_, fun m apart => ⟨parkChan_ch ?_, parkChan_others n.isLt m.isLt ?_⟩⟩
  · rw [parkChan_eq free, State.rb, State.rg_setRb_same, flag_setFlag _ _ _ (Nat.mod_lt _ (by decide))]
  all_goals exact fun e => apart (Fin.ext e)

/-- Settles O15: the write of CL_PARK by the value of PARK, the request and the park that stand; and the end of the park. -/
theorem clusterParks : Obligations.ClusterParks := by
  refine ⟨fun p c v s h => ?_, fun c s h => ?_⟩
  · extract_lets u
    intro x hx
    have written : exec x s = .next (if flag v 0 then u.clPark c else u.clUnpark c) := by
      have e : exec x s = .next (s.gateWrite p .pf0 (Off.clPark c) v fun s => s.clParkWrite c v) := by
        rcases List.mem_pair.mp hx with rfl | rfl <;> rfl
      exact e.trans (congrArg _ (gateWrite_of_accepts h (found_clPark c c.isLt)))
    have work : u.cl c = s.cl c := by simp only [u, State.setRb_acc_cl]; rfl
    refine ⟨fun one free still idle => ?_, fun one free parked => ?_, fun one asked => ?_, fun zero nothing => ?_,
      fun zero clean asked parked => ?_, fun zero clean asked runs => ?_⟩
    · rw [written, if_pos one, State.clPark_of_running free still (work ▸ idle)]
    · rw [written, if_pos one, State.clPark_of_parked free (work ▸ parked)]
    · rw [written, if_pos one, State.clPark_of_request asked]
    · rw [written, zero, if_neg Bool.false_ne_true, State.clUnpark_of_nothing nothing]
    · rw [written, zero, if_neg Bool.false_ne_true, State.clUnpark_of_request clean asked, if_pos parked]
    · rw [written, zero, if_neg Bool.false_ne_true, State.clUnpark_of_request clean asked, runs, if_neg Bool.false_ne_true]
  · exact congrArg Host.Outcome.next (if_pos h)

/-- Settles O16: the halt of the sequencer, then the steps of the park. -/
theorem parkedClusterIsStill : Obligations.ParkedClusterIsStill := by
  intro c cause s t
  obtain ⟨mode, wait⟩ := haltSeq_halted (s := s) c
  obtain ⟨asked, parking, fifo, strobes, sq, parked, others⟩ := parkRest_leaves (s := s.haltSeq c) c.isLt cause
  obtain ⟨mode', wait', -⟩ := sq c
  refine ⟨asked, parking, fifo, strobes, mode'.trans mode, wait'.trans wait, fun i => parked i i.isLt, fun n hn => ?_⟩
  rw [← ch_of_chan (haltSeq_chan (s := s) c) n]
  exact others n hn

end Sys2Proof
end

section
/-!
SUPPORT. The tick's judgement of a sequencer, the events of the pour window, and the writes that start and stop a sequencer or a
copy of instructions.
-/
namespace Sys2Proof.Machine

variable {s : State} {c x : Nat} {v : Word} {n n1 : BitVec 64}

/-! ### The tick judges a sequencer -/

/-- Work of a steep that has ended is late where the pour limit ends at this tick. -/
def State.poursLate (s : State) (c : Nat) : Prop := s.steep.limitOn = true ∧ ∃ e ∈ s.steep.ended, s.clPoured c e.1 = false

/-- A cluster that is out is fenced for nothing. -/
theorem State.tickCauses_of_out (out : s.clOut c = true) : s.tickCauses c = [] := by
  simp [State.tickCauses, State.overruns, out]

/-- Only late work fences a cluster whose sequencer has yielded, or slips. -/
theorem State.tickCauses_of_pour (within : s.clOut c = false) (fair : (s.sq c).mode ≠ .running ∨ s.maySlip c = true) :
    (s.poursLate c → s.tickCauses c = [(2, Off.clSteepstat c)]) ∧ (¬ s.poursLate c → s.tickCauses c = []) := by
  have over_ : (s.overruns c && !s.maySlip c) = false := by
    rcases fair with yields | slips
    · simp [State.overruns, yields]
    · simp [slips]
  constructor <;> intro late <;> simpa [State.tickCauses, over_, within, State.poursLate, overOff] using late

/-- An overrun that may not slip fences its cluster, and late work beside it. -/
theorem State.tickCauses_of_overrun (within : s.clOut c = false) (runs : (s.sq c).mode = .running) (stays : s.maySlip c = false) :
    let why := if flag (s.ap (Off.clSteep c)) 8 then 3 else 1
    (s.poursLate c → s.tickCauses c = [(why, Off.clSteepstat c), (2, Off.clSteepstat c)]) ∧
      (¬ s.poursLate c → s.tickCauses c = [(why, Off.clSteepstat c)]) := by
  have over_ : (s.overruns c && !s.maySlip c) = true := by simp [State.overruns, runs, stays, within]
  constructor <;> intro late <;> simpa [State.tickCauses, over_, within, State.poursLate, overOff] using late

theorem State.judge_of_overrun (within : s.clOut c = false) (runs : (s.sq c).mode = .running) (stays : s.maySlip c = false) :
    s.judge c n n1 = s.fenceCluster c (s.tickCauses c) := by
  simp [State.judge, runs, State.overruns, within, stays]

theorem State.judge_of_slip (within : s.clOut c = false) (runs : (s.sq c).mode = .running) (slips : s.maySlip c = true) :
    s.judge c n n1 = (s.slip c n n1).fenceCluster c (s.tickCauses c) := by
  simp [State.judge, runs, State.overruns, within, slips]

theorem State.judge_of_yielded (yields : (s.sq c).mode = .yielded) :
    s.judge c n n1 = ((s.setRb (Off.clSteepstat c) 0 false).setRf (Off.clSteepstat c) 1 4 0).fenceCluster c (s.tickCauses c) := by
  simp [State.judge, yields, overOff]

theorem State.judge_of_out (out : s.clOut c = true) (stays : (s.sq c).mode ≠ .yielded) : s.judge c n n1 = s := by
  have over_ : s.overruns c = false := by simp [State.overruns, out]
  rw [State.judge, State.tickCauses_of_out out]
  split
  case h_1 => simp [over_, State.fenceCluster]
  case h_2 yields => exact absurd yields stays
  case h_3 => rfl

/-! ### The pour of a cluster -/

/-- The first ended steep whose CPOUR_DONE the cluster has not reached. -/
theorem exec_clusterPourDone {c : Cl} {t : Nat} {l : List (BitVec 64 × Nat)} (first : s.steep.ended = (n, t) :: l)
    (open_ : n ∉ (s.cl c).poured) :
    exec (.clusterPourDone c) s = .next (if !s.clOut c && s.clDone c n then
      s.setCl c { s.cl c with poured := (s.cl c).poured ++ [n] } else s) := by
  have found : (s.steep.ended.find? fun e => !(s.cl c).poured.contains e.1) = some (n, t) := by
    rw [first, List.find?_cons_of_pos]
    simpa using open_
  show Host.Outcome.next _ = _
  rw [found]

/-! ### Starts and stops -/

/-- A write of SEQ_CTL without RUN stops where STOP says so. -/
theorem State.seqCtl_of_no_run (no : flag v 0 = false) : s.seqCtl c v = if flag v 1 then s.stopSeq c else s := by
  simp [State.seqCtl, no]

/-- RUN beside STOP is rejected. -/
theorem State.seqCtl_of_both (run : flag v 0 = true) (stop : flag v 1 = true) :
    s.seqCtl c v = (s.stopSeq c).count (Off.seqStat c) 20 4 1 := by
  simp [State.seqCtl, run, stop]

/-- RUN alone, by what stands against it. -/
theorem State.seqCtl_of_run (run : flag v 0 = true) (stop : flag v 1 = false) :
    s.seqCtl c v = if (s.sq c).mode ≠ .halted ∨ s.clOut c = true ∨ s.mcBusy = true then s.count (Off.seqStat c) 20 4 1
      else s.setSq c { s.sq c with mode := .startPend } := by
  simp only [State.seqCtl, State.clOut, run, stop, Bool.not_true, Bool.false_eq_true, if_false, Bool.false_or, Bool.or_eq_true,
    decide_eq_true_eq, or_assoc]

/-- The same of SEQH_CTL. -/
theorem State.seqhCtl_of_no_run (no : flag v 0 = false) : s.seqhCtl v = if flag v 1 then s.stopSeq 16 else s := by
  simp [State.seqhCtl, no]

theorem State.seqhCtl_of_both (run : flag v 0 = true) (stop : flag v 1 = true) :
    s.seqhCtl v = (s.stopSeq 16).count Off.seqhStat 28 2 1 := by
  simp [State.seqhCtl, run, stop]

theorem State.seqhCtl_of_run (run : flag v 0 = true) (stop : flag v 1 = false) :
    s.seqhCtl v = if (s.sq 16).mode ≠ .halted ∨ s.mcBusy = true ∨ (s.f2Find 0x1000).isSome = true ∨ s.bistDead 16 = true then
        s.count Off.seqhStat 28 2 1
      else s.seqBegin 16 (s.rf Off.seqhStart 0 24) := by
  simp only [State.seqhCtl, run, stop, Bool.not_true, Bool.false_eq_true, if_false, Bool.false_or, Bool.or_eq_true,
    decide_eq_true_eq, or_assoc]

/-! ### Copies of instructions -/

theorem State.idmaCtl_of_go (go : flag v 0 = true) :
    let dst := s.rf (Off.idmaDst c) 0 15
    let lenm1 := s.rf (Off.idmaLen c) 0 15
    s.idmaCtl c v = if (s.sq c).mode ≠ .halted ∨ (s.sq c).copy ≠ none ∨ 32767 < dst + lenm1 then s.setRb (Off.idmaStat c) 29 true
      else s.copyStart c (s.rg (Off.idmaSrc c)).toNat dst (lenm1 + 1) := by
  simp only [State.idmaCtl, go, Bool.not_true, Bool.false_eq_true, if_false, Bool.or_eq_true, decide_eq_true_eq, or_assoc,
    Option.isSome_iff_ne_none, Nat.add_sub_cancel]

/-- A copy with words left goes on. -/
theorem State.copyDone_of_left {r : Copy} (copies : (s.sq c).copy = some r) (left : r.done < r.len) : s.copyDone c = s := by
  simp only [State.copyDone, copies, left, if_true]

/-- The end of a copy, by what the sequencer waits for. -/
theorem State.copyDone_of_end {r : Copy} (copies : (s.sq c).copy = some r) (last : r.len ≤ r.done) :
    let u := (s.setSq c { s.sq c with copy := none }).setRb (Off.idmaStat c) 31 false
    s.copyDone c = match (s.sq c).wait with
      | .ovl row dst len => (u.copyStart c row dst len).retire c ((s.sq c).pc + 1) 2
      | .ovlw => u.retire c ((s.sq c).pc + 1) 1
      | _ => u := by
  simp only [State.copyDone, copies, Nat.not_lt.mpr last, if_false] <;> cases (s.sq c).wait <;> rfl

end Sys2Proof.Machine

namespace Sys2Proof

open Machine

/-- Settles O18: the causes of the tick, and the sequencer's mode. -/
theorem tickJudgesSequencer : Obligations.TickJudgesSequencer := by
  intro c n n1 s late slipped f o why
  have slip : (s.slip c n n1) = slipped f := rfl
  refine ⟨fun out stays => State.judge_of_out out stays, fun within runs policy => ?_, fun within runs policy most => ?_,
    fun within yields => ?_⟩
  · have stays : s.maySlip c = false := by
      simp only [State.maySlip, Bool.and_eq_false_iff, decide_eq_false_iff_not, not_le]
      exact policy
    obtain ⟨both, one⟩ := State.tickCauses_of_overrun within runs stays
    rw [State.judge_of_overrun within runs stays]
    exact ⟨fun h => by rw [both h], fun h => by rw [one h]⟩
  · have slips : s.maySlip c = true := by
      simp only [State.maySlip, Bool.and_eq_true, decide_eq_true_eq]
      exact ⟨policy, most⟩
    obtain ⟨one, none_⟩ := State.tickCauses_of_pour within (.inr slips)
    rw [State.judge_of_slip within runs slips, slip]
    exact ⟨fun h => by rw [one h], fun h => by rw [none_ h]; rfl⟩
  · obtain ⟨one, none_⟩ := State.tickCauses_of_pour within (.inl (by rw [yields]; decide))
    rw [State.judge_of_yielded yields]
    exact ⟨fun h => by rw [one h], fun h => by rw [none_ h]; rfl⟩

/-- Settles O19: each of the three commands by its own condition. -/
theorem pourWindowEvents : Obligations.PourWindowEvents := by
  refine ⟨fun s ready due => ?_, fun c n t l s first open_ within => ?_, fun s on due waits => ?_, fun s on due none_ tick => ?_⟩
  · exact congrArg Host.Outcome.next (if_pos ⟨ready, due⟩)
  · rw [exec_clusterPourDone first open_]
    exact ⟨fun done => by simp [within, done], fun left => by simp [left]⟩
  · exact congrArg Host.Outcome.next ((if_pos ⟨on, due⟩).trans (if_pos (by simpa using waits)))
  · exact congrArg Host.Outcome.next ((if_pos ⟨on, due⟩).trans (if_neg (by simp [none_, tick])))

/-- Settles O21: the three registers, by RUN and STOP, and by the mode. -/
theorem sequencerControlWrites : Obligations.SequencerControlWrites := by
  refine ⟨fun p c v s h => ?_, fun p v s h => ?_, fun p x k v s => ?_⟩
  · intro u i hi
    have written : exec i s = .next (u.seqCtl c v) := by
      have e : exec i s = .next (s.gateWrite p .pf0 (Off.seqCtl c) v fun s => s.seqCtl c v) := by
        rcases List.mem_pair.mp hi with rfl | rfl <;> rfl
      exact e.trans (congrArg _ (gateWrite_of_accepts h (found_seqCtl c c.isLt)))
    refine ⟨fun no still => ?_, fun no stop => ?_, fun run stop => ?_, fun run still => ⟨fun bars => ?_, fun halts within free => ?_⟩⟩
    · rw [written, State.seqCtl_of_no_run no, still, if_neg Bool.false_ne_true]
    · rw [written, State.seqCtl_of_no_run no, if_pos stop]
    · rw [written, State.seqCtl_of_both run stop]
    · rw [written, State.seqCtl_of_run run still]
      exact congrArg _ (if_pos bars)
    · rw [written, State.seqCtl_of_run run still]
      refine congrArg _ (if_neg fun bars => ?_)
      rcases bars with mode | out | busy
      · exact mode halts
      · exact Bool.false_ne_true (within.symm.trans out)
      · exact Bool.false_ne_true (free.symm.trans busy)
  · intro u i hi
    have written : exec i s = .next (u.seqhCtl v) := by
      have e : exec i s = .next (s.gateWrite p .pf0 Off.seqhCtl v fun s => s.seqhCtl v) := by
        rcases List.mem_pair.mp hi with rfl | rfl <;> rfl
      exact e.trans (congrArg _ (gateWrite_of_accepts h found_seqhCtl))
    refine ⟨fun no still => ?_, fun no stop => ?_, fun run stop => ?_,
      fun run still => ⟨fun bars => ?_, fun halts free clean live => ?_⟩⟩
    · rw [written, State.seqhCtl_of_no_run no, still, if_neg Bool.false_ne_true]
    · rw [written, State.seqhCtl_of_no_run no, if_pos stop]
    · rw [written, State.seqhCtl_of_both run stop]
    · rw [written, State.seqhCtl_of_run run still]
      exact congrArg _ (if_pos bars)
    · rw [written, State.seqhCtl_of_run run still]
      refine congrArg _ (if_neg fun bars => ?_)
      rcases bars with mode | busy | fenced | dead
      · exact mode halts
      · exact Bool.false_ne_true (free.symm.trans busy)
      · exact Bool.false_ne_true ((congrArg Option.isSome clean).symm.trans fenced)
      · exact Bool.false_ne_true (live.symm.trans dead)
  · intro off h u
    have place : (findReg pf0Rows off).isSome = true := by
      simp only [off]
      split
      case isTrue general => exact found_seqG x x.isLt k general
      case isFalse loop => exact found_seqLc x x.isLt _ (by omega)
    have written : exec (.seqRegWrite p x k v) s = .next (u.seqRegWrite x k v) :=
      congrArg Host.Outcome.next (gateWrite_of_accepts h place)
    rw [written]
    refine ⟨fun halts general => ?_, fun halts loop => ?_, fun runs => ?_⟩
    · exact congrArg Host.Outcome.next ((if_pos halts).trans (congrArg _ (if_pos general)))
    · exact congrArg Host.Outcome.next ((if_pos halts).trans (congrArg _ (if_neg (by omega))))
    · exact congrArg Host.Outcome.next (if_neg runs)

/-- Settles O23: the write of IDMA_CTL, and the end of a copy. -/
theorem instructionCopy : Obligations.InstructionCopy := by
  refine ⟨fun p c v s h => ?_, fun c r s copies => ?_⟩
  · intro u dst lenm1
    have written : exec (.idmaGo p c v) s = .next (u.idmaCtl c v) :=
      congrArg Host.Outcome.next (gateWrite_of_accepts h (found_idmaCtl c c.isLt))
    rw [written]
    refine ⟨fun no => ?_, fun go bars => ?_, fun go halts free fits => ?_⟩
    · exact congrArg Host.Outcome.next (if_pos (by simp [no]))
    · rw [State.idmaCtl_of_go go]
      exact congrArg Host.Outcome.next (if_pos bars)
    · rw [State.idmaCtl_of_go go]
      refine congrArg Host.Outcome.next (if_neg fun bars => ?_)
      rcases bars with mode | copy | far
      · exact mode halts
      · exact copy free
      · exact absurd fits (Nat.not_le.mpr far)
  · intro u
    refine ⟨fun left => congrArg Host.Outcome.next (State.copyDone_of_left copies left), fun last alone idle => ?_,
      fun last waits => ?_, fun row dst len last waits => ?_⟩
    all_goals
      refine congrArg Host.Outcome.next ((State.copyDone_of_end copies last).trans ?_)
    · cases e : (s.sq c).wait with
      | ovl row dst len => exact absurd e (alone row dst len)
      | ovlw => exact absurd e idle
      | _ => rfl
    · rw [waits]
    · rw [waits]

end Sys2Proof
end

section
/-!
SUPPORT. Instructions: what each command hands to the run of one instruction (`exec_instr`), what the run answers before the
instruction has its effect, and how a routine that reaches END leaves the sequencer; then the ALU and the moves.
-/
namespace Sys2Proof.Machine

variable {s : State} {x op : Nat} {w : BitVec 56} {mc : Option Micro} {rng : List (Nat × Nat)} {vals : List Nat}
  {act : State → Flow} {i : Instr} {f : Form}

/-! ### The run of one instruction -/

/-- Every instruction command that does not wait for the power requests of its CCLK runs the instruction that it codes. -/
theorem exec_instr (coded : formOf i = some f) (turn : ∀ x w mc, i = .range x w mc ∨ i = .force x w mc → s.admWaits x = false) :
    ∃ act, exec i s = .next (s.instr f.x f.op f.w f.mc f.rsv f.vals act) := by
  unfold formOf at coded
  dsimp only at coded
  split at coded
  case h_46 x w mc =>
    cases coded
    exact ⟨rangeBody x w, congrArg Host.Outcome.next (if_neg (by simp [turn x w mc (.inl rfl)]))⟩
  case h_47 x w mc =>
    cases coded
    exact ⟨forceBody x w, congrArg Host.Outcome.next (if_neg (by simp [turn x w mc (.inr rfl)]))⟩
  case h_49 | h_50 | h_51 | h_52 =>
    split at coded
    case isTrue names =>
      cases coded
      exact ⟨_, congrArg Host.Outcome.next (if_pos names)⟩
    case isFalse => cases coded
  case h_61 => cases coded
  all_goals
    cases coded
    exact ⟨_, rfl⟩

/-- Where the sequencer does not stand at a boundary with that word, the command is no event. -/
theorem instr_of_idle (idle : s.canRun x op w = false) : s.instr x op w mc rng vals act = s := by
  rw [State.instr, if_pos (by simp [idle])]

/-- An opcode that is illegal there raises ILLOP. -/
theorem instr_of_illegal (may : s.canRun x op w = true) (no : opLegal x op = false) :
    s.instr x op w mc rng vals act = (s.seqhTouch x).exception x 0x01 op (s.sq x).pc := by
  simp only [State.instr, may, no, seqhTouch_sq, Bool.not_true, Bool.not_false, Bool.false_eq_true, if_false, if_true]

/-- A register that is pending stalls it. -/
theorem instr_of_pending (may : s.canRun x op w = true) (legal : opLegal x op = true) (held : ∃ k ∈ regsOf op w, k ∈ (s.sq x).pend) :
    s.instr x op w mc rng vals act = (s.seqhTouch x).setSq x { s.sq x with wait := .pend } := by
  have any : ((regsOf op w).any fun k => (s.sq x).pend.contains k) = true := by simpa using held
  simp only [State.instr, may, legal, any, seqhTouch_sq, Bool.not_true, Bool.false_eq_true, if_false, if_true]

/-- What follows an opcode that is legal and registers that are there: the microwords, and the reserved places. -/
def instrFlow (s : State) (w : BitVec 56) (rng : List (Nat × Nat)) (vals : List Nat) (act : State → Flow) : Flow :=
  match offBit w rng vals with
  | some i => .trap 0x02 i
  | none => act s

theorem instr_of_free (may : s.canRun x op w = true) (legal : opLegal x op = true) (free : ∀ k ∈ regsOf op w, k ∉ (s.sq x).pend) :
    s.instr x op w mc rng vals act =
      match (s.microOf x mc).check with
      | some c => (s.began x mc).microFail x op (s.microOf x mc) c (instrFlow (s.began x mc) w rng vals act)
      | none =>
        if (s.microOf x mc).done then
          ((s.began x mc).flow x ((instrFlow (s.began x mc) w rng vals act).timed x (s.microOf x mc))).trapLate x (s.microOf x mc)
            (instrFlow (s.began x mc) w rng vals act)
        else (s.began x mc).microStay x (s.microOf x mc) (instrFlow (s.began x mc) w rng vals act) := by
  have none_ : ((regsOf op w).any fun k => (s.sq x).pend.contains k) = false := by simpa using free
  simp only [State.instr, may, legal, none_, seqhTouch_sq, Bool.not_true, Bool.false_eq_true, if_false]
  rfl

/-- A 1 in a reserved place raises RSVBIT. -/
theorem instr_of_reserved {k : Nat} (may : s.canRun x op w = true) (legal : opLegal x op = true)
    (free : ∀ k ∈ regsOf op w, k ∉ (s.sq x).pend) (sound : (s.microOf x mc).check = none) (ends : (s.microOf x mc).done = true)
    (off : offBit w rng vals = some k) : s.instr x op w mc rng vals act = s.raises x mc 0x02 k := by
  have trap : instrFlow (s.began x mc) w rng vals act = .trap 0x02 k := by rw [instrFlow, off]
  rw [instr_of_free may legal free, sound, trap]
  exact if_pos ends

/-! ### A routine that reaches END -/

/-- No reserved bit of an instruction that runs is 1. -/
theorem runs_clear (coded : formOf i = some f) (runs : s.runs i = true) {r : Nat × Nat} (reserved : r ∈ f.rsv) {k : Nat} (lo : r.1 ≤ k) (hi : k < r.1 + r.2) :
    f.w.getLsbD k = false := by
  obtain ⟨may, -, -⟩ := (runs_iff coded).mp runs
  simp only [State.mayRun, Bool.and_eq_true, Option.isNone_iff_eq_none] at may
  obtain ⟨-, clean⟩ := may
  by_cases small : k < 56
  · have at_k := List.find?_eq_none.mp clean k (List.mem_range.mpr small)
    by_contra one
    simp only [Bool.not_eq_false] at one
    refine at_k ?_
    simp only [one, Bool.true_and, Bool.or_eq_true, List.any_eq_true, decide_eq_true_eq]
    exact .inr ⟨r, reserved, lo, hi⟩
  · exact BitVec.getLsbD_of_ge _ _ (Nat.le_of_not_lt small)

section
variable {t : State} {n pc cause info : Nat} (coded : formOf i = some f)
  (given : exec i s = .next (s.instr f.x f.op f.w f.mc f.rsv f.vals act)) (runs : s.runs i = true)
include coded given runs

theorem exec_of_next (ends : act (s.began f.x f.mc) = .next t n) :
    exec i s = .next (t.retire f.x (((s.began f.x f.mc).sq f.x).pc + 1) (s.cost f.x f.mc n)) := by
  obtain ⟨may, sound, done⟩ := (runs_iff coded).mp runs
  rw [given, instr_of_next may sound done ends]

theorem exec_of_jump (ends : act (s.began f.x f.mc) = .jump t pc n) :
    exec i s = .next (t.retire f.x pc (s.cost f.x f.mc n)) := by
  obtain ⟨may, sound, done⟩ := (runs_iff coded).mp runs
  rw [given, instr_of_mayRun may sound done, ends]
  rfl

theorem exec_of_hold (ends : act (s.began f.x f.mc) = .hold t) : exec i s = .next (s.stays f.x f.mc t) := by
  obtain ⟨may, sound, done⟩ := (runs_iff coded).mp runs
  rw [given, instr_of_hold may sound done ends]

theorem exec_of_trap (ends : act (s.began f.x f.mc) = .trap cause info) :
    exec i s = .next (s.raises f.x f.mc cause info) := by
  obtain ⟨may, sound, done⟩ := (runs_iff coded).mp runs
  rw [given, instr_of_trap may sound done ends]
end

/-- A field whose top bit is 0. -/
theorem ifld_of_clear {lo n : Nat} (zero : w.getLsbD (lo + n) = false) : ifld w lo (n + 1) = ifld w lo n := by
  refine Nat.eq_of_testBit_eq fun j => ?_
  simp only [ifld, Nat.testBit_mod_two_pow, Nat.testBit_shiftRight]
  by_cases e : j = n
  · subst e
    rw [BitVec.getLsbD] at zero
    simp [zero]
  · have both : (j < n + 1) = (j < n) := propext ⟨fun h => by omega, fun h => by omega⟩
    simp only [both]

/-! ### The ALU -/

theorem fImm_eq : BitVec.ofNat 32 (ifld w 0 32) = fImm w := by
  simp [fImm, ifld, BitVec.toNat_eq]

theorem aluAdd_eq (a b : Word) : aluAdd a b = .mk0 (a + b) (decide ((a.toNat + b.toNat) / 2 ^ 32 = 1)) :=
  congrArg (AluOut.mk0 _) (decide_eq_decide.mpr (by have := a.isLt; have := b.isLt; omega))

theorem aluMul_eq (a b : Word) :
    aluMul a b = .mk0 (BitVec.ofNat 32 (a.toNat * b.toNat)) (decide (a.toNat * b.toNat / 2 ^ 32 ≠ 0)) := by
  have low : a * b = BitVec.ofNat 32 (a.toNat * b.toNat) := rfl
  rw [aluMul, low]
  refine congrArg (AluOut.mk0 _) (decide_eq_decide.mpr ?_)
  generalize a.toNat * b.toNat = m
  omega

/-- The last bit shifted out by a shift to the right. -/
theorem shifted_out (a b : Word) :
    (decide (shAmt b ≠ 0) && a.getLsbD (shAmt b - 1)) = (2 * a.toNat).testBit (b.toNat % 32) := by
  rw [shAmt]
  cases b.toNat % 32 with
  | zero => simp
  | succ n => simp [Nat.testBit_succ, BitVec.getLsbD]

theorem aluShl_eq (a b : Word) :
    aluShl a b = .mk0 (BitVec.ofNat 32 (a.toNat * 2 ^ (b.toNat % 32))) ((a.toNat * 2 ^ (b.toNat % 32)).testBit 32) := by
  have small : b.toNat % 32 < 32 := Nat.mod_lt _ (by decide)
  have low : a <<< (b.toNat % 32) = BitVec.ofNat 32 (a.toNat * 2 ^ (b.toNat % 32)) := by
    simp [BitVec.toNat_eq, Nat.shiftLeft_eq]
  have out : (decide (b.toNat % 32 ≠ 0) && a.getLsbD (32 - b.toNat % 32)) = (a.toNat * 2 ^ (b.toNat % 32)).testBit 32 := by
    rw [← Nat.shiftLeft_eq, Nat.testBit_shiftLeft, BitVec.getLsbD]
    by_cases zero : b.toNat % 32 = 0
    · simp [zero, Nat.testBit_lt_two_pow a.isLt]
    · simp [zero, small.le]
  rw [aluShl, shAmt, low, out]

theorem aluShr_eq (a b : Word) :
    aluShr a b = .mk0 (BitVec.ofNat 32 (a.toNat / 2 ^ (b.toNat % 32))) ((2 * a.toNat).testBit (b.toNat % 32)) := by
  have low : a >>> shAmt b = BitVec.ofNat 32 (a.toNat / 2 ^ (b.toNat % 32)) := by
    simp only [BitVec.toNat_eq, BitVec.toNat_ushiftRight, BitVec.toNat_ofNat, shAmt, Nat.shiftRight_eq_div_pow]
    exact (Nat.mod_eq_of_lt (Nat.lt_of_le_of_lt (Nat.div_le_self _ _) a.isLt)).symm
  rw [aluShr, low, shifted_out]

theorem aluSar_eq (a b : Word) :
    aluSar a b = .mk0 (BitVec.ofInt 32 (a.toInt / 2 ^ (b.toNat % 32))) ((2 * a.toNat).testBit (b.toNat % 32)) := by
  have low : a.sshiftRight (shAmt b) = BitVec.ofInt 32 (a.toInt / 2 ^ (b.toNat % 32)) := by
    rw [BitVec.sshiftRight, Int.shiftRight_eq_div_pow, shAmt]
    norm_cast
  rw [aluSar, low, shifted_out]

section
variable {g : Word → Word → AluOut} {v : Word} {c : Bool} {n : Nat}

/-- The row of an ALU instruction on two registers. -/
theorem exec_aluReg (coded : formOf i = some ⟨x, op, w, mc, rsvReg, []⟩)
    (given : exec i s = .next (s.instr x op w mc rsvReg [] (aluReg g x w n)))
    (result : let q := (s.began x mc).sq x; g (q.gr (ifld w 48 4)) (q.gr (ifld w 44 4)) = .mk0 v c) (runs : s.runs i = true) :
    let u := s.began x mc
    let q := u.sq x
    exec i s = .next ((u.setSq x { q.setG (ifld w 52 4) v with zero := decide (v = 0), carry := c }).retire x (q.pc + 1)
      (s.cost x mc n)) := by
  refine exec_of_next coded given runs ?_
  simp only [aluReg, fA, fB, result]
  rfl

/-- The row of an ALU instruction on a register and an immediate. -/
theorem exec_aluImm (coded : formOf i = some ⟨x, op, w, mc, rng, []⟩)
    (given : exec i s = .next (s.instr x op w mc rng [] (aluImm g x w)))
    (result : let q := (s.began x mc).sq x; g (q.gr (ifld w 48 4)) (BitVec.ofNat 32 (ifld w 0 32)) = .mk0 v c)
    (runs : s.runs i = true) :
    let u := s.began x mc
    let q := u.sq x
    exec i s = .next ((u.setSq x { q.setG (ifld w 52 4) v with zero := decide (v = 0), carry := c }).retire x (q.pc + 1)
      (s.cost x mc 1)) := by
  refine exec_of_next coded given runs ?_
  rw [fImm_eq] at result
  simp only [aluImm, fA, result]
  rfl
end

/-! ### Moves and special registers -/

theorem highWord_eq (n : BitVec 64) : (n >>> 32).setWidth 32 = BitVec.ofNat 32 (n.toNat / 2 ^ 32) := by
  simp [BitVec.toNat_eq, Nat.shiftRight_eq_div_pow]

/-- A sequencer after a read of a special register, its high words said as numbers. -/
theorem specialSeen_eq {q : SeqSt} {k : Nat} : s.specialSeen q k = { q with
    snapS := if k = 0 then BitVec.ofNat 32 (s.steep.num.toNat / 2 ^ 32) else q.snapS
    snapT := if k = 2 then BitVec.ofNat 32 (s.tstamp.toNat / 2 ^ 32) else q.snapT } := by
  rw [State.specialSeen, highWord_eq, highWord_eq]

/-- Five flags as a word. -/
theorem flagsWord_value (q : SeqSt) :
    let b (v : Bool) : Nat := if v then 1 else 0
    q.flagsWord.toNat =
      b (decide (q.siteFail ≠ 0)) + 2 * b q.mtch + 4 * b q.zero + 8 * b q.carry + 16 * b q.evt := by
  have bits (a m z c e : Bool) :
      (BitVec.ofNat 32 ((if a then 2 ^ 0 else 0) + (if m then 2 ^ 1 else 0) + (if z then 2 ^ 2 else 0) +
          (if c then 2 ^ 3 else 0) + if e then 2 ^ 4 else 0)).toNat =
        (if a then 1 else 0) + 2 * (if m then 1 else 0) + 4 * (if z then 1 else 0) + 8 * (if c then 1 else 0) +
          16 * if e then 1 else 0 := by
    revert a m z c e
    decide
  exact bits _ _ _ _ _

/-- Word `k` of a mask holds the bits of 32 sites. -/
theorem maskWord_getLsbD (m : BitVec 128) (k : Nat) {j : Nat} (hj : j < 32) : (maskWord m k).getLsbD j = m.getLsbD (32 * k + j) := by
  simp [maskWord, hj]

/-- The masks' words stand at sources 4 to 15 of a cluster sequencer. -/
theorem special_masks (within : x < 16) {k : Nat} (hk : k < 4) :
    s.special x (4 + k) = maskWord (s.sq x).siteFail k ∧ s.special x (8 + k) = maskWord (s.sq x).vmask k ∧
      s.special x (12 + k) = maskWord (s.sq x).cmask k := by
  have cluster : ¬ 16 ≤ x := Nat.not_le.mpr within
  interval_cases k <;> simp [State.special, cluster]

/-- SEQH has none. -/
theorem special_seqh {k : Nat} (from_ : 4 ≤ k) (to_ : k ≤ 15) : s.special 16 k = 0 := by
  interval_cases k <;> rfl

end Sys2Proof.Machine

namespace Sys2Proof

open Machine

/-- Settles O24: the answers of the run of one instruction in their order. -/
theorem instructionGate : Obligations.InstructionGate := by
  intro i f s coded turn u b e q
  obtain ⟨act, given⟩ := exec_instr coded turn
  rw [given]
  refine ⟨fun idle => ?_, fun may no => ?_, fun may legal => ⟨fun held => ?_, fun free => ⟨fun cause uaddr fails => ?_,
    fun sound open_ => ?_, fun sound ends k off => ?_⟩⟩⟩
  · rw [instr_of_idle idle]
  · rw [instr_of_illegal may no]
  · rw [instr_of_pending may legal held]
  · have failed := instr_of_free (act := act) (rng := f.rsv) (vals := f.vals) (mc := f.mc) may legal free
    simp only [show (s.microOf f.x f.mc).check = some (cause, uaddr) from fails] at failed
    refine ⟨⟨_, congrArg _ failed⟩, fun first => ?_⟩
    rw [failed, State.microFail, State.cutShort, if_pos first]
  · refine ⟨_, congrArg _ (instr_of_free may legal free), ?_⟩
    rw [sound]
    simp only [e] at open_
    simp only [open_, State.microStay, Bool.false_eq_true, if_false, State.sq_setSq_same]
  · rw [instr_of_reserved may legal free sound ends off]

/-- Settles O25: a row for each instruction of the ALU, on registers and on an immediate. -/
theorem aluResults : Obligations.AluResults := by
  intro x w mc s u q a r m row flags both
  refine ⟨⟨?_, ?_⟩, ⟨?_, ?_⟩, ⟨?_, ?_⟩, ⟨?_, ?_⟩, ⟨?_, ?_⟩, ⟨?_, ?_⟩, ⟨?_, ?_⟩, ⟨?_, ?_⟩, ?_, ?_, ?_⟩
  · exact exec_aluReg rfl rfl (aluAdd_eq _ _)
  · exact exec_aluImm rfl rfl (aluAdd_eq _ _)
  · exact exec_aluReg rfl rfl rfl
  · exact exec_aluImm rfl rfl rfl
  · exact exec_aluReg rfl rfl rfl
  · exact exec_aluImm rfl rfl rfl
  · exact exec_aluReg rfl rfl rfl
  · exact exec_aluImm rfl rfl rfl
  · exact exec_aluReg rfl rfl rfl
  · exact exec_aluImm rfl rfl rfl
  · exact exec_aluReg rfl rfl (aluShl_eq _ _)
  · exact exec_aluImm rfl rfl (aluShl_eq _ _)
  · exact exec_aluReg rfl rfl (aluShr_eq _ _)
  · exact exec_aluImm rfl rfl (aluShr_eq _ _)
  · exact exec_aluReg rfl rfl (aluSar_eq _ _)
  · exact exec_aluImm rfl rfl (aluSar_eq _ _)
  · exact exec_aluReg rfl rfl (aluMul_eq _ _)
  · exact fun runs => exec_of_next rfl rfl runs rfl
  · intro runs
    simp only [m, fImm_eq]
    exact exec_of_next rfl rfl runs rfl

/-- Settles O26: a row for each move, and the special registers one by one. -/
theorem movesAndClears : Obligations.MovesAndClears := by
  refine ⟨fun x w mc s => ?_, fun x s => ?_⟩
  · intro u q done
    refine ⟨fun runs => exec_of_next rfl rfl runs rfl, fun runs => ?_, fun runs => exec_of_next rfl rfl runs rfl, fun runs => ?_,
      fun runs => ?_, fun runs => ?_, fun runs => exec_of_next rfl rfl runs rfl⟩
    · rw [fImm_eq]
      exact exec_of_next rfl rfl runs rfl
    · have zero : w.getLsbD (52 + 3) = false :=
        runs_clear (i := .mtlc x w mc) rfl runs (r := (55, 1)) (by simp) le_rfl (by decide)
      rw [← ifld_of_clear zero]
      exact exec_of_next rfl rfl runs rfl
    · have zero : w.getLsbD (48 + 3) = false :=
        runs_clear (i := .mflc x w mc) rfl runs (r := (51, 1)) (by simp) le_rfl (by decide)
      rw [← ifld_of_clear zero]
      exact exec_of_next rfl rfl runs rfl
    · rw [← specialSeen_eq]
      exact exec_of_next rfl rfl runs rfl
  · intro q b
    refine ⟨BitVec.ofNat_toNat .. |>.symm, rfl, BitVec.ofNat_toNat .. |>.symm, rfl, flagsWord_value q, rfl, rfl,
      fun seqh => ⟨?_, fun k from_ to_ => ?_⟩, fun within => ⟨?_, fun k hk i hi => ?_⟩⟩
    · exact if_neg (by omega)
    · rw [seqh]
      exact special_seqh from_ to_
    · exact if_pos within
    · obtain ⟨fails, sites, compares⟩ := special_masks (s := s) within hk
      rw [fails, sites, compares, maskWord_getLsbD _ _ hi, maskWord_getLsbD _ _ hi, maskWord_getLsbD _ _ hi]
      exact ⟨rfl, rfl, rfl⟩

end Sys2Proof
end

section
/-!
SUPPORT. Control flow, traps, interrupts and fetches: the slots and latches that JE tests, the loop counters, what a trap entry
sets, and the fetch's exceptions.
-/
namespace Sys2Proof.Machine

variable {s : State} {x op k : Nat} {w : BitVec 56} {mc : Option Micro} {i : Instr} {f : Form}

/-! ### Branches -/

/-- A field of an instruction that runs holds no reserved value. -/
theorem runs_no_value (coded : formOf i = some f) (runs : s.runs i = true) (hk : k < 56) : k ∉ f.vals := by
  obtain ⟨may, -, -⟩ := (runs_iff coded).mp runs
  simp only [State.mayRun, Bool.and_eq_true, Option.isNone_iff_eq_none] at may
  obtain ⟨-, clean⟩ := may
  have at_k := List.find?_eq_none.mp clean k (List.mem_range.mpr hk)
  intro value
  exact at_k (by simp [value])

theorem branchTarget_eq (q : SeqSt) : branchTarget x w q =
    if w.getLsbD 47 then (q.gr (ifld w 52 4)).toNat % 2 ^ (if x < 16 then 15 else 24) else ifld w 0 24 := by
  unfold branchTarget fD
  split
  · split <;> rfl
  · rfl

/-- The nine conditions of JMP, as a list. -/
theorem cond_eq (q : SeqSt) {n : Nat} (hn : n < 9) :
    [true, q.zero, !q.zero, q.carry, !q.carry, q.mtch, !q.mtch, q.evt, !q.evt].getD n false = q.cond n := by
  interval_cases n <;> rfl

/-- One slot as a mask. -/
theorem maskOf_one (slot : Fin 8) : maskOf 8 [slot.val] = 1#8 <<< slot.val := by
  revert slot; decide

theorem deadSlots_one (slot : Fin 8) :
    s.deadSlots x (maskOf 8 [slot.val]) = if s.rb (Off.evSel x slot) 31 = false then 2 ^ slot.val else 0 := by
  have named (j : Nat) : (1#8 <<< slot.val).getLsbD j = decide (j = slot.val) := by
    rw [BitVec.getLsbD_shiftLeft]
    have := slot.isLt
    by_cases e : j = slot.val
    · subst e
      simp [this]
    · by_cases lt : j < slot.val
      · simp [lt, e]
      · have : j - slot.val ≠ 0 := by omega
        simp [e, this]
  have one : (List.range 8).filter (fun k => decide (k = slot.val)) = [slot.val] := by
    clear named
    revert slot; decide
  have dead : (idxs 8 fun k => (maskOf 8 [slot.val]).getLsbD k && !s.rb (Off.evSel x k) 31) =
      [slot.val].filter fun k => !s.rb (Off.evSel x k) 31 := by
    rw [maskOf_one, ← one, List.filter_filter]
    exact List.filter_congr fun k _ => by rw [named, Bool.and_comm]
  have value : (maskOf 8 [slot.val]).toNat = 2 ^ slot.val := by
    clear named one dead
    revert slot; decide
  rw [State.deadSlots, dead]
  cases on : s.rb (Off.evSel x slot) 31 with
  | false => simpa [on] using value
  | true => simp [on, maskOf]

/-- The latch of one slot. -/
theorem latched_one (slot : Fin 8) :
    s.latched x (maskOf 8 [slot.val]) = 0 ↔ flag (s.rg (Off.evLatch x)) slot = false := by
  have low : ((s.rg (Off.evLatch x)).setWidth 8).getLsbD slot.val = flag (s.rg (Off.evLatch x)) slot := by
    simp [flag]
  have one : ∀ (j : Fin 8) (a : BitVec 8), maskOf 8 [j.val] &&& a = 0 ↔ a.getLsbD j.val = false := by decide
  rw [State.latched, one, low]

theorem clearLatch_one (slot : Fin 8) : s.clearLatch x (maskOf 8 [slot.val]) false =
    s.setRg (Off.evLatch x) (s.rg (Off.evLatch x) &&& ~~~((1#32 <<< slot.val) &&& ~~~s.setNow (Off.evLatch x))) := by
  have wide : (maskOf 8 [slot.val]).setWidth 32 = 1#32 <<< slot.val := by
    revert slot; decide
  rw [State.clearLatch, wide]
  rfl

/-! ### Loops -/

/-- A counter that its ENDL takes to 0 stood at 1. -/
theorem lcr_last (v : Word) : v - 1 = 0 ↔ v.toNat = 1 := by
  rw [sub_eq_zero, BitVec.toNat_eq]
  rfl

/-! ### Interrupts and the history queue leave sequencers alone -/

theorem msix_form (pf1 : Bool) (v : BitVec 11) : ∃ q, s.msix pf1 v = { s with qm := q } := by
  unfold State.msix
  dsimp only
  split
  · exact ⟨s.qm, rfl⟩
  · split <;> exact ⟨_, rfl⟩

theorem irq_form (j : Nat) : ∃ q, s.irq j = { s with qm := q } := by
  unfold State.irq
  dsimp only
  split
  · exact msix_form _ _
  · exact ⟨s.qm, rfl⟩

theorem pirq_form (j : Nat) : ∃ q, s.pirq j = { s with qm := q } := by
  unfold State.pirq
  dsimp only
  split
  · exact msix_form _ _
  · exact ⟨s.qm, rfl⟩

theorem irq_seq (j : Nat) : (s.irq j).seq = s.seq := by
  obtain ⟨q, form⟩ := irq_form (s := s) j
  rw [form]

/-- The history queue and its interrupts change registers, the fault unit and the messages on their way, and nothing else. -/
theorem hist_form (e : Ev) (frz : Bool) :
    ∃ reg marks win fault qm, s.hist e frz = { s with reg := reg, marks := marks, win := win, fault := fault, qm := qm } := by
  unfold State.hist
  extract_lets lost openQ free slot
  split
  · exact ⟨_, _, _, _, _, rfl⟩
  clear_value slot
  cases slot with
  | none => exact ⟨_, _, _, _, _, rfl⟩
  | some j =>
    dsimp only
    split
    · obtain ⟨q, form⟩ := irq_form (s := { s with fault := _ }) 209
      exact ⟨_, _, _, _, _, form⟩
    · obtain ⟨q, form⟩ := pirq_form (s := State.changeWg { s with fault := _ } Off.spIrq fun w => setFlag w 2 true) 0
      exact ⟨_, _, _, _, _, form⟩

theorem correctable_form (src cause off : Nat) : ∃ reg marks win fault qm,
    s.correctable src cause off = { s with reg := reg, marks := marks, win := win, fault := fault, qm := qm } := by
  obtain ⟨reg, marks, win, fault, qm, form⟩ := hist_form (s := s)
    { cls := 1, src := src, cause := cause, off := off, site := none, wd := false } false
  rw [State.correctable, form]
  exact ⟨_, _, _, _, _, rfl⟩

/-- A corrected error leaves sequencers and vector memory. -/
theorem corrected_keeps (m j : Nat) : (s.corrected m j).seq = s.seq ∧ (s.corrected m j).mem = s.mem := by
  unfold State.corrected
  extract_lets o t lv lv' t1 thr t2
  have seq1 : t1.seq = s.seq := by simp only [t1, t, State.setRf_seq, State.count_seq, State.setRg_seq]
  have mem1 : t1.mem = s.mem := by simp only [t1, t, State.setRf_mem, State.count_mem, State.setRg_mem]
  have seq2 : t2.seq = s.seq := by rw [← seq1, State.setRb_seq]
  have mem2 : t2.mem = s.mem := by rw [← mem1, State.setRb_mem]
  split
  · split
    · exact ⟨seq2, mem2⟩
    · obtain ⟨reg, marks, win, fault, qm, form⟩ := correctable_form (s := t2) (0x8000 + m) 1 o
      have seq3 : (t2.correctable (0x8000 + m) 1 o).seq = s.seq := by rw [form]; exact seq2
      have mem3 : (t2.correctable (0x8000 + m) 1 o).mem = s.mem := by rw [form]; exact mem2
      exact ⟨seq3, mem3⟩
  · exact ⟨seq1, mem1⟩

theorem corrected_sq (m j y : Nat) : (s.corrected m j).sq y = s.sq y := sq_of_seq (corrected_keeps m j).1 y

/-! ### Traps -/

theorem trapNote_rg_ne {cause info pc o : Nat} (stat : o ≠ Off.trapStat x) (at_ : o ≠ Off.trapPc x) (info_ : o ≠ Off.trapInfo x) :
    (s.trapNote x cause info pc).rg o = s.rg o := by
  rw [State.trapNote, State.rg_setRg_ne _ _ _ _ info_, State.rg_setRg_ne _ _ _ _ at_, State.rg_setRf_ne _ _ _ _ _ _ stat]

@[simp] theorem trapNote_sq (cause info pc y : Nat) : (s.trapNote x cause info pc).sq y = s.sq y := rfl

theorem unlockLines_rg {o : Nat} (apart : o ≠ Off.clVcstat x) : (s.unlockLines x).rg o = s.rg o := by
  unfold State.unlockLines
  dsimp only
  split
  · rw [State.rg_setRf_ne _ _ _ _ _ _ apart, State.rg_setRb_ne _ _ _ _ _ apart, State.setSq_acc_rg]
  · rw [State.setSq_acc_rg]

theorem unlockLines_sq_same : (s.unlockLines x).sq x = { s.sq x with loops := [], locked := [], lockRows := [] } := by
  unfold State.unlockLines
  dsimp only
  split
  · rw [State.setRf_acc_sq, State.setRb_acc_sq, State.sq_setSq_same]
  · rw [State.sq_setSq_same]

theorem unlockLines_sq_ne {y : Nat} (apart : y ≠ x) : (s.unlockLines x).sq y = s.sq y := by
  unfold State.unlockLines
  dsimp only
  split
  · rw [State.setRf_acc_sq, State.setRb_acc_sq, State.sq_setSq_ne _ _ _ _ apart]
  · rw [State.sq_setSq_ne _ _ _ _ apart]

/-- The registers of a trap entry, before the sequencer moves. -/
def trapSet (s : State) (x cause info pc : Nat) : State :=
  let t := s.trapNote x cause info pc
  (t.setRf (Off.trapStat x) 16 4 (t.sq x).saved).setRb (Off.trapStat x) 31 true

theorem trapSet_rg_ne {cause info pc o : Nat} (apart : o ≠ Off.trapStat x) :
    (trapSet s x cause info pc).rg o = (s.trapNote x cause info pc).rg o := by
  rw [trapSet, State.rg_setRb_ne _ _ _ _ _ apart, State.rg_setRf_ne _ _ _ _ _ _ apart]

theorem trapSet_sq (cause info pc y : Nat) : (trapSet s x cause info pc).sq y = s.sq y := by
  rw [trapSet, State.setRb_acc_sq, State.setRf_acc_sq, trapNote_sq]

theorem trapSet_now (cause info pc : Nat) : (trapSet s x cause info pc).now = s.now := by
  rw [trapSet, State.setRb_now, State.setRf_now, State.trapNote, State.setRg_now, State.setRg_now, State.setRf_now]

/-- A trap that no STOP waits for: its registers, then the sequencer at the handler. -/
theorem trapTake_eq {cause info pc cost : Nat} (goes : (s.sq x).stopReq = false) :
    s.trapTake x cause info pc cost =
      let t := (trapSet s x cause info pc).unlockLines x
      t.setSq x { s.sq x with
        pc := t.trapVec x, wait := .none, readyAt := t.now + cost, floor := 0, loops := [], locked := [], lockRows := [] } := by
  unfold State.trapTake
  extract_lets s1 s2 s3 q s4
  have set : s2 = trapSet s x cause info pc := rfl
  have stays : q = { s.sq x with loops := [], locked := [], lockRows := [] } := by
    rw [show q = (s2.unlockLines x).sq x from rfl, unlockLines_sq_same, set, trapSet_sq]
  rw [if_neg (by rw [stays]; simp [goes])]
  simp only [s4, stays, s3, set]
  rfl

theorem trapStat_apart (x : Nat) : Off.trapStat x ≠ Off.clVcstat x ∧ Off.trapPc x ≠ Off.clVcstat x ∧
    Off.trapInfo x ≠ Off.clVcstat x ∧ Off.trapCtl x ≠ Off.clVcstat x ∧ Off.trapPc x ≠ Off.trapStat x ∧
    Off.trapInfo x ≠ Off.trapStat x ∧ Off.trapCtl x ≠ Off.trapStat x ∧ Off.trapPc x ≠ Off.trapInfo x ∧
    Off.trapStat x ≠ Off.trapPc x ∧ Off.trapStat x ≠ Off.trapInfo x ∧ Off.trapCtl x ≠ Off.trapPc x ∧
    Off.trapCtl x ≠ Off.trapInfo x := by
  simp only [Off.trapStat, Off.trapPc, Off.trapInfo, Off.trapCtl, Off.clVcstat]
  omega

@[simp] theorem unlockLines_now : (s.unlockLines x).now = s.now := by
  unfold State.unlockLines
  dsimp only
  split <;> rfl

/-- TRAP_STAT of a trap: the cause, the saved flags and TRAPACT. -/
theorem trapSet_stat (cause info pc : Nat) : (trapSet s x cause info pc).rg (Off.trapStat x) =
    setFlag (setFld (setFld (s.rg (Off.trapStat x)) 0 8 cause) 16 4 (s.sq x).saved) 31 true := by
  obtain ⟨-, -, -, -, -, -, -, -, atPc, atInfo, -, -⟩ := trapStat_apart x
  rw [trapSet, State.rg_setRb_same, State.rg_setRf_same, trapNote_sq, State.trapNote, State.rg_setRg_ne _ _ _ _ atInfo,
    State.rg_setRg_ne _ _ _ _ atPc, State.rg_setRf_same]

theorem trapSet_pc (cause info pc : Nat) :
    (trapSet s x cause info pc).rg (Off.trapPc x) = BitVec.ofNat 32 (pc % 2 ^ 24) := by
  obtain ⟨-, -, -, -, atStat, -, -, atInfo, -, -, -, -⟩ := trapStat_apart x
  rw [trapSet_rg_ne atStat, State.trapNote, State.rg_setRg_ne _ _ _ _ atInfo, State.rg_setRg_same]

theorem trapSet_info (cause info pc : Nat) : (trapSet s x cause info pc).rg (Off.trapInfo x) = BitVec.ofNat 32 info := by
  obtain ⟨-, -, -, -, -, atStat, -, -, -, -, -, -⟩ := trapStat_apart x
  rw [trapSet_rg_ne atStat, State.trapNote, State.rg_setRg_same]

/-- The handler's index stands as before. -/
theorem trapSet_trapVec (cause info pc : Nat) :
    ((trapSet s x cause info pc).unlockLines x).trapVec x = s.rf (Off.trapCtl x) 0 24 := by
  obtain ⟨-, -, -, lines, -, -, stat, -, -, -, atPc, atInfo⟩ := trapStat_apart x
  rw [State.trapVec, State.rf, unlockLines_rg lines, trapSet_rg_ne stat, trapNote_rg_ne stat atPc atInfo]
  rfl

/-- The four flags that SFLAGS saves. -/
theorem saved_bits (q : SeqSt) : (q.saved % 2 ^ 4).testBit 0 = q.zero ∧ (q.saved % 2 ^ 4).testBit 1 = q.carry ∧
    (q.saved % 2 ^ 4).testBit 2 = q.mtch ∧ (q.saved % 2 ^ 4).testBit 3 = q.evt := by
  have bits (z c m e : Bool) :
      let v := ((if z then 2 ^ 0 else 0) + (if c then 2 ^ 1 else 0) + (if m then 2 ^ 2 else 0) + (if e then 2 ^ 3 else 0)) % 2 ^ 4
      v.testBit 0 = z ∧ v.testBit 1 = c ∧ v.testBit 2 = m ∧ v.testBit 3 = e := by
    revert z c m e
    decide
  exact bits _ _ _ _

/-- From the plain ROM the trap entry takes 4 CCLK. -/
theorem trapEnter_of_plain {cause info pc : Nat} (plain : s.plainRom x = true) :
    s.trapEnter x cause info pc = s.trapTake x cause info pc 4 := by
  simp [State.trapEnter, State.routine, plain, State.microSet]

theorem haltSeq_rg {o : Nat} (apart : o ≠ Off.clVcstat x) : (s.haltSeq x).rg o = s.rg o := by
  unfold State.haltSeq State.dropMeas
  dsimp only
  split
  · rw [State.setCl_acc_rg, State.setSq_acc_rg, State.rg_setRf_ne _ _ _ _ _ _ apart, State.rg_setRb_ne _ _ _ _ _ apart,
      State.setSq_acc_rg]
  · rw [State.setSq_acc_rg]

/-- The count of exceptions leaves EN, TRAPACT and the cause as they stand. -/
theorem trapCnt_count (x : Nat) (s : State) (lo len n : Nat) :
    let u := s.count (Off.trapCnt x) lo len n
    u.trapEn x = s.trapEn x ∧ u.trapAct x = s.trapAct x ∧ u.rf (Off.trapStat x) 0 8 = s.rf (Off.trapStat x) 0 8 := by
  have ctl : Off.trapCtl x ≠ Off.trapCnt x := by simp only [Off.trapCtl, Off.trapCnt]; omega
  have stat : Off.trapStat x ≠ Off.trapCnt x := by simp only [Off.trapStat, Off.trapCnt]; omega
  simp only [State.trapEn, State.trapAct, State.rb, State.rf, State.rg_count_ne _ _ _ _ _ _ ctl, State.rg_count_ne _ _ _ _ _ _ stat,
    and_self]

/-- A noted exception and a halt leave TRAPACT. -/
theorem trapAct_halted (cause info pc : Nat) : ((s.trapNote x cause info pc).haltSeq x).trapAct x = s.trapAct x := by
  obtain ⟨lines, -, -, -, -, -, -, -, atPc, atInfo, -, -⟩ := trapStat_apart x
  rw [State.trapAct, State.rb, haltSeq_rg lines, State.trapNote, State.rg_setRg_ne _ _ _ _ atInfo, State.rg_setRg_ne _ _ _ _ atPc,
    State.rg_setRf_same, flag_setFld_apart _ _ _ _ _ (.inr (by decide))]
  rfl

/-- The answers to an exception, by EN and TRAPACT. -/
theorem exception_eq (cause info pc : Nat) (mc : Option Micro) : s.exception x cause info pc mc =
    let u := s.count (Off.trapCnt x) 16 16 1
    let h := (u.trapNote x cause info pc).haltSeq x
    if s.trapEn x && !s.trapAct x then u.trapEnter x cause info pc mc
    else if s.trapAct x then h.fenceSeq x [(cause, Off.trapStat x), (s.rf (Off.trapStat x) 0 8, Off.trapStat x)]
    else if cause = 0x09 then h.fenceSeq x [(cause, Off.trapStat x)]
    else h.notice (seqSrc x) cause (Off.trapStat x) := by
  obtain ⟨on, inside, last⟩ := trapCnt_count x s 16 16 1
  unfold State.exception
  dsimp only
  rw [on, inside, last, trapAct_halted, inside]
  rfl

/-- SEQ_HALT as HALT leaves it: the code under VALID. -/
theorem haltWord {code : Nat} (small : code < 2 ^ 16) :
    setFlag (setFld 0 0 16 code) 31 true = BitVec.ofNat 32 (2 ^ 31 + code) := by
  refine BitVec.eq_of_getLsbD_eq fun j hj => ?_
  have low (m : Nat) (h : 16 ≤ m) : code.testBit m = false :=
    Nat.testBit_lt_two_pow (Nat.lt_of_lt_of_le small (Nat.pow_le_pow_right (by decide) h))
  rw [setFlag, setFld_getLsbD _ _ _ _ _ hj, setFld_getLsbD _ _ _ _ _ hj, BitVec.getLsbD_ofNat]
  by_cases top : j = 31
  · subst top
    have := low 31 (by decide)
    rw [Nat.testBit_two_pow_add_eq, this]
    rfl
  · have below : j < 31 := by omega
    rw [Nat.testBit_two_pow_add_gt below]
    by_cases field : j < 16
    · simp [field, hj, show ¬ (31 ≤ j) by omega]
    · simp [field, hj, show ¬ (31 ≤ j) by omega, low j (by omega)]

theorem haltCode_eq {code : Nat} (small : code < 2 ^ 16) : s.haltCode x code =
    let t := (s.change (Off.seqHalt x) fun _ => BitVec.ofNat 32 (2 ^ 31 + code)).irq (192 + x)
    (t.setSq x { s.sq x with pc := (s.sq x).pc + 1 }).haltSeq x := by
  have kept (t : State) : ((t.change (Off.seqHalt x) fun _ => BitVec.ofNat 32 (2 ^ 31 + code)).irq (192 + x)).sq x = t.sq x :=
    sq_of_seq (irq_seq _) x
  unfold State.haltCode
  dsimp only
  rw [haltWord small, kept]

/-! ### Interrupts -/

/-- A sequencer takes a request at a boundary or in an interruptible wait, with EN = 1 and outside a handler. -/
def State.takesIrq (s : State) (x : Nat) : Prop :=
  (s.sq x).mode = .running ∧ (s.sq x).readyAt ≤ s.now ∧ ((s.sq x).wait = .none ∨ (s.sq x).wait.interruptible = true) ∧
    s.trapEn x = true ∧ s.trapAct x = false

theorem State.interrupt_of_closed (closed : ¬ s.takesIrq x) : s.interrupt x = s := by
  have shut : (decide ((s.sq x).mode = .running) && decide ((s.sq x).readyAt ≤ s.now) &&
      (decide ((s.sq x).wait = .none) || (s.sq x).wait.interruptible) && s.trapEn x && !s.trapAct x) = false := by
    rw [← Bool.not_eq_true]
    intro all
    simp only [Bool.and_eq_true, Bool.or_eq_true, decide_eq_true_eq, Bool.not_eq_true', and_assoc] at all
    exact closed all
  simp only [State.interrupt, shut]

theorem State.interrupt_of_open {cause info : Nat} (takes : s.takesIrq x) (next : s.irqNext x = some (cause, info)) :
    s.interrupt x = (s.count (Off.trapCnt x) 0 16 1).trapEnter x cause info (s.sq x).pc := by
  obtain ⟨runs, due, waits, on, out⟩ := takes
  have all : (decide ((s.sq x).mode = .running) && decide ((s.sq x).readyAt ≤ s.now) &&
      (decide ((s.sq x).wait = .none) || (s.sq x).wait.interruptible) && s.trapEn x && !s.trapAct x) = true := by
    simp only [runs, due, waits, on, out, Bool.and_eq_true, Bool.or_eq_true, decide_eq_true_eq, Bool.not_false, and_true,
      decide_true]
  simp only [State.interrupt, all, next]

theorem State.interrupt_of_nothing (next : s.irqNext x = none) : s.interrupt x = s := by
  unfold State.interrupt
  dsimp only
  split
  case h_1 asked => cases next.symm.trans asked
  case h_2 => rfl

/-- A request of slot `k`, or of FNOTE in slot 8, is latched and enabled. -/
def State.irqAsks (s : State) (x k : Nat) : Prop := flag (s.rg (Off.evLatch x)) k = true ∧ flag (s.rg (Off.intCtl x)) k = true

theorem State.irqNext_of_fnote (note : s.irqAsks x 8) : s.irqNext x = some (0x28, (s.sq x).fnSite) := by
  obtain ⟨latched, enabled⟩ := note
  simp only [State.irqNext, latched, enabled, Bool.and_self, if_true]

theorem State.irqNext_of_slots (no : ¬ s.irqAsks x 8) : s.irqNext x =
    ((List.range 8).find? fun k => flag (s.rg (Off.evLatch x)) k && flag (s.rg (Off.intCtl x)) k &&
      !(s.sq x).evwSlots.getLsbD k).map fun k => (0x20 + k, s.rf (Off.evSel x k) 0 10) := by
  unfold State.irqNext
  exact if_neg fun both => no (by simpa [State.irqAsks] using both)

/-! ### Fetch exceptions -/

section
variable {c : Cl} {ecc : Ecc}

/-- A word of instruction SRAM that is fetched, past what the checker corrects. -/
def State.fetched (s : State) (x : Nat) (ecc : Ecc) : State :=
  if ecc = .corrected then s.corrected x (2 * (s.sq x).pc) else s

theorem fetched_sq (y : Nat) : (s.fetched x ecc).sq y = s.sq y := by
  unfold State.fetched
  split
  · exact corrected_sq _ _ _
  · rfl

/-- Past the last index, and within a copy's range, nothing is fetched. -/
theorem fetchFixed_of_out (out : 32768 ≤ (s.sq x).pc ∨ (s.sq x).copyHolds (s.sq x).pc = true) : s.fetchFixed x = s := by
  unfold State.fetchFixed
  refine if_neg fun all => ?_
  obtain ⟨-, short, free⟩ := all
  rcases out with long | held
  · omega
  · simp [held] at free

theorem fetchFixed_of_in (within : x < 16) (short : (s.sq x).pc < 32768) (free : (s.sq x).copyHolds (s.sq x).pc = false) :
    s.fetchFixed x = s.corrected x (2 * (s.sq x).pc) :=
  if_pos ⟨within, short, by simp [free]⟩

/-- The fetch at a boundary meets no fault. -/
theorem fetchExc_of_none (at_ : s.atBoundary x = true) {v : State} (seen : (if ecc = .corrected then s.fetchFixed x else s) = v)
    (fine : v.fetchFault x (decide (ecc = .uncorrectable)) = none) : s.fetchExc x ecc mc = v := by
  unfold State.fetchExc
  rw [if_neg (by simp [at_]), seen]
  dsimp only
  rw [fine]

/-- The fetch of a cluster sequencer at a boundary meets a fault other than FETCHUE. -/
theorem fetchExc_of_fault {cause info : Nat} (within : x < 16) (at_ : s.atBoundary x = true) {v : State}
    (seen : (if ecc = .corrected then s.fetchFixed x else s) = v)
    (fault : v.fetchFault x (decide (ecc = .uncorrectable)) = some (cause, info)) (plain : cause ≠ causeFetchue) :
    s.fetchExc x ecc mc = v.exception x cause info (v.sq x).pc mc := by
  have touch (t : State) : t.seqhTouch x = t := if_pos within
  unfold State.fetchExc
  rw [if_neg (by simp [at_]), seen]
  dsimp only
  rw [fault]
  dsimp only
  rw [touch, if_neg (fun h => plain h.2)]

/-- FETCHUE marks the word. -/
theorem fetchExc_of_fetchue {info : Nat} (within : x < 16) (at_ : s.atBoundary x = true) {v : State}
    (seen : (if ecc = .corrected then s.fetchFixed x else s) = v)
    (fault : v.fetchFault x (decide (ecc = .uncorrectable)) = some (causeFetchue, info)) :
    s.fetchExc x ecc mc =
      let q := v.sq x
      ((v.setSq x { q with sram := Tbl.set sramZero q.sram q.pc { Tbl.get sramZero q.sram q.pc with bad := true } }).uncorrected x
        (2 * q.pc)).exception x causeFetchue info q.pc mc := by
  have touch (t : State) : t.seqhTouch x = t := if_pos within
  unfold State.fetchExc
  rw [if_neg (by simp [at_]), seen]
  dsimp only
  rw [fault]
  dsimp only
  rw [touch, if_pos ⟨within, rfl⟩]

end

end Sys2Proof.Machine

namespace Sys2Proof

open Machine

/-- Settles O27: each branch by its condition, and each loop by its counter. -/
theorem branchesAndLoops : Obligations.BranchesAndLoops := by
  refine ⟨fun x w mc s => ?_, fun x sel neg site target s runs due waits => ?_, fun x w mc s => ?_⟩
  · intro u q target far fail slot
    have far_eq : branchTarget x w q = far := branchTarget_eq q
    refine ⟨fun runs => ?_, fun runs => ?_, fun runs empty => ?_, fun pc rest runs full => ?_, fun runs now => ?_,
      fun runs waits => ?_, fun runs => ?_⟩
    · intro holds
      have legal : ifld w 48 4 < 9 := by
        by_contra high
        refine runs_no_value (i := .jmp x w mc) rfl runs (k := 48) (by decide) ?_
        simp [fA, Nat.not_lt.mp high]
      have same : q.cond (ifld w 48 4) = holds := (cond_eq q legal).symm
      cases jumps : holds with
      | true =>
        rw [if_pos rfl, ← far_eq]
        exact exec_of_jump (i := .jmp x w mc) rfl rfl runs (if_pos (same.trans jumps))
      | false =>
        rw [if_neg Bool.false_ne_true]
        have no : q.cond (fA w) ≠ true := by rw [show q.cond (fA w) = holds from same, jumps]; decide
        exact exec_of_next (i := .jmp x w mc) rfl rfl runs (if_neg no)
    · by_cases room : q.stack.length < 16
      · rw [if_pos room, ← far_eq]
        exact exec_of_jump (i := .call x w mc) rfl rfl runs (if_neg (Nat.not_le.mpr room))
      · rw [if_neg room]
        exact exec_of_trap (i := .call x w mc) rfl rfl runs (if_pos (Nat.not_lt.mp room))
    · refine exec_of_trap (i := .ret x w mc) rfl rfl runs ?_
      simp only [show (s.began x mc).sq x = q from rfl, empty]
    · refine exec_of_jump (i := .ret x w mc) rfl rfl runs ?_
      simp only [show (s.began x mc).sq x = q from rfl, full]
      rfl
    · have still : ¬ w.getLsbD 51 = true := by rw [now]; decide
      cases jumps : fail with
      | true =>
        rw [if_pos rfl]
        exact exec_of_jump (i := .jf x w mc) rfl rfl runs ((if_neg still).trans (if_pos jumps))
      | false =>
        rw [if_neg Bool.false_ne_true]
        have no : q.failCond (w.getLsbD 50) (w.getLsbD 49) ((q.gr (fD w)).toNat % 128) ≠ true :=
          fun yes => Bool.false_ne_true (jumps.symm.trans yes)
        exact exec_of_next (i := .jf x w mc) rfl rfl runs ((if_neg still).trans (if_neg no))
    · exact exec_of_hold (i := .jf x w mc) rfl rfl runs (if_pos waits)
    · have dead := deadSlots_one (s := u) (x := x) slot
      have latch := latched_one (s := u) (x := x) slot
      have clear := clearLatch_one (s := u) (x := x) slot
      by_cases off : u.rb (Off.evSel x slot) 31 = false
      · rw [if_pos off]
        rw [if_pos off] at dead
        have some_ : u.deadSlots x (maskOf 8 [ifld w 24 3]) ≠ 0 := by
          rw [show ifld w 24 3 = slot.val from rfl, dead]
          exact (Nat.two_pow_pos _).ne'
        rw [← dead]
        exact exec_of_trap (i := .je x w mc) rfl rfl runs (if_pos some_)
      · rw [if_neg off]
        rw [if_neg off] at dead
        have none_ : ¬ u.deadSlots x (maskOf 8 [ifld w 24 3]) ≠ 0 := not_not.mpr dead
        by_cases low : flag (u.rg (Off.evLatch x)) slot = false
        · rw [if_pos low]
          exact exec_of_next (i := .je x w mc) rfl rfl runs ((if_neg none_).trans (if_pos (latch.mpr low)))
        · rw [if_neg low]
          have jumped := exec_of_jump (i := .je x w mc) rfl rfl runs
            ((if_neg none_).trans (if_neg fun zero => low (latch.mp zero)))
          rw [jumped]
          cases w.getLsbD 50 with
          | true =>
            rw [if_pos rfl, if_pos rfl, ← clear]
          | false => rfl
  · have turn : ¬ ((s.sq x).mode ≠ .running ∨ s.now < (s.sq x).readyAt) := by simp [runs, due]
    rw [State.waitTick, if_neg turn]
    simp only [waits]
    rfl
  · intro u q k
    refine ⟨fun runs => ?_, fun runs => ?_⟩
    · intro n
      by_cases none_ : n = 0
      · rw [if_pos none_]
        have ends := exec_of_jump (i := .loop x w mc) rfl rfl runs (if_pos none_)
        rw [ends, ← none_]
        rfl
      · rw [if_neg none_]
        exact exec_of_next (i := .loop x w mc) rfl rfl runs (if_neg none_)
    · by_cases last : (q.lcr k).toNat = 1
      · rw [if_pos last]
        have zero := (lcr_last (q.lcr k)).mpr last
        have ends := exec_of_next (i := .endl x w mc) rfl rfl runs (if_pos zero)
        rw [ends, ← zero]
      · rw [if_neg last]
        exact exec_of_jump (i := .endl x w mc) rfl rfl runs (if_neg fun zero => last ((lcr_last _).mp zero))

/-- Settles O28: STEEP, POUR, HALT and TRET. -/
theorem steepHaltAndReturn : Obligations.SteepHaltAndReturn := by
  intro x w mc s u q
  refine ⟨fun runs => ?_, fun runs => ?_, fun runs => ?_, fun runs out => ?_, fun runs inside => ?_⟩
  · exact exec_of_hold (i := .steep x w mc) rfl rfl runs rfl
  · by_cases none_ : u.steep.ended = []
    · rw [if_pos none_]
      exact exec_of_next (i := .pour x w mc) rfl rfl runs (if_pos (List.isEmpty_iff.mpr none_))
    · rw [if_neg none_]
      exact exec_of_hold (i := .pour x w mc) rfl rfl runs (if_neg fun empty => none_ (List.isEmpty_iff.mp empty))
  · have small : ifld w 0 16 < 2 ^ 16 := Nat.mod_lt _ (Nat.two_pow_pos 16)
    refine exec_of_hold (i := .halt x w mc) rfl rfl runs ?_
    rw [haltCode_eq small]
  · exact exec_of_trap (i := .tret x w mc) rfl rfl runs (if_pos (by rw [show (s.began x mc).trapAct x = false from out]; rfl))
  · exact exec_of_jump (i := .tret x w mc) rfl rfl runs
      (if_neg (by rw [show (s.began x mc).trapAct x = true from inside]; decide))

/-- Settles O29: what a trap entry sets, how its routine ends, and the three ways of an exception. -/
theorem exceptionsAndTraps : Obligations.ExceptionsAndTraps := by
  refine ⟨fun x cause info pc s hc hi hp goes plain => ?_, fun x cause info pc mc s => ?_, fun x cause info pc mc s => ?_⟩
  · intro t
    obtain ⟨stat, at_, what, -⟩ := trapStat_apart x
    have taken : t = _ := (trapEnter_of_plain plain).trans (trapTake_eq goes)
    have rgs {o : Nat} (apart : o ≠ Off.clVcstat x) : t.rg o = (trapSet s x cause info pc).rg o := by
      rw [taken]
      dsimp only
      rw [State.setSq_acc_rg, unlockLines_rg apart]
    obtain ⟨z, c, m, e⟩ := saved_bits (s.sq x)
    have flags : t.rf (Off.trapStat x) 16 4 = (s.sq x).saved % 2 ^ 4 := by
      rw [State.rf, rgs stat, trapSet_stat, fld_setFlag_apart _ _ _ _ _ (by decide) (by decide), fld_setFld _ _ _ _ (by decide)]
    refine ⟨?_, ?_, ?_, flags ▸ z, flags ▸ c, flags ▸ m, flags ▸ e, ?_, ?_, fun y apart => ?_⟩
    · rw [State.rf, rgs stat, trapSet_stat, fld_setFlag_apart _ _ _ _ _ (by decide) (by decide),
        fld_setFld_apart _ _ _ _ _ _ (by decide) (by decide), fld_setFld _ _ _ _ (by decide)]
      exact Nat.mod_eq_of_lt hc
    · rw [rgs at_, trapSet_pc, BitVec.toNat_ofNat]
      omega
    · rw [rgs what, trapSet_info, BitVec.toNat_ofNat]
      exact Nat.mod_eq_of_lt hi
    · rw [State.trapAct, State.rb, rgs stat, trapSet_stat, flag_setFlag _ _ _ (by decide)]
    · rw [taken]
      dsimp only
      rw [State.sq_setSq_same, trapSet_trapVec, unlockLines_now, trapSet_now]
    · have ne : y.val ≠ x.val := fun e => apart (Fin.ext e)
      rw [taken]
      dsimp only
      rw [State.sq_setSq_ne _ _ _ _ ne, unlockLines_sq_ne ne, trapSet_sq]
  · intro e
    refine ⟨fun why uaddr fails => ?_, fun sound ends => ?_⟩
    · unfold State.trapEnter
      dsimp only
      rw [show (s.routine x Config.trapRoutine mc).check = some (why, uaddr) from fails]
    · unfold State.trapEnter
      dsimp only
      rw [show (s.routine x Config.trapRoutine mc).check = none from sound]
      exact if_pos ends
  · intro u h
    rw [exception_eq]
    dsimp only
    refine ⟨fun on out => ?_, fun inside => ?_, fun off out => ⟨fun fetch => ?_, fun other => ?_⟩⟩
    · rw [if_pos (by simp [on, out])]
    · rw [if_neg (by simp [inside]), if_pos inside]
    · rw [if_neg (by simp [off]), if_neg (by simp [out]), if_pos fetch]
    · rw [if_neg (by simp [off]), if_neg (by simp [out]), if_neg other]
      rfl

/-- Settles O30: the requests in their order, and the faults of a fetch in theirs. -/
theorem interruptsAndFetch : Obligations.InterruptsAndFetch := by
  refine ⟨fun x s => ?_, fun c ecc mc s => ?_⟩
  · intro q open_ asks slot u
    refine ⟨fun closed => ?_, fun takes note => ?_, fun k hk takes no this first => ?_, fun no none_ => ?_⟩
    · exact congrArg Host.Outcome.next (State.interrupt_of_closed closed)
    · exact congrArg Host.Outcome.next (State.interrupt_of_open takes (State.irqNext_of_fnote note))
    · have next : s.irqNext x = some (0x20 + k, s.rf (Off.evSel x k) 0 10) := by
        rw [State.irqNext_of_slots no, List.find?_range_eq_some.mpr]
        · rfl
        · refine ⟨by simpa [slot, asks, and_assoc] using this, List.mem_range.mpr hk, fun j hj => ?_⟩
          have not_ := first j hj
          rw [Bool.not_eq_true', ← Bool.not_eq_true]
          exact fun yes => not_ (by simpa [slot, asks, and_assoc] using yes)
      exact congrArg Host.Outcome.next (State.interrupt_of_open takes next)
    · have next : s.irqNext x = none := by
        rw [State.irqNext_of_slots no, List.find?_eq_none.mpr]
        · rfl
        · intro j hj
          have not_ := none_ j (List.mem_range.mp hj)
          exact fun yes => not_ (by simpa [slot, asks, and_assoc] using yes)
      exact congrArg Host.Outcome.next (State.interrupt_of_nothing next)
  · intro q m i v raise
    have within : c.val < 16 := c.isLt
    refine ⟨fun away => ?_, fun at_ => ⟨fun long => ?_, fun short held => ?_, fun short free lost => ?_, fun short free good fine => ?_⟩⟩
    · exact congrArg Host.Outcome.next (if_pos (by rw [away]; rfl))
    · have seen : (if ecc = .corrected then s.fetchFixed c else s) = s := by
        rw [fetchFixed_of_out (.inl long), ite_self]
      refine congrArg Host.Outcome.next (fetchExc_of_fault within at_ seen ?_ (by decide))
      rw [State.fetchFault, if_pos within]
      exact if_pos long
    · have seen : (if ecc = .corrected then s.fetchFixed c else s) = s := by
        rw [fetchFixed_of_out (.inr held), ite_self]
      refine congrArg Host.Outcome.next (fetchExc_of_none at_ seen ?_)
      rw [State.fetchFault, if_pos within]
      exact (if_neg (Nat.not_le.mpr short)).trans (if_pos held)
    all_goals
      have seen : (if ecc = .corrected then s.fetchFixed c else s) = v := by
        rw [fetchFixed_of_in within short free]
      have same : v.sq c = q := fetched_sq _
      have fault : v.fetchFault c (decide (ecc = .uncorrectable)) =
          if (m.bad || decide (ecc = .uncorrectable)) = true then some (causeFetchue, q.pc)
          else if opLegal c (rowOp m.w) then none else some (0x01, rowOp m.w) := by
        unfold State.fetchFault
        dsimp only
        rw [if_pos within, same, if_neg (Nat.not_le.mpr short), if_neg (by rw [free]; decide)]
    · have found := fault.trans (if_pos (by simpa using lost))
      have raised := fetchExc_of_fetchue (mc := mc) within at_ seen found
      rw [same] at raised
      exact congrArg Host.Outcome.next raised
    · have none_ := fault.trans (if_neg (by simp [good, fine]))
      cases legal : opLegal c (m.w.toNat / 2 ^ 56) with
      | true =>
        rw [if_pos rfl]
        exact congrArg Host.Outcome.next (fetchExc_of_none at_ seen (none_.trans (if_pos legal)))
      | false =>
        rw [if_neg Bool.false_ne_true]
        have no : ¬ opLegal c (rowOp m.w) = true := by rw [rowOp, legal]; decide
        have raised := fetchExc_of_fault (mc := mc) within at_ seen (none_.trans (if_neg no)) (by decide)
        rw [same] at raised
        exact congrArg Host.Outcome.next raised

end Sys2Proof
end

section
/-!
SUPPORT. Vector memory seen by its bytes: what a write of a row leaves, and LDV, STV and overlays.
-/
namespace Sys2Proof.Machine

variable {s : State} {x r a : Nat} {w : BitVec 56} {mc : Option Micro}

/-! ### Bytes of vector memory -/

theorem byte_setByte (m : MemSt) (a b : Nat) (v : Byte) : (m.setByte a v).byte b = if b = a then v else m.byte b :=
  tblGet_tblSet m.dflt m.cells a b v

/-- The first `n` bytes of a row, written where their enable is 1. -/
theorem byte_putBytes (m : MemSt) (r n a : Nat) (w : Row) (be : BitVec 8) :
    ((List.range n).foldl (fun m i => if be.getLsbD i then m.setByte (8 * r + i) (rowByte w i) else m) m).byte a =
      if 8 * r ≤ a ∧ a < 8 * r + n ∧ be.getLsbD (a - 8 * r) then rowByte w (a - 8 * r) else m.byte a := by
  induction n with
  | zero => rw [if_neg (by omega)]; rfl
  | succ n ih =>
    rw [List.range_succ, List.foldl_append, List.foldl_cons, List.foldl_nil]
    by_cases last : a = 8 * r + n
    · subst last
      rw [Nat.add_sub_cancel_left]
      split
      case isTrue on => rw [byte_setByte, if_pos rfl, if_pos ⟨by omega, by omega, on⟩]
      case isFalse off => rw [ih, if_neg (by omega), if_neg (fun h => off h.2.2)]
    · have same : (8 * r ≤ a ∧ a < 8 * r + (n + 1) ∧ be.getLsbD (a - 8 * r) = true) =
          (8 * r ≤ a ∧ a < 8 * r + n ∧ be.getLsbD (a - 8 * r) = true) :=
        propext ⟨fun h => ⟨h.1, by omega, h.2.2⟩, fun h => ⟨h.1, by omega, h.2.2⟩⟩
      simp only [same]
      rw [← ih]
      split
      · rw [byte_setByte, if_neg last]
      · rfl

theorem byte_putRow (m : MemSt) (r a : Nat) (w : Row) (be : BitVec 8) : (m.putRow r w be).byte a =
    if 8 * r ≤ a ∧ a < 8 * r + 8 ∧ be.getLsbD (a - 8 * r) then rowByte w (a - 8 * r) else m.byte a :=
  byte_putBytes m r 8 a w be

/-- Bytes are told by the listed cells and by what an unlisted byte reads as. -/
theorem byte_congr {m m' : MemSt} (cells : m'.cells = m.cells) (pat : m'.pat = m.pat) (passed : ∀ a, m'.passed a = false)
    (passed' : ∀ a, m.passed a = false) (a : Nat) : m'.byte a = m.byte a := by
  have dflt : m'.dflt = m.dflt := by
    funext b
    simp only [MemSt.dflt, passed, passed', pat, Bool.false_eq_true, if_false]
  rw [MemSt.byte, MemSt.byte, cells, dflt]

/-- The engine that takes a waiting implicit-fill region changes no byte. -/
theorem byte_fillNext (slot : s.mem.slots ≠ []) : s.fillNext.mem.byte a = s.mem.byte a := by
  unfold State.fillNext
  split
  case isTrue => rfl
  case isFalse rests =>
    have cur : s.mem.cur = none := by simpa using rests
    split
    case h_1 f l _ =>
      exact byte_congr (m := s.mem) (m' := (s.fillBegin f.region false).mem) rfl rfl (fun _ => rfl)
        (fun b => by simp [MemSt.passed, cur]) a
    case h_2 none_ _ => exact absurd none_ slot
    case h_3 none_ _ => exact absurd none_ slot

/-- A slot changes no byte. -/
theorem byte_markLine : (s.markLine r).mem.byte a = s.mem.byte a := by
  unfold State.markLine
  dsimp only
  split
  · rfl
  split
  · rfl
  · exact (byte_fillNext (by simp)).trans rfl

theorem writeEnd_potRewrite (k r : Nat) (be : BitVec 8) (ecc : Ecc) : (s.potRewrite k).writeEnd r be ecc = s.writeEnd r be ecc := by
  unfold State.potRewrite
  split <;> rfl

theorem potRewrite_mem (k : Nat) : (s.potRewrite k).mem = s.mem := by
  unfold State.potRewrite
  split <;> rfl

/-- A partial write of a row that is stored leaves the bytes whose enable is 1 as written, and every other as it was. -/
theorem byte_writeRow {v : Row} {be : BitVec 8} {ecc : Ecc} (stored : s.writeEnd r be ecc = .stored) (part : be ≠ 0xFF) :
    (s.writeRow r v be ecc).mem.byte a =
      if 8 * r ≤ a ∧ a < 8 * r + 8 ∧ be.getLsbD (a - 8 * r) then rowByte v (a - 8 * r) else s.mem.byte a := by
  unfold State.writeRow
  rw [stored]
  simp only [part, decide_false, Bool.not_false, Bool.true_and, Bool.false_eq_true, if_false]
  rw [byte_putRow, byte_markLine]
  refine congrArg _ ?_
  split
  · rw [State.count_mem, (corrected_keeps _ _).2]
  · rfl

/-- A byte of a word that stands in both halves of a row. -/
theorem rowByte_twice (v : Word) {i : Nat} (hi : i < 8) : rowByte (v ++ v) i = BitVec.ofNat 8 (v.toNat / 2 ^ (8 * (i % 4))) := by
  refine BitVec.eq_of_getLsbD_eq fun j hj => ?_
  have left : (rowByte (v ++ v) i).getLsbD j = (v ++ v).getLsbD (8 * i + j) := by
    rw [rowByte, BitVec.getLsbD_ofNat, decide_eq_true hj, Bool.true_and, Nat.testBit_shiftRight, BitVec.getLsbD]
  have right : (BitVec.ofNat 8 (v.toNat / 2 ^ (8 * (i % 4)))).getLsbD j = v.getLsbD (8 * (i % 4) + j) := by
    rw [BitVec.getLsbD_ofNat, Nat.testBit_div_two_pow, BitVec.getLsbD, decide_eq_true hj, Bool.true_and, Nat.add_comm]
  rw [left, right, BitVec.getLsbD_append]
  by_cases low : i < 4
  · rw [if_pos (by omega), Nat.mod_eq_of_lt low]
  · rw [if_neg (by omega)]
    congr 1
    omega

/-- The byte enables of a half. -/
theorem halfEnable (hi : Bool) (j : Nat) : (if hi then (0xF0 : BitVec 8) else 0x0F).getLsbD j =
    decide ((if hi then 4 else 0) ≤ j ∧ j < if hi then 8 else 4) := by
  by_cases small : j < 8
  · have all : ∀ (hi : Bool) (j : Fin 8), (if hi then (0xF0 : BitVec 8) else 0x0F).getLsbD j =
        decide ((if hi then 4 else 0) ≤ j.val ∧ j.val < if hi then 8 else 4) := by decide
    exact all hi ⟨j, small⟩
  · rw [BitVec.getLsbD_of_ge _ _ (by omega)]
    cases hi <;> simp <;> omega

/-- An STV that is stored: its four bytes hold the register, and every other byte is as it was. -/
theorem byte_stv {q : SeqSt} {rd : Nat} {hi : Bool} {ecc : Ecc}
    (stored : s.writeEnd r (if hi then 0xF0 else 0x0F) ecc = .stored) :
    ((s.potRewrite r).writeRow r (q.gr rd ++ q.gr rd) (if hi then 0xF0 else 0x0F) ecc).mem.byte a =
      if 8 * r + (if hi then 4 else 0) ≤ a ∧ a < 8 * r + (if hi then 8 else 4)
      then BitVec.ofNat 8 ((q.gr rd).toNat / 2 ^ (8 * (a % 4))) else s.mem.byte a := by
  have part : (if hi then (0xF0 : BitVec 8) else 0x0F) ≠ 0xFF := by cases hi <;> decide
  rw [byte_writeRow ((writeEnd_potRewrite ..).trans stored) part, potRewrite_mem, halfEnable]
  by_cases within : 8 * r + (if hi then 4 else 0) ≤ a ∧ a < 8 * r + (if hi then 8 else 4)
  · have bounds : (if hi then 8 else 4) ≤ 8 := by cases hi <;> decide
    rw [if_pos within, if_pos ⟨by omega, by omega, decide_eq_true ⟨by omega, by omega⟩⟩, rowByte_twice _ (by omega)]
    congr 3
    omega
  · rw [if_neg within, if_neg]
    rintro ⟨from_, to_, enable⟩
    exact within (by have := of_decide_eq_true enable; omega)

/-! ### LDV, STV and overlays -/

theorem accessRow_eq : s.accessRow x w = (((s.sq x).gr (ifld w 48 4)).toNat + ifld w 0 32) % 2 ^ 32 := by
  rw [State.accessRow, BitVec.toNat_add, ← fImm_eq, BitVec.toNat_ofNat]
  simp [fA]

theorem exec_access (x : Sq) (store : Bool) (runs : s.runs (if store then Instr.stv x w mc else Instr.ldv x w mc) = true) :
    let u := s.began x mc
    let row := u.accessRow x w
    exec (if store then Instr.stv x w mc else Instr.ldv x w mc) s = .next (
      if 0xFFC00000 ≤ row then s.raises x mc 0x05 row
      else s.stays x mc (u.setSq x { u.sq x with
        wait := .access store (ifld w 52 4) row (w.getLsbD 47) false, readyAt := u.now + 2 })) := by
  intro u row
  by_cases high : 0xFFC00000 ≤ row
  · have trap : accessBegin store x w u = .trap 0x05 row := if_pos (decide_eq_true high)
    rw [if_pos high]
    cases store with
    | true => exact exec_of_trap (i := .stv x w mc) rfl rfl runs trap
    | false => exact exec_of_trap (i := .ldv x w mc) rfl rfl runs trap
  · have hold : accessBegin store x w u = .hold _ := if_neg (by rw [inDesc, decide_eq_true_eq]; exact high)
    rw [if_neg high]
    cases store with
    | true => exact exec_of_hold (i := .stv x w mc) rfl rfl runs hold
    | false => exact exec_of_hold (i := .ldv x w mc) rfl rfl runs hold

/-- The access that a sequencer waits for is done where vector memory answers. -/
theorem exec_vmemAccessDone {x : Sq} {ecc : Ecc} {store hi waited : Bool} {rd row : Nat}
    (waits : (s.sq x).wait = .access store rd row hi waited) (due : (s.sq x).readyAt ≤ s.now) (answers : s.vmWait = false) :
    exec (.vmemAccessDone x ecc) s =
      .next (if store then s.stvDone x rd row hi waited ecc else s.ldvDone x rd row hi ecc) := by
  show Host.Outcome.next _ = _
  rw [waits]
  exact congrArg _ (if_pos ⟨due, by rw [answers]; rfl⟩)

end Sys2Proof.Machine

namespace Sys2Proof

open Machine

/-- Settles O31: the begin of an access, its ends, and the overlay copies. -/
theorem loadsAndStores : Obligations.LoadsAndStores := by
  refine ⟨fun x w mc store s => ?_, fun x ecc s late => ?_, fun x ecc rd row hi waited s waits due answers => ?_,
    fun x ecc rd row hi waited s waits due answers => ?_, fun c w mc s => ?_⟩
  · intro u q row i runs
    rw [show row = u.accessRow x w from accessRow_eq.symm]
    exact exec_access x store runs
  · refine congrArg Host.Outcome.next ?_
    split
    · refine if_neg fun both => ?_
      obtain ⟨due, answers⟩ := both
      rcases late with early | asleep
      · omega
      · simp [asleep] at answers
    · rfl
  · exact exec_vmemAccessDone waits due answers
  · intro q be
    have done := exec_vmemAccessDone (ecc := ecc) waits due answers
    rw [if_pos rfl] at done
    rw [done]
    refine ⟨fun ends again => ?_, fun ends first => ?_, fun ends => ?_, fun ends => ?_⟩
    all_goals simp only [State.stvDone, show s.writeEnd row (if hi then 0xF0 else 0x0F) ecc = _ from ends]
    · rw [if_pos again]
    · rw [first]
      rfl
    · simp only [State.writeRow, show s.writeEnd row (if hi then 0xF0 else 0x0F) ecc = _ from ends]
      rfl
    · exact ⟨_, rfl, fun a => byte_stv ends⟩
  · intro u q x row dst last
    have len : last - dst + 1 = ifld w 0 15 + 1 := by omega
    rw [len]
    refine ⟨fun runs => ?_, fun runs => ?_⟩
    · by_cases far : 32767 < last
      · rw [if_pos far]
        exact exec_of_trap (i := .ovl x w mc) rfl rfl runs (if_pos far)
      rw [if_neg far]
      by_cases self : dst ≤ q.pc ∧ q.pc ≤ last
      · rw [if_pos self]
        exact exec_of_trap (i := .ovl x w mc) rfl rfl runs ((if_neg far).trans (if_pos ⟨self.1, Nat.lt_succ_of_le self.2⟩))
      rw [if_neg self]
      have apart : ¬ (dst ≤ q.pc ∧ q.pc < dst + (ifld w 0 15 + 1)) := fun h => self ⟨h.1, Nat.le_of_lt_succ h.2⟩
      by_cases free : q.copy = none
      · rw [if_pos free]
        exact exec_of_next (i := .ovl x w mc) rfl rfl runs
          ((if_neg far).trans ((if_neg apart).trans (if_neg (by rw [show (s.began c mc).sq c = q from rfl, free]; decide))))
      · rw [if_neg free]
        exact exec_of_hold (i := .ovl x w mc) rfl rfl runs
          ((if_neg far).trans ((if_neg apart).trans (if_pos (Option.isSome_iff_ne_none.mpr free))))
    · by_cases free : q.copy = none
      · rw [if_pos free]
        exact exec_of_next (i := .ovlw x w mc) rfl rfl runs (if_neg (by rw [show (s.began c mc).sq c = q from rfl, free]; decide))
      · rw [if_neg free]
        exact exec_of_hold (i := .ovlw x w mc) rfl rfl runs (if_pos (Option.isSome_iff_ne_none.mpr free))

end Sys2Proof
end

section
/-!
SUPPORT. The issue of vectors: where a run first meets the descriptor region, the reserved places of VEC and VECR, the masks of
SITEM, and what an underrun leaves.
-/
namespace Sys2Proof.Machine

variable {s : State} {x c : Nat} {w : BitVec 56} {mc : Option Micro} {avail : List Arrive}

/-! ### The rows of a run -/

theorem runBase_eq : s.runBase c w =
    ((if w.getLsbD 51 then ((s.sq c).gr (ifld w 52 4)).toNat else 0) + ifld w 0 32) % 2 ^ 32 := by
  have imm : (fImm w).toNat = ifld w 0 32 % 2 ^ 32 := by rw [← fImm_eq, BitVec.toNat_ofNat]
  rw [State.runBase]
  split
  · rw [BitVec.toNat_add, imm, fD, Nat.mod_add_mod, Nat.add_comm]
  · rw [imm, Nat.zero_add]

/-- A run that stays below the descriptor region. -/
theorem firstDesc_of_below {base step n : Nat} (by_ : step = 1 ∨ step = 16) (some_ : 0 < n) (small : base < 2 ^ 32)
    (below : ∀ k < n, (base + k * step) % 2 ^ 32 < 0xFFC00000) : firstDesc base step n = none := by
  have first := below 0 some_
  have low : ¬ inDesc base = true := by rw [inDesc, decide_eq_true_eq, descRow]; omega
  rw [firstDesc, if_neg low]
  refine if_neg fun meets => ?_
  obtain ⟨within, -⟩ := meets
  have hit := below _ within
  simp only [descRow] at hit
  rcases by_ with rfl | rfl <;> omega

/-- The first row of a run that lies in the descriptor region. -/
theorem firstDesc_of_first {base step n k : Nat} (by_ : step = 1 ∨ step = 16) (small : base < 2 ^ 32) (within : k < n)
    (meets : 0xFFC00000 ≤ (base + k * step) % 2 ^ 32) (below : ∀ j < k, (base + j * step) % 2 ^ 32 < 0xFFC00000) :
    firstDesc base step n = some ((base + k * step) % 2 ^ 32) := by
  rw [firstDesc]
  by_cases high : inDesc base = true
  · have at_ : 0xFFC00000 ≤ base := of_decide_eq_true high
    have zero : k = 0 := by
      by_contra later
      have := below 0 (by omega)
      omega
    subst zero
    rw [if_pos high, Nat.zero_mul, Nat.add_zero, Nat.mod_eq_of_lt small]
  · have low : base < 0xFFC00000 := by
      by_contra at_
      exact high (decide_eq_true (Nat.le_of_not_lt at_))
    have here : k = (descRow - base + (step - 1)) / step := by
      simp only [descRow]
      have upto : k ≤ (0xFFC00000 - base + (step - 1)) / step := by
        by_contra later
        have := below _ (Nat.lt_of_not_le later)
        rcases by_ with rfl | rfl <;> omega
      rcases by_ with rfl | rfl <;> omega
    have short : base + k * step < 2 ^ 32 := by
      simp only [descRow] at here
      rcases by_ with rfl | rfl <;> omega
    rw [if_neg high, Nat.mod_eq_of_lt short]
    dsimp only
    rw [← here, if_pos ⟨within, short⟩]

/-! ### VEC and VECR -/

/-- The reserved places by SRC. -/
theorem vecRsv_eq (single : Bool) : vecRsv w single =
    if ifld w 48 2 = 1 then [(50, 2), (8, 24)] else if ifld w 48 2 = 2 then [(50, 2), (0, 32)]
    else if single then [(50, 1)] else [] := by
  unfold vecRsv
  split
  case h_1 one => rw [if_pos one]
  case h_2 two => rw [if_neg (by omega), if_pos two]
  case h_3 not1 not2 => rw [if_neg not1, if_neg not2]

theorem vsrcBad_iff (single : Bool) : s.vsrcBad c w single = true ↔
    (ifld w 48 2 = 3 ∨ (ifld w 48 2 = 2 ∧ (single = false ∨ ifld w 52 4 % 2 = 1)) ∨
      (ifld w 48 2 = 1 ∧ ¬ (ifld w 0 8 < 64 ∧ s.potEn (ifld w 0 8) = true ∧ s.potOwner (ifld w 0 8) = (false, c)))) := by
  simp only [State.vsrcBad, State.potFor, Bool.or_eq_true, Bool.and_eq_true, decide_eq_true_eq, Bool.not_eq_true',
    ← Bool.not_eq_true, or_assoc, and_assoc]
  rfl

/-- A job that issues `n` vectors. -/
def vecJob (single : Bool) (w : BitVec 56) (avail : List Arrive) (v : VSrc) : Job :=
  { src := v, k := 0, left := ifld w 32 16 + 1, hold := false, zeros := false, avail := avail, stalled := false, once := single,
    ml := none }

/-- The wait for the setup of a job. -/
def State.setup (s : State) (c : Nat) (j : Job) (n : Nat) : State := s.setSq c { s.sq c with wait := .issue j, readyAt := s.now + n }

section
variable {single : Bool}

theorem vecBegin_of_bad (bad : s.vsrcBad c w single = true) :
    vecBegin single c w avail s = .trap 0x04 (if ifld w 48 2 = 1 then 1 + 256 * ifld w 0 8 else ifld w 48 2) := if_pos bad

theorem vecBegin_of_reserved {k : Nat} (good : ¬ s.vsrcBad c w single = true) (off : offBit w (vecRsv w single) [] = some k) :
    vecBegin single c w avail s = .trap 0x02 k := by
  unfold vecBegin
  dsimp only
  rw [if_neg good, off]

/-- What VEC and VECR issue, past their checks. -/
theorem vecBegin_of_clean (good : ¬ s.vsrcBad c w single = true) (clean : offBit w (vecRsv w single) [] = none) :
    vecBegin single c w avail s =
      if ifld w 48 2 = 0 then
        match firstDesc (s.runBase c w) (if w.getLsbD 50 then 16 else 1) (if single then 1 else ifld w 32 16 + 1) with
        | some r => .trap 0x05 r
        | none => .hold (s.setup c (vecJob single w avail (.mem (s.runBase c w) (if w.getLsbD 50 then 16 else 1))) 2)
      else if ifld w 48 2 = 1 then .hold (s.setup c (vecJob single w avail (.pot (ifld w 0 8))) 2)
      else .hold (s.setup c (vecJob single w avail (.one ((s.sq c).gr (fD w + 1) ++ (s.sq c).gr (fD w)))) 1) := by
  unfold vecBegin
  dsimp only
  rw [if_neg good, clean]
  rfl

/-- Both commands begin alike. -/
theorem exec_vec_of_trap {x : Sq} {cause info : Nat}
    (runs : s.runs (if single then Instr.vecr x w mc avail else Instr.vec x w mc avail) = true)
    (ends : vecBegin single x w avail (s.began x mc) = .trap cause info) :
    exec (if single then Instr.vecr x w mc avail else Instr.vec x w mc avail) s = .next (s.raises x mc cause info) := by
  cases single with
  | true => exact exec_of_trap (i := .vecr x w mc avail) rfl rfl runs ends
  | false => exact exec_of_trap (i := .vec x w mc avail) rfl rfl runs ends

theorem exec_vec_of_hold {x : Sq} {t : State}
    (runs : s.runs (if single then Instr.vecr x w mc avail else Instr.vec x w mc avail) = true)
    (ends : vecBegin single x w avail (s.began x mc) = .hold t) :
    exec (if single then Instr.vecr x w mc avail else Instr.vec x w mc avail) s = .next (s.stays x mc t) := by
  cases single with
  | true => exact exec_of_hold (i := .vecr x w mc avail) rfl rfl runs ends
  | false => exact exec_of_hold (i := .vec x w mc avail) rfl rfl runs ends
end

/-! ### Masks -/

/-- Bit `k` of the mask of a list. -/
theorem maskOf_getLsbD (n : Nat) (l : List Nat) (k : Nat) : (maskOf n l).getLsbD k = (decide (k < n) && l.contains k) := by
  have step (m : BitVec n) : (l.foldl (fun m i => m ||| (BitVec.ofNat n 1 <<< i)) m).getLsbD k =
      (m.getLsbD k || (decide (k < n) && l.contains k)) := by
    induction l generalizing m with
    | nil => simp
    | cons a l ih =>
      have one : (BitVec.ofNat n 1 <<< a).getLsbD k = (decide (k < n) && decide (k = a)) := by
        rw [BitVec.getLsbD_shiftLeft, BitVec.getLsbD_ofNat]
        by_cases small : k < n
        · by_cases lt : k < a
          · simp [small, lt, Nat.ne_of_lt lt]
          · have bit : Nat.testBit 1 (k - a) = decide (k = a) := by
              rw [show (1 : Nat) = 2 ^ 0 from rfl, Nat.testBit_two_pow]
              exact decide_eq_decide.mpr ⟨fun h => by omega, fun h => by omega⟩
            have room : k - a < n := by omega
            simp [small, lt, bit, room]
        · simp [small]
      rw [List.foldl_cons, ih, BitVec.getLsbD_or, one, List.contains_cons, beq_eq_decide]
      cases decide (k < n) <;> simp [Bool.or_assoc]
  rw [maskOf, step]
  simp

theorem maskOf_single (k : Nat) : maskOf 128 [k] = BitVec.ofNat 128 (2 ^ k) := by
  refine BitVec.eq_of_getLsbD_eq fun j hj => ?_
  rw [maskOf_getLsbD, BitVec.getLsbD_ofNat, Nat.testBit_two_pow]
  simp [hj, eq_comm]

/-- The masks in use after a change: a site fenced in the same CCLK keeps its bit. -/
theorem foldl_bitFrom (l : List Nat) (m old : BitVec 128) (k : Nat) :
    (l.foldl (fun m k => bitFrom k m old) m).getLsbD k = if k ∈ l then old.getLsbD k else m.getLsbD k := by
  induction l generalizing m with
  | nil => simp
  | cons a l ih =>
    have bit : (bitFrom a m old).getLsbD k = if k = a then old.getLsbD k else m.getLsbD k := by
      rw [bitFrom, BitVec.getLsbD_or, BitVec.getLsbD_and, BitVec.getLsbD_and, BitVec.getLsbD_not, maskOf_getLsbD]
      by_cases small : k < 128
      · by_cases e : k = a
        · subst e
          simp [small]
        · simp [small, e]
      · simp [small, BitVec.getLsbD_of_ge _ _ (Nat.le_of_not_lt small)]
    rw [List.foldl_cons, ih, bit]
    by_cases e : k = a
    · simp [e]
    · simp [e]

theorem mem_fencedNow (k : Site) : k.val ∈ s.fencedNow ↔ (s.st k).fencedAt = some s.now := by
  simp [State.fencedNow, idxs, k.isLt]

theorem useMasks_getLsbD (q : SeqSt) (v m : BitVec 128) (k : Site) :
    (s.useMasks q v m).vUse.getLsbD k = (if (s.st k).fencedAt = some s.now then q.vUse else v).getLsbD k ∧
      (s.useMasks q v m).cUse.getLsbD k = (if (s.st k).fencedAt = some s.now then q.cUse else m).getLsbD k := by
  simp only [State.useMasks, foldl_bitFrom, mem_fencedNow]
  constructor <;> split <;> rfl

/-! ### SITEM -/

/-- The operand of SITEM, as a list. -/
theorem siteOperand_eq (q : SeqSt) (legal : ifld w 48 4 < 4) :
    [q.quad (ifld w 0 2), q.siteFail, BitVec.ofNat 128 (2 ^ ifld w 0 7), BitVec.allOnes 128].getD (ifld w 48 4) 0 =
      q.siteOperand w := by
  unfold SeqSt.siteOperand fA
  rw [maskOf_single]
  generalize ifld w 48 4 = n at legal
  interval_cases n <;> rfl

/-- The mask operation, as a list. -/
theorem maskOp_eq {n : Nat} (hn : n < 4) (m v : BitVec 128) : [v, m ||| v, m &&& v, m &&& ~~~v].getD n 0 = maskOp n m v := by
  interval_cases n <;> rfl

theorem mask_clear_iff (m : BitVec 128) :
    m &&& maskOf 128 (s.clSites c) = 0 ↔ ∀ k : Site, s.siteIn k c = true → m.getLsbD k = false := by
  have here (k : Site) : (maskOf 128 (s.clSites c)).getLsbD k = s.siteIn k c := by
    rw [maskOf_getLsbD, State.clSites, idxs]
    simp [k.isLt, List.contains_eq_mem]
  constructor
  · intro zero k within
    have bit : (m &&& maskOf 128 (s.clSites c)).getLsbD k = false := by rw [zero]; simp
    rwa [BitVec.getLsbD_and, here, within, Bool.and_true] at bit
  · intro all
    refine BitVec.eq_of_getLsbD_eq fun j hj => ?_
    have bit := here ⟨j, hj⟩
    rw [BitVec.getLsbD_and, show (maskOf 128 (s.clSites c)).getLsbD j = s.siteIn j c from bit]
    cases within : s.siteIn j c with
    | false => simp
    | true => simpa using all ⟨j, hj⟩ within

/-- A sequencer with the masks and flags that SITEM leaves. -/
def sitemSeq (s : State) (c : Nat) (q : SeqSt) (w : BitVec 56) (vm cm : BitVec 128) : SeqSt :=
  { q with
    vmask := vm, cmask := cm, carry := false
    zero := decide (∀ k : Site, s.siteIn k c = true → (w.getLsbD 54 = true → vm.getLsbD k = false) ∧
      (w.getLsbD 55 = true → cm.getLsbD k = false)) }

theorem sitem_zero (vm cm : BitVec 128) (a b : Bool) :
    ((!a || decide (vm &&& maskOf 128 (s.clSites c) = 0)) && (!b || decide (cm &&& maskOf 128 (s.clSites c) = 0))) =
      decide (∀ k : Site, s.siteIn k c = true → (a = true → vm.getLsbD k = false) ∧ (b = true → cm.getLsbD k = false)) := by
  rw [Bool.eq_iff_iff, decide_eq_true_eq]
  simp only [Bool.and_eq_true, Bool.or_eq_true, Bool.not_eq_true', decide_eq_true_eq, mask_clear_iff]
  constructor
  · rintro ⟨sites, compares⟩ k within
    refine ⟨fun on => ?_, fun on => ?_⟩
    · exact (sites.resolve_left (by simp [on])) k within
    · exact (compares.resolve_left (by simp [on])) k within
  · intro all
    refine ⟨?_, ?_⟩
    · cases a with
      | false => exact .inl rfl
      | true => exact .inr fun k within => (all k within).1 rfl
    · cases b with
      | false => exact .inl rfl
      | true => exact .inr fun k within => (all k within).2 rfl

/-- SITEM, with the point from which its masks count. -/
theorem sitem_eq (legal : ifld w 48 4 < 4) :
    let q := s.sq c
    let v : BitVec 128 := [q.quad (ifld w 0 2), q.siteFail, BitVec.ofNat 128 (2 ^ ifld w 0 7), BitVec.allOnes 128].getD
      (ifld w 48 4) 0
    let op (m : BitVec 128) : BitVec 128 := [v, m ||| v, m &&& v, m &&& ~~~v].getD (ifld w 52 2) 0
    let vm := if w.getLsbD 54 then op q.vmask else q.vmask
    let cm := if w.getLsbD 55 then op q.cmask else q.cmask
    (s.steep.ended = [] → s.sitem c w = s.setSq c (s.useMasks (sitemSeq s c q w vm cm) vm cm)) ∧
      ∀ l a t, s.steep.ended = l ++ [(a, t)] →
        s.sitem c w = s.setSq c { sitemSeq s c q w vm cm with due := q.due ++ [(a, vm, cm)] } := by
  intro q v op vm cm
  have small : ifld w 52 2 < 4 := Nat.mod_lt _ (Nat.two_pow_pos 2)
  have ops (m : BitVec 128) : op m = maskOp (ifld w 52 2) m (q.siteOperand w) := by
    rw [← siteOperand_eq q legal]
    exact maskOp_eq small m v
  have vms : vm = if w.getLsbD 54 then maskOp (ifld w 52 2) q.vmask (q.siteOperand w) else q.vmask := by rw [← ops]
  have cms : cm = if w.getLsbD 55 then maskOp (ifld w 52 2) q.cmask (q.siteOperand w) else q.cmask := by rw [← ops]
  clear_value vm cm
  subst vms cms
  constructor
  · intro none_
    simp only [State.sitem, sitem_zero, none_, sitemSeq, List.getLast?_nil]
    rfl
  · intro l a t last
    simp only [State.sitem, sitem_zero, last, sitemSeq, List.getLast?_concat]
    rfl

/-! ### MLOOP -/

/-- MLOOP before its first pass. -/
theorem mloopBegin_of_none (below : firstDesc (s.runBase c w) 1 (ifld w 32 12 + 1) = none) :
    mloopBegin c w avail s =
      let q := { s.sq c with mtch := false }
      let gt := ifld w 44 4
      if ((s.sq c).gr gt).toNat = 0 then .next (s.setSq c q) 3
      else
        let m : MLoop := { gt := gt, limit := ((s.sq c).gr gt).toNat, base := s.runBase c w, cnt := ifld w 32 12 + 1, pass := 1,
                           done := 0, failed := [], ended := [], hit := false }
        let j : Job := { src := .mem (s.runBase c w) 1, k := 0, left := ifld w 32 12 + 1, hold := false, zeros := false,
                         avail := avail, stalled := false, once := false, ml := some m }
        .hold (s.setSq c { q with readyAt := s.now + 2, wait := .issue j }) := by
  unfold mloopBegin
  dsimp only
  rw [below]
  rfl

theorem mloopBegin_of_desc {r : Nat} (meets : firstDesc (s.runBase c w) 1 (ifld w 32 12 + 1) = some r) :
    mloopBegin c w avail s = .trap 0x05 r := by
  unfold mloopBegin
  dsimp only
  rw [meets]

/-! ### Underruns -/

theorem pulse_form (src hc : Nat) : ∃ pulses transit, s.pulse src hc = { s with pulses := pulses, transit := transit } := by
  unfold State.pulse
  split <;> exact ⟨_, _, rfl⟩

/-- What a notice leaves: the settings and the time. -/
theorem notice_keeps (src cause off : Nat) (site : Option Nat) :
    (s.notice src cause off site).app = s.app ∧ (s.notice src cause off site).now = s.now := by
  obtain ⟨reg, marks, win, fault, qm, form⟩ := hist_form (s := s)
    { cls := 0, src := src, cause := cause, off := off, site := site, wd := false } false
  rw [State.notice, State.count_app, State.setRb_app, State.count_now, State.setRb_now, form]
  exact ⟨rfl, rfl⟩

theorem fire_keeps (src : Nat) : (s.fire src).app = s.app ∧ (s.fire src).now = s.now := by
  obtain ⟨pulses, transit, form⟩ := pulse_form (s := s) src 0
  rw [State.fire, form]
  exact ⟨rfl, rfl⟩

theorem irq_keeps (k : Nat) : (s.irq k).app = s.app ∧ (s.irq k).now = s.now := by
  obtain ⟨q, form⟩ := irq_form (s := s) k
  rw [form]
  exact ⟨rfl, rfl⟩

/-- An underrun of a pot is counted, and told. -/
theorem potUnderrun_keeps (p : Nat) : (s.potUnderrun p).app = s.app ∧ (s.potUnderrun p).now = s.now := by
  have told (t : State) : ((t.irq (64 + p)).fire (evPot p 1)).app = t.app ∧ ((t.irq (64 + p)).fire (evPot p 1)).now = t.now := by
    obtain ⟨app, now⟩ := fire_keeps (s := t.irq (64 + p)) (evPot p 1)
    obtain ⟨app', now'⟩ := irq_keeps (s := t) (64 + p)
    exact ⟨app.trans app', now.trans now'⟩
  exact told _

/-- An underrun is noted: the settings and the time stand. -/
theorem underrunNote_keeps (c : Nat) (pot : Option Nat) :
    (s.underrunNote c pot).app = s.app ∧ (s.underrunNote c pot).now = s.now := by
  unfold State.underrunNote
  extract_lets o t1 t2 t3
  have first : t2.app = s.app ∧ t2.now = s.now := by
    simp only [t2, t1, State.count_app, State.count_now]
    split <;> exact ⟨rfl, rfl⟩
  have second : t3.app = s.app ∧ t3.now = s.now := by
    simp only [t3]
    split
    · obtain ⟨app, now⟩ := potUnderrun_keeps (s := t2) ‹_›
      exact ⟨app.trans first.1, now.trans first.2⟩
    · exact first
  obtain ⟨app, now⟩ := fire_keeps (s := (t3.flagCl c t3.steep.num fUnderrun).noticeCl c o) (evCluster c 0)
  obtain ⟨app', now'⟩ := notice_keeps (s := t3.flagCl c t3.steep.num fUnderrun) c 0 o none
  exact ⟨(app.trans app').trans second.1, (now.trans now').trans second.2⟩

end Sys2Proof.Machine

namespace Sys2Proof

open Machine

/-- Settles O32: the checks of VEC and VECR in their order, TSET, and SITEM. -/
theorem vectorInstructions : Obligations.VectorInstructions := by
  intro c w mc avail s u q x src n pot base step bad clean go
  refine ⟨fun single => ?_, fun runs => ?_, fun runs => ?_⟩
  · intro i runs
    have bads : u.vsrcBad c w single = true ↔ bad single := vsrcBad_iff single
    have rows : u.runBase c w = base := runBase_eq
    have cleans : clean single → offBit w (vecRsv w single) [] = none := fun h => by rw [vecRsv_eq]; exact h
    have by_ : step = 1 ∨ step = 16 := by
      simp only [step]
      split
      · exact .inr rfl
      · exact .inl rfl
    have small : base < 2 ^ 32 := Nat.mod_lt _ (Nat.two_pow_pos 32)
    have good_of_mem (mem : src = 0) : ¬ u.vsrcBad c w single = true := fun yes => by
      rcases bads.mp yes with h | ⟨h, -⟩ | ⟨h, -⟩ <;> omega
    have some_ : 0 < (if single then 1 else n) := by split <;> omega
    refine ⟨fun no => ?_, fun k fine open_ off => ?_, fun fine free one => ?_, fun fine free two => ?_, fun free mem below => ?_,
      fun k within free mem meets below => ?_⟩
    · exact exec_vec_of_trap (x := x) runs (vecBegin_of_bad (bads.mpr no))
    · exact exec_vec_of_trap (x := x) runs (vecBegin_of_reserved (fun yes => fine (bads.mp yes)) off)
    · have begin_ := vecBegin_of_clean (avail := avail) (fun yes => fine (bads.mp yes)) (cleans free)
      rw [if_neg (by omega), if_pos one] at begin_
      exact exec_vec_of_hold (x := x) runs begin_
    · have begin_ := vecBegin_of_clean (avail := avail) (fun yes => fine (bads.mp yes)) (cleans free)
      rw [if_neg (by omega), if_neg (by omega)] at begin_
      exact exec_vec_of_hold (x := x) runs begin_
    · have begin_ := vecBegin_of_clean (avail := avail) (good_of_mem mem) (cleans free)
      rw [if_pos mem, rows, firstDesc_of_below by_ some_ small below] at begin_
      exact exec_vec_of_hold (x := x) runs begin_
    · have begin_ := vecBegin_of_clean (avail := avail) (good_of_mem mem) (cleans free)
      rw [if_pos mem, rows, firstDesc_of_first by_ small within meets below] at begin_
      exact exec_vec_of_trap (x := x) runs begin_
  · have value : BitVec.ofNat 8 (if w.getLsbD 51 then (q.gr (ifld w 52 4)).toNat else ifld w 0 8) =
        if w.getLsbD 51 then (q.gr (fD w)).setWidth 8 else BitVec.ofNat 8 (ifld w 0 8) := by
      split
      · rw [BitVec.ofNat_toNat]
        rfl
      · rfl
    rw [value]
    exact exec_of_next (i := .tset x w mc) rfl rfl runs rfl
  · have legal : ifld w 48 4 < 4 := by
      by_contra high
      refine runs_no_value (i := .sitem x w mc) rfl runs (k := 48) (by decide) ?_
      simp [sitemVals, fA, Nat.not_lt.mp high]
    have ends := exec_of_next (i := .sitem x w mc) rfl rfl runs rfl
    obtain ⟨now, later⟩ := sitem_eq (s := u) (c := c) legal
    intro v op vm cm q'
    refine ⟨fun none_ => ⟨?_, rfl, rfl, fun k => useMasks_getLsbD q' vm cm k⟩, fun l a t last => ?_⟩
    · rw [ends, show (s.began c mc).sitem c w = _ from now none_]
      rfl
    · rw [ends, show (s.began c mc).sitem c w = _ from later l a t last]
      rfl

/-- Settles O33: the begin of an MLOOP, the resolution of a pass, stalls, underruns, and the result without a match. -/
theorem matchLoopsAndStalls : Obligations.MatchLoopsAndStalls := by
  refine ⟨fun c w mc avail s => ?_, fun c avail e l j m s waits loop ended => ?_, fun c j s waits => ?_, fun q j m waits loop => ?_⟩
  · intro u q i gt base n q' runs
    have rows : u.runBase c w = base := runBase_eq
    have small : base < 2 ^ 32 := Nat.mod_lt _ (Nat.two_pow_pos 32)
    have of_below (below : ∀ k < n, (base + k) % 2 ^ 32 < 0xFFC00000) : firstDesc (u.runBase c w) 1 (ifld w 32 12 + 1) = none := by
      rw [rows]
      exact firstDesc_of_below (.inl rfl) (Nat.succ_pos _) small fun k hk => by rw [Nat.mul_one]; exact below k hk
    refine ⟨fun k within meets below => ?_, fun below zero => ?_, fun below some_ => ?_⟩
    · have first := firstDesc_of_first (step := 1) (.inl rfl) small within (by rwa [Nat.mul_one])
        (fun j hj => by rw [Nat.mul_one]; exact below j hj)
      rw [Nat.mul_one, ← rows] at first
      rw [← rows]
      exact exec_of_trap (i := i) rfl rfl runs (mloopBegin_of_desc first)
    · exact exec_of_next (i := i) rfl rfl runs ((mloopBegin_of_none (of_below below)).trans (if_pos zero))
    · intro m j
      rw [exec_of_hold (i := i) rfl rfl runs ((mloopBegin_of_none (of_below below)).trans (if_neg some_))]
      simp only [j, m, ← rows]
      rfl
  · intro p m' i won
    have judged : exec i s = .next (if s.now < e + 64 then s else
        if m.failed.contains p then if p = m.limit then s.mlEnd c else s.setJob c { j with avail := avail, ml := some m' }
        else if j.left = 0 ∨ j.k = 0 then won.mlEnd c else won.setJob c { j with ml := some { m' with hit := true } }) := by
      show Host.Outcome.next (s.passResolve c avail) = _
      unfold State.passResolve
      simp only [waits, loop, ended]
      rfl
    rw [judged]
    refine ⟨fun early => ?_, fun late failed last => ?_, fun late failed more => ?_, fun late passed ends => ?_,
      fun late passed left begun => ?_⟩
    · rw [if_pos early]
    all_goals rw [if_neg (Nat.not_lt.mpr late)]
    · rw [if_pos (List.contains_iff_mem.mpr failed), if_pos last]
    · rw [if_pos (List.contains_iff_mem.mpr failed), if_neg more]
    · rw [if_neg (by simpa using passed), if_pos ends]
    · rw [if_neg (by simpa using passed), if_neg (by simp [left, begun])]
  · refine ⟨fun avail stalls here level => ?_, fun goes avail => ?_, fun not_ => ?_, fun stalls idle none_ => ?_⟩
    · have arrived : (!avail.isEmpty && match j.src with
          | .pot p => decide (0 < s.potLevel p)
          | _ => true) = true := by
        have full : avail.isEmpty = false := by simpa using here
        cases src : j.src with
        | pot p => simpa [full] using level p src
        | _ => simp [full]
      show Host.Outcome.next (s.stallEnd c avail) = _
      unfold State.stallEnd
      simp only [waits]
      exact congrArg _ (if_pos (by rw [stalls, Bool.true_and]; exact arrived))
    · show Host.Outcome.next (s.stallEnd c avail) = _
      unfold State.stallEnd
      simp only [waits, goes, Bool.false_and, Bool.false_eq_true, if_false]
    · show Host.Outcome.next (s.underrun c) = _
      unfold State.underrun
      simp only [waits]
      refine congrArg _ (if_neg fun all => not_ ?_)
      simpa [and_assoc] using all
    · intro u
      obtain ⟨app, now⟩ : u.app = s.app ∧ u.now = s.now := underrunNote_keeps _ _
      have settings : s.ap (Off.clUnderrunCtl c) = u.ap (Off.clUnderrunCtl c) := by rw [State.ap, State.ap, app]
      rw [settings, ← now]
      show Host.Outcome.next (s.underrun c) = _
      unfold State.underrun
      simp only [waits]
      exact congrArg _ (if_pos (by simp [stalls, idle, none_]))
  · refine ⟨fun no => ?_, fun yes => ?_⟩
    · simp only [SeqSt.mlZero, waits, loop, no, Bool.false_eq_true, if_false]
    · simp only [SeqSt.mlZero, waits, loop, yes, if_true]

end Sys2Proof
end

section
/-!
SUPPORT. Vectors and entries at the pins: the state of a code, the start of a vector, how a strobe resolves, the refusals of RANGE,
FORCE and MEAS, and what an entry does as it leaves the FIFO.
-/
namespace Sys2Proof.Machine

variable {s : State} {c x : Nat} {w : BitVec 56} {mc : Option Micro}

/-! ### Applied states -/

/-- A code of two bits, taken from its row. -/
theorem rowCode (n i : Nat) : n >>> i % 4 = (n.testBit (i + 1)).toNat * 2 + (n.testBit i).toNat := by
  have low : n.testBit i = (n >>> i).testBit 0 := by rw [Nat.testBit_shiftRight, Nat.add_zero]
  have high : n.testBit (i + 1) = (n >>> i).testBit 1 := by rw [Nat.testBit_shiftRight]
  rw [low, high]
  generalize n >>> i = m
  rw [Nat.testBit_succ, Nat.testBit_zero, Nat.testBit_zero]
  rcases Nat.mod_two_eq_zero_or_one m with a | a <;> rcases Nat.mod_two_eq_zero_or_one (m / 2) with b | b <;>
    simp only [a, b, decide_true, decide_false, Bool.toNat_true, Bool.toNat_false, Nat.zero_ne_one] <;> omega

/-- A state of the map, as a number below 8. -/
theorem mapState_toNat (smap : Word) (selB : Bool) (code : Nat) :
    (mapState smap selB code).toNat = fld smap (3 * code + (if selB then 12 else 0)) 3 := by
  rw [mapState, BitVec.toNat_ofNat]
  exact Nat.mod_eq_of_lt (fld_lt _ _ _)

section
variable {i k : Nat} {v : Vec}

/-- The state that the map gives to the code of channel `i` in a vector. -/
def State.codeState (s : State) (c i : Nat) (v : Vec) : BitVec 3 :=
  mapState (s.apAt v.steep (Off.tsSmap c v.tset.toNat)) (flag (s.apAt v.steep (Off.clMapsel c)) i) (v.row.toNat >>> (2 * i) % 4)

theorem vecState_of_hold (hold : v.hold = true) :
    s.vecState c i k v = if ((s.ch (32 * c + i)).prev).toNat < 3 then (s.ch (32 * c + i)).prev else 7 := by
  simp only [State.vecState, hold, if_true, isDrvState, decide_eq_true_eq, Nat.lt_succ_iff]

theorem vecState_of_vmask (plain : v.hold = false) (off : v.vmask.getLsbD k = false) :
    s.vecState c i k v = if (s.codeState c i v).toNat < 4 then (s.ch (32 * c + i)).prev else 7 := by
  simp only [State.vecState, plain, off, Bool.false_eq_true, if_false, Bool.not_false, if_true]
  by_cases low : (s.codeState c i v).toNat < 4
  · rw [if_pos low]
    rw [State.codeState] at low
    simp [low]
  · rw [if_neg low]
    rw [State.codeState] at low
    simp [low]

/-- An assigned channel whose site is on: the map's state, X for a compare that is masked. -/
theorem vecState_of_on (plain : v.hold = false) (on : v.vmask.getLsbD k = true) :
    s.vecState c i k v =
      let m := if (!v.cmask.getLsbD k || s.vecMasked v k) && isCmpState (s.codeState c i v) then 7 else s.codeState c i v
      if m = 3 then (s.ch (32 * c + i)).prev else m := by
  simp only [State.vecState, plain, on, Bool.false_eq_true, if_false, Bool.not_true]
  rfl
end

end Sys2Proof.Machine

namespace Sys2Proof

open Machine

/-- Settles O34: hold vectors, the masks, and the map's state. -/
theorem appliedState : Obligations.AppliedState := by
  intro c i k v s prev code smap m
  have value : (s.codeState c i v).toNat = m := by
    rw [State.codeState, mapState_toNat, rowCode]
    rfl
  have word : s.codeState c i v = BitVec.ofNat 3 m := by rw [← value, BitVec.ofNat_toNat, BitVec.setWidth_eq]
  have small : m < 8 := fld_lt _ _ _
  refine ⟨fun hold => vecState_of_hold hold, fun plain off => ?_, fun plain on masked high => ?_, fun plain on open_ => ?_,
    fun n st => ?_⟩
  · rw [vecState_of_vmask plain off, value]
  · have wide : (!v.cmask.getLsbD k || s.vecMasked v k) = true := by
      rcases masked with no | yes
      · simp only [no, Bool.not_false, Bool.true_or]
      · simp only [yes, Bool.or_true]
    rw [vecState_of_on plain on, wide, Bool.true_and]
    dsimp only
    by_cases compare : m ≤ 6
    · have cmp : isCmpState (s.codeState c i v) = true := by
        rw [isCmpState, value]
        exact decide_eq_true ⟨high, compare⟩
      simp only [cmp, if_true]
      exact if_neg (by decide)
    · have seven : m = 7 := by omega
      have cmp : isCmpState (s.codeState c i v) = false := by
        rw [isCmpState, value, seven]
        decide
      simp only [word, seven]
      exact if_neg (by decide)
  · have keeps : ((!v.cmask.getLsbD k || s.vecMasked v k) && isCmpState (s.codeState c i v)) = false := by
      rcases open_ with low | ⟨on, free⟩
      · rw [isCmpState, value, decide_eq_false (by omega), Bool.and_false]
      · simp only [on, free, Bool.not_true, Bool.or_self, Bool.false_and]
    rw [vecState_of_on plain on, keeps, if_neg Bool.false_ne_true, word]
    refine if_congr ?_ rfl rfl
    rw [← BitVec.toNat_inj, BitVec.toNat_ofNat, Nat.mod_eq_of_lt small]
    rfl
  · exact if_congr (by simp [isDrvState, Nat.lt_succ_iff]) rfl rfl

end Sys2Proof
end

section
/-!
SUPPORT. Vectors at the pins: the start of a vector, and how a strobe resolves.
-/
namespace Sys2Proof.Machine

variable {s : State} {c : Cl}

/-! ### The start of a vector -/

section
variable {v : Vec} {e : Entry} {rest : List Entry} {ue fixed : List Nat} {t : Nat} {fresh : Bool}

/-- The command does nothing before the CCLK of the start. -/
theorem exec_vectorApply_of_early (head : (s.cl c).fifo = e :: rest) (kind : e.kind = .vec v) (start : s.vecStart c v = (t, fresh))
    (early : (s.now + 1) * 2500 ≤ t) : exec (.vectorApply ⟨c, ue, fixed⟩) s = .next s := by
  cases e
  subst kind
  have waits : s.vecGoes c = false := by
    simp only [State.vecGoes, head, start]
    exact decide_eq_false (Nat.not_lt.mpr early)
  show Host.Outcome.next (if s.vecGoes c then _ else s.vectorApply c ue) = _
  rw [waits, if_neg Bool.false_ne_true]
  unfold State.vectorApply
  simp only [head, start]
  exact congrArg Host.Outcome.next (if_pos early)

/-- The state in which the vector at the head has left the FIFO, and the gap and STROVF are judged. -/
def State.vecTaken (s : State) (c : Nat) (v : Vec) (rest : List Entry) (t : Nat) (fresh : Bool) : State :=
  let a := s.endCur c
  let u := a.cl c
  let e := t + a.period c v.tset.toNat v.steep
  let b := (a.setCl c { u with fifo := rest, cur := some (v, t, e), lastEnd := e, idle := false, vids := u.vids + 1,
                               chain := if fresh then t else u.chain }).gapEnd c t
  if 33554431 < b.periodRaw c v.tset.toNat v.steep then b.setRb (Off.tsErr c) 29 true else b

/-- In the CCLK of the start the vector leaves the FIFO; it reaches the pins unless an edge entry is lost. -/
theorem exec_vectorApply_of_late (head : (s.cl c).fifo = e :: rest) (kind : e.kind = .vec v) (start : s.vecStart c v = (t, fresh))
    (late : t < (s.now + 1) * 2500) : exec (.vectorApply ⟨c, ue, fixed⟩) s =
      let d := s.vecTaken c v rest t fresh
      .next (fixed.foldl (fun u i => u.corrected (48 + c) (i % 65536)) (match d.edgeFault c v.tset.toNat v.steep ue with
        | some i => ((d.edgeKeep v.steep ue).uncorrected (48 + c) (i % 65536)).fenceCluster c [(0, Off.miStat (48 + c))]
        | none => (d.capVector c v t (t + (s.endCur c).period c v.tset.toNat v.steep) ((s.endCur c).cl c).vids).each (List.range 32)
            fun i u => u.chanApply c i v t ((s.endCur c).cl c).vids)) := by
  cases e
  subst kind
  have goes : s.vecGoes c = true := by
    simp only [State.vecGoes, head, start]
    exact decide_eq_true late
  show Host.Outcome.next (if s.vecGoes c then _ else s.vectorApply c ue) = _
  rw [goes, if_pos rfl]
  unfold State.vectorApply
  simp only [head, start]
  refine congrArg (fun u => Host.Outcome.next (fixed.foldl _ u)) ?_
  exact if_neg (Nat.not_le.mpr late)
end

end Sys2Proof.Machine

namespace Sys2Proof

open Machine

/-- Settles O35: the start of a vector is before the end of the CCLK, or it is not. -/
theorem vectorsAtThePins : Obligations.VectorsAtThePins := by
  refine ⟨fun c ue fixed v e rest s head kind => ?_, fun c s => ?_⟩
  · intro due chained t
    have start : s.vecStart c v = (t, !decide chained) := by
      unfold State.vecStart
      by_cases chain : chained
      · rw [decide_eq_true chain, show t = (s.cl c).lastEnd from if_pos chain]
        exact if_pos chain
      · rw [decide_eq_false chain, show t = max due (((s.cl c).lastEnd + 624) / 625 * 625) from if_neg chain]
        exact if_neg chain
    refine ⟨exec_vectorApply_of_early head kind start, fun late => ?_⟩
    intro a b d
    have chains : (if (!decide chained) = true then t else (a.cl c).chain) = if chained then (a.cl c).chain else t := by
      by_cases chain : chained
      · rw [decide_eq_true chain, if_pos chain]
        rfl
      · rw [decide_eq_false chain, if_neg chain]
        rfl
    have taken : s.vecTaken c v rest t (!decide chained) = d := by
      unfold State.vecTaken
      dsimp only
      rw [chains]
    refine (exec_vectorApply_of_late head kind start late).trans ?_
    rw [taken]
    rfl
  · show Host.Outcome.next _ = _
    refine congrArg Host.Outcome.next (if_congr (and_congr Iff.rfl Option.isNone_iff_eq_none) rfl rfl)

end Sys2Proof
end

section
/-!
SUPPORT. How a strobe resolves, and what a counted fail does.
-/
namespace Sys2Proof.Machine

variable {s : State}

theorem isCmpState_iff (st : BitVec 3) : isCmpState st = true ↔ st = 4 ∨ st = 5 ∨ st = 6 := by
  decide +revert

/-- A strobe finds CH or CL in UNK. -/
theorem strobeUnk_iff (x : Strobe) : s.strobeUnk x = true ↔
    s.cmpIn x.ch 0 2 x.at4 (if x.window then x.at5 else x.at4) = true ∨
      s.cmpIn x.ch 1 2 x.at4 (if x.window then x.at5 else x.at4) = true := by
  rw [State.strobeUnk, show List.range 2 = [0, 1] from rfl, List.any_cons, List.any_cons, List.any_nil, Bool.or_false,
    Bool.or_eq_true]

/-- The condition of a compare state, by its code. -/
theorem strobePass_of_cmp {x : Strobe} (obs : StrobeObs) (cmp : x.st = 4 ∨ x.st = 5 ∨ x.st = 6) :
    strobePass x obs = if x.window then obs.held else if x.st = 4 then obs.cl4 else if x.st = 5 then obs.ch4
      else !obs.ch4 && !obs.cl4 := by
  rw [strobePass]
  rcases cmp with st | st | st <;> rw [st] <;> rfl

section
variable {c : Nat} {x : Strobe}

/-- A strobe that resolves: `mark` says that it finds UNK, `fail` that its compare fails. -/
def State.strobeEnd (s : State) (c i : Nat) (x : Strobe) (obs : StrobeObs) (mark fail : Bool) : State :=
  let t := if mark then s.chFlag (32 * c + i) 3 else s
  let d := t.strobeBits c x.vid i fail (if x.raw && t.rawWantedOf c x.vid i then t.rawBits x obs else 0)
  if fail && x.counts then d.countedFail c x else d

theorem strobeResolve_of_due {i : Nat} {obs : StrobeObs}
    (due : (s.cl c).strobes.find? (fun x => x.ch = 32 * c + i ∧ x.due ≤ s.now) = some x) :
    let u := s.setCl c { s.cl c with strobes := (s.cl c).strobes.erase x }
    s.strobeResolve c i obs = if s.parkedCh (32 * c + i) then u
      else u.strobeEnd c i x obs ((isCmpState x.st && !(s.st x.site).masked s.now) && u.strobeUnk x)
        ((isCmpState x.st && !(s.st x.site).masked s.now) && (u.strobeUnk x || !strobePass x obs)) := by
  intro u
  unfold State.strobeResolve
  simp only [due]
  rfl

/-- A counted fail outside an MLOOP sets the bit of its site, then the fail action follows. -/
theorem countedFail_of_free (free : x.pass = 0) (site : x.site < 128) :
    s.countedFail c x = (s.setSq c ((s.sq c).failNote s.now (BitVec.ofNat 128 (2 ^ (x.site % 128))))).failAction x.site x.steep := by
  rw [State.countedFail, if_pos free, maskOf_single, Nat.mod_eq_of_lt site]

/-- MASK sets the mask of a site that stands, up to the POUR_DONE of the latest steep. -/
theorem failAction_of_mask {k : Nat} {n : BitVec 64} (mask : s.rf (Off.siteCtl k) 0 2 = 1) (live : s.fenced k = false)
    (free : (s.st k).fencedAt ≠ some s.now) : s.failAction k n =
      let last := match (s.st k).maskSteep with
        | some m => if n < m then m else n
        | none => n
      (s.setSt k ((s.st k).maskChange s.now (some last))).setRb (Off.siteStat k) 29 true := by
  unfold State.failAction
  simp only [mask, live, Bool.false_or]
  exact if_neg (by rw [decide_eq_true_eq]; exact free)

/-- Inside an MLOOP it marks its pass. -/
theorem countedFail_of_pass {j : Job} {m : MLoop} (pass : x.pass ≠ 0) (live : x.pass ≠ passDead) (wait : (s.sq c).wait = .issue j)
    (loop : j.ml = some m) : s.countedFail c x = s.setJob c { j with ml := some { m with failed := m.failed ++ [x.pass] } } := by
  unfold State.countedFail
  rw [if_neg pass]
  simp only [wait, loop]
  exact if_neg live
end

end Sys2Proof.Machine

namespace Sys2Proof

open Machine

/-- Settles O36: the oldest due strobe, the three fail actions, and the pass of an MLOOP. -/
theorem strobesResolve : Obligations.StrobesResolve := by
  refine ⟨fun c i obs x s due => ?_, fun c x s free => ?_, fun c x j m s pass live wait loop => countedFail_of_pass pass live wait loop⟩
  · intro n u cmp last unk pass fail t d
    have channel : x.ch = n := by
      have holds := List.find?_some due
      exact (of_decide_eq_true holds).1
    have compare : (isCmpState x.st && !(s.st x.site).masked s.now) = decide cmp := by
      rw [Bool.eq_iff_iff, Bool.and_eq_true, isCmpState_iff, Bool.not_eq_true', decide_eq_true_eq]
    have unknown : u.strobeUnk x = decide unk := by
      rw [Bool.eq_iff_iff, strobeUnk_iff, decide_eq_true_eq, channel]
    have marks : ((isCmpState x.st && !(s.st x.site).masked s.now) && u.strobeUnk x) = decide (cmp ∧ unk) := by
      rw [compare, unknown]
      exact (Bool.decide_and cmp unk).symm
    have failed : ((isCmpState x.st && !(s.st x.site).masked s.now) && (u.strobeUnk x || !strobePass x obs)) = decide fail := by
      rw [compare, unknown, Bool.eq_iff_iff, Bool.and_eq_true, decide_eq_true_eq, decide_eq_true_eq, Bool.or_eq_true,
        decide_eq_true_eq, Bool.not_eq_true']
      exact and_congr_right fun is => by rw [strobePass_of_cmp obs is.1]
    show Host.Outcome.next (s.strobeResolve c i obs) = _
    rw [strobeResolve_of_due due]
    refine congrArg Host.Outcome.next (ite_congr rfl (fun _ => rfl) fun _ => ?_)
    rw [marks, failed, State.strobeEnd]
    simp only [decide_eq_true_eq, Bool.and_eq_true]
    rfl
  · intro q m u site
    have start := countedFail_of_free (s := s) (c := c) free site
    have stored : s.setSq c ((s.sq c).failNote s.now m) = u := rfl
    rw [stored] at start
    refine ⟨fun none_ => ?_, fun mask live free => start.trans (failAction_of_mask mask live free), fun fence => ?_⟩
    · rw [start, State.failAction, show u.rf (Off.siteCtl x.site) 0 2 = 0 from none_]
      rfl
    · rw [start, State.failAction, show u.rf (Off.siteCtl x.site) 0 2 = 2 from fence]
      rfl

end Sys2Proof
end

section
/-!
SUPPORT. The refusals of RANGE, FORCE and MEAS.
-/
namespace Sys2Proof.Machine

variable {s : State} {x sum : Nat} {mask : Word} {forces : Bool}

/-! ### Refusals of the PMU instructions -/

/-- The mask of the selected channels with a property. -/
theorem maskWhere_eq {p : Nat → Bool} {v : Word} (bits : ∀ i < 32, v.getLsbD i = (mask.getLsbD i && p i)) :
    maskWhere mask p = v := by
  refine BitVec.eq_of_getLsbD_eq fun i low => ?_
  rw [maskWhere, maskOf_getLsbD, bits i low]
  simp [idxs, low]

theorem maskWhere_none {p : Nat → Bool} (none_ : ∀ i < 32, mask.getLsbD i = true → p i = false) : maskWhere mask p = 0 := by
  refine maskWhere_eq fun i low => ?_
  rw [show (0 : Word).getLsbD i = false from BitVec.getLsbD_zero]
  cases on : mask.getLsbD i with
  | false => rfl
  | true => rw [none_ i low on]; rfl

/-- The first check: a selected channel without a site. -/
theorem pmuRefusal_of_bare {v : Word} (bare : ∀ i < 32, v.getLsbD i = (mask.getLsbD i && (s.chSite (32 * x + i)).isNone))
    (some_ : v ≠ 0) : s.pmuRefusal x mask forces = some (0x0E, v.toNat) := by
  rw [State.pmuRefusal, maskWhere_eq bare]
  exact if_pos some_

section
variable (free : ∀ i < 32, mask.getLsbD i = true → (s.chSite (32 * x + i)).isSome)
include free

theorem maskWhere_of_free : maskWhere mask (fun i => (s.chSite (32 * x + i)).isNone) = 0 :=
  maskWhere_none fun i low on => Option.isNone_eq_false_iff.mpr (free i low on)

/-- The second: a selected channel whose role forbids force. -/
theorem pmuRefusal_of_mute {v : Word} (on : forces = true)
    (mute : ∀ i < 32, v.getLsbD i = (mask.getLsbD i && !s.roleForce (32 * x + i))) (some_ : v ≠ 0) :
    s.pmuRefusal x mask forces = some (0x0D, v.toNat) := by
  rw [State.pmuRefusal, maskWhere_of_free free, maskWhere_eq mute, on, if_neg (fun h => h rfl), Bool.true_and]
  exact if_pos (decide_eq_true some_)

theorem pmuRefusal_of_able (able : forces = false ∨ ∀ i < 32, mask.getLsbD i = true → s.roleForce (32 * x + i) = true) :
    s.pmuRefusal x mask forces = none := by
  rw [State.pmuRefusal, maskWhere_of_free free]
  rcases able with off | able
  · simp [off]
  · rw [maskWhere_none (p := fun i => !s.roleForce (32 * x + i)) fun i low on => by simp [able i low on]]
    simp
end

/-! ### The bodies of RANGE, FORCE and MEAS -/

section
variable {w : BitVec 56} {cause info : Nat}

theorem rangeBody_of_refusal (refused : s.pmuRefusal x ((s.sq x).gr (ifld w 52 4)) (decide (ifld w 50 2 ≠ 0)) = some (cause, info)) :
    rangeBody x w s = .trap cause info := by
  unfold rangeBody fD
  simp only [refused]

theorem rangeBody_of_legal (legal : s.pmuRefusal x ((s.sq x).gr (ifld w 52 4)) (decide (ifld w 50 2 ≠ 0)) = none) :
    rangeBody x w s =
      let t := s.pushEntry x (.range ((s.sq x).gr (ifld w 52 4)) (BitVec.ofNat 2 (ifld w 50 2)) (BitVec.ofNat 3 (ifld w 47 3))) 3
      if s.budget < t.admSum ∧ s.admSum < t.admSum then .hold (s.pwrAdm x t.admSum)
      else .next { t with admNow := t.admNow + (t.admSum - s.admSum) } 3 := by
  unfold rangeBody fD
  simp only [legal]

theorem forceBody_of_refusal (refused : s.pmuRefusal x ((s.sq x).gr (ifld w 52 4)) true = some (cause, info)) :
    forceBody x w s = .trap cause info := by
  unfold forceBody fD
  simp only [refused]

theorem forceBody_of_legal (legal : s.pmuRefusal x ((s.sq x).gr (ifld w 52 4)) true = none) :
    forceBody x w s = if s.budget < s.admSum then .hold (s.pwrAdm x s.admSum)
      else .next (s.pushEntry x (.force ((s.sq x).gr (ifld w 52 4))
        (if w.getLsbD 51 then ((s.sq x).gr (ifld w 47 4)).setWidth 18 else w.setWidth 18)) 3) 3 := by
  unfold forceBody fD
  simp only [legal]
end

/-- A refusal over the budget: a lost request where the sum without the CCLK's own was within it. -/
theorem pwrAdm_eq (s : State) (x sum : Nat) : s.pwrAdm x sum =
    let lost := if sum - s.admNow ≤ s.budget then (s.count Off.wrlostB 16 16 1).setRb Off.wrlostB x true else s
    ((lost.count Off.admStat 0 16 1).count (Off.clPmustat x) 16 16 1).exception x 0x0C (min 65535 ((sum + 3999) / 4000))
      (s.sq x).pc := by
  have lost : ∀ t : State, ((t.count Off.admStat 0 16 1).count (Off.clPmustat x) 16 16 1).sq x = t.sq x := fun _ => rfl
  unfold State.pwrAdm State.admLost State.admReject milliwatts
  dsimp only
  rw [lost]
  split
  · rw [show ((s.count Off.wrlostB 16 16 1).setRb Off.wrlostB x true).sq x = s.sq x from rfl]
  · rfl

end Sys2Proof.Machine

namespace Sys2Proof

open Machine

/-- Settles O37: the refusals in order, then the entry. -/
theorem pmuInstructions : Obligations.PmuInstructions := by
  intro c w mc s x u q mask bare mute free able lost refuse
  refine ⟨?_, ?_, ?_⟩
  · intro i mode ir t
    refine ⟨fun waits => congrArg Host.Outcome.next (if_pos waits), fun runs turn => ?_⟩
    have given : exec i s = .next (s.instr x 0x60 w mc [(0, 47)]
      ((if ifld w 50 2 = 3 then [50] else []) ++ if 5 ≤ ifld w 47 3 then [47] else []) (rangeBody x w)) :=
      congrArg Host.Outcome.next (if_neg (by rw [turn]; exact Bool.false_ne_true))
    have within : free → (mode = 0 ∨ able) → rangeBody c w u =
        if u.budget < t.admSum ∧ u.admSum < t.admSum then .hold (u.pwrAdm c t.admSum)
        else .next { t with admNow := t.admNow + (t.admSum - u.admSum) } 3 := fun sites roles =>
      rangeBody_of_legal (pmuRefusal_of_able sites (roles.imp_left fun off => decide_eq_false fun on => on off))
    refine ⟨fun v bits some_ => ?_, fun v sites forces bits some_ => ?_, fun sites roles above raised => ?_, fun sites roles fits => ?_⟩
    · exact exec_of_trap (i := i) rfl given runs (rangeBody_of_refusal (pmuRefusal_of_bare bits some_))
    · exact exec_of_trap (i := i) rfl given runs
        (rangeBody_of_refusal (pmuRefusal_of_mute sites (decide_eq_true forces) bits some_))
    · refine (exec_of_hold (i := i) rfl given runs ((within sites roles).trans (if_pos ⟨above, raised⟩))).trans ?_
      rw [pwrAdm_eq]
    · exact exec_of_next (i := i) rfl given runs ((within sites roles).trans (if_neg (by omega)))
  · intro i code
    refine ⟨fun waits => congrArg Host.Outcome.next (if_pos waits), fun runs turn => ?_⟩
    have given : exec i s = .next (s.instr x 0x61 w mc ((18, 29) :: if w.getLsbD 51 then [(0, 18)] else []) [] (forceBody x w)) :=
      congrArg Host.Outcome.next (if_neg (by rw [turn]; exact Bool.false_ne_true))
    have within : free → able → forceBody c w u = if u.budget < u.admSum then .hold (u.pwrAdm c u.admSum)
        else .next (u.pushEntry c (.force mask code) 3) 3 := fun sites roles =>
      forceBody_of_legal (pmuRefusal_of_able sites (.inr roles))
    refine ⟨fun v bits some_ => ?_, fun v sites bits some_ => ?_, fun sites roles above => ?_, fun sites roles fits => ?_⟩
    · exact exec_of_trap (i := i) rfl given runs (forceBody_of_refusal (pmuRefusal_of_bare bits some_))
    · exact exec_of_trap (i := i) rfl given runs (forceBody_of_refusal (pmuRefusal_of_mute sites rfl bits some_))
    · refine (exec_of_hold (i := i) rfl given runs ((within sites roles).trans (if_pos above))).trans ?_
      rw [pwrAdm_eq]
    · exact exec_of_next (i := i) rfl given runs ((within sites roles).trans (if_neg (by omega)))
  · intro i n m runs
    refine ⟨fun bare => ?_, fun k site => ?_⟩
    · exact exec_of_trap (i := i) rfl rfl runs (if_pos (Option.isNone_iff_eq_none.mpr bare))
    · refine exec_of_next (i := i) rfl rfl runs (if_neg ?_)
      intro bare
      exact absurd (site.symm.trans (Option.isNone_iff_eq_none.mp bare)) (by simp)

end Sys2Proof
end

section
/-!
SUPPORT. Entries of the PMU at the pins, and the ADCs.
-/
namespace Sys2Proof.Machine

variable {s : State} {c : Cl}

/-! ### Entries of the PMU at the pins -/

/-- The drop of an entry, counted once. -/
theorem dropCount_eq (s : State) (c : Nat) (mask : Word) (forces : Bool) :
    s.dropCount c mask forces = if (((List.range 32).filter fun i => mask.getLsbD i).any fun i =>
      s.parkedCh (32 * c + i) || (forces && !s.roleForce (32 * c + i))) then s.count (Off.clPmustat c) 0 16 1 else s := by
  rw [State.dropCount, maskChans, List.any_map]
  rfl

theorem rangeChan_eq (s : State) (n : Nat) (mode : BitVec 2) (ir : Nat) : s.rangeChan n mode.toNat ir =
    if s.parkedCh n then s
    else if mode ≠ 0 ∧ s.roleForce n = false then (if s.pmuMode n = 0 then s else s.pmuMove n 0 (s.pmuIr n))
    else (s.pmuMove n mode.toNat ir).pmuGate n := by
  have forcing : (mode.toNat ≠ 0 ∧ (!s.roleForce n) = true) ↔ (mode ≠ 0 ∧ s.roleForce n = false) := by
    rw [Bool.not_eq_true', Ne, Ne, ← BitVec.toNat_inj]
    rfl
  rw [State.rangeChan]
  exact ite_congr rfl (fun _ => rfl) fun _ => if_congr forcing rfl rfl

theorem forceChan_eq (s : State) (n : Nat) (code : Int) : s.forceChan n code =
    if s.parkedCh n || s.weHeld n then s
    else if s.roleForce n = false then (if s.pmuMode n = 0 then s else s.pmuMove n 0 (s.pmuIr n))
    else s.forceCode n code := by
  rw [State.forceChan]
  exact ite_congr rfl (fun _ => rfl) fun _ => if_congr (by rw [Bool.not_eq_true']) rfl rfl

/-! ### Settling -/

section
variable {k : Nat}

/-- No entry of an ADC among those that settle: none of them is ready. -/
theorem readyMeas_of_apart {l : List Meas} (apart : ∀ m ∈ l, m.ch / 8 ≠ k) : readyMeas k l = ([], l) := by
  induction l with
  | nil => rfl
  | cons m l ih =>
    rw [readyMeas, if_neg (apart m List.mem_cons_self), ih fun m' mem => apart m' (List.mem_cons_of_mem _ mem)]

theorem settleMark_of_head {i now : Nat} {m : Meas} {l : List Meas} (ch : m.ch = i) (due : m.due ≠ 0) (past : m.due ≤ now) :
    settleMark i now (m :: l) = { m with due := 0 } :: l := by
  rw [settleMark, if_pos ⟨ch, due⟩, if_pos past]

/-- The first MEAS of a free ADC settles: it starts. -/
theorem settleEnd_of_head {i : Nat} {m : Meas} {l : List Meas} (settling : (s.cl c).settling = m :: l) (ch : m.ch = i)
    (due : m.due ≠ 0) (past : m.due ≤ s.now) (apart : ∀ m' ∈ l, m'.ch / 8 ≠ i / 8) (free : s.adcList c (i / 8) = []) :
    s.settleEnd c i = (((s.setCl c { s.cl c with settling := l }).setAdc c (i / 8) [{ m with due := 0 }]).adcStart c (i / 8) 2).capSteepEnd
      c := by
  have ready : readyMeas (i / 8) (settleMark i s.now (s.cl c).settling) = ([{ m with due := 0 }], l) := by
    rw [settling, settleMark_of_head ch due past, readyMeas, if_pos (congrArg (· / 8) ch), if_pos rfl, readyMeas_of_apart apart]
  unfold State.settleEnd
  simp only [ready, free]
  rfl
end

/-! ### Samples -/

theorem sampleWord_eq (ir : Nat) (cur : Bool) (i : Nat) (code : Int) : sampleWord ir cur i code =
    BitVec.ofNat 32 (ir * 2 ^ 24 + (if cur then 2 ^ 23 else 0) + i * 2 ^ 18 + (BitVec.ofInt 18 code).toNat) := by
  rw [BitVec.toNat_ofInt]
  rfl

section
variable {k : Nat} {raw : Int} {m : Meas} {l : List Meas}

/-- A sample of a MEAS without a record: corrected, summed, captured; the last one writes G[RD]. -/
theorem adcDone_of_free (conv : s.adcList c k = m :: l) (free : m.qid = none) (late : m.started + 400 ≤ s.now) :
    let code := s.adcCode (4 * c + k) raw
    let u := if calCode raw (s.calItem ((4 * c + k) / 16) (itemAdc (4 * c + k) 1))
        (s.calItem ((4 * c + k) / 16) (itemAdc (4 * c + k) 0)) = code then s else s.chFlag (32 * c + m.ch) 6
    let m' := { m with count := m.count + 1, sum := m.sum + code }
    let v := u.capSample c m' (BitVec.ofNat 32 (u.pmuIr (32 * c + m.ch) * 2 ^ 24 + (if m.cur then 2 ^ 23 else 0) + m.ch * 2 ^ 18 +
      (BitVec.ofInt 18 code).toNat))
    s.adcDone c k raw = ((if m.count + 1 < m.n then v.setAdc c k ({ m' with started := v.now } :: l)
      else ((v.setAdc c k l).measResult c m' (BitVec.ofInt 32 m'.sum)).adcStart c k (l.length + 1))).capSteepEnd c := by
  intro code u m' v
  have plain : ∀ (t : State) (w : Word), t.measSample c m' w = (t, m') := fun t w => by
    unfold State.measSample
    rw [show m'.qid = none from free]
  unfold State.adcDone
  simp only [conv]
  rw [if_neg (Nat.not_lt.mpr late), plain, sampleWord_eq]
end

end Sys2Proof.Machine

namespace Sys2Proof

open Machine

/-- Settles O38: the entries at the head, the settling of a MEAS, and a sample. -/
theorem pmuAtThePins : Obligations.PmuAtThePins := by
  refine ⟨fun c e s due => ?_, fun c s none_ i mem => ?_, fun c i m l s settling ch due past apart free => ?_,
    fun c k raw m l s conv free => ?_⟩
  · intro t
    refine ⟨fun mask mode ir kind => ?_, fun mask code kind => ?_, fun m kind => ?_⟩
    · intro drop u
      cases e
      subst kind
      show Host.Outcome.next _ = _
      simp only [due]
      rw [dropCount_eq]
      exact congrArg (fun f => Host.Outcome.next (State.each _ _ f)) (funext fun n => funext fun v => rangeChan_eq v n mode _)
    · intro sel drop u hit
      cases e
      subst kind
      show Host.Outcome.next _ = _
      simp only [due]
      rw [dropCount_eq]
      have dropped : (((List.range 32).filter fun i => mask.getLsbD i).any fun i =>
          (s.popEntry c).parkedCh (32 * c + i) || (true && !(s.popEntry c).roleForce (32 * c + i))) = drop := by
        rw [show drop = _ from List.any_map]
        rfl
      rw [dropped]
      exact congrArg (fun f => Host.Outcome.next (State.each _ _ f)) (funext fun n => funext fun v => forceChan_eq v n _)
    · intro n wait
      cases e
      subst kind
      show Host.Outcome.next _ = _
      simp only [due]
      rfl
  · fin_cases mem
    · show Host.Outcome.next _ = _
      simp only [none_]
    · show Host.Outcome.next _ = _
      simp only [none_]
    · show Host.Outcome.next _ = _
      simp only [none_]
  · exact congrArg Host.Outcome.next (settleEnd_of_head settling ch due past apart free)
  · intro code u word m' v
    have early_ : s.now < m.started + 400 → s.adcDone c k raw = s := fun early => by
      unfold State.adcDone
      simp only [conv]
      exact if_pos early
    refine ⟨fun early => congrArg Host.Outcome.next (early_ early), fun late more => ?_, fun late last => ?_⟩
    · refine congrArg Host.Outcome.next ((adcDone_of_free conv free late).trans ?_)
      exact congrArg (fun u => State.capSteepEnd u c) (if_pos more)
    · refine congrArg Host.Outcome.next ((adcDone_of_free conv free late).trans ?_)
      exact congrArg (fun u => State.capSteepEnd u c) (if_neg (Nat.not_lt.mpr last))

end Sys2Proof
end

section
/-!
SUPPORT. CAP at issue, and its entries at the pins.
-/
namespace Sys2Proof.Machine

variable {s : State} {c l : Nat}

/-! ### CAP at issue -/

section
variable {w : BitVec 56} {mc : Option Micro} {x : Sq} {k : Nat}

/-- A CAP that runs is one of its own ACT. -/
theorem act_of_runs {i : Instr} {f : Form} (coded : formOf i = if ifld w 54 2 = k then some f else none) (runs : s.runs i = true) :
    ifld w 54 2 = k := by
  by_contra other
  rw [State.runs, coded, if_neg other] at runs
  exact Bool.false_ne_true runs

/-- TRIG, CLOSE and DISARM file their entry in one CCLK. -/
theorem exec_of_cap {i : Instr} {e : EKind}
    (coded : formOf i = if ifld w 54 2 = k then some ⟨x, 0x68, w, mc, capRsv false, []⟩ else none)
    (given : exec i s = .next (if ifld w 54 2 = k
      then s.instr x 0x68 w mc (capRsv false) [] fun s => .next (s.pushEntry x e 1) 1 else s)) (runs : s.runs i = true) :
    exec i s = .next (((s.began x mc).pushEntry x e 1).retire x (((s.began x mc).sq x).pc + 1) (s.cost x mc 1)) := by
  have act := act_of_runs coded runs
  rw [if_pos act] at coded given
  exact exec_of_next coded given runs rfl
end

/-! ### DISARM at the pins -/

/-- SEGNUM of the list shows its last segment. -/
theorem segLast_rf (s : State) (c l : Nat) : (s.segLast c l).rf (Off.caplStat c l) 0 20 =
    s.rf (Off.caplStat c l) 0 20 - if s.capState c l = 1 ∨ s.capState c l = 3 then 1 else 0 := by
  unfold State.segLast capArmed capRearm
  by_cases armed : s.capState c l = 1 ∨ s.capState c l = 3
  · rw [if_pos armed, if_pos armed]
    have low : s.rf (Off.caplStat c l) 0 20 < 2 ^ 20 := fld_lt _ _ _
    rw [State.rf, State.rg_setRf_same, fld_setFld _ _ _ _ (by decide), Nat.mod_eq_of_lt (by omega)]
  · rw [if_neg armed, if_neg armed]
    rfl

/-- The active list goes to IDLE, with SEGNUM at its last segment. -/
theorem capDisarm_list {cause : Nat} {closing : Bool} (active : ((s.closeSegment c cause true closing).cap c).act = some l) :
    let b := s.closeSegment c cause true closing
    (s.capDisarm c cause closing).capState c l = 0 ∧ (s.capDisarm c cause closing).rf (Off.caplStat c l) 0 20 =
      b.rf (Off.caplStat c l) 0 20 - if b.capState c l = 1 ∨ b.capState c l = 3 then 1 else 0 := by
  intro b
  unfold State.capDisarm
  simp only [active, State.setCapState]
  refine ⟨?_, ?_⟩
  · rw [State.capState, State.rf, State.rg_setRf_same, fld_setFld _ _ _ _ (by decide)]
    rfl
  · rw [State.rf, State.rg_setRf_same, fld_setFld_apart _ _ _ _ _ _ (by decide) (by decide)]
    exact segLast_rf _ c l

end Sys2Proof.Machine

namespace Sys2Proof

open Machine

/-- Settles O39: CAP at issue, and the four entries at the pins. -/
theorem captureCommands : Obligations.CaptureCommands := by
  refine ⟨fun c w mc s => ?_, fun c e s due => ?_, fun c s none_ i mem => ?_⟩
  · intro u q x l i
    refine ⟨fun p mem runs => ?_, fun runs => ?_⟩
    · fin_cases mem
      · exact exec_of_cap (x := x) rfl rfl runs
      · exact exec_of_cap (x := x) rfl rfl runs
      · exact exec_of_cap (x := x) rfl rfl runs
    · have act : ifld w 54 2 = 1 := act_of_runs (f := ⟨x, 0x68, w, mc, capRsv true, []⟩) rfl runs
      have coded : formOf i = some ⟨x, 0x68, w, mc, capRsv true, []⟩ := if_pos act
      have given : exec i s = _ := congrArg Host.Outcome.next (if_pos act)
      refine ⟨fun bad => ?_, fun small valid => ?_⟩
      · refine exec_of_trap coded given runs (if_pos ?_)
        rw [Bool.not_eq_true']
        exact bad
      · have good : ¬ (8 ≤ l ∨ (!u.rb (Off.caplCfg c l) 31) = true) := by
          rw [valid]
          simp [small]
        by_cases bypass : u.rb Off.clkStat 30 = true
        · rw [if_pos bypass]
          exact exec_of_next coded given runs ((if_neg good).trans (if_pos bypass))
        · rw [if_neg bypass]
          exact exec_of_next coded given runs ((if_neg good).trans (if_neg bypass))
  · intro t
    refine ⟨fun kind => ?_, fun kind => ?_, fun kind => ⟨?_, fun l active _ => capDisarm_list active⟩, fun l step kind => ?_⟩
    all_goals
      cases e
      subst kind
    · show Host.Outcome.next _ = _
      simp only [due]
      rfl
    · show Host.Outcome.next _ = _
      simp only [due]
      rfl
    · show Host.Outcome.next _ = _
      simp only [due]
      rfl
    · show Host.Outcome.next _ = _
      simp only [due]
      rfl
  · fin_cases mem
    · show Host.Outcome.next _ = _
      simp only [none_]
    · show Host.Outcome.next _ = _
      simp only [none_]
    · show Host.Outcome.next _ = _
      simp only [none_]
    · show Host.Outcome.next _ = _
      simp only [none_]

end Sys2Proof
end

section
/-!
SUPPORT. EVS, EVW and QPUSH.
-/
namespace Sys2Proof.Machine

variable {s : State} {x : Nat}

/-! ### EVW -/

/-- The slots of a mask that are not enabled, by their bits. -/
theorem deadSlots_eq {slots d : BitVec 8} (bits : ∀ k < 8, d.getLsbD k = (slots.getLsbD k && !s.rb (Off.evSel x k) 31)) :
    s.deadSlots x slots = d.toNat := by
  rw [State.deadSlots]
  refine congrArg BitVec.toNat (BitVec.eq_of_getLsbD_eq fun k low => ?_)
  rw [maskOf_getLsbD, bits k low]
  simp [idxs, low]

section
variable {slots : BitVec 8} {all clr : Bool} {start tmo : Nat} (wait : (s.sq x).wait = .evw slots all clr start tmo)
include wait

/-- The condition of EVW, as a proposition. -/
theorem evwHolds_iff : s.evwHolds x slots all = true ↔
    if all then s.latched x slots = slots else s.latched x slots ≠ 0 := by
  unfold State.evwHolds
  cases all
  · exact decide_eq_true_iff
  · exact decide_eq_true_iff

/-- The condition of EVW holds: it ends. -/
theorem waitTick_of_holds (holds : s.evwHolds x slots all = true) (runs : (s.sq x).mode = .running) (turn : (s.sq x).readyAt ≤ s.now) :
    let t := s.setSq x { s.sq x with evt := true }
    s.waitTick x = (if clr then t.clearLatch x (s.latched x slots) true else t).retire x ((s.sq x).pc + 1)
      (if (s.sq x).readyAt = s.now then 0 else 1) := by
  have ready : ¬ ((s.sq x).mode ≠ .running ∨ s.now < (s.sq x).readyAt) := by
    rintro (other | early)
    · exact other runs
    · omega
  unfold State.waitTick
  rw [if_neg ready]
  simp only [wait, holds, if_true]

end

/-- The timeout of EVW ends it where the condition does not hold. -/
theorem exec_evwTimeout {x : Sq} {slots : BitVec 8} {all clr : Bool} {start tmo : Nat}
    (wait : (s.sq x).wait = .evw slots all clr start tmo) : exec (.evwTimeout x) s =
      .next (if tmo ≠ 0 ∧ start + tmo ≤ s.now ∧ s.evwHolds x slots all = false
        then (s.setSq x { s.sq x with evt := false }).retire x ((s.sq x).pc + 1) 1 else s) := by
  show Host.Outcome.next _ = _
  simp only [wait, Bool.not_eq_true']

end Sys2Proof.Machine

namespace Sys2Proof

open Machine

/-- Settles O41: EVS, EVW and QPUSH at issue, the end of an EVW, and an EVS entry. -/
theorem eventInstructions : Obligations.EventInstructions := by
  refine ⟨fun x w mc s => ?_, fun x slots all clr start tmo s wait => ?_, fun c e s due src kind => ?_⟩
  · intro u q src slots tmo
    refine ⟨fun runs => ⟨fun cluster fifo => ?_, fun now_ => ?_⟩, fun runs d bits => ⟨fun some_ => ?_, fun none_ => ?_⟩,
      fun runs => ?_⟩
    · refine exec_of_next (i := .evs x w mc) rfl rfl runs ?_
      exact congrArg (Flow.next · 1) (if_pos (by rw [fifo, decide_eq_true cluster]; rfl))
    · refine exec_of_next (i := .evs x w mc) rfl rfl runs ?_
      refine congrArg (Flow.next · 1) (if_neg ?_)
      rw [Bool.and_eq_true, decide_eq_true_eq]
      rintro ⟨fifo, cluster⟩
      rcases now_ with off | high
      · rw [off] at fifo
        exact Bool.false_ne_true fifo
      · omega
    · have dead : u.deadSlots x slots = d.toNat := deadSlots_eq bits
      have found : u.deadSlots x slots ≠ 0 := by
        rw [dead]
        exact fun zero => some_ (BitVec.eq_of_toNat_eq zero)
      refine exec_of_trap (i := .evw x w mc) rfl rfl runs ((if_pos found).trans ?_)
      rw [dead]
    · have dead : u.deadSlots x slots = 0 := by rw [show u.deadSlots x slots = d.toNat from deadSlots_eq bits, none_]; rfl
      refine exec_of_hold (i := .evw x w mc) rfl rfl runs ((if_neg (fun h => h dead)).trans ?_)
      have limit : (if w.getLsbD 51 then q.gr (ifld w 52 4) else fImm w).toNat = tmo := by rw [← fImm_eq]
      exact congrArg (fun n => Flow.hold (u.setSq x { q with
        wait := .evw slots (w.getLsbD 50) (w.getLsbD 49) (u.now + 2) n, readyAt := u.now + 2 })) limit
    · intro site n
      refine ⟨fun cluster apart => ?_, fun own => ?_⟩
      · exact exec_of_trap (i := .qpush x w mc) rfl rfl runs (if_pos ⟨cluster, by rw [show u.siteIn _ x = false from apart]; rfl⟩)
      · intro r t
        refine exec_of_hold (i := .qpush x w mc) rfl rfl runs ((if_neg ?_).trans ?_)
        · rintro ⟨cluster, apart⟩
          rcases own with high | own
          · omega
          · rw [show u.siteIn _ x = true from own] at apart
            exact Bool.false_ne_true apart
        · rfl
  · intro q hit holds
    have condition : s.evwHolds x slots all = true ↔ holds := evwHolds_iff wait
    refine ⟨fun no timed past => ?_, fun waits => ?_, fun yes runs turn => waitTick_of_holds wait (condition.mpr yes) runs turn⟩
    · refine (exec_evwTimeout wait).trans (congrArg Host.Outcome.next (if_pos ⟨timed, past, ?_⟩))
      exact Bool.not_eq_true _ ▸ fun yes => no (condition.mp yes)
    · refine (exec_evwTimeout wait).trans (congrArg Host.Outcome.next (if_neg ?_))
      rintro ⟨timed, past, no⟩
      rcases waits with yes | zero | early
      · rw [condition.mpr yes] at no
        exact Bool.false_ne_true no.symm
      · exact timed zero
      · omega
  · cases e
    subst kind
    show Host.Outcome.next _ = _
    simp only [due]

end Sys2Proof
end

section
/-!
SUPPORT. SEQH's instructions and the card port: RDR, WRR, WAITC and CPX, the end of a transfer, prefetch lines and polls.
-/
namespace Sys2Proof.Machine

variable {s : State}

/-! ### RDR, WRR, WAITC -/

theorem regOffset_eq (s : State) (w : BitVec 56) :
    s.regOffset w = ((s.sq 16).gr (ifld w 48 4) + BitVec.ofNat 32 (ifld w 0 32)).toNat / 4 * 4 := by
  rw [fImm_eq]
  rfl

section
variable {w : BitVec 56} {mc : Option Micro}

/-- RDR or WRR raises REGPROT on an offset that no register has. -/
theorem exec_of_unmapped {i : Instr} (kind : i = .rdr w mc ∨ i = .wrr w mc) (runs : s.runs i = true)
    (bare : Space.mapped .pf0 ((s.began 16 mc).regOffset w) = false) :
    exec i s = .next (s.raises 16 mc 0x14 ((s.began 16 mc).regOffset w)) := by
  have unmapped : (!Space.mapped .pf0 ((s.began 16 mc).regOffset w)) = true := by rw [bare]; rfl
  rcases kind with is | is
  · subst is
    exact exec_of_trap (i := .rdr w mc) rfl rfl runs (if_pos unmapped)
  · subst is
    exact exec_of_trap (i := .wrr w mc) rfl rfl runs (if_pos unmapped)
end

/-! ### The end of an access of SEQH -/

theorem accessDone_of_write {off : Nat} {v : Word} (wait : (s.sq 16).wait = .regWrite off v) :
    s.accessDone = (s.regWrite .seqh .pf0 off v).retire 16 ((s.sq 16).pc + 1) 0 := by
  unfold State.accessDone
  simp only [wait]

theorem accessDone_of_read {rd off : Nat} {v : Word} {t : State} (wait : (s.sq 16).wait = .regRead rd off)
    (read : s.readReg .seqh .pf0 off = (t, .data v)) :
    s.accessDone = (t.setSq 16 ((t.sq 16).setG rd v)).retire 16 ((s.sq 16).pc + 1) 0 := by
  unfold State.accessDone
  simp only [wait, read]

theorem exec_regAccessDone (turn : s.readWaits .seqh .regAccessDone = false) (ready : (s.sq 16).readyAt ≤ s.now) :
    exec .regAccessDone s = .next s.accessDone := by
  show Host.Outcome.next (if s.readWaits .seqh .regAccessDone then _ else _) = _
  rw [turn, if_neg Bool.false_ne_true, if_pos ready]

/-! ### CPX -/

section
variable {w : BitVec 56} {ecc : List Ecc}

theorem cpxBegin_of_safe (safe : s.safe = true) :
    cpxBegin w ecc s = .hold (s.setSq 16 { s.sq 16 with wait := .cpx ((s.sq 16).gr (ifld w 48 4)).toNat }) :=
  if_pos safe

section
variable (live : s.safe = false)
include live

theorem cpxBegin_of_busy (busy : s.cp.xfer.isSome = true ∨ s.vmWait = true) :
    cpxBegin w ecc s = .hold (s.setSq 16 { s.sq 16 with wait := .pend }) := by
  unfold cpxBegin
  rw [live, if_neg Bool.false_ne_true, if_pos (by rw [Bool.or_eq_true]; exact busy)]

variable (idle : s.cp.xfer = none) (answers : s.vmWait = false)
include idle answers

theorem cpxBegin_of_bad {t : State} {bad : Nat} (rows : s.cpRows ((s.sq 16).gr (ifld w 48 4)).toNat ecc 3 = (t, some bad)) :
    cpxBegin w ecc s = .hold (t.exception 16 0x06 bad (s.sq 16).pc) := by
  unfold cpxBegin fA
  simp only [live, idle, answers, rows, Option.isSome_none, Bool.or_false, Bool.false_eq_true, if_false]

section
variable {t : State} (rows : s.cpRows ((s.sq 16).gr (ifld w 48 4)).toNat ecc 3 = (t, none))
include rows

theorem cpxBegin_of_err :
    let row := ((s.sq 16).gr (ifld w 48 4)).toNat
    let err := descErr (rowHalf (t.mem.row (row % rowCount)) false) (rowHalf (t.mem.row ((row + 1) % rowCount)) false)
      (flag (t.sg Off.cpCfg) 0)
    err ≠ 0 → cpxBegin w ecc s = .next (t.writeW4 row err 0) 1 := by
  intro row err bad
  unfold cpxBegin fA
  simp only [live, idle, answers, rows, Option.isSome_none, Bool.or_false, Bool.false_eq_true, if_false]
  exact if_pos bad

/-- A read starts its transfer. -/
theorem cpxBegin_of_read :
    let row := ((s.sq 16).gr (ifld w 48 4)).toNat
    let w0 := rowHalf (t.mem.row (row % rowCount)) false
    let mid := t.mem.row ((row + 1) % rowCount)
    let w2 := rowHalf mid false
    descErr w0 w2 (flag (t.sg Off.cpCfg) 0) = 0 → flag w0 27 = false → flag w0 26 = false →
    let v := if fld w0 28 4 = 0 then t.contEnd else t
    let x : Xfer :=
      { row := row, dev := fld w0 28 4, write := false, poll := false, tmo := false, ended := false, len := fld w2 0 13,
        buf := (rowHalf mid true).toNat, w0 := w0 }
    let z := State.cpBusy { v with cp := { v.cp with xfer := some x, polls := v.cp.polls ++ [] } }
    cpxBegin w ecc s = .hold (z.setSq 16 { z.sq 16 with wait := .cpx row }) := by
  intro row w0 mid w2 good reads plain v x z
  unfold cpxBegin fA
  simp only [live, idle, answers, rows, Option.isSome_none, Bool.or_false, Bool.false_eq_true, if_false]
  refine (if_neg (fun bad => bad good)).trans ?_
  simp only [Bool.false_eq_true, if_false, show flag (rowHalf (t.mem.row (((s.sq 16).gr (ifld w 48 4)).toNat % rowCount)) false) 27 = false from reads,
    show flag (rowHalf (t.mem.row (((s.sq 16).gr (ifld w 48 4)).toNat % rowCount)) false) 26 = false from plain]
  rfl
end
end
end

/-! ### The end of a transfer -/

/-- SEQH after a transfer: the CPX that waits for it retires, and SEQH halts in safe state. -/
def State.cpRetire (u : State) (row : Nat) : State :=
  let q := u.sq 16
  let v := match q.wait with
    | .cpx r => if r = row then u.retire 16 (q.pc + 1) 1 else u
    | _ => u
  if v.safe && !v.flashBusy then v.haltSeq 16 else v

theorem cpRetire_of_wait {row : Nat} (wait : (s.sq 16).wait = .cpx row) (live : (s.retire 16 ((s.sq 16).pc + 1) 1).safe = false) :
    s.cpRetire row = s.retire 16 ((s.sq 16).pc + 1) 1 := by
  unfold State.cpRetire
  simp only [wait, if_true, live, Bool.false_and, Bool.false_eq_true, if_false]

section
variable {data : List Byte} {x : Xfer} (xfer : s.cp.xfer = some x)
include xfer

theorem exec_cpTransferDone_of_waits {tmo : Bool} (waits : s.xferWaits x = true) : exec (.cpTransferDone data tmo) s = .next s := by
  show Host.Outcome.next _ = _
  simp only [xfer, waits, if_true]

omit xfer in
/-- A transfer without a write that did not time out: what is left is its end for SEQH. -/
theorem cpDone_of_read (reads : x.write = false) :
    let t := (s.cpStore x.buf (padRows ((data ++ List.replicate (x.len - data.length) 0).take x.len))).writeW4 x.row 0 x.len
    s.cpDone x data false = (State.cpBusy { t with cp := { t.cp with
      xfer := none, polls := (t.cp.polls.filter fun p => decide (p.what ≠ .cpx)) ++ [] } }).cpRetire x.row := by
  intro t
  unfold State.cpDone State.cpRetire
  simp only [reads, Bool.false_eq_true, if_false, false_and, Bool.false_and] <;> rfl

/-- A read ends: its bytes are stored, W4 is written, and the CPX that waits for it retires. -/
theorem exec_cpTransferDone_of_read (reads : x.write = false) (plain : x.poll = false) (ready : x.tmo = false)
    (turn : s.xferWaits x = false) (answers : s.vmWait = false)
    (slots : s.slotsFor ((List.range ((x.len + 7) / 8)).map fun i => (x.buf + i) % rowCount) = true) :
    let t := (s.cpStore x.buf (padRows ((data ++ List.replicate (x.len - data.length) 0).take x.len))).writeW4 x.row 0 x.len
    let u := State.cpBusy { t with cp := { t.cp with
      xfer := none, polls := (t.cp.polls.filter fun p => decide (p.what ≠ .cpx)) ++ [] } }
    (u.retire 16 ((u.sq 16).pc + 1) 1).safe = false → (u.sq 16).wait = .cpx x.row →
    exec (.cpTransferDone data false) s = .next (u.retire 16 ((u.sq 16).pc + 1) 1) := by
  intro t u live wait
  have done : s.cpDone x data false = u.retire 16 ((u.sq 16).pc + 1) 1 :=
    (cpDone_of_read reads).trans (cpRetire_of_wait wait live)
  show Host.Outcome.next _ = _
  simp only [xfer, turn, plain, ready, answers, reads, slots, Bool.false_and, Bool.not_true, Bool.not_false, Bool.true_and,
    Bool.or_self, Bool.false_eq_true, if_false]
  exact congrArg _ done
end

/-! ### Prefetch lines -/

/-- A read of a line keeps the settings of continuous read, and sets its flag. -/
def State.lineRead (s : State) : State :=
  let t := if s.rb Off.cpStat 30 then s else { s with cp := { s.cp with xip := (s.rg Off.cpXip, s.rg (Off.cpDev 0)) } }
  if flag t.cp.xip.1 15 then t.setRb Off.cpStat 30 true else t

/-- It leaves the lines, the bad ones and those to be read once more. -/
theorem lineRead_keeps (s : State) :
    s.lineRead.cp.lines = s.cp.lines ∧ s.lineRead.cp.bad = s.cp.bad ∧ s.lineRead.cp.retry = s.cp.retry := by
  unfold State.lineRead
  split
  · dsimp only
    split
    · exact ⟨rfl, rfl, rfl⟩
    · exact ⟨rfl, rfl, rfl⟩
  · dsimp only
    split
    · exact ⟨rfl, rfl, rfl⟩
    · exact ⟨rfl, rfl, rfl⟩

section
variable {k : Nat} {data : List Row} {crc : Word}

theorem lineFill_of_good (good : lineCrc data = crc) :
    (s.lineFill k data crc).cp.lines = ((k, (data ++ List.replicate 32 0).take 32) :: s.cp.lines.filter fun e => e.1 ≠ k).take 16 := by
  obtain ⟨lines, -, -⟩ := lineRead_keeps s
  rw [← lines, State.lineFill]
  exact congrArg (fun t : State => t.cp.lines) (if_pos good)

section
variable (differs : lineCrc data ≠ crc)
include differs

theorem lineFill_of_first (first : k ∉ s.cp.retry) : (s.lineFill k data crc).cp.lines = s.cp.lines ∧
    (s.lineFill k data crc).cp.bad = s.cp.bad ∧ (s.lineFill k data crc).cp.retry = k :: s.cp.retry := by
  obtain ⟨lines, bad, retry⟩ := lineRead_keeps s
  have form : s.lineFill k data crc =
      let t := s.lineRead.count Off.cpStat 0 8 1
      { t with cp := { t.cp with retry := k :: t.cp.retry } } := by
    refine (if_neg differs).trans (if_neg ?_)
    rw [List.contains_iff_mem]
    exact fun mem => first (retry ▸ mem)
  rw [form]
  exact ⟨lines, bad, congrArg (k :: ·) retry⟩

theorem lineFill_of_second (second : k ∈ s.cp.retry) : (s.lineFill k data crc).cp.bad = insN k s.cp.bad ∧
    flag ((s.lineFill k data crc).rg Off.cpStat) 27 = true := by
  obtain ⟨-, bad, retry⟩ := lineRead_keeps s
  have form : s.lineFill k data crc =
      let t := s.lineRead.count Off.cpStat 0 8 1
      State.setRb { t with cp := { t.cp with bad := insN k t.cp.bad, retry := t.cp.retry.filter (fun l => l ≠ k),
                                             want := if t.cp.want = some k then none else t.cp.want } } Off.cpStat 27 true := by
    refine (if_neg differs).trans (if_pos ?_)
    rw [List.contains_iff_mem]
    exact retry ▸ second
  rw [form]
  refine ⟨congrArg (insN k) bad, ?_⟩
  rw [State.rg_setRb_same, flag_setFlag _ _ _ (by decide)]
end
end

/-! ### Polls -/

section
variable {p : Poll}

theorem pollTimeout_of_past (past : p.what = .past) : s.pollTimeout p = (s.setRb Off.cpStat 28 true).pollEnd p := by
  unfold State.pollTimeout
  simp only [past, reduceCtorEq, if_false, decide_false, Bool.false_and, Bool.false_eq_true]

theorem pollTimeout_of_cpx (cpx : p.what = .cpx) : s.pollTimeout p =
    let v := s.setRb Off.cpStat 28 true
    State.pollEnd { v with cp := { v.cp with xfer := v.cp.xfer.map fun x => { x with tmo := true } } } p := by
  unfold State.pollTimeout
  simp only [cpx, reduceCtorEq, if_true, decide_false, Bool.false_and, Bool.false_eq_true, if_false]

theorem pollTimeout_of_save (save : p.what = .save) :
    let v := s.setRb Off.cpStat 28 true
    (v.pollEnd p).cal.save.isSome = true → s.pollTimeout p = (v.pollEnd p).saveFail := by
  intro v runs
  unfold State.pollTimeout
  simp only [save, reduceCtorEq, if_false, decide_true, Bool.true_and]
  exact if_pos runs

section
variable (due : s.pollDue = some p)
include due

theorem exec_flashPoll_ready : exec (.flashPoll false) s = .next (s.pollEnd p) := by
  show Host.Outcome.next _ = _
  simp only [due, Bool.not_false, if_true]

theorem exec_flashPoll_busy : exec (.flashPoll true) s = .next (
    let limit := p.limit.getD (s.now - 8000 + 4000000)
    if limit ≤ s.now then s.pollTimeout p
    else { s with cp := { s.cp with polls := s.cp.polls.map fun q =>
      if q = p then { p with limit := some limit, next := s.now + 8000 } else q } }) := by
  show Host.Outcome.next _ = _
  simp only [due, Bool.not_true, Bool.false_eq_true, if_false]
  rfl
end
end

end Sys2Proof.Machine

namespace Sys2Proof

open Machine

/-- Settles O42: SEQH's accesses and waits, CPX, the fills of prefetch lines, and the polls. -/
theorem cardPort : Obligations.CardPort := by
  refine ⟨fun w mc s => ?_, fun s => ?_, fun w mc ecc s runs => ?_, fun data x s xfer => ⟨fun waits tmo => ?_, ?_⟩,
    fun data crc s => ?_, fun s => ?_⟩
  · intro u q off wait
    have at_ : u.regOffset w = off := regOffset_eq u w
    refine ⟨fun i mem runs bare => ?_, fun mapped => ⟨fun runs => ?_, fun runs => ?_⟩, fun runs => ?_⟩
    · rw [← at_] at bare ⊢
      refine exec_of_unmapped ?_ runs bare
      rcases List.mem_cons.mp mem with is | rest
      · exact .inl is
      · exact .inr (List.mem_singleton.mp rest)
    · refine exec_of_hold (i := .rdr w mc) rfl rfl runs ((if_neg ?_).trans ?_)
      · rw [show (s.began 16 mc).regOffset w = off from at_, mapped]
        decide
      · exact congrArg (fun o => Flow.hold (wait (.regRead (ifld w 52 4) o) (u.now + 2))) at_
    · refine exec_of_hold (i := .wrr w mc) rfl rfl runs ((if_neg ?_).trans ?_)
      · rw [show (s.began 16 mc).regOffset w = off from at_, mapped]
        decide
      · exact congrArg (fun o => Flow.hold (wait (.regWrite o (q.gr (ifld w 52 4))) (u.now + 2))) at_
    · have given : exec (.waitc w mc) s = .next (s.instr 16 0xC2 w mc [(32, 19)] [] fun s =>
          let n := (if w.getLsbD 51 then (s.sq 16).gr (ifld w 52 4) else BitVec.ofNat 32 (ifld w 0 32)).toNat
          .hold (s.setSq 16 { s.sq 16 with wait := .waitc (s.now + 1 + n), readyAt := s.now + 1 })) := by
        rw [fImm_eq]
        rfl
      exact exec_of_hold (i := .waitc w mc) rfl given runs rfl
  · intro q
    refine ⟨fun due wait => ?_, fun waits => congrArg Host.Outcome.next (if_pos waits), fun off v wait ready turn => ?_,
      fun rd off v t wait ready turn read => ?_⟩
    · show Host.Outcome.next _ = _
      simp only [show (s.sq 16).wait = _ from wait]
      rfl
    · rw [exec_regAccessDone turn ready, accessDone_of_write wait]
    · rw [exec_regAccessDone turn ready, accessDone_of_read wait read]
  · intro u q row i
    refine ⟨fun safe => ?_, fun live busy => ?_, fun live idle answers t bad rows => ?_, fun live idle answers t rows => ?_⟩
    · exact exec_of_hold (i := i) rfl rfl runs (cpxBegin_of_safe safe)
    · exact exec_of_hold (i := i) rfl rfl runs (cpxBegin_of_busy live busy)
    · exact exec_of_hold (i := i) rfl rfl runs (cpxBegin_of_bad live idle answers rows)
    · exact ⟨fun bad => exec_of_next (i := i) rfl rfl runs (cpxBegin_of_err live idle answers rows bad),
        fun good reads plain => exec_of_hold (i := i) rfl rfl runs (cpxBegin_of_read live idle answers rows good reads plain)⟩
  · exact exec_cpTransferDone_of_waits xfer waits
  · exact exec_cpTransferDone_of_read xfer
  · refine ⟨fun free waits => congrArg Host.Outcome.next (if_pos (by rw [free, waits]; rfl)), fun k want port none_ wanted => ?_,
      fun k differs first => lineFill_of_first differs first, fun k differs second => lineFill_of_second differs second,
      fun k good => lineFill_of_good good⟩
    show Host.Outcome.next _ = _
    simp only [want, port, none_, wanted, Option.isNone_none, Bool.and_self, if_true]
  · refine ⟨fun none_ busy => ?_, fun p due => ?_⟩
    · show Host.Outcome.next _ = _
      simp only [none_]
    · intro limit
      refine ⟨exec_flashPoll_ready due, fun early => ?_, fun late => ⟨fun past => ?_, fun cpx => ?_, fun save runs => ?_⟩⟩
      · exact (exec_flashPoll_busy due).trans (congrArg Host.Outcome.next (if_neg (Nat.not_le.mpr early)))
      · exact (exec_flashPoll_busy due).trans (congrArg Host.Outcome.next ((if_pos late).trans (pollTimeout_of_past past)))
      · exact (exec_flashPoll_busy due).trans (congrArg Host.Outcome.next ((if_pos late).trans (pollTimeout_of_cpx cpx)))
      · exact (exec_flashPoll_busy due).trans (congrArg Host.Outcome.next ((if_pos late).trans (pollTimeout_of_save save runs)))

end Sys2Proof
end

section
/-!
SUPPORT. Masked words, the registers of pots, and accesses of BAR2.
-/
namespace Sys2Proof.Machine

variable {s : State}

/-! ### Masked words -/

/-- A field whose bits a mask keeps. -/
theorem fld_and (v m : Word) (lo len : Nat) (keeps : ∀ i < len, m.getLsbD (lo + i) = true) : fld (v &&& m) lo len = fld v lo len := by
  refine Nat.eq_of_testBit_eq fun i => ?_
  rw [fld_testBit, fld_testBit, BitVec.getLsbD_and]
  by_cases low : i < len
  · rw [keeps i low, Bool.and_true]
  · rw [decide_eq_false low, Bool.false_and, Bool.false_and]

theorem flag_and (v m : Word) (i : Nat) (keeps : m.getLsbD i = true) : flag (v &&& m) i = flag v i := by
  rw [flag, flag, BitVec.getLsbD_and, keeps, Bool.and_true]

/-! ### POT_CFG -/

theorem potOwnerHalted_iff (k : Nat) : s.potOwnerHalted k = true ↔
    if flag (s.rg (Off.potCfg k)) 30 then fld (s.rg (Off.weStat (fld (s.rg (Off.potCfg k)) 24 4))) 30 2 = 0
    else (s.sq (fld (s.rg (Off.potCfg k)) 24 4)).mode = .halted := by
  unfold State.potOwnerHalted State.potOwner State.rb State.rf
  by_cases engine : flag (s.rg (Off.potCfg k)) 30 = true
  · rw [if_pos engine, engine]
    exact decide_eq_true_iff
  · rw [if_neg engine, Bool.eq_false_of_not_eq_true engine]
    exact decide_eq_true_iff

/-- POT_CFG takes a new value under the rule of R136. -/
theorem potCfgWrite_eq (k : Nat) (v : Word) (halted : Bool) :
    let cur := flag (s.rg (Off.potCfg k)) 31
    let size := fld v 16 5
    let w : Word := v &&& 0xCF1F0000
    let ok := if cur then flag v 31 = false ∧ halted = true
      else if flag v 31 then 10 ≤ size ∧ size ≤ 26 ∧ (s.rg (Off.potBase k)).toNat + 2 ^ size ≤ 0xFFC00000
      else halted = true
    s.potCfgWrite k v halted = if ok then
        if flag v 31 then ((s.setRg (Off.potCfg k) w).setRg (Off.potRd k) 0).setRg (Off.potWr k) 0
        else (if cur then s.potForget k else s).setRg (Off.potCfg k) w
      else s.setRb (Off.potStat k) 28 true := by
  intro cur size w ok
  have en : flag w 31 = flag v 31 := flag_and _ _ _ (by decide)
  have len : fld w 16 5 = size := fld_and _ _ _ _ (by decide)
  unfold State.potCfgWrite
  simp only [show v &&& 0xCF1F0000 = w from rfl, en, len, ringOk, descRow, decide_eq_true_eq]
  by_cases on : flag (s.rg (Off.potCfg k)) 31 = true
  · by_cases set_ : flag v 31 = true
    · simp [ok, cur, on, set_]
    · cases halted
      · simp [ok, cur, on, set_]
      · simp [ok, cur, on, set_]
  · by_cases set_ : flag v 31 = true
    · simp [ok, cur, on, set_, size]
    · cases halted
      · simp [ok, cur, on, set_]
      · simp [ok, cur, on, set_]

/-! ### BAR2 -/

section
variable {row : BitVec 32} {data : Row} {be : BitVec 8} {ecc : Ecc}

/-- The state with a logged error, whose message may be sent. -/
theorem aerLog_eq (poison : Bool) (r : Nat) (be : BitVec 8) : s.aerLog poison r be = State.fresh { s with qm := { s.qm with
    aer := s.qm.aer ++ [{ poison := poison, row := r, be := be, sent := Config.errReport s.freeCtr
                          dwords := (if be.toNat % 16 ≠ 0 then 1 else 0) + if 16 ≤ be.toNat then 1 else 0 }] } } := by
  unfold State.aerLog
  simp only [decide_eq_true_eq]

section
variable (turn : (s.partyHeld .pf0 || s.vmWait) = false) (first : s.partyBehind .pf0 = false)
include turn first

theorem exec_bar2Read : exec (.bar2Read row ecc) s = .next (s.bar2Get row.toNat ecc) := by
  refine congrArg Host.Outcome.next ((if_neg ?_).trans (if_neg ?_))
  · rw [turn]
    exact Bool.false_ne_true
  · rw [first]
    exact Bool.false_ne_true

theorem exec_bar2Write : exec (.bar2Write row data be ecc) s = .next (s.bar2Put row.toNat data be ecc) := by
  refine congrArg Host.Outcome.next ((if_neg ?_).trans (if_neg ?_))
  · rw [turn]
    exact Bool.false_ne_true
  · rw [first]
    exact Bool.false_ne_true
end

theorem bar2Get_of_early {r : Nat} (early : s.rst.ready = false) : s.bar2Get r ecc = s.answer .pf0 .unsupported := by
  rw [State.bar2Get, early]
  rfl

theorem bar2Put_of_early {r : Nat} (early : s.rst.ready = false) : s.bar2Put r data be ecc = s.answer .pf0 .unsupported := by
  rw [State.bar2Put, early]
  rfl

section
variable {r : Nat} (ready : s.rst.ready = true)
include ready

theorem bar2Get_of_desc (desc : inDesc r = true) : s.bar2Get r ecc = s.answer .pf0 .abort := by
  rw [State.bar2Get, ready, desc]
  rfl

theorem bar2Put_of_desc (desc : inDesc r = true) : s.bar2Put r data be ecc = (s.count Off.qmStat2 24 8 1).irq 210 := by
  rw [State.bar2Put, ready, desc]
  rfl

variable (plain : inDesc r = false)
include plain

theorem bar2Get_of_row : s.bar2Get r ecc =
    let d := s.rowRead r ecc
    let t := s.rowSeen r ecc
    { (if d.ue then t.aerLog true r 0xFF else t) with bar2 := some (r, d.data, d.ue) } := by
  rw [State.bar2Get, ready, plain]
  rfl

/-- A write of a row that meets no fill slot. -/
theorem bar2Put_of_waits (some_ : be ≠ 0) (ends : s.writeEnd r be ecc = .waits) :
    s.bar2Put r data be ecc = (s.potRewrite r).slotHold (.bar2Write (BitVec.ofNat 32 r) data be ecc) := by
  rw [State.bar2Put, ready, plain]
  simp only [Bool.not_true, Bool.false_eq_true, if_false, if_neg some_, writeEnd_potRewrite, ends]

/-- One that meets a poisoned word. -/
theorem bar2Put_of_rejected (some_ : be ≠ 0) (ends : s.writeEnd r be ecc = .rejected) :
    s.bar2Put r data be ecc = ((((s.potRewrite r).uncorrected 82 r).poison r).count Off.miPwstat 16 16 1).aerLog false r be := by
  rw [State.bar2Put, ready, plain]
  simp only [Bool.not_true, Bool.false_eq_true, if_false, if_neg some_, writeEnd_potRewrite, ends, State.writeRow]
  rfl

/-- One that is stored. -/
theorem bar2Put_of_stored (some_ : be ≠ 0) (ends : s.writeEnd r be ecc = .stored) :
    s.bar2Put r data be ecc = (s.potRewrite r).writeRow r data be ecc := by
  rw [State.bar2Put, ready, plain]
  simp only [Bool.not_true, Bool.false_eq_true, if_false, if_neg some_, writeEnd_potRewrite, ends]

theorem bar2Put_of_none : s.bar2Put r data 0 ecc = s := by
  rw [State.bar2Put, ready, plain]
  rfl
end
end


end Sys2Proof.Machine

namespace Sys2Proof

open Machine

/-- Settles O43: POT_CFG and POT_WR, then an access of BAR2 by what it meets first. -/
theorem potsAndBar2 : Obligations.PotsAndBar2 := by
  refine ⟨fun p k v s => ⟨fun takes => ?_, fun takes => ?_⟩, fun row ecc s => ?_⟩
  · intro u w size halted ok
    have stored : exec (.potCfgWrite p k v) s = .next (u.potCfgWrite k v (u.potOwnerHalted k)) :=
      congrArg Host.Outcome.next (gateWrite_of_accepts takes (found_potCfg k k.isLt))
    rw [stored, potCfgWrite_eq]
    simp only [potOwnerHalted_iff]
    refine ⟨fun no => congrArg Host.Outcome.next (if_neg no), fun yes off => ?_, fun yes on => ?_⟩
    · exact congrArg Host.Outcome.next ((if_pos yes).trans (if_neg (ne_true_of_eq_false off)))
    · exact congrArg Host.Outcome.next ((if_pos yes).trans (if_pos on))
  · intro u rd old new again rows moves
    have stored : exec (.potWrWrite p k v) s = .next (u.potWrWrite p k v) :=
      congrArg Host.Outcome.next (gateWrite_of_accepts takes (found_potWr k k.isLt))
    rw [stored]
    refine ⟨fun waits => congrArg Host.Outcome.next (if_pos waits), fun free waits => ?_, fun free still => ?_⟩
    · exact congrArg Host.Outcome.next ((if_neg (ne_true_of_eq_false free)).trans (if_pos waits))
    · exact congrArg Host.Outcome.next ((if_neg (ne_true_of_eq_false free)).trans (if_neg (ne_true_of_eq_false still)))
  · intro r late
    refine ⟨fun waits => ⟨congrArg Host.Outcome.next (if_pos waits), fun data be => congrArg Host.Outcome.next (if_pos waits)⟩,
      fun turn waits => ⟨?_, fun data be => ?_⟩, fun turn first early => ⟨?_, fun data be => ?_⟩,
      fun turn first ready desc => ⟨?_, fun data be => ?_⟩, fun turn first ready plain => ?_⟩
    · exact congrArg Host.Outcome.next ((if_neg (ne_true_of_eq_false turn)).trans (if_pos waits))
    · exact congrArg Host.Outcome.next ((if_neg (ne_true_of_eq_false turn)).trans (if_pos waits))
    · rw [exec_bar2Read turn first, bar2Get_of_early early]
    · rw [exec_bar2Write turn first, bar2Put_of_early early]
    · rw [exec_bar2Read turn first, bar2Get_of_desc ready (decide_eq_true desc)]
    · rw [exec_bar2Write turn first, bar2Put_of_desc ready (decide_eq_true desc)]
    · intro d t log u
      have row_ : inDesc row.toNat = false := decide_eq_false (Nat.not_le.mpr plain)
      refine ⟨?_, fun data => ?_, fun data be some_ => ?_⟩
      · rw [exec_bar2Read turn first, bar2Get_of_row ready row_]
        have logged : (if d.ue then t.aerLog true r 0xFF else t) = u := by rw [aerLog_eq]
        exact congrArg (fun v : State => Host.Outcome.next { v with bar2 := some (r, d.data, d.ue) }) logged
      · rw [exec_bar2Write turn first, bar2Put_of_none ready row_]
      · intro v i
        have given := exec_bar2Write (data := data) (be := be) (ecc := ecc) (row := row) turn first
        refine ⟨fun full => ?_, fun free stored => ?_, fun free part live bad => ?_⟩
        · have ends : s.writeEnd r be ecc = .waits := by rw [State.writeEnd, full]; rfl
          refine given.trans (congrArg Host.Outcome.next ((bar2Put_of_waits ready row_ some_ ends).trans ?_))
          have retried : (s.potRewrite r).retried = s.retried := by
            unfold State.potRewrite
            split
            · rfl
            · rfl
          rw [BitVec.ofNat_toNat, BitVec.setWidth_eq]
          exact if_congr (by rw [retried]) rfl rfl
        · exact given.trans (congrArg Host.Outcome.next (bar2Put_of_stored ready row_ some_ stored))
        · have ends : s.writeEnd r be ecc = .rejected := by
            have lost : (s.mem.bad.contains row.toNat || decide (ecc = .uncorrectable)) = true := by
              rw [Bool.or_eq_true, List.contains_iff_mem, decide_eq_true_eq]
              exact bad
            rw [State.writeEnd, free, decide_eq_false part, live, lost]
            rfl
          refine given.trans (congrArg Host.Outcome.next ((bar2Put_of_rejected ready row_ some_ ends).trans ?_))
          rw [aerLog_eq]

end Sys2Proof
end

section
/-!
SUPPORT. Fills of vector memory, the strainer and the leaky buckets.
-/
namespace Sys2Proof.Machine

variable {s : State}

/-! ### Fills -/

/-- GO is refused while a fill runs, or where it would reach the last 32 regions. -/
theorem fillGo_of_go {v : Word} (go : flag v 0 = true) :
    let base := s.rf Off.vmFillBase 0 15
    let last := base + s.rf Off.vmFillLen 0 15
    s.fillGo v = if s.mem.fill.isSome = true ∨ 0x7FE0 ≤ last then s.setRb Off.vmFillStat 29 true
      else State.fillNext { (s.setRb Off.vmFillStat 31 true) with mem := { s.mem with fill := some (base, last) } } := by
  intro base last
  have refused : (s.mem.fill.isSome = true ∨ 32767 < last ∨ descRegion ≤ last) ↔ (s.mem.fill.isSome = true ∨ 0x7FE0 ≤ last) :=
    or_congr_right ⟨fun past => past.elim (fun past => (by decide : 0x7FE0 ≤ 32767).trans past.le) id, Or.inr⟩
  rw [State.fillGo, go]
  by_cases no : s.mem.fill.isSome = true ∨ 0x7FE0 ≤ last
  · rw [if_pos no]
    exact if_pos (refused.mpr no)
  · rw [if_neg no]
    exact if_neg (mt refused.mp no)

/-- The pattern's two registers, as a row. -/
theorem fillPat_eq (s : State) : s.fillPat = s.rg Off.vmFillPatHi ++ s.rg Off.vmFillPatLo := by
  refine BitVec.eq_of_toNat_eq ?_
  have low := (s.rg Off.vmFillPatLo).isLt
  have high := (s.rg Off.vmFillPatHi).isLt
  rw [State.fillPat, BitVec.toNat_ofNat, BitVec.toNat_append, Nat.shiftLeft_eq, Nat.mod_eq_of_lt (by omega), Nat.add_comm,
    Nat.mul_comm, Nat.two_pow_add_eq_or_of_lt low]

theorem fillNext_of_busy (busy : s.mem.cur.isSome = true) : s.fillNext = s := if_pos busy

section
variable (rests : s.mem.cur = none)
include rests

theorem fillNext_of_slot {f : FillSlot} {l : List FillSlot} (slots : s.mem.slots = f :: l) : s.fillNext = s.fillBegin f.region false := by
  simp only [State.fillNext, rests, slots, Option.isSome_none, Bool.false_eq_true, if_false]

theorem fillNext_of_fill {n last : Nat} (slots : s.mem.slots = []) (fill : s.mem.fill = some (n, last)) :
    s.fillNext = (s.setRf Off.vmFillStat 0 15 n).fillBegin n true := by
  simp only [State.fillNext, rests, slots, fill, Option.isSome_none, Bool.false_eq_true, if_false]
end

theorem fillNext_of_none (slots : s.mem.slots = []) (fill : s.mem.fill = none) : s.fillNext = s := by
  unfold State.fillNext
  simp only [slots, fill, ite_self]

/-- A region begins with the pattern as it stands. -/
theorem fillBegin_eq (s : State) (g : Nat) (explicit : Bool) : s.fillBegin g explicit = { s with mem := { s.mem with
    cur := some (g, explicit), pos := 0, curPat := s.rg Off.vmFillPatHi ++ s.rg Off.vmFillPatLo } } := by
  rw [State.fillBegin, fillPat_eq]

/-- What VM_FILL_STAT shows is no part of the pattern. -/
theorem fillBegin_of_shown (s : State) (n g : Nat) (explicit : Bool) : (s.setRf Off.vmFillStat 0 15 n).fillBegin g explicit =
    { s.setRf Off.vmFillStat 0 15 n with mem := { s.mem with
      cur := some (g, explicit), pos := 0, curPat := s.rg Off.vmFillPatHi ++ s.rg Off.vmFillPatLo } } := by
  rw [fillBegin_eq, State.rg_setRf_ne (s := s) Off.vmFillStat 0 15 n Off.vmFillPatHi (by decide),
    State.rg_setRf_ne (s := s) Off.vmFillStat 0 15 n Off.vmFillPatLo (by decide)]
  rfl

/-- The lines that an explicit fill passes as its region completes. -/
theorem ahead_full (m : MemSt) (g a : Nat) : m.ahead g 16384 a = decide (regionOf a = g ∧ m.pos ≤ lineOf a) := by
  have low : lineOf a < 16384 := by
    unfold lineOf
    omega
  unfold MemSt.ahead
  simp only [low, and_true]

/-- An implicit region completes: it is marked, and the engine takes its next one. -/
theorem fillDone_of_implicit {g : Nat} (works : s.mem.cur = some (g, false)) : s.fillDone = State.fillNext { s with mem := { s.mem with
    init := insN g s.mem.init, slots := s.mem.slots.filter fun f => f.region ≠ g, cur := none } } := by
  unfold State.fillDone
  rw [works]
  rfl

/-- The memory with region `g` of an explicit fill completed. -/
def MemSt.filled (m : MemSt) (g : Nat) : MemSt :=
  { m with
    cells := m.cells.filter fun c => !decide (regionOf c.1 = g ∧ m.pos ≤ lineOf c.1)
    pat := Tbl.set 0 m.pat g m.curPat
    bad := m.bad.filter fun r => !decide (regionOf (8 * r) = g ∧ m.pos ≤ lineOf (8 * r))
    pos := max m.pos 16384
    cur := none
    init := insN g m.init
    slots := m.slots.filter fun f => f.region ≠ g }

theorem filled_eq (m : MemSt) (g : Nat) : (m.fillRegion g).initRegion g = m.filled g := by
  unfold MemSt.fillRegion MemSt.fillTo
  simp only [ahead_full]
  rfl

section
variable {g n last : Nat} (works : s.mem.cur = some (g, true)) (fill : s.mem.fill = some (n, last))
include works fill

theorem fillDone_of_explicit : s.fillDone = if n < last
      then State.fillNext { s with mem := { s.mem.filled g with fill := some (n + 1, last) } }
      else State.fillNext (State.setRf { s with mem := { s.mem.filled g with fill := none } } Off.vmFillStat 30 2 1) := by
  rw [← filled_eq]
  unfold State.fillDone
  rw [works, fill]
end

/-! ### Leaky buckets -/

section
variable {m due : Nat} (period : Tbl.get 0 s.leakAt m + max 1 (s.af (Off.miCfg m) 0 16) * 800000 = due)
include period

theorem leak_of_early (early : s.now < due) : s.leak m = s := by
  simp only [State.leak, period, if_pos early]

theorem leak_of_late (late : due ≤ s.now) :
    let lv := s.rf (Off.miStat m) 16 8 - 1
    let u := (({ s with leakAt := Tbl.set 0 s.leakAt m due } : State).setRf (Off.miStat m) 16 8 lv).setAp (Off.miCfg m)
      (s.rg (Off.miCfg m))
    s.leak m = if lv = 0 then { u with disarmed := u.disarmed.filter (· ≠ m) } else u := by
  simp only [State.leak, period, if_neg (Nat.not_lt.mpr late)]
  rfl
end

/-! ### The strainer -/

section
variable {m i : Nat} {ecc : Ecc} {lap : Bool}

/-- What the strainer does with the word that it has read. -/
def State.strainJudge (s : State) (m i : Nat) (ecc : Ecc) : State :=
  let bad := s.strainBad m i
  let s := if (s.strainLost m).contains i then (if bad then s else s.strainClear m i).fresh else s
  if bad ∨ ecc = .uncorrectable then
    (((s.strainMark m i).uncorrected m i).setRb (Off.miStat m) 29 true).notice (0x8000 + m) 2 (Off.miStat m)
  else if ecc = .corrected then s.corrected m i
  else s

theorem strainWord_eq :
    let e := Tbl.get (0, none) s.strain m
    let from_ := e.2.getD s.now
    let u := if lap then s.setRg (Off.miLap m) (BitVec.ofNat 32 (min 0xFFFFFFFF ((s.now - from_) / 800))) else s
    s.strainNext m e.1 = some (i, lap) → s.strainWord m ecc = State.strainJudge
      { u with strain := Tbl.set (0, none) u.strain m (i + 1, some (if lap then u.now else from_)) } m i ecc := by
  intro e from_ u next
  unfold State.strainWord State.strainJudge
  simp only [show s.strainNext m (Tbl.get (0, none) s.strain m).1 = some (i, lap) from next]
  rfl

/-- A word that is not known to be bad: what the checker reports of it is noted. -/
theorem strainJudge_of_good (good : s.strainBad m i = false) (known : i ∉ s.strainLost m) :
    s.strainJudge m i ecc = if ecc = .uncorrectable then (((s.strainMark m i).uncorrected m i).setRb (Off.miStat m) 29 true).notice
        (0x8000 + m) 2 (Off.miStat m)
      else if ecc = .corrected then s.corrected m i else s := by
  have fresh : (s.strainLost m).contains i = false := by
    rw [Bool.eq_false_iff, ne_eq, List.contains_iff_mem]
    exact known
  simp only [State.strainJudge, good, fresh, Bool.false_eq_true, if_false, false_or]
end

end Sys2Proof.Machine

namespace Sys2Proof

open Machine

/-- Settles O44: GO, the next region, a completed region, a word of the strainer, and a leak. -/
theorem fillsAndIntegrity : Obligations.FillsAndIntegrity := by
  refine ⟨fun p v s takes => ?_, fun s => ?_, fun s => ?_, fun m ecc i lap s => ?_, fun m s => ?_⟩
  · intro u base last t
    have stored : exec (.fillGo p v) s = .next (u.fillGo v) :=
      congrArg Host.Outcome.next (gateWrite_of_accepts takes found_vmFillCtl)
    rw [stored]
    refine ⟨fun off => ?_, fun go refused => ?_, fun go free low => ?_⟩
    · rw [State.fillGo, off]
      rfl
    · exact congrArg Host.Outcome.next ((fillGo_of_go go).trans (if_pos refused))
    · refine congrArg Host.Outcome.next ((fillGo_of_go go).trans (if_neg ?_))
      rw [free]
      rintro (busy | past)
      · exact Bool.false_ne_true busy
      · exact absurd past (Nat.not_le.mpr low)
  · intro start
    exact ⟨fun busy => fillNext_of_busy busy, fun f l rests slots => (fillNext_of_slot rests slots).trans (fillBegin_eq ..),
      fun n last rests slots fill => (fillNext_of_fill rests slots fill).trans (fillBegin_of_shown ..), fun slots fill => fillNext_of_none slots fill⟩
  · refine ⟨fun rests => ?_, fun g answers works => ?_, fun g n last answers works fill => ?_⟩
    · refine congrArg Host.Outcome.next ?_
      by_cases waits : s.vmWait = true
      · exact if_pos waits
      · refine (if_neg waits).trans ?_
        rw [State.fillDone, rests.resolve_left waits]
    · refine congrArg Host.Outcome.next ((if_neg (ne_true_of_eq_false answers)).trans ?_)
      exact fillDone_of_implicit works
    · intro reached m
      have done := fillDone_of_explicit works fill
      refine ⟨fun more => ?_, fun ends => ?_⟩
      · exact congrArg Host.Outcome.next ((if_neg (ne_true_of_eq_false answers)).trans (done.trans (if_pos more)))
      · exact congrArg Host.Outcome.next ((if_neg (ne_true_of_eq_false answers)).trans (done.trans (if_neg (Nat.not_lt.mpr ends))))
  · intro e from_ u v next good known
    refine congrArg Host.Outcome.next ((strainWord_eq next).trans ((strainJudge_of_good good known).trans ?_))
    cases ecc
    · rfl
    · rfl
    · rfl
  · intro due lv u
    have period : Tbl.get 0 s.leakAt m + max 1 (s.af (Off.miCfg m) 0 16) * 800000 = due := rfl
    exact ⟨fun early => congrArg Host.Outcome.next (leak_of_early period early),
      fun late => congrArg Host.Outcome.next (leak_of_late period late)⟩

end Sys2Proof
end

section
/-!
SUPPORT. The event channels: their owners, their writes, the pulses that enter them and pass them, and pin actions.
-/
namespace Sys2Proof.Machine

variable {s : State} {p : Party}

/-! ### Writes of event channels -/

/-- Who may write an event channel: PF1 and the service port, else whom its owner admits. -/
def State.ecMay (s : State) (p : Party) (k : Nat) : Prop :=
  let was := s.regBack.rg (Off.ecCfg k)
  let owner := fld was 20 3
  let site := fld was 0 7
  let low := p = .pf0 ∨ p = .seqh
  (p = .pf1 ∨ p = .sp) ∨ (flag was 30 = false ∧ ((owner = 0 ∧ p = .pf0) ∨
    (owner = 2 ∧ (p = .seqh ∨ (p = .pf0 ∧ (s.sq 16).mode = .halted))) ∨
    (owner = 3 ∧ low ∧ (s.sq site).mode = .halted) ∨ (owner = 4 ∧ low ∧ s.enabled site = false)))

theorem ecAdmits_iff (s : State) (p : Party) (k : Nat) : s.ecAdmits p k = true ↔ s.ecMay p k := by
  unfold State.ecAdmits State.ecMay
  generalize s.regBack.rg (Off.ecCfg k) = was
  by_cases high : p = .pf1 ∨ p = .sp
  · have admits : (decide (p = .pf1) || decide (p = .sp)) = true := by
      rw [Bool.or_eq_true, decide_eq_true_eq, decide_eq_true_eq]
      exact high
    simp only [admits, if_true, high, true_or]
  · have admits : (decide (p = .pf1) || decide (p = .sp)) = false := by
      rw [Bool.or_eq_false_iff, decide_eq_false_iff_not, decide_eq_false_iff_not]
      exact not_or.mp high
    by_cases sec : flag was 30 = true
    · simp [admits, high, sec]
    · simp only [admits, Bool.false_eq_true, if_false, sec, high, false_or]
      generalize fld was 20 3 = owner
      match owner with
      | 0 => simp
      | 1 => simp
      | 2 => simp
      | 3 => simp
      | 4 => simp
      | _ + 5 => simp

/-- What an accepted write keeps: EC_CFG of a lower party leaves SEC and EXPORT, and FENCE needs a site as owner. -/
theorem ecWrite_eq (k j : Nat) (v : Word) :
    let w := s.rg (Off.ecCfg k)
    let high := p = .pf1 ∨ p = .sp
    let fits := j = 0 → (high ∨ fld v 29 2 = fld w 29 2) ∧ (flag v 28 = true → fld v 20 3 = 4)
    (s.ecMay p k ∧ fits → s.ecWrite p k j v = s.ecStore k j v) ∧
    (¬ (s.ecMay p k ∧ fits) → s.ecWrite p k j v = s.ecReject k) := by
  intro w high fits
  have ok : ((s.ecAdmits p k && (decide (j ≠ 0) || (((decide (p = .pf1) || decide (p = .sp)) || decide (fld v 29 2 = fld w 29 2)) &&
      (!flag v 28 || decide (fld v 20 3 = 4))))) = true) ↔ s.ecMay p k ∧ fits := by
    rw [Bool.and_eq_true, ecAdmits_iff]
    refine and_congr_right fun _ => ?_
    simp only [fits, high, Bool.or_eq_true, Bool.and_eq_true, decide_eq_true_eq, Bool.not_eq_true', or_assoc]
    rw [imp_iff_not_or, imp_iff_not_or, Bool.not_eq_true]
  exact ⟨fun yes => if_pos (ok.mpr yes), fun no => if_neg (mt ok.mp no)⟩

end Sys2Proof.Machine

namespace Sys2Proof

open Machine

/-- Settles O46: who may write, what is stored, and the pulses on their way. -/
theorem eventChannelWrites : Obligations.EventChannelWrites := by
  refine ⟨fun p k j v s takes => ?_, fun src hc near s => ?_⟩
  · intro u w was owner site high low may fits t
    have place : (findReg pf0Rows (Off.ecCfg k + 4 * j)).isSome = true := by
      rcases Nat.eq_zero_or_pos j.val with zero | some_
      · rw [zero]
        exact found_ecCfg k k.isLt
      · have prod : Off.ecCfg k + 4 * j = Off.ecProd k (j - 1) := by
          unfold Off.ecCfg Off.ecProd
          omega
        rw [prod]
        exact found_ecProd k k.isLt (j - 1) (by omega)
    have stored : exec (.ecConfigWrite p k j v) s = .next (u.ecWrite p k j v) :=
      congrArg Host.Outcome.next (gateWrite_of_accepts takes place)
    rw [stored]
    obtain ⟨accepted, rejected⟩ := ecWrite_eq (s := u) (p := p) k j v
    by_cases yes : may ∧ fits
    · rw [if_pos yes, accepted yes]
      rfl
    · rw [if_neg yes, rejected yes]
      rfl
  · intro b t
    refine ⟨rfl, fun y => ?_⟩
    show y ∈ s.pulses ++ _ ↔ _
    rw [List.mem_append]
    refine or_congr_right ?_
    rw [List.mem_map]
    constructor
    · rintro ⟨e, mem, rfl⟩
      rw [List.mem_filter, Bool.and_eq_true] at mem
      obtain ⟨prod, near_, on⟩ := mem
      exact ⟨prod, near_, on, rfl, rfl, rfl⟩
    · rintro ⟨prod, near_, on, at_, hops, cfg⟩
      refine ⟨(y.ch, y.prod), List.mem_filter.mpr ⟨prod, by rw [Bool.and_eq_true]; exact ⟨near_, on⟩⟩, ?_⟩
      rw [← at_, ← hops, ← cfg]

end Sys2Proof
end

section
/-!
SUPPORT. Software pulses, a pulse at an event channel, and the end of a pin action.
-/
namespace Sys2Proof.Machine

variable {s : State} {k : Nat}

/-! ### Software pulses -/

/-- Software sources that fire in the next CCLK, one after another. -/
theorem foldl_fireNext (l : List Nat) (s : State) : l.foldl (fun s i => s.fireNext (0xB80 + i)) s =
    { s with transit := s.transit ++ l.map fun i => { src := 0xB80 + i, hc := 0, at_ := s.now + 1, quad := none } } := by
  induction l generalizing s with
  | nil => rw [List.map_nil, List.append_nil]; rfl
  | cons i l ih => rw [List.foldl_cons, ih, State.fireNext, List.map_cons, List.append_assoc]; rfl

/-! ### The pulses of one CCLK -/

/-- The earliest of a list of pulses and an instant. -/
theorem foldl_min_at (l : List Pulse) (m t : Nat) (first : t ≤ m) (least : ∀ y ∈ l, t ≤ y.at_) (is : m = t ∨ ∃ y ∈ l, y.at_ = t) :
    l.foldl (fun m p => min m p.at_) m = t := by
  induction l generalizing m with
  | nil =>
    rcases is with is | ⟨y, mem, -⟩
    · exact is
    · exact absurd mem List.not_mem_nil
  | cons d l ih =>
    have head := least d List.mem_cons_self
    rw [List.foldl_cons]
    refine ih _ (le_min first head) (fun y mem => least y (List.mem_cons_of_mem _ mem)) ?_
    rcases is with is | ⟨y, mem, is⟩
    · exact .inl (by omega)
    · rcases List.mem_cons.mp mem with own | rest
      · exact .inl (by subst own; omega)
      · exact .inr ⟨y, rest, is⟩

/-- Adds the producer of a pulse to a list, unless it is there. -/
def addProd (l : List Nat) (q : Pulse) : List Nat := if l.contains q.prod then l else l ++ [q.prod]

/-- The producers of a list of pulses, each once, behind those of a list without doubles. -/
theorem foldl_addProd (l : List Pulse) (acc : List Nat) (once : acc.Nodup) :
    (l.foldl addProd acc).Nodup ∧ ∀ x, x ∈ l.foldl addProd acc ↔ x ∈ acc ∨ x ∈ l.map (·.prod) := by
  induction l generalizing acc with
  | nil => exact ⟨once, fun x => by simp⟩
  | cons q l ih =>
    rw [List.foldl_cons]
    by_cases mem : q.prod ∈ acc
    · rw [addProd, if_pos (List.contains_iff_mem.mpr mem)]
      refine ⟨(ih acc once).1, fun x => ((ih acc once).2 x).trans ?_⟩
      rw [List.map_cons, List.mem_cons]
      exact ⟨Or.imp_right .inr, fun h => h.elim .inl fun h => h.elim (fun is => .inl (is ▸ mem)) .inr⟩
    · rw [addProd, if_neg (mt List.contains_iff_mem.mp mem)]
      have fresh : (acc ++ [q.prod]).Nodup := by
        rw [← List.concat_eq_append]
        exact once.concat mem
      refine ⟨(ih _ fresh).1, fun x => ((ih _ fresh).2 x).trans ?_⟩
      rw [List.map_cons, List.mem_cons, List.mem_append, List.mem_singleton, or_assoc]

theorem foldl_addProd_length (l : List Pulse) : (l.foldl addProd []).length = (l.map (·.prod)).dedup.length := by
  obtain ⟨once, mem⟩ := foldl_addProd l [] List.nodup_nil
  refine List.Perm.length_eq ((List.perm_ext_iff_of_nodup once (List.nodup_dedup _)).mpr fun x => ?_)
  rw [mem, List.mem_dedup]
  exact or_iff_right List.not_mem_nil

/-- The pulse that a channel passes for the pulses that reached it in one CCLK. -/
theorem eventPass_of_due {t : Nat} :
    let due := s.pulses.filter fun y => decide (y.ch = k) && decide (y.at_ < s.now)
    (∀ y ∈ due, t ≤ y.at_) → (∃ y ∈ due, y.at_ = t) →
    let z := { s with pulses := s.pulses.filter fun y => !(decide (y.ch = k) && decide (y.at_ = t)) }
    let live := due.filter fun y => decide (y.at_ = t) && flag y.cfg 31
    let u := if live.any fun y => decide (8 ≤ y.hc) then z.evLoop k else z
    let pass := live.filter fun y => decide (y.hc < 8)
    (pass = [] → s.eventPass k = u) ∧
    (∀ y l, pass = y :: l →
      s.eventPass k = u.evPass k (l.foldl (fun m z => max m z.hc) y.hc) (pass.map (·.prod)).dedup.length y.cfg) := by
  intro due least is z live u pass
  obtain ⟨d, rest, split⟩ : ∃ d rest, due = d :: rest := by
    obtain ⟨y, mem, -⟩ := is
    exact List.exists_cons_of_ne_nil (List.ne_nil_of_mem mem)
  have first : rest.foldl (fun m p => min m p.at_) d.at_ = t := by
    rw [split] at least is
    refine foldl_min_at rest d.at_ t (least d List.mem_cons_self) (fun y mem => least y (List.mem_cons_of_mem _ mem)) ?_
    obtain ⟨y, mem, at_⟩ := is
    rcases List.mem_cons.mp mem with own | mem
    · exact .inl (own ▸ at_)
    · exact .inr ⟨y, mem, at_⟩
  have lives : ((d :: rest).filter fun y => decide (y.at_ = t)).filter (fun y => flag y.cfg 31) = live := by
    rw [← split, List.filter_filter]
    exact congrArg (fun f => due.filter f) (funext fun y => Bool.and_comm _ _)
  unfold State.eventPass
  simp only [show s.pulses.filter (fun y => decide (y.ch = k) && decide (y.at_ < s.now)) = d :: rest from split, first, lives]
  refine ⟨fun none_ => ?_, fun y l some_ => ?_⟩
  · simp only [show live.filter (fun y => decide (y.hc < 8)) = [] from none_]
    rfl
  · rw [← foldl_addProd_length, some_]
    simp only [show live.filter (fun y => decide (y.hc < 8)) = y :: l from some_]
    rfl

theorem evPass_eq (hc n : Nat) (cfg : Word) :
    let u := ((s.count (Off.ecCnt k) 0 16 1).count (Off.ecCnt k) 16 16 (n - 1)).setRb (Off.evflag (k / 32)) (k % 32) true
    let v := if flag cfg 30 = true ∧ flag cfg 29 = false then (if u.watched k then u.setRb Off.evStat 30 true else u)
      else { u with reach := u.reach ++ [k] }
    let site := fld cfg 0 7
    s.evPass k hc n cfg = (if flag cfg 28 = true ∧ fld cfg 20 3 = 4 then v.fenceSite site
      { cls := 3, src := 0xE000 + k, cause := 0, off := Off.siteStat site, site := some site, wd := false }
      else v).pulse (0xC00 + k) (hc + 1) := by
  unfold State.evPass
  simp only [Bool.and_eq_true, Bool.not_eq_true']

/-! ### The end of a pin action -/

section
variable {slot : Fin 64}

theorem exec_pinActionHoldEnd_of_some {h : Hold}
    (ends : s.holds.find? (fun h => h.slot = slot.val ∧ h.on ∧ h.stop < 4 * s.now + 4) = some h) :
    exec (.pinActionHoldEnd slot) s =
      .next (State.paDrive { s with holds := s.holds.erase h } (s.paChan slot) (h.stop * 625)) := by
  have holds := List.find?_some ends
  have own : h.slot = slot.val := (of_decide_eq_true holds).1
  have found : s.holds.find? (fun h => h.slot = slot.val ∧ h.on ∧ h.stop < s.nowT + 4) = some h := ends
  show Host.Outcome.next _ = _
  simp only [found, own]
  rfl

theorem exec_pinActionHoldEnd_of_none (none_ : ∀ h ∈ s.holds, h.slot = slot.val → h.on = true → 4 * s.now + 4 ≤ h.stop) :
    exec (.pinActionHoldEnd slot) s = .next s := by
  have found : s.holds.find? (fun h => h.slot = slot.val ∧ h.on ∧ h.stop < s.nowT + 4) = none := by
    rw [List.find?_eq_none]
    intro h mem holds
    obtain ⟨own, on, late⟩ := of_decide_eq_true holds
    exact absurd late (Nat.not_lt.mpr (none_ h mem own on))
  show Host.Outcome.next _ = _
  simp only [found]
end

end Sys2Proof.Machine

namespace Sys2Proof

open Machine

/-- Settles O47: EV_SW, the pulse that a channel passes, and the end of a hold. -/
theorem eventPulsesAndPinActions : Obligations.EventPulsesAndPinActions := by
  refine ⟨fun p v s takes => ?_, fun k at_ s => ?_, fun k hc n cfg s => evPass_eq hc n cfg,
    fun slot s => ⟨fun h ends => exec_pinActionHoldEnd_of_some ends, exec_pinActionHoldEnd_of_none⟩⟩
  · intro u
    have stored : exec (.evSwPulse p v) s = .next ((idxs 16 fun i => flag v i).foldl (fun s i => s.fireNext (0xB80 + i)) u) :=
      congrArg Host.Outcome.next (gateWrite_of_accepts takes found_evSw)
    rw [stored, foldl_fireNext]
    rfl
  · intro due
    refine ⟨fun none_ => ?_, fun least is => ?_⟩
    · have rests : s.eventPass k = s := by
        unfold State.eventPass
        simp only [show s.pulses.filter (fun y => decide (y.ch = k.val) && decide (y.at_ < s.now)) = [] from none_]
      exact congrArg Host.Outcome.next rests
    · intro t live u pass
      obtain ⟨refused, passed⟩ := eventPass_of_due least is
      exact ⟨fun none_ => congrArg Host.Outcome.next (refused none_),
        fun y l some_ => congrArg Host.Outcome.next (passed y l some_)⟩

end Sys2Proof
end

section
/-!
SUPPORT. Time-interval units: their registers, edges on both paths, shots, and the code-density test.
-/
namespace Sys2Proof.Machine

variable {s : State} {t : Nat} {e : TiuTime}

/-! ### Writes -/

theorem tiuConfig_of_idle {k : Nat} {v : Word} (idle : s.tiuState t = 0) (small : k < 6) : s.tiuConfig t k v =
    s.setRg ([Off.tiuCfg t, Off.tiuStart t, Off.tiuStop t, Off.tiuN t, Off.tiuWin t, Off.tiuRoute t].getD k 0)
      (v &&& [0xC700FFFF, 0x7FFF, 0x7FFF, 0xFFFFFF, 0xFFFF, 0x87FFFFFF].getD k 0) := by
  unfold State.tiuConfig
  rw [if_neg (fun busy => busy idle)]
  interval_cases k
  all_goals rfl

theorem tiuCfgOff_eq {k : Nat} (small : k < 6) :
    tiuCfgOff t k = [Off.tiuCfg t, Off.tiuStart t, Off.tiuStop t, Off.tiuN t, Off.tiuWin t, Off.tiuRoute t].getD k 0 := by
  interval_cases k
  all_goals rfl

theorem found_tiuCfgOff {k : Nat} (unit : t < 8) : (findReg pf0Rows (tiuCfgOff t k)).isSome = true := by
  unfold tiuCfgOff
  split
  · exact found_tiuCfg t unit
  · exact found_tiuStart t unit
  · exact found_tiuStop t unit
  · exact found_tiuN t unit
  · exact found_tiuWin t unit
  · exact found_tiuRoute t unit

/-! ### An edge that is timed -/

section
variable (s t e)

theorem tiuTimed_rg (o : Nat) : (s.tiuTimed t e).rg o = s.rg o := by
  unfold State.tiuTimed
  split
  · exact State.setTu_acc_rg ..
  · rfl

theorem tiuTimed_rf (o lo len : Nat) : (s.tiuTimed t e).rf o lo len = s.rf o lo len := congrArg (fld · lo len) (tiuTimed_rg s t e o)

theorem tiuTimed_rb (o i : Nat) : (s.tiuTimed t e).rb o i = s.rb o i := congrArg (flag · i) (tiuTimed_rg s t e o)

theorem tiuTimed_same : (s.tiuTimed t e).tiuSame t = s.tiuSame t := by
  simp only [State.tiuSame, State.tiuPath, tiuTimed_rg]

theorem tiuTimed_lastB : ((s.tiuTimed t e).tu t).lastB = (s.tu t).lastB := by
  unfold State.tiuTimed
  split
  · rw [State.tu_setTu_same]
  · rfl
end

/-! ### Edges on the start path -/

theorem tiuStart_of_rest (rest : s.tiuState t ≠ 1 ∨ (s.tu t).armed = false) : s.tiuStart t e = s := by
  refine if_pos ?_
  rw [Bool.not_eq_true']
  exact rest

theorem tiuStop_of_rest (rest : s.tiuState t ≠ 1 ∨ (s.tu t).armed = false) : s.tiuStop t e = s := by
  refine if_pos ?_
  rw [Bool.not_eq_true']
  exact rest

section
variable (runs : s.tiuState t = 1) (armed : (s.tu t).armed = true)
include runs armed

/-- The edge acts on a TIU that runs and whose shot is armed. -/
theorem not_rest : ¬ (s.tiuState t ≠ 1 ∨ (!(s.tu t).armed) = true) := by
  rw [runs, armed]
  decide

theorem tiuStart_of_prescaled (more : (s.tu t).preA + 1 < prescOf (s.rf (Off.tiuCfg t) 24 3)) :
    s.tiuStart t e = (s.tiuTimed t e).setTu t { (s.tiuTimed t e).tu t with preA := (s.tu t).preA + 1 } := by
  refine (if_neg (not_rest runs armed)).trans (if_pos ?_)
  rw [tiuTimed_rf]
  exact more

/-- A prescaled start edge fires the start of a shot that has none. -/
theorem tiuStart_of_edge (ends : prescOf (s.rf (Off.tiuCfg t) 24 3) ≤ (s.tu t).preA + 1) :
    let y := s.tiuTimed t e
    let z := y.tiuFastIn t (y.tooFast t false (s.tu t).lastA e)
    let v := { z.tu t with preA := 0, lastA := some e }
    s.tiuStart t e = if (s.tu t).started then z.setTu t v
      else (z.setTu t { v with started := true, start := e, preB := 0, stops := 0,
                               tsFirst := some ((s.tu t).tsFirst.getD (z.edgeStamp t e.tclk)) }).tiuFired t e := by
  refine (if_neg (not_rest runs armed)).trans (if_neg ?_)
  rw [tiuTimed_rf]
  exact Nat.not_lt.mpr ends

/-! ### Edges on the stop path -/

theorem tiuStop_of_before (fresh : (s.tu t).started = false) : s.tiuStop t e = (s.tiuTimed t e).tiuEarly t e := by
  refine (if_neg (not_rest runs armed)).trans (if_pos ?_)
  rw [fresh]
  rfl

section
variable (started : (s.tu t).started = true)
include started

theorem tiuStop_of_started : s.tiuStop t e =
    let y := s.tiuTimed t e
    if (s.tu t).start.spot = e.spot then
      if s.tiuSame t then y else if s.rb (Off.tiuCfg t) 30 then y.tiuShot t e.tclk 0 true else y.tiuStopped t e
    else if e.before (s.tu t).start then (if s.rb (Off.tiuCfg t) 30 then (y.tiuEarly t e).tiuFired t (s.tu t).start else y)
    else y.tiuStopped t e := by
  rw [← tiuTimed_same s t e]
  refine (if_neg (not_rest runs armed)).trans (if_neg ?_)
  rw [started]
  decide
end
end

/-- A stop edge before the start joins the latest ones. -/
theorem tiuEarly_eq (s : State) (t : Nat) (e : TiuTime) : (s.tiuTimed t e).tiuEarly t e =
    let y := s.tiuTimed t e
    let signed := s.rb (Off.tiuCfg t) 30
    let z := if signed then y.tiuFastIn t (y.tooFast t true (s.tu t).lastB e) else y
    z.setTu t { z.tu t with latest := (e.into (z.tu t).latest).take 2, lastB := if signed then some e else (z.tu t).lastB } := by
  unfold State.tiuEarly
  simp only [tiuTimed_rb, tiuTimed_lastB]

/-! ### The start that has fired, and the stop after it -/

section
variable {l : TiuTime} (last : s.tiuLatest t e = some l)
include last

theorem tiuFired_of_same (bin : l.spot = e.spot) :
    s.tiuFired t e = if s.rb (Off.tiuCfg t) 30 then s.tiuShot t l.tclk 0 true else s.tiuStopped t l := by
  simp only [State.tiuFired, last, if_pos bin]

theorem tiuFired_of_apart (bin : l.spot ≠ e.spot) : s.tiuFired t e =
    if s.rb (Off.tiuCfg t) 30 = true ∧
        s.edgeFs t false e - s.edgeFs t true l ≤ (s.rf (Off.tiuWin t) 0 16 : Int) * 312500 then
      s.tiuShot t l.tclk (s.edgeFs t true l - s.edgeFs t false e) false else s := by
  simp only [State.tiuFired, last, if_neg bin, ite_and]
end

theorem tiuStopped_of_prescaled (more : (s.tu t).preB + 1 < prescOf (s.rf (Off.tiuCfg t) 24 3)) :
    s.tiuStopped t e = s.setTu t { s.tu t with preB := (s.tu t).preB + 1 } := if_pos more

theorem tiuStopped_of_edge (ends : prescOf (s.rf (Off.tiuCfg t) 24 3) ≤ (s.tu t).preB + 1) :
    let z := s.tiuFastIn t (s.tooFast t true (s.tu t).lastB e)
    let u := z.setTu t { z.tu t with preB := 0, lastB := some e, stops := (s.tu t).stops + 1 }
    let x := u.edgeFs t true e - u.edgeFs t false (s.tu t).start
    s.tiuStopped t e = if (s.tu t).start.tclk + 2 ^ 40 ≤ e.tclk then u.tiuFinish t .ovr
      else if (s.tu t).stops + 1 ≤ u.rf (Off.tiuCfg t) 0 16 then u
      else if 0 < x then u.tiuShot t e.tclk x false else u.tiuShot t e.tclk 0 true := by
  unfold State.tiuStopped
  rw [if_neg (Nat.not_lt.mpr ends)]

/-! ### The code-density test -/

section
variable {hits : List Nat} (tests : s.tiuState t = 3)
include tests

theorem tiuCalEnd_eq :
    let ws := (List.range 256).map fun b => min 65535 ((hits.getD b 0 * 312500 + 2 ^ 19) / 2 ^ 20)
    let used := (ws.filter (0 < ·)).length
    let top := ws.foldl max 0
    let c := Off.tiuCalstat t
    let u := (s.setRf (Off.tiuStat t) 30 2 0).change c fun w =>
      setFld (setFld (setFlag (setFlag w 31 false) 30 true) 16 9 used) 0 16 top
    s.tiuCalEnd t hits = if 160 ≤ used ∧ top ≤ 4000 then
        u.setTu t { u.tu t with cd := some ((ws.zipIdx.filter fun e => 0 < e.1).map fun e => (e.2, e.1)) }
      else (u.setRb c 29 true).noticeAt c := by
  unfold State.tiuCalEnd hitWidth
  rw [if_neg (fun other => other tests)]
  rfl
end

end Sys2Proof.Machine

namespace Sys2Proof

open Machine

/-- Settles O48: the writes, the edges on both paths, the shots, and the code-density test. -/
theorem timeIntervals : Obligations.TimeIntervals := by
  refine ⟨fun p t v s takes => ?_, fun p t k v s => ?_, fun t tclk e s => ?_, fun t e s => ?_, fun t s => ?_,
    fun p t v s takes => ?_, fun t hits s => ?_⟩
  · intro u reject i mem
    have stored : exec i s = .next (u.tiuCmd p t v) := by
      fin_cases mem
      · exact congrArg Host.Outcome.next (gateWrite_of_accepts takes (found_tiuCmd t t.isLt))
      · exact congrArg Host.Outcome.next (gateWrite_of_accepts takes (found_tiuCmd t t.isLt))
    rw [stored]
    rfl
  · intro off keep takes u
    have place : tiuCfgOff t k = off := tiuCfgOff_eq k.isLt
    rw [← place] at takes
    have stored : exec (.tiuConfigWrite p t k v) s = .next ((s.took p .pf0 (tiuCfgOff t k)).tiuConfig t k v) :=
      congrArg Host.Outcome.next (gateWrite_of_accepts takes (found_tiuCfgOff t.isLt))
    rw [stored, place]
    by_cases idle : u.tiuState t = 0
    · rw [if_pos idle]
      exact congrArg Host.Outcome.next (tiuConfig_of_idle idle k.isLt)
    · rw [if_neg idle]
      exact congrArg Host.Outcome.next (if_pos idle)
  · refine ⟨fun is => ?_, fun is => ?_, fun no => ?_, fun no => ?_⟩
    · exact congrArg Host.Outcome.next (if_pos is)
    · exact congrArg Host.Outcome.next (if_pos is)
    · exact congrArg Host.Outcome.next (if_neg (ne_true_of_eq_false no))
    · exact congrArg Host.Outcome.next (if_neg (ne_true_of_eq_false no))
  · intro q presc signed y near seen
    refine ⟨fun rest => ⟨tiuStart_of_rest rest, tiuStop_of_rest rest⟩, fun runs armed => ⟨?_, ?_, ?_, ?_, ?_, ?_⟩, ?_, ?_, ?_, ?_⟩
    · exact fun more => tiuStart_of_prescaled runs armed more
    · intro ends z v u
      have edge := tiuStart_of_edge (e := e) runs armed ends
      exact ⟨fun started => edge.trans (if_pos started), fun fresh => edge.trans (if_neg (ne_true_of_eq_false fresh))⟩
    · intro fresh z
      exact (tiuStop_of_before runs armed fresh).trans (tiuEarly_eq s t e)
    · exact fun started bin => (tiuStop_of_started runs armed started).trans (if_pos bin)
    · intro started bin later
      exact (tiuStop_of_started runs armed started).trans ((if_neg bin).trans (if_neg (ne_true_of_eq_false later)))
    · intro started bin early plain
      exact (tiuStop_of_started runs armed started).trans ((if_neg bin).trans ((if_pos early).trans
        (if_neg (ne_true_of_eq_false plain))))
    · intro last gap win
      refine ⟨fun none_ => ?_, fun l some_ bin => tiuFired_of_same some_ bin, fun l some_ bin out => ?_, fun l some_ bin on within => ?_⟩
      · unfold State.tiuFired
        rw [show s.tiuLatest t e = none from none_]
      · refine (tiuFired_of_apart some_ bin).trans (if_neg ?_)
        rintro ⟨on, within⟩
        rcases out with off | far
        · exact Bool.false_ne_true (off.symm.trans on)
        · exact absurd within (not_le.mpr far)
      · exact (tiuFired_of_apart some_ bin).trans (if_pos ⟨on, within⟩)
    · exact fun more => tiuStopped_of_prescaled more
    · intro ends z u x
      have edge := tiuStopped_of_edge (e := e) ends
      refine ⟨fun far => ?_, fun near_ more => ?_, fun near_ last pos => ?_, fun near_ last neg => ?_⟩
      · exact edge.trans (if_pos far)
      · exact edge.trans ((if_neg (Nat.not_le.mpr near_)).trans (if_pos more))
      · exact edge.trans ((if_neg (Nat.not_le.mpr near_)).trans ((if_neg (Nat.not_le.mpr last)).trans (if_pos pos)))
      · exact edge.trans ((if_neg (Nat.not_le.mpr near_)).trans ((if_neg (Nat.not_le.mpr last)).trans (if_neg (not_lt.mpr neg))))
    · exact fun x under last => if_pos last
  · intro q
    refine ⟨congrArg Host.Outcome.next (if_congr ?_ rfl rfl), rfl⟩
    rw [Bool.not_eq_true']
  · intro u
    have stored : exec (.tiuCalGo p t v) s = .next ((s.took p .pf0 (Off.tiuCalctl t)).tiuCalctl t v) :=
      congrArg Host.Outcome.next (gateWrite_of_accepts takes (found_tiuCalctl t t.isLt))
    rw [stored]
    refine congrArg Host.Outcome.next ?_
    by_cases go : flag v 0 = true
    · rw [if_neg (ne_false_of_eq_true go)]
      exact if_pos go
    · rw [if_pos (Bool.eq_false_of_not_eq_true go)]
      exact if_neg go
  · intro ws used top c z u
    refine ⟨fun other => congrArg Host.Outcome.next (if_pos other), fun tests enough low => ?_, fun tests bad => ?_⟩
    · exact congrArg Host.Outcome.next ((tiuCalEnd_eq tests).trans (if_pos ⟨enough, low⟩))
    · refine congrArg Host.Outcome.next ((tiuCalEnd_eq tests).trans (if_neg ?_))
      rintro ⟨enough, low⟩
      rcases bad with few | wide
      · exact absurd enough (Nat.not_le.mpr few)
      · exact absurd low (Nat.not_le.mpr wide)

end Sys2Proof
end

section
/-!
SUPPORT. Waveform engines and multi-part alignment.
-/
namespace Sys2Proof.Machine

variable {s : State} {w : Nat}

/-! ### Registers of an engine -/

theorem weConfig_of_idle {k : Nat} {v : Word} (idle : s.weState w = 0) (small : k < 5) : s.weConfig w k v =
    s.setRg ([Off.weCfg w, Off.weTgt w, Off.weChmask w, Off.weRate w, Off.weStep w].getD k 0)
      (v &&& [0xFC7FFFFF, 0x8000000F, 0xFFFFFFFF, 0xFFFFF, 0xFFFFFFFF].getD k 0) := by
  have all_ : v &&& 0xFFFFFFFF = v := BitVec.and_allOnes
  refine (if_neg (by omega)).trans ((if_neg (fun busy => busy idle)).trans ?_)
  interval_cases k
  · rfl
  · rfl
  · exact congrArg (s.setRg (Off.weChmask w)) all_.symm
  · rfl
  · exact congrArg (s.setRg (Off.weStep w)) all_.symm

theorem weConfig_of_busy {k : Nat} {v : Word} (busy : s.weState w ≠ 0) (small : k < 5) :
    s.weConfig w k v = s.setRb (Off.weStat w) 23 true :=
  (if_neg (by omega)).trans (if_pos busy)

theorem weOff_eq {k : Nat} (small : k < 5) :
    Off.weCfg w + 4 * k = [Off.weCfg w, Off.weTgt w, Off.weChmask w, Off.weRate w, Off.weStep w].getD k 0 := by
  interval_cases k
  · rfl
  · show Off.weCfg w + 4 = Off.weTgt w
    unfold Off.weCfg Off.weTgt
    omega
  · show Off.weCfg w + 8 = Off.weChmask w
    unfold Off.weCfg Off.weChmask
    omega
  · show Off.weCfg w + 12 = Off.weRate w
    unfold Off.weCfg Off.weRate
    omega
  · show Off.weCfg w + 16 = Off.weStep w
    unfold Off.weCfg Off.weStep
    omega

theorem found_weOff {k : Nat} (engine : w < 16) (small : k < 5) :
    (findReg pf0Rows ([Off.weCfg w, Off.weTgt w, Off.weChmask w, Off.weRate w, Off.weStep w].getD k 0)).isSome = true := by
  interval_cases k
  · exact found_weCfg w engine
  · exact found_weTgt w engine
  · exact found_weChmask w engine
  · exact found_weRate w engine
  · exact found_weStep w engine

/-- WE_CTL, by its two bits. -/
theorem weCtl_eq (s : State) (w : Nat) (v : Word) :
    let reject (z : State) : State := (z.setRb (Off.weStat w) 28 true).noticeAt (Off.weStat w)
    let stopped := if s.weState w = 0 then s else s.setWv w { s.wv w with stop := true }
    let armed := (s.setRf (Off.weStat w) 30 2 1).setRf (Off.weStat w) 16 3 (s.rf (Off.weCfg w) 20 3)
    s.weCtl w v = if flag v 1 then (if flag v 0 then reject stopped else stopped)
      else if flag v 0 = false then s
      else if s.weGoOk w then armed.setWv w { s.wv w with
        phase := 0x1000000, idx := 0, play := 0, potRow := [], memRow := none, hist := [], jump := false, stop := false, out := 0
        start := if s.rf (Off.weCfg w) 27 2 = 0 then some s.now else none }
      else reject s := by
  intro reject stopped armed
  have trig : armed.rf (Off.weCfg w) 27 2 = s.rf (Off.weCfg w) 27 2 := by
    have apart : Off.weCfg w ≠ Off.weStat w := by
      unfold Off.weCfg Off.weStat
      omega
    rw [State.rf, State.rg_setRf_ne _ _ _ _ _ _ apart, State.rg_setRf_ne _ _ _ _ _ _ apart]
    rfl
  unfold State.weCtl
  by_cases stops : flag v 1 = true
  · rw [if_pos stops, if_pos stops]
    rfl
  · rw [if_neg stops, if_neg stops]
    by_cases go : flag v 0 = true
    · rw [if_pos go, if_neg (ne_false_of_eq_true go), ← trig]
      rfl
    · rw [if_neg go, if_pos (Bool.eq_false_of_not_eq_true go)]

/-! ### Updates -/

section
variable {rows : List Ecc}

theorem weUpdate_of_early (early : s.weState w < 2 ∨ s.now < (s.wv w).nextAt) : s.weUpdate w rows = s := if_pos early

section
variable (plays : 2 ≤ s.weState w) (due : (s.wv w).nextAt ≤ s.now)
include plays due

theorem not_early : ¬ (s.weState w < 2 ∨ s.now < (s.wv w).nextAt) :=
  not_or.mpr ⟨Nat.not_lt.mpr plays, Nat.not_lt.mpr due⟩

theorem weUpdate_of_stop (stop : (s.wv w).stop = true) : s.weUpdate w rows = s.weEnd w (s.rb (Off.weCfg w) 30) :=
  (if_neg (not_early plays due)).trans (if_pos stop)

variable (goes : (s.wv w).stop = false)
include goes

theorem weUpdate_of_stalled (stalled : s.weState w = 3) : s.weUpdate w rows = s.setWv w { s.wv w with
    nextAt := (s.wv w).nextAt + s.rf (Off.weRate w) 0 20 } :=
  (if_neg (not_early plays due)).trans ((if_neg (ne_true_of_eq_false goes)).trans (if_pos stalled))

/-- An update whose phase asks for no stored sample repeats the last one. -/
theorem weUpdate_of_phase {x : BitVec 18} (playing : s.weState w = 2) (phase : (s.wv w).phase < 0x1000000)
    (plain : s.rb (Off.weCfg w) 31 = false) (last : (s.wv w).hist.head? = some x) :
    let u := s.setWv w { s.wv w with nextAt := (s.wv w).nextAt + s.rf (Off.weRate w) 0 20 }
    s.weUpdate w rows = State.weWrite (u.setWv w { u.wv w with
      out := x, phase := (s.wv w).phase + (s.rg (Off.weStep w)).toNat }) w x.toInt := by
  intro u
  have now_ : (u.wv w).phase = (s.wv w).phase := by rw [State.wv_setWv_same]
  have kept : (u.wv w).hist = (s.wv w).hist := by rw [State.wv_setWv_same]
  have step_ : u.rg (Off.weStep w) = s.rg (Off.weStep w) := State.setWv_acc_rg ..
  have none_ : u.weAdvance w rows ((s.wv w).phase / 0x1000000 + 1) = (u, .sample) := by
    unfold State.weAdvance
    exact if_pos (now_ ▸ phase)
  have sample : u.weSample w = x := by
    unfold State.weSample
    rw [if_neg (by rw [show u.rb (Off.weCfg w) 31 = s.rb (Off.weCfg w) 31 from rfl, plain]; decide), kept, last]
    rfl
  refine (if_neg (not_early plays due)).trans ((if_neg (ne_true_of_eq_false goes)).trans ((if_neg (by omega)).trans ?_))
  rw [none_]
  dsimp only
  rw [sample, now_, step_]
end
end

/-! ### A missing sample -/

/-- The sample at a place is there: in the pot's row in progress or ring, or in vector memory. -/
theorem weHere_iff (p : WePlace) : s.weHere w p (!s.vmWait) = true ↔
    let k := s.rf (Off.weSega w p.seg) 0 6
    if s.rb (Off.weSegb w p.seg) 31 = true
    then (Tbl.find (s.wv w).potRow k).isSome = true ∨ (0 < s.potLevel k ∧ s.vmWait = false)
    else s.vmWait = false ∨ (p.idx % 2 = 1 ∧ ∃ x y, (s.wv w).memRow = some (s.weRow w p, x, y)) := by
  unfold State.weHere State.wePot
  by_cases pot : s.rb (Off.weSegb w p.seg) 31 = true
  · rw [if_pos pot, if_pos pot]
    simp only [Bool.or_eq_true, Bool.and_eq_true, decide_eq_true_eq, Bool.not_eq_true']
  · rw [if_neg pot, if_neg pot]
    simp only [Bool.or_eq_true, Bool.not_eq_true']
    refine or_congr_right ?_
    match (s.wv w).memRow with
    | none => simp
    | some (r, x, y) => simp [and_comm]

theorem exec_weSampleArrive {w : Fin 16} : exec (.weSampleArrive w) s = .next (
    if s.weState w = 3 ∧ ∀ p, s.wePlace w = some p →
      let k := s.rf (Off.weSega w p.seg) 0 6
      if s.rb (Off.weSegb w p.seg) 31 = true
      then (Tbl.find (s.wv w).potRow k).isSome = true ∨ (0 < s.potLevel k ∧ s.vmWait = false)
      else s.vmWait = false ∨ (p.idx % 2 = 1 ∧ ∃ x y, (s.wv w).memRow = some (s.weRow w p, x, y))
    then s.setRf (Off.weStat w) 30 2 2 else s) := by
  have here : ((s.wePlace w).all fun p => s.weHere w p (!s.vmWait)) = true ↔
      ∀ p, s.wePlace w = some p → s.weHere w p (!s.vmWait) = true := by
    cases s.wePlace w with
    | none => simp
    | some p => simp
  refine congrArg Host.Outcome.next (if_congr (and_congr_right fun _ => here.trans ?_) rfl rfl)
  exact forall_congr' fun p => imp_congr_right fun _ => weHere_iff p

/-! ### Alignment -/

/-- The instant of a pulse: 64 TCLK later, one off where its phase is unwrapped. -/
theorem syncInstant_eq (e : Nat) (a : Int) :
    let shift := unwrapPhase (2 * (s.rf Off.skStat 0 9 : Nat)) a - a
    s.syncInstant e a = if 0 < shift then e + 63 else if shift < 0 then e + 65 else e + 64 := by
  intro shift
  unfold State.syncInstant
  dsimp only
  rcases lt_trichotomy (unwrapPhase (2 * (s.rf Off.skStat 0 9 : Nat)) a) a with less | same | more
  · rw [if_pos less, if_neg (by omega), if_neg (by omega), if_pos (by omega)]
    rfl
  · rw [if_neg (by omega), if_neg (by omega), if_neg (by omega), if_neg (by omega)]
    rfl
  · rw [if_neg (by omega), if_pos more, if_pos (by omega)]
    omega

theorem syncNear_iff (e : Nat) (a : Int) :
    s.syncNear e a = true ↔ ∃ t, s.sync.lastAt = some t ∧ (e < t + 64 ∨ (e = t + 64 ∧ a = 0)) := by
  unfold State.syncNear
  cases s.sync.lastAt with
  | none => simp
  | some t => simp

/-- A pulse that is armed for, and not near the last instant. -/
theorem syncPulse_of_armed {e : Nat} {a : Int} (armed : s.rb Off.syncStat 30 = true) (far : ¬ s.syncNear e a = true) :
    s.syncPulse e a = if s.rb Off.syncCfg 30 = true
      then State.syncMeasure { s with sync := { s.sync with lastAt := some (e + 64) } } a
      else State.syncRephase { s with sync := { s.sync with lastAt := some (s.syncInstant e a) } } (s.syncInstant e a) := by
  refine if_neg ?_
  rw [State.syncArmed, armed, Bool.eq_false_of_not_eq_true far]
  decide

end Sys2Proof.Machine

namespace Sys2Proof

open Machine

/-- Settles O49: WE_CTL and the other registers, starts, updates and missing samples, then SYNC_CMD and SYNC_IN. -/
theorem waveAndSync : Obligations.WaveAndSync := by
  refine ⟨fun p w v s takes => ?_, fun p w k v s => ?_, fun w s => ?_, fun p v s takes => ?_, fun k a s => ?_⟩
  · intro u reject stopped armed i mem
    have stored : exec i s = .next (u.weCtl w v) := by
      fin_cases mem
      · exact congrArg Host.Outcome.next (gateWrite_of_accepts takes (found_weCtl w w.isLt))
      · exact congrArg Host.Outcome.next (gateWrite_of_accepts takes (found_weCtl w w.isLt))
    rw [stored, weCtl_eq]
  · intro off keep takes u
    have place : Off.weCfg w + 4 * k.val = off := weOff_eq k.isLt
    have found : (findReg pf0Rows (Off.weCfg w + 4 * k.val)).isSome = true := place ▸ found_weOff w.isLt k.isLt
    rw [← place] at takes
    have stored : exec (.weConfigWrite p w ⟨k.val, by omega⟩ v) s = .next ((s.took p .pf0 (Off.weCfg w + 4 * k.val)).weConfig w k v) := by
      refine congrArg Host.Outcome.next ((gateWrite_of_accepts takes found).trans (if_neg fun is => ?_))
      have five := congrArg Fin.val is
      have low := k.isLt
      exact absurd five (Nat.ne_of_lt low)
    rw [stored, place]
    by_cases idle : u.weState w = 0
    · rw [if_pos idle]
      exact congrArg Host.Outcome.next (weConfig_of_idle idle k.isLt)
    · rw [if_neg idle]
      exact congrArg Host.Outcome.next (weConfig_of_busy idle k.isLt)
  · refine ⟨fun t start armed => ?_, fun rests => ?_, fun rows early => ?_, fun rows plays due stop => ?_,
      fun rows stalled due goes => ?_, fun rows t playing due goes phase plain last => ?_, ?_⟩
    · show Host.Outcome.next _ = _
      simp only [start, if_pos armed]
      rfl
    · show Host.Outcome.next _ = _
      cases start : (s.wv w).start with
      | none => rfl
      | some t =>
        have other : s.weState w ≠ 1 := rests.resolve_left (by rw [start]; exact Option.some_ne_none t)
        exact congrArg Host.Outcome.next (if_neg other)
    · exact congrArg Host.Outcome.next (weUpdate_of_early early)
    · exact congrArg Host.Outcome.next (weUpdate_of_stop plays due stop)
    · exact congrArg Host.Outcome.next (weUpdate_of_stalled (by omega) due goes stalled)
    · exact congrArg Host.Outcome.next (weUpdate_of_phase (by omega) due goes playing phase plain last)
    · intro here
      rw [exec_weSampleArrive]
      exact ⟨fun stalled yes => congrArg Host.Outcome.next (if_pos ⟨stalled, yes⟩),
        fun no => congrArg Host.Outcome.next (if_neg (not_and_or.mpr no))⟩
  · intro u sent left i mem
    have stored : exec i s = .next (u.syncCmdWrite v) := by
      fin_cases mem
      · exact congrArg Host.Outcome.next (gateWrite_of_accepts takes found_syncCmd)
      · exact congrArg Host.Outcome.next (gateWrite_of_accepts takes found_syncCmd)
    rw [stored]
    have sends : (if flag v 1 then u.syncSend else u) = sent := by
      by_cases on : flag v 1 = true
      · rw [if_pos on, show sent = u.syncSend from if_neg (ne_false_of_eq_true on)]
      · rw [if_neg on, show sent = u from if_pos (Bool.eq_false_of_not_eq_true on)]
    rw [show u.syncCmdWrite v = (if flag v 0 then (if flag v 1 then u.syncSend else u).syncArm
      else (if flag v 1 then u.syncSend else u)) from rfl, sends]
    refine congrArg Host.Outcome.next ?_
    by_cases arms : flag v 0 = true
    · rw [if_pos arms]
      refine if_congr ?_ rfl rfl
      exact (or_iff_right (ne_false_of_eq_true arms)).symm
    · rw [if_neg arms, if_pos (.inl (Bool.eq_false_of_not_eq_true arms))]
  · intro e i near shift at_ t
    have low := a.isLt
    have cycle : (625 * k.val + a.val) / 625 = k.val := by omega
    have rest : (625 * k.val + a.val) % 625 = a.val := by omega
    have given : exec i s = .next (s.syncPulse e (a.val : Int)) := by
      show Host.Outcome.next (s.syncPulse (4 * s.now + (625 * k.val + a.val) / 625) (((625 * k.val + a.val) % 625 : Nat) : Int)) = _
      rw [cycle, rest]
    have close : s.syncNear e (a.val : Int) = true ↔ near := (syncNear_iff e a.val).trans (by
      refine exists_congr fun t => and_congr_right fun _ => or_congr_right (and_congr_right fun _ => ?_)
      exact Int.natCast_eq_zero)
    have instant : s.syncInstant e (a.val : Int) = at_ := syncInstant_eq e a.val
    rw [given]
    refine ⟨fun refused => ?_, fun armed far measures => ?_, fun armed far rephases quiet => ?_, fun armed far rephases busy => ?_⟩
    · refine congrArg Host.Outcome.next (if_pos ?_)
      rw [Bool.or_eq_true, close, State.syncArmed, Bool.not_eq_true']
      exact refused
    · exact congrArg Host.Outcome.next ((syncPulse_of_armed armed (mt close.mp far)).trans (if_pos measures))
    · refine congrArg Host.Outcome.next ((syncPulse_of_armed armed (mt close.mp far)).trans ((if_neg (ne_true_of_eq_false rephases)).trans ?_))
      rw [instant]
      exact if_pos quiet
    · refine congrArg Host.Outcome.next ((syncPulse_of_armed armed (mt close.mp far)).trans ((if_neg (ne_true_of_eq_false rephases)).trans ?_))
      rw [instant]
      exact if_neg (ne_true_of_eq_false busy)

end Sys2Proof
end

section
/-!
SUPPORT. Rails: their codes, the six states, a conversion, and stuck enables.
-/
namespace Sys2Proof.Machine

variable {s : State} {r : Nat}

/-! ### Codes -/

/-- The nearest valid code of a written one, as the register holds it. -/
theorem clampCode_toNat (c : Int) : (BitVec.ofNat 32 (clampI 0 96000 c).toNat).toNat = (clampI 0 96000 c).toNat := by
  have low : (clampI 0 96000 c).toNat ≤ 96000 := by
    unfold clampI
    omega
  rw [BitVec.toNat_ofNat, Nat.mod_eq_of_lt (by omega)]

/-- A signed code of 18 bits in a register. -/
theorem ofNat_unsigned (v : Int) : BitVec.ofNat 32 (unsigned 18 v) = (BitVec.ofInt 18 v).setWidth 32 := by
  refine BitVec.eq_of_toNat_eq ?_
  rw [BitVec.toNat_ofNat, BitVec.toNat_setWidth, BitVec.toNat_ofInt]
  rfl

theorem railVset_eq (s : State) (r : Nat) (v : Word) :
    let c := signed 18 (fld v 0 18)
    let d := clampI 0 96000 c
    let t := if d = c then s else s.setRb (Off.railStat r) 19 true
    let z := t.setRg (Off.railVset r) (BitVec.ofNat 32 d.toNat)
    s.railVset r v = if t.rf (Off.railVmax r) 0 18 < d.toNat then t.railReject r
      else if (z.railState r = 2 ∨ z.railState r = 3) ∧ (z.rl r).target ≠ d.toNat then z.railAim r else z := by
  intro c d t z
  have code : (BitVec.ofNat 32 d.toNat).toNat = d.toNat := clampCode_toNat c
  rw [← code]
  unfold State.railVset
  rfl

theorem railVmax_eq (s : State) (r : Nat) (v : Word) :
    let c := signed 18 (fld v 0 18)
    let d := clampI 0 96000 c
    let t := if d = c then s else s.setRb (Off.railStat r) 19 true
    s.railVmax r v = if d.toNat < t.rf (Off.railVset r) 0 18 then t.railReject r
      else t.setRg (Off.railVmax r) (BitVec.ofNat 32 d.toNat) := by
  intro c d t
  have code : (BitVec.ofNat 32 d.toNat).toNat = d.toNat := clampCode_toNat c
  unfold State.railVmax
  exact if_congr (iff_of_eq (congrArg (· < t.rf (Off.railVset r) 0 18) code)) rfl rfl

/-! ### A conversion -/

theorem railMeas_eq (s : State) (r : Nat) (v i : Int) :
    let vc := clampI 0 96000 (s.railVCode r v)
    let ic := clampI (-131072) 131071 (s.railICode r i)
    let t := (s.setRg (Off.railV r) ((BitVec.ofInt 18 vc).setWidth 32)).setRg (Off.railI r) ((BitVec.ofInt 18 ic).setWidth 32)
    let lim := t.railLive r && decide (t.rf (Off.railIlim r) 0 18 ≤ ic.natAbs)
    let high := t.railLive r && decide ((t.rf (Off.railVmax r) 0 18 : Int) < vc)
    let since (b : Bool) (x : Option Nat) : Option Nat := if b then some (x.getD s.now) else none
    let u := (t.setRl r { t.rl r with
      ilimAt := since lim (t.rl r).ilimAt
      ovNow := high
      ocDone := lim && (t.rl r).ocDone
      tolAt := since (decide (t.railState r = 2) && t.railInTol r) (t.rl r).tolAt
      lowAt := if t.railState r = 0 then (t.rl r).lowAt
        else since (decide (t.railState r = 5) && t.railLow r) (t.rl r).lowAt }).setRb (Off.railStat r) 25 lim
    let z := if high = true ∧ (t.rl r).ovNow = false then u.railFault r 1 else u
    s.railMeas r v i = if z.railState r = 4 ∧ z.railAcc r = 0 ∧ signed 18 (z.rf (Off.railV r) 0 18) < 3200
      then (z.railDisch r).railMoved r else z := by
  intro vc ic t lim high since u z
  have trips : (if (high && !(t.rl r).ovNow) = true then u.railFault r 1 else u) = z :=
    if_congr (by rw [Bool.and_eq_true, Bool.not_eq_true']) rfl rfl
  rw [← trips]
  simp only [State.railMeas, ofNat_unsigned]
  rfl

/-- A current limit that lasts trips once. -/
theorem exec_railOcTrip {r : Rail} {t : Nat} (lim : (s.rl r).ilimAt = some t) : exec (.railOcTrip r) s = .next (
    if t + s.rf (Off.railTime r) 0 16 ≤ s.now ∧ (s.rl r).ocDone = false
    then (s.setRl r { s.rl r with ocDone := true }).railFault r 2 else s) := by
  show Host.Outcome.next _ = _
  simp only [lim, Bool.not_eq_true']

/-! ### Stuck enables -/

section
variable {e : Enable} {t : Nat} (low : s.lowSince e = some t)
include low

theorem exec_stuckEnable : exec (.stuckEnable e) s = .next (
    if t + 1600 ≤ s.now then
      ((s.unwatch e).setRb (stuckWhere e).2.1 (stuckWhere e).2.2 true).enterF5
        { cls := 5, src := (stuckWhere e).1, cause := 1, off := if byWarden e then Off.wdF5 else (stuckWhere e).2.1
          site := ((s.unwatch e).setRb (stuckWhere e).2.1 (stuckWhere e).2.2 true).enableSite e, wd := byWarden e } 1
    else s) := by
  show Host.Outcome.next _ = _
  simp only [low]
end

end Sys2Proof.Machine

namespace Sys2Proof

open Machine

/-- Settles O50: the rail registers, the six states, a conversion, and stuck enables. -/
theorem rails : Obligations.Rails := by
  refine ⟨fun p r v s => ?_, fun r s => ?_, fun r v i s => ?_, fun e t s low => ?_⟩
  · intro c d w reject
    refine ⟨fun takes => ?_, fun takes => ?_, fun takes => ?_⟩
    · intro u t z
      have stored : exec (.railVsetWrite p r v) s = .next (u.railVset r v) :=
        congrArg Host.Outcome.next (gateWrite_of_accepts takes (found_railVset r r.isLt))
      rw [stored, railVset_eq]
      rfl
    · intro u t
      have stored : exec (.railVmaxWrite p r v) s = .next (u.railVmax r v) :=
        congrArg Host.Outcome.next (gateWrite_of_accepts takes (found_railVmax r r.isLt))
      rw [stored, railVmax_eq]
      rfl
    · intro u
      exact congrArg Host.Outcome.next (gateWrite_of_accepts takes (found_railCfg r r.isLt))
  · intro q st up
    refine ⟨fun en grant => ?_, fun no => ?_, rfl, rfl, fun t tol ramps late => ?_, fun no => ?_, fun t lim => ?_, fun none_ => ?_,
      fun t low disch late => ?_, ?_⟩
    · exact congrArg Host.Outcome.next (if_pos ⟨en, grant⟩)
    · refine congrArg Host.Outcome.next (if_neg ?_)
      rintro ⟨en, grant⟩
      rcases no with other | refused
      · exact other en
      · exact Bool.false_ne_true (refused.symm.trans grant)
    · show Host.Outcome.next _ = _
      simp only [show (s.rl r).tolAt = some t from tol]
      exact congrArg Host.Outcome.next (if_pos ⟨ramps, late⟩)
    · show Host.Outcome.next _ = _
      cases tol : (s.rl r).tolAt with
      | none => rfl
      | some t =>
        have other : st ≠ 2 := no.resolve_left (by rw [show q.tolAt = some t from tol]; exact Option.some_ne_none t)
        exact congrArg Host.Outcome.next (if_neg fun ramps => other ramps.1)
    · exact exec_railOcTrip lim
    · show Host.Outcome.next _ = _
      simp only [show (s.rl r).ilimAt = none from none_]
    · show Host.Outcome.next _ = _
      simp only [show (s.rl r).lowAt = some t from low]
      exact congrArg Host.Outcome.next (if_pos ⟨disch, late⟩)
    · refine congrArg Host.Outcome.next (if_congr ?_ rfl rfl)
      rw [Bool.not_eq_true']
      rfl
  · intro vc ic t lim high since u z
    exact congrArg Host.Outcome.next (railMeas_eq s r v i)
  · refine ⟨fun early => ?_, fun late => ?_⟩
    · exact (exec_stuckEnable low).trans (congrArg Host.Outcome.next (if_neg (Nat.not_le.mpr early)))
    · intro ev
      have cut := (exec_stuckEnable low).trans (congrArg Host.Outcome.next (if_pos late))
      refine ⟨fun r is => ?_, fun r is => ?_, fun q is => ?_, fun q is => ?_⟩
      all_goals subst is
      · exact cut
      · exact cut
      · exact cut
      · exact cut

end Sys2Proof
end

section
/-!
SUPPORT. A refused power request under R373: the marks of its CCLK, in the order in which they come.
-/
namespace Sys2Proof.Machine

/-- Site 0, enabled and touched down, has one rail that is ready; the budget is 0. -/
def budgetSpent : State :=
  { State.reset with
    rst := { State.reset.rst with held := false, ready := true }
    reg := [(Off.admCtl, 0), (Off.railVset 0, 1), (Off.railVmax 0, 1), (Off.railIlim 0, 100), (Off.railCfg 0, 20),
      (Off.tdStat, 0x40000000), (Off.railsite 0, 0x80000000), (Off.siteCtl 0, 0x80000000)] }

/-- The offsets that the marks of a result name. -/
def marked (r : Result) : List Nat :=
  match r with
  | .next s => s.marks.map (·.off)
  | _ => []

/-- The count of ADM_STAT comes before the refusal in SITE_PWR. -/
theorem marked_overBudget : marked (exec (.sitePowerRequest .pf0 0 0x80000000) budgetSpent) =
    [Off.admStat, Off.sitePwr 0, Off.fuStat, Off.fuCnt] := by decide

end Sys2Proof.Machine

namespace Sys2Proof

open Machine

/-- Refutes O51: a request above the budget counts in ADM_STAT before SITE_PWR shows the refusal, where the statement has the
two the other way round; the marks of the CCLK (R4), listed as they come, tell the two states apart. -/
theorem not_sitePowerAndTouchdown : ¬ Obligations.SitePowerAndTouchdown := by
  intro holds
  obtain ⟨site, -⟩ := holds
  obtain ⟨-, -, -, overBudget, -⟩ := site .pf0 0 0x80000000 budgetSpent (by decide) (.sitePowerRequest .pf0 0 0x80000000)
    List.mem_cons_self
  have refused := overBudget (by decide) (by decide) (by decide) (by decide) (by decide)
  have sameMarks := marked_overBudget.symm.trans (congrArg marked refused)
  exact absurd sameMarks (by decide)

end Sys2Proof
end

section
/-!
SUPPORT. A write at an offset of PF1 BAR0 that no register has.
-/
namespace Sys2Proof.Machine

/-- The part right after a cold reset, released and READY. -/
def justReady : State := { State.reset with rst := { State.reset.rst with held := false, ready := true } }

/-- The writes that a result notes in its CCLK. -/
def written (r : Result) : List (Nat × Nat) :=
  match r with
  | .next s => s.wrote
  | _ => []

/-- A write that reaches no register is not noted. -/
theorem written_wardenLimit_odd : written (exec (.wardenLimitWrite .sp 1 0) justReady) = [] := by decide

end Sys2Proof.Machine

namespace Sys2Proof

open Machine

/-- Refutes O52: WARDEN_LIMIT_WRITE by the service port at offset 1, where no register stands. The statement has the write taken
at every offset, and so noted for its CCLK (R33); the part takes none there. -/
theorem not_wardenAndFaultUnit : ¬ Obligations.WardenAndFaultUnit := by
  intro holds
  obtain ⟨⟨-, limits⟩, -⟩ := holds
  obtain ⟨byOffset, -⟩ := limits .sp 0 justReady
  obtain ⟨notPf1, -⟩ := byOffset 1 (by decide)
  have taken := notPf1 (by decide)
  have sameNotes := written_wardenLimit_odd.symm.trans (congrArg written taken)
  exact absurd sameNotes (by decide)

end Sys2Proof
end

section
/-!
SUPPORT. Power monitors and thermal models: the domains of an interval, the thresholds, and the comparison of the two models.
-/
namespace Sys2Proof.Machine

variable {s : State}

/-! ### A power interval -/

/-- Domain `k` shows a power, and the peak of it. -/
def State.domainShown (s : State) (k : Nat) (p : BitVec 16) : State :=
  s.change (Off.pwrDom k) fun w => setFld (setFld w 0 16 p.toNat) 16 16 (max (fld w 16 16) p.toNat)

/-- The first `n` domains show the powers of an interval. -/
def State.domainsShown (s : State) (mw : List (BitVec 16)) (n : Nat) : State :=
  s.each (List.range n) fun k s => s.domainShown k (mw[k]?.getD 0)

theorem domainsShown_succ (s : State) (mw : List (BitVec 16)) (n : Nat) :
    s.domainsShown mw (n + 1) = (s.domainsShown mw n).domainShown n (mw[n]?.getD 0) := by
  unfold State.domainsShown State.each
  rw [List.range_succ, List.foldl_append]
  rfl

theorem domainsShown_keeps {α : Type} (g : State → α) (keeps : ∀ s k p, g (State.domainShown s k p) = g s) (s : State)
    (mw : List (BitVec 16)) (n : Nat) : g (s.domainsShown mw n) = g s :=
  State.each_keeps g (fun k s => keeps s k _) _ s

theorem pwrDom_injective {j k : Nat} (ne : j ≠ k) : Off.pwrDom j ≠ Off.pwrDom k := by
  unfold Off.pwrDom
  omega

theorem rg_domainShown_ne {j k : Nat} (ne : j ≠ k) (p : BitVec 16) :
    (s.domainShown k p).rg (Off.pwrDom j) = s.rg (Off.pwrDom j) :=
  State.rg_setRg_ne _ _ _ _ (pwrDom_injective ne)

theorem rg_domainsShown_above (mw : List (BitVec 16)) {n k : Nat} (above : n ≤ k) :
    (s.domainsShown mw n).rg (Off.pwrDom k) = s.rg (Off.pwrDom k) := by
  induction n with
  | zero => rfl
  | succ n ih =>
    rw [domainsShown_succ, rg_domainShown_ne (by omega), ih (by omega)]

/-- A domain among the first `n` shows its own power. -/
theorem rg_domainsShown_below (mw : List (BitVec 16)) {n k : Nat} (below : k < n) :
    (s.domainsShown mw n).rg (Off.pwrDom k) = (s.domainShown k (mw[k]?.getD 0)).rg (Off.pwrDom k) := by
  induction n with
  | zero => omega
  | succ n ih =>
    rw [domainsShown_succ]
    by_cases last : k = n
    · subst last
      unfold State.domainShown State.change
      simp only [rg_domainsShown_above mw (Nat.le_refl k)]
      exact (State.rg_setRg_same _ _ _).trans (State.rg_setRg_same _ _ _).symm
    · rw [rg_domainShown_ne last, ih (by omega)]

theorem fld_domainShown (k : Nat) (p : BitVec 16) :
    fld ((s.domainShown k p).rg (Off.pwrDom k)) 0 16 = p.toNat ∧
      fld ((s.domainShown k p).rg (Off.pwrDom k)) 16 16 = max (s.rf (Off.pwrDom k) 16 16) p.toNat := by
  have word : (s.domainShown k p).rg (Off.pwrDom k) =
      setFld (setFld (s.rg (Off.pwrDom k)) 0 16 p.toNat) 16 16 (max (fld (s.rg (Off.pwrDom k)) 16 16) p.toNat) :=
    State.rg_setRg_same _ _ _
  have peak : max (fld (s.rg (Off.pwrDom k)) 16 16) p.toNat < 2 ^ 16 :=
    Nat.max_lt.mpr ⟨fld_lt _ _ _, p.isLt⟩
  rw [word, fld_setFld_apart _ _ _ _ _ _ (by omega) (by omega), fld_setFld _ _ _ _ (by omega), fld_setFld _ _ _ _ (by omega),
    Nat.mod_eq_of_lt p.isLt, Nat.mod_eq_of_lt peak]
  exact ⟨rfl, rfl⟩

theorem fresh_rg (o : Nat) : s.fresh.rg o = s.rg o := rfl

/-- The powers of an interval, listed by domain. -/
theorem sum_byDomain (mw : List (BitVec 16)) :
    (List.range mw.length).foldl (fun m k => m + (mw[k]?.getD 0).toNat) 0 = (mw.map (·.toNat)).sum := by
  have listed : mw.map (·.toNat) = (List.range mw.length).map fun k => (mw[k]?.getD 0).toNat := by
    refine List.ext_getElem (by simp) fun k inside _ => ?_
    have inMw : k < mw.length := by simpa using inside
    simp [inMw]
  rw [listed, List.sum_eq_foldl_nat, List.foldl_map]

section
variable {mw : List (BitVec 16)} (full : mw.length = 40)
include full

/-- What an interval leaves: every domain, and a total, which R363 gives while it fits its register. -/
theorem exec_powerInterval : ∃ total : Word, ∃ u : State, (u = s.domainsShown mw 40 ∨ u = (s.domainsShown mw 40).fresh) ∧
    exec (.powerInterval mw) s = .next (u.setRg Off.pwrTotal total) ∧
    ((mw.map (·.toNat)).sum < 2 ^ 16 → total.toNat = (mw.map (·.toNat)).sum) := by
  have shown : ∀ z : State, ∀ k ∈ List.range 40,
      (match mw[k]? with
        | some p => z.change (Off.pwrDom k) fun w => setFld (setFld w 0 16 p.toNat) 16 16 (max (fld w 16 16) p.toNat)
        | none => z) = z.domainShown k (mw[k]?.getD 0) := fun z k inside => by
    have below : k < mw.length := full ▸ List.mem_range.mp inside
    have some_ : mw[k]? = some mw[k] := List.getElem?_eq_getElem below
    rw [some_]
    rfl
  have domains : s.domainsShown mw 40 = _ := (List.foldl_ext _ _ s shown).symm
  have power : ∀ m : Nat, ∀ k ∈ List.range 40,
      m + (s.domainsShown mw 40).rf (Off.pwrDom k) 0 16 = m + (mw[k]?.getD 0).toNat := fun m k inside => by
    rw [State.rf, rg_domainsShown_below mw (List.mem_range.mp inside), (fld_domainShown k _).1]
  have sum : (List.range 40).foldl (fun m k => m + (s.domainsShown mw 40).rf (Off.pwrDom k) 0 16) 0 = (mw.map (·.toNat)).sum := by
    rw [List.foldl_ext _ _ 0 power, ← full, sum_byDomain]
  have meaning : exec (.powerInterval mw) s = .next (if (mw.map (·.toNat)).sum < 65536
      then (s.domainsShown mw 40).setRg Off.pwrTotal (BitVec.ofNat 32 (mw.map (·.toNat)).sum)
      else (s.domainsShown mw 40).fresh.setRg Off.pwrTotal ((Config.powerTotal (s.domainsShown mw 40).freeCtr).setWidth 32)) := by
    rw [← sum, domains]
    rfl
  by_cases fits : (mw.map (·.toNat)).sum < 65536
  · refine ⟨BitVec.ofNat 32 (mw.map (·.toNat)).sum, s.domainsShown mw 40, .inl rfl, ?_, fun _ => ?_⟩
    · rw [meaning, if_pos fits]
    · rw [BitVec.toNat_ofNat, Nat.mod_eq_of_lt (by omega)]
  · refine ⟨(Config.powerTotal (s.domainsShown mw 40).freeCtr).setWidth 32, (s.domainsShown mw 40).fresh, .inr rfl, ?_,
      fun small => absurd small fits⟩
    rw [meaning, if_neg fits]

end

/-! ### Model A -/

theorem hotOff_isSome : s.hotOff.isSome = true ↔ (∃ q < 4, 1920 ≤ s.tgov q) ∨ 1920 ≤ temp (s.rf Off.thmChip 0 16) := by
  unfold State.hotOff
  cases found : (List.range 4).find? fun q => decide (hotA ≤ s.tgov q) with
  | some q =>
    refine iff_of_true rfl (.inl ⟨q, List.mem_range.mp (List.mem_of_find?_eq_some found), ?_⟩)
    have hot := List.find?_some found
    exact of_decide_eq_true hot
  | none =>
    have cool : ¬ ∃ q < 4, 1920 ≤ s.tgov q := by
      rintro ⟨q, inside, hot⟩
      exact List.find?_eq_none.mp found q (List.mem_range.mpr inside) (decide_eq_true hot)
    rw [or_iff_right cool]
    by_cases chip : hotA ≤ temp (s.rf Off.thmChip 0 16)
    · exact iff_of_true (by simp only [if_pos chip, Option.isSome_some]) chip
    · exact iff_of_false (by simp only [if_neg chip, Option.isSome_none, Bool.false_eq_true, not_false_eq_true]) chip

/-- The first number below `n` with a property. -/
theorem find_first {p : Nat → Bool} {q n : Nat} (inside : q < n) (at_ : p q = true) (before : ∀ r < q, p r = false) :
    (List.range n).find? p = some q :=
  List.find?_range_eq_some.mpr ⟨at_, List.mem_range.mpr inside, fun r lt => by rw [before r lt]; rfl⟩

theorem hotOff_of_quad {q : Nat} (inside : q < 4) (hot : 1920 ≤ s.tgov q) (before : ∀ r < q, s.tgov r < 1920) :
    s.hotOff = some (Off.thmTa q) := by
  have first : ((List.range 4).find? fun q => decide (hotA ≤ s.tgov q)) = some q :=
    find_first inside (decide_eq_true hot) fun r lt => decide_eq_false (Int.not_le.mpr (before r lt))
  unfold State.hotOff
  simp only [first]

theorem hotOff_of_chip (cool : ∀ q < 4, s.tgov q < 1920) :
    s.hotOff = if 1920 ≤ temp (s.rf Off.thmChip 0 16) then some Off.thmChip else none := by
  have none_ : ((List.range 4).find? fun q => decide (hotA ≤ s.tgov q)) = none :=
    List.find?_eq_none.mpr fun q inside hot => Int.not_le.mpr (cool q (List.mem_range.mp inside)) (of_decide_eq_true hot)
  unfold State.hotOff
  simp only [none_]
  rfl

section
variable {ta : List (Option (BitVec 16))} {tmem tmax : Option (BitVec 16)}

theorem modelA_of_cool (cool : (s.nodesAStep ta tmem tmax).hotOff = none) : s.modelA ta tmem tmax = s.nodesAStep ta tmem tmax := by
  unfold State.modelA
  simp only [cool]

theorem modelA_of_was (safe : s.safe = true) (was : s.hotOff.isSome = true) : s.modelA ta tmem tmax = s.nodesAStep ta tmem tmax := by
  cases hot : (s.nodesAStep ta tmem tmax).hotOff with
  | none => exact modelA_of_cool hot
  | some off =>
    unfold State.modelA
    simp only [hot, safe, was, Bool.and_self, if_true]

theorem modelA_of_hot {off : Nat} (crosses : ¬ (s.safe = true ∧ s.hotOff.isSome = true))
    (hot : (s.nodesAStep ta tmem tmax).hotOff = some off) : s.modelA ta tmem tmax = (s.nodesAStep ta tmem tmax).enterF4
      { cls := 4, src := 0xB000, cause := 0, off := off, site := none, wd := false } := by
  unfold State.modelA
  simp only [hot, ← Bool.and_eq_true] at crosses ⊢
  exact if_neg crosses

end

/-! ### Model B and the comparison -/

theorem anyDiff_iff : s.anyDiff = true ↔ ∃ q < 4, s.rb (Off.thmQstat q) 31 = true := by
  simp only [State.anyDiff, List.any_eq_true, List.mem_range]

/-- The four comparisons of an update. -/
def State.diffSteps (s : State) : State := (((s.diffStep 0).diffStep 1).diffStep 2).diffStep 3

theorem each_four (f : Nat → State → State) : s.each (List.range 4) f = f 3 (f 2 (f 1 (f 0 s))) := rfl

theorem each_diffStep : (s.each (List.range 4) fun q s => s.diffStep q) = s.diffSteps := each_four _

theorem diffAll_of_calm (calm : ∀ q < 4, ¬ s.diffSteps.rb (Off.thmQstat q) 31 = true) : s.diffAll = s.diffSteps := by
  have none_ : ((List.range 4).find? fun q => s.diffSteps.rb (Off.thmQstat q) 31) = none :=
    List.find?_eq_none.mpr fun q inside => calm q (List.mem_range.mp inside)
  unfold State.diffAll
  simp only [each_diffStep, none_]

theorem diffAll_of_before (before : s.anyDiff = true) : s.diffAll = s.diffSteps := by
  unfold State.diffAll
  simp only [each_diffStep, before, if_true]
  split
  · rfl
  · rfl

theorem diffAll_of_first {q : Nat} (before : s.anyDiff = false)
    (first : ((List.range 4).find? fun q => s.diffSteps.rb (Off.thmQstat q) 31) = some q) : s.diffAll =
      s.diffSteps.f2 { cls := 2, src := 0xB002, cause := 0, off := Off.thmQstat q, site := none, wd := false } true := by
  unfold State.diffAll
  simp only [each_diffStep, first, before, Bool.false_eq_true, if_false]

/-- How many updates in a row have differed, and have agreed. -/
def State.diffNow (s : State) (q : Nat) : Nat × Nat :=
  if 96 < (temp (s.rf (Off.thmTb q) 0 16) - temp (s.rf (Off.thmTa q) 0 16)).natAbs
  then (min 10 ((Tbl.get (0, 0) s.diffRun q).1 + 1), 0) else (0, min 10 ((Tbl.get (0, 0) s.diffRun q).2 + 1))

theorem diffStep_eq (q : Nat) : let u := { s with diffRun := Tbl.set (0, 0) s.diffRun q (s.diffNow q) }
    s.diffStep q = if (s.diffNow q).1 = 10 ∧ s.rb (Off.thmQstat q) 31 = false
      then (u.setRb (Off.thmQstat q) 31 true).count Off.thmStat 0 16 1
      else if (s.diffNow q).2 = 10 ∧ s.rb (Off.thmQstat q) 31 = true then u.setRb (Off.thmQstat q) 31 false else u := by
  intro u
  exact if_congr (and_congr Iff.rfl (by rw [Bool.not_eq_true']; rfl)) rfl rfl

end Sys2Proof.Machine

namespace Sys2Proof

open Machine

/-- Settles O53: a power interval, the two thermal models, and their comparison. -/
theorem temperatures : Obligations.Temperatures := by
  refine ⟨fun mw s full => ?_, fun ta tmem tmax s => ?_, fun tb s => ?_, fun s => ?_, fun q s => ?_⟩
  · obtain ⟨total, u, shown, meaning, sum⟩ := exec_powerInterval (s := s) full
    have words : ∀ o, u.rg o = (s.domainsShown mw 40).rg o := fun o => by
      rcases shown with rfl | rfl
      · rfl
      · exact fresh_rg o
    have keeps {α : Type} (g : State → α) (other : ∀ z k p, g (State.domainShown z k p) = g z) (count : ∀ z, g (State.fresh z) = g z) :
        g u = g s := by
      rcases shown with rfl | rfl
      · exact domainsShown_keeps g other s mw 40
      · exact (count _).trans (domainsShown_keeps g other s mw 40)
    refine ⟨_, meaning, fun k below => ?_, fun fits => ?_, ?_, ?_, ?_, ?_⟩
    · rw [State.rg_setRg_ne _ _ _ _ (by unfold Off.pwrDom Off.pwrTotal; omega), words, rg_domainsShown_below mw below]
      exact fld_domainShown k _
    · rw [State.rg_setRg_same]
      exact sum fits
    · exact keeps (·.fault) (fun _ _ _ => rfl) fun _ => rfl
    · exact keeps (·.seq) (fun _ _ _ => rfl) fun _ => rfl
    · exact keeps (·.mem) (fun _ _ _ => rfl) fun _ => rfl
    · exact keeps (·.ward) (fun _ _ _ => rfl) fun _ => rfl
  · intro mw nodes at_ show_ u ev i late was
    have updated : s.nodesAStep ta tmem tmax = u := rfl
    have wasHot : was ↔ s.safe = true ∧ s.hotOff.isSome = true := and_congr Iff.rfl hotOff_isSome.symm
    have acts (free : late = false) : exec i s = .next (s.modelA ta tmem tmax) :=
      congrArg Host.Outcome.next (if_neg (ne_true_of_eq_false free))
    refine ⟨fun ticks => ?_, fun free held => ?_, fun q inside free crosses hot before => ?_, fun free crosses cool => ?_⟩
    · exact congrArg Host.Outcome.next (if_pos ticks)
    · obtain ⟨safe, hot⟩ := wasHot.mp held
      rw [acts free, modelA_of_was safe hot, updated]
    · rw [acts free, modelA_of_hot (fun held => crosses (wasHot.mpr held)) (hotOff_of_quad inside hot before), updated]
    · have chip := hotOff_of_chip (s := u) cool
      by_cases hot : 1920 ≤ temp (u.rf Off.thmChip 0 16)
      · rw [if_pos hot] at chip ⊢
        rw [acts free, modelA_of_hot (fun held => crosses (wasHot.mpr held)) chip, updated]
      · rw [if_neg hot] at chip ⊢
        rw [acts free, modelA_of_cool chip, updated]
  · intro nodes show_ v hot
    have updated : (s.modelB tb).diffAll = v := rfl
    show Host.Outcome.next ((s.modelB tb).diffAll.modelBHot s.hotWarden) = _
    rw [updated]
    refine congrArg Host.Outcome.next (if_congr ?_ rfl rfl)
    rw [Bool.and_eq_true, Bool.not_eq_true', ← Bool.not_eq_true, Bool.and_eq_true]
    rfl
  · intro v set
    refine ⟨fun kept => ?_, fun q inside calm rises before => ?_⟩
    · rcases kept with diff | calm
      · exact diffAll_of_before (anyDiff_iff.mpr diff)
      · exact diffAll_of_calm calm
    · refine diffAll_of_first ?_ (find_first inside rises fun r lt => Bool.eq_false_of_not_eq_true (before r lt))
      exact Bool.eq_false_of_not_eq_true fun any => by
        obtain ⟨r, below, diff⟩ := anyDiff_iff.mp any
        exact calm r below diff
  · intro far run now u
    have step : s.diffStep q = _ := diffStep_eq q
    rw [step]
    refine ⟨fun few short => ?_, fun ten clear => ?_, fun ten diff => ?_⟩
    · exact (if_neg fun h => absurd h.1 (Nat.ne_of_lt few)).trans (if_neg fun h => absurd h.1 (Nat.ne_of_lt short))
    · exact if_pos ⟨ten, clear⟩
    · exact (if_neg fun h => Bool.false_ne_true (h.2.symm.trans diff)).trans (if_pos ⟨ten, diff⟩)

end Sys2Proof
end

section
/-!
SUPPORT. Calibration: the table ports, what a save waits for, and the measurements in the background.
-/
namespace Sys2Proof.Machine

variable {s : State} {p : Party}

/-- A read that the gate lets through. -/
theorem gateRead_of_pf0 {cmd : Instr} {act : State → State} (free : s.partyHeld p = false) (first : s.partyBehind p = false)
    (reach : reaches p .pf0 = true) (ready : s.rst.ready = true) : s.gateRead p .pf0 cmd act = act s := by
  have space : ¬ ((.pf0 : Space) = .win ∧ s.coldHeld = true) := fun h => Space.noConfusion h.1
  unfold State.gateRead
  simp only [free, first, reach, ready, Bool.not_true, Bool.false_eq_true, if_false, and_false, if_neg space]

/-! ### Saves -/

section
variable {v : Save}

theorem saveGo_of_none (none_ : s.cal.save = none) : s.saveGo = s := by
  unfold State.saveGo
  simp only [none_]

section
variable (runs : s.cal.save = some v)
include runs

theorem saveGo_of_go (go : 0 < v.left ∧ v.busy = false ∧ s.savePort = true) :
    let z := { s.contEnd with cal := { s.cal with save := some { v with busy := true } } }
    s.saveGo = State.cpBusy { z with cp := { z.cp with
      polls := z.cp.polls ++ [{ dev := 0, what := .save, limit := none, next := s.now + 8000 }] } } := by
  intro z
  obtain ⟨left, free, port⟩ := go
  unfold State.saveGo
  simp only [runs]
  exact if_pos ⟨left, by rw [free]; rfl, port⟩

theorem saveGo_of_wait (waits : ¬ (0 < v.left ∧ v.busy = false ∧ s.savePort = true)) : s.saveGo = s := by
  unfold State.saveGo
  simp only [runs]
  exact if_neg fun h => waits ⟨h.1, (Bool.not_eq_true' _).mp h.2.1, h.2.2⟩

/-- A save whose operations are not all done, or whose port another one holds, does not end. -/
theorem exec_calSaveDone_of_wait {ok : Bool} (waits : 0 < v.left ∨ s.savePort = false) : exec (.calSaveDone ok) s = .next s := by
  show Host.Outcome.next _ = _
  simp only [runs]
  exact congrArg Host.Outcome.next (if_pos (waits.imp_right fun port => by rw [port]; rfl))

theorem exec_calSaveDone_of_end {ok : Bool} (left : v.left = 0) (port : s.savePort = true) :
    let u := State.setRb { s with cal := { s.cal with save := none } } Off.calStat 26 false
    exec (.calSaveDone ok) s = .next (if ok = true
      then ((u.setRf Off.calStat 30 2 (if v.toB then 2 else 1)).setRg Off.calSeq v.seq).setRb Off.calStat 25 true
      else (u.setRb Off.calStat 24 true).noticeAt Off.calStat) := by
  intro u
  have ends : ¬ (0 < v.left ∨ (!s.savePort) = true) := by
    rw [left, port]
    decide
  show Host.Outcome.next _ = _
  simp only [runs]
  exact congrArg Host.Outcome.next (if_neg ends)

end

theorem exec_calSaveDone_of_none {ok : Bool} (none_ : s.cal.save = none) : exec (.calSaveDone ok) s = .next s := by
  show Host.Outcome.next _ = _
  simp only [none_]

end

/-! ### Measurements in the background -/

theorem exec_bgCalDone {c : Cl} {r : Int} {i : Nat} {strobe : Bool} {t : Nat} (runs : (s.cl c).bg = some (i, strobe, t)) :
    let z := s.setCl c { s.cl c with bg := none, bgNext := (2 * i + (if strobe then 1 else 0) + 1) % 64 }
    let u := if z.parkedCh (32 * c.val + i) then z else z.setRb (Off.chStat c i) 30 false
    exec (.bgCalDone c r) s = .next (if t + 400 ≤ s.now then u.bgApply (32 * c.val + i) strobe r else s) := by
  intro z u
  show Host.Outcome.next _ = _
  simp only [runs]
  rfl

end Sys2Proof.Machine

namespace Sys2Proof

open Machine

/-- Settles O54: the table ports, saves, and background measurements. -/
theorem calibrationTables : Obligations.CalibrationTables := by
  refine ⟨fun p s free first reach ready => ?_, fun p v s => ?_, fun s => ?_, fun c i strobe s => ?_,
    fun c r i strobe t s runs => ?_⟩
  · intro next iu if_
    exact ⟨congrArg Host.Outcome.next (gateRead_of_pf0 free first reach ready),
      congrArg Host.Outcome.next (gateRead_of_pf0 free first reach ready)⟩
  · refine ⟨fun takes => ?_, fun open_ takes => ?_, fun safe ready free first reach notSp asks => ?_⟩
    · intro u i w
      exact congrArg Host.Outcome.next (gateWrite_of_accepts takes found_calUdata)
    · intro u
      have stored : exec (.calSave p v) s = .next (u.calSaveWrite v) :=
        congrArg Host.Outcome.next (gateWrite_of_accepts takes found_calSave)
      rw [stored]
      refine congrArg Host.Outcome.next (if_congr (by rw [Bool.not_eq_true']) rfl (if_congr ?_ rfl rfl))
      rw [Option.isNone_iff_eq_none]
    · have shut : exec (.calSave p v) s = .next (if flag v 0 then (s.discarded p).saveReject else s.discarded p) :=
        congrArg Host.Outcome.next (gateWrite_of_safe free first ready reach safe (by decide) found_calSave)
      rw [shut, if_pos asks]
      exact congrArg (fun z : State => Host.Outcome.next z.saveReject) (if_neg notSp)
  · refine ⟨fun ok none_ => exec_calSaveDone_of_none none_, saveGo_of_none, fun v runs => ?_⟩
    intro u go z
    exact ⟨saveGo_of_wait runs, saveGo_of_go runs, fun waits ok => exec_calSaveDone_of_wait runs waits,
      fun left port => ⟨exec_calSaveDone_of_end runs left port, exec_calSaveDone_of_end runs left port⟩⟩
  · intro go
    have asked : (s.rst.ready ∧ s.rb Off.calCtl 31 ∧ (s.cl c).bg.isNone ∧
        s.bgTurn c = some (2 * i.val + if strobe then 1 else 0)) ↔ go := by
      rw [Option.isNone_iff_eq_none]
    exact ⟨fun goes => congrArg Host.Outcome.next (if_pos (asked.mpr goes)),
      fun stays => congrArg Host.Outcome.next (if_neg fun h => stays (asked.mp h))⟩
  · refine ⟨fun early => ?_, fun late => ?_⟩
    · exact (exec_bgCalDone runs).trans (congrArg Host.Outcome.next (if_neg (Nat.not_le.mpr early)))
    · intro n z u v b w y
      exact (exec_bgCalDone runs).trans (congrArg Host.Outcome.next (if_pos late))

end Sys2Proof
end

section
/-!
SUPPORT. Records on offer: how an offer ends, what it leaves on the queues, the four producers, and a move out of the holdover area.
-/
namespace Sys2Proof.Machine

variable {s u : State} {r : Rec} {e : Ecc}

/-! ### A look at a descriptor leaves the part in service or in safe state -/

theorem hist_safe (ev : Ev) (frz : Bool) : (s.hist ev frz).safe = s.safe := by
  unfold State.hist
  extract_lets lost openQ free slot
  split
  · rfl
  clear_value slot
  cases slot with
  | none => rfl
  | some j =>
    dsimp only
    split
    · obtain ⟨q, form⟩ := irq_form (s := { s with fault := _ }) 209
      rw [form]
      rfl
    · obtain ⟨q, form⟩ := pirq_form (s := State.changeWg { s with fault := _ } Off.spIrq fun w => setFlag w 2 true) 0
      rw [form]
      rfl

theorem correctable_safe (src cause off : Nat) : (s.correctable src cause off).safe = s.safe :=
  hist_safe { cls := 1, src := src, cause := cause, off := off, site := none, wd := false } false

theorem corrected_safe (m i : Nat) : (s.corrected m i).safe = s.safe := by
  unfold State.corrected
  extract_lets o t lv lv' t1 thr t2
  have safe1 : t1.safe = s.safe := by simp only [State.safe, t1, t, State.setRf_fault, State.count_fault, State.setRg_fault]
  have safe2 : t2.safe = s.safe := by rw [← safe1, State.safe, State.setRb_fault, State.safe]
  split
  · split
    · exact safe2
    · exact (correctable_safe (s := t2) (0x8000 + m) 1 o).trans safe2
  · exact safe1

theorem descCache_safe : (s.descCache e).safe = s.safe := by
  unfold State.descCache
  extract_lets i
  split
  · rfl
  split
  · exact corrected_safe (s := s) 81 i
  split
  · rfl
  split
  · rfl
  · rfl

/-- What a look at the descriptor of queue `q` leaves, but for the F2 that it may raise. -/
def State.descRead (s : State) (q : Nat) (e : Ecc) : State :=
  if (s.descCache e).lineLive (0xFFC00000 + 4 * q) then s.descCache e else (s.descCache e).count Off.vmNotinit 0 32 1

theorem descRead_safe (q : Nat) : (s.descRead q e).safe = s.safe := by
  unfold State.descRead
  split
  · exact descCache_safe
  · exact descCache_safe

theorem queueUe_of_known {q : Nat} (known : (s.descRead q e).qBad q = true → q ∈ (s.descRead q e).qm.badSeen ∧
    ((s.descRead q e).f2Find (0x7000 + q % 0x1000)).isSome = true) : s.queueUe q e = s.descRead q e := by
  have seen : (s.descCache e).descSeen q = s.descRead q e := rfl
  unfold State.queueUe
  simp only [seen]
  refine if_neg fun raises => ?_
  rw [Bool.and_eq_true, Bool.or_eq_true, Bool.not_eq_true', ← Bool.not_eq_true, List.contains_iff_mem,
    Option.isNone_iff_eq_none] at raises
  obtain ⟨bad, unseen | cleared⟩ := raises
  · exact unseen (known bad).1
  · obtain ⟨-, found⟩ := known bad
    rw [show (s.descRead q e).f2Find (0x7000 + q % 0x1000) = none from cleared] at found
    exact Bool.false_ne_true found

/-! ### How an offer ends -/

section
variable (serves : u.safe = false) (stays : u.siteRefuses r = false) (sound : u.qBad r.qid.toNat = false)
include serves stays sound

theorem fileEnd_of_disabled (off : u.qEn r.qid.toNat = false) : u.fileEnd r = .off := by
  unfold State.fileEnd
  simp only [serves, stays, sound, off, Bool.or_false, Bool.false_eq_true, if_false, Bool.not_false, if_true]

variable (on : u.qEn r.qid.toNat = true)
include on

theorem fileEnd_of_early (early : u.mayPlace r.steep = false ∨
    ((u.qm.hold.any fun x => x.rcd.qid = r.qid) = true ∧ r.closing = true)) :
    u.fileEnd r = if u.holdRoom r.units then u.fileAt (u.holdPlan r.units) else if r.closing then .lost else .waits := by
  have held : (!u.mayPlace r.steep || ((u.qm.hold.any fun x => x.rcd.qid = r.qid) && r.closing)) = true := by
    rw [Bool.or_eq_true, Bool.not_eq_true', Bool.and_eq_true]
    exact early
  unfold State.fileEnd
  simp only [serves, stays, sound, on, held, Bool.or_false, Bool.false_eq_true, if_false, Bool.not_true, if_true]

theorem fileEnd_of_behind (turn : u.mayPlace r.steep = true) (ahead : (u.qm.hold.any fun x => x.rcd.qid = r.qid) = true)
    (open_ : r.closing = false) : u.fileEnd r = .waits := by
  unfold State.fileEnd
  simp only [serves, stays, sound, on, turn, ahead, open_, Bool.or_false, Bool.false_eq_true, if_false, Bool.not_true,
    Bool.and_false, if_true]

theorem fileEnd_of_turn (turn : u.mayPlace r.steep = true) (first : (u.qm.hold.any fun x => x.rcd.qid = r.qid) = false) :
    u.fileEnd r = if u.qRoom r.qid.toNat r.units then u.fileAt (u.ringPlan r.qid.toNat r.units)
      else if u.qDrop r.qid.toNat || r.closing then .lost else .waits := by
  unfold State.fileEnd
  simp only [serves, stays, sound, on, turn, first, Bool.or_false, Bool.false_eq_true, if_false, Bool.not_true,
    Bool.false_and]

end

theorem fileEnd_of_refused (refused : u.siteRefuses r = true) : u.fileEnd r = .lost := by
  unfold State.fileEnd
  simp only [refused, Bool.or_true, Bool.true_or, if_true]

theorem fileEnd_of_bad (bad : u.qBad r.qid.toNat = true) : u.fileEnd r = .lost := by
  unfold State.fileEnd
  simp only [bad, Bool.or_true, if_true]

theorem fileAt_of_fits {l : List Nat} (fits : u.slotsFor l = true) : u.fileAt l = .filed := if_pos fits

/-! ### What an offer leaves -/

theorem fileRec_of_safe (safe : s.safe = true) : s.fileRec r e = s := by
  have ends : s.fileEnd r = .lost := by
    unfold State.fileEnd
    simp only [safe, Bool.true_or, if_true]
  unfold State.fileRec
  simp only [safe, if_true, ends, Bool.true_or]

section
variable (serves : s.safe = false) (look : s.queueUe r.qid.toNat e = u)
include serves look

theorem fileRec_of_waits (ends : u.fileEnd r = .waits) : s.fileRec r e = u := by
  unfold State.fileRec
  simp only [serves, Bool.false_eq_true, if_false, look, ends]

theorem fileRec_of_off (ends : u.fileEnd r = .off) : s.fileRec r e = u.offRec r.qid.toNat := by
  unfold State.fileRec
  simp only [serves, Bool.false_eq_true, if_false, look, ends]

theorem fileRec_of_refused (refused : u.siteRefuses r = true) : s.fileRec r e = u := by
  unfold State.fileRec
  simp only [serves, Bool.false_eq_true, if_false, look, fileEnd_of_refused refused, refused, Bool.or_true, if_true]

theorem fileRec_of_lost (safe : u.safe = false) (stays : u.siteRefuses r = false) (ends : u.fileEnd r = .lost) :
    s.fileRec r e = u.dropRec r.qid.toNat := by
  unfold State.fileRec
  simp only [serves, Bool.false_eq_true, if_false, look, ends, safe, stays, Bool.or_self]

theorem fileRec_of_filed (ends : u.fileEnd r = .filed) : s.fileRec r e =
    if (!u.mayPlace r.steep || u.qm.hold.any fun x => x.rcd.qid = r.qid) = true then (u.holdPut (u.flagged r)).holdStat
    else u.placeRec r.qid.toNat r r.bytes := by
  unfold State.fileRec
  simp only [serves, Bool.false_eq_true, if_false, look, ends]

end

/-! ### The producers -/

section
variable {o : Offer}

theorem exec_recordAccept_of_recal (waits : s.vmWait = true) : exec (.recordAccept o) s = .next s :=
  congrArg Host.Outcome.next (if_pos waits)

variable (answers : s.vmWait = false)
include answers

theorem exec_recordAccept_of_head (comes : s.headComes = true) :
    exec (.recordAccept o) s = .next (s.putBehind (.recordAccept o)) :=
  congrArg Host.Outcome.next ((if_neg (ne_true_of_eq_false answers)).trans (if_pos comes))

variable (past : s.headComes = false)
include past

theorem exec_recordAccept_push {x : Sq} (from_ : o.src = .qpush x) : exec (.recordAccept o) s = .next (s.acceptPush x o) := by
  show Host.Outcome.next (if s.vmWait = true then _ else if s.headComes = true then _ else _) = _
  simp only [answers, past, from_, Bool.false_eq_true, if_false]

theorem exec_recordAccept_meas {c : Cl} (from_ : o.src = .meas c) : exec (.recordAccept o) s = .next (s.acceptMeas c o) := by
  show Host.Outcome.next (if s.vmWait = true then _ else if s.headComes = true then _ else _) = _
  simp only [answers, past, from_, Bool.false_eq_true, if_false]

theorem exec_recordAccept_capture {c : Cl} (from_ : o.src = .capture c) : exec (.recordAccept o) s = .next (s.acceptCap c o) := by
  show Host.Outcome.next (if s.vmWait = true then _ else if s.headComes = true then _ else _) = _
  simp only [answers, past, from_, Bool.false_eq_true, if_false]

theorem exec_recordAccept_tiu {t : Fin 8} (from_ : o.src = .tiu t) : exec (.recordAccept o) s = .next (s.acceptTiu t o) := by
  show Host.Outcome.next (if s.vmWait = true then _ else if s.headComes = true then _ else _) = _
  simp only [answers, past, from_, Bool.false_eq_true, if_false]

end

section
variable {x : Nat} {o : Offer} {r₀ : Rec}

theorem acceptPush_of_late (wait : (s.sq x).wait = .qpush r₀)
    (late : (s.sq x).mode ≠ .running ∨ s.now < (s.sq x).readyAt ∨ (x < 16 ∧ s.olderWaits x r₀.made r₀.qid.toNat = true)) :
    s.acceptPush x o = s := by
  unfold State.acceptPush
  simp only [wait]
  exact if_pos late

/-- What an offer of a QPUSH leaves, by how it ends. -/
def State.pushOffered (s : State) (x : Nat) (o : Offer) (r : Rec) : FileEnd → State
  | .waits => s
  | .slot => s.slotHold (.recordAccept o)
  | .off => (s.queueUe r.qid.toNat o.desc).exception x 0x11 r.qid.toNat (s.sq x).pc
  | .filed => (s.fileRec r o.desc).retire x ((s.sq x).pc + 1) 0
  | .lost => (s.fileRec r o.desc).retire x ((s.sq x).pc + 1) 0

theorem acceptPush_of_due (wait : (s.sq x).wait = .qpush r₀)
    (due : ¬ ((s.sq x).mode ≠ .running ∨ s.now < (s.sq x).readyAt ∨ (x < 16 ∧ s.olderWaits x r₀.made r₀.qid.toNat = true))) :
    s.acceptPush x o = s.pushOffered x o (s.pushFinal x r₀) (s.fileEnd (s.pushFinal x r₀)) := by
  unfold State.acceptPush
  simp only [wait]
  refine (if_neg due).trans ?_
  cases s.fileEnd (s.pushFinal x r₀) with
  | filed => rfl
  | lost => rfl
  | off => rfl
  | waits => rfl
  | slot => rfl
end

section
variable {c : Nat} {o : Offer} {rest : List Rec}

theorem acceptMeas_of_nil (none_ : (s.cl c).out = []) : s.acceptMeas c o = s := by
  unfold State.acceptMeas
  simp only [none_]

variable (oldest : (s.cl c).out = r :: rest)
include oldest

theorem acceptMeas_of_older (older : s.olderWaits c r.made r.qid.toNat = true) : s.acceptMeas c o = s := by
  unfold State.acceptMeas
  simp only [oldest, older, if_true]

variable (first : s.olderWaits c r.made r.qid.toNat = false)

theorem acceptMeas_of_waits (ends : s.fileEnd r = .waits) : s.acceptMeas c o = s := by
  unfold State.acceptMeas
  simp only [oldest, ends, ite_self]

include first

theorem acceptMeas_of_slot (ends : s.fileEnd r = .slot) : s.acceptMeas c o = s.slotHold (.recordAccept o) := by
  unfold State.acceptMeas
  simp only [oldest, first, ends, Bool.false_eq_true, if_false]

theorem acceptMeas_of_files (goes : s.fileEnd r ≠ .waits) (fits : s.fileEnd r ≠ .slot) :
    s.acceptMeas c o = State.fileRec (s.setCl c { s.cl c with out := rest }) r o.desc := by
  unfold State.acceptMeas
  simp only [oldest, first, Bool.false_eq_true, if_false]
end

section
variable {c k : Nat} {o : Offer} {p : Piece}

theorem acceptCap_of_none (none_ : s.capOffer c = none) : s.acceptCap c o = s := by
  unfold State.acceptCap
  simp only [none_]

theorem capLost_of_sound (sound : (s.cap c).lost = []) : s.capLost c r = (s, r) := by
  unfold State.capLost
  simp only [sound]

variable (offers : s.capOffer c = some (p, k))
include offers

theorem acceptCap_of_older (older : s.olderWaits c p.made (s.pieceRec c p k).qid.toNat = true) : s.acceptCap c o =
    ((s.queueUe (s.pieceRec c p k).qid.toNat o.desc).dropRec (s.pieceRec c p k).qid.toNat).capFiled c k p := by
  unfold State.acceptCap
  simp only [offers, older, if_true]

variable (first : s.olderWaits c p.made (s.pieceRec c p k).qid.toNat = false)
include first

theorem acceptCap_of_waits (ends : s.fileEnd (s.pieceRec c p k) = .waits) : s.acceptCap c o = s := by
  unfold State.acceptCap
  simp only [offers, first, ends, Bool.false_eq_true, if_false]

theorem acceptCap_of_slot (ends : s.fileEnd (s.pieceRec c p k) = .slot) : s.acceptCap c o = s.slotHold (.recordAccept o) := by
  unfold State.acceptCap
  simp only [offers, first, ends, Bool.false_eq_true, if_false]

theorem acceptCap_of_files (goes : s.fileEnd (s.pieceRec c p k) ≠ .waits) (fits : s.fileEnd (s.pieceRec c p k) ≠ .slot)
    (sound : ((s.capWords c (s.pieceRec c p k) o.words).1.cap c).lost = []) : s.acceptCap c o =
      ((s.capWords c (s.pieceRec c p k) o.words).1.fileRec (s.capWords c (s.pieceRec c p k) o.words).2 o.desc).capFiled c k p := by
  unfold State.acceptCap
  simp only [offers, first, Bool.false_eq_true, if_false, capLost_of_sound sound]
end

section
variable {t : Nat} {o : Offer}

theorem acceptTiu_of_idle (idle : s.tiuState t ≠ 2) : s.acceptTiu t o = s := if_pos idle

/-- What the offer of a TIU leaves, by how it ends. -/
def State.tiuOffered (s : State) (t : Nat) (o : Offer) : FileEnd → State
  | .waits => s
  | .slot => s.slotHold (.recordAccept o)
  | .filed => (s.fileRec (s.tiuRec t) o.desc).setRf (Off.tiuStat t) 30 2 0
  | .off => ((s.fileRec (s.tiuRec t) o.desc).setRb (Off.tiuStat t) 26 true).setRf (Off.tiuStat t) 30 2 0
  | .lost => ((s.fileRec (s.tiuRec t) o.desc).setRb (Off.tiuStat t) 26 true).setRf (Off.tiuStat t) 30 2 0

theorem acceptTiu_of_done (done : s.tiuState t = 2) : s.acceptTiu t o = s.tiuOffered t o (s.fileEnd (s.tiuRec t)) := by
  refine (if_neg (not_not_intro done)).trans ?_
  dsimp only
  cases s.fileEnd (s.tiuRec t) with
  | filed => rfl
  | lost => rfl
  | off => rfl
  | waits => rfl
  | slot => rfl
end

/-! ### A move out of the holdover area -/

/-- The move of record `h`, which reads as `r` with bytes `l`. -/
def State.holdMoved (s : State) (h : Held) (rest : List Held) (r : Rec) (l : List Byte) : State :=
  let q := h.rcd.qid.toNat
  let rows := s.holdEcc h
  if !s.qBad q && s.qEn q && s.qRoom q r.units && !s.slotsFor (s.ringPlan q r.units) then s.slotHold .holdoverMove
  else
    let s := State.queueUe { s with qm := { s.qm with hold := rest } } q
    let s := if s.qBad q then (s.dropRec q).recLost r
      else if !s.qEn q then (s.offRec q).recLost r
      else if s.qRoom q r.units then ((s.rowsSeen rows).freshBy rows.length).placeRec q r l
      else (s.dropRec q).recLost r
    State.holdStat { s with qm := { s.qm with moving := s.qm.hold.any fun h => s.mayPlace h.rcd.steep } }

theorem holdMove_of_next {h : Held} {rest : List Held} (next_ : s.moveNext [] s.qm.hold = some (h, rest)) :
    s.holdMove = s.holdMoved h rest (s.holdRead h).1 (s.holdRead h).2 := by
  unfold State.holdMove
  simp only [next_]
  rfl

theorem holdRead_units (h : Held) : (s.holdRead h).1.units = h.rcd.units := by
  unfold State.holdRead
  dsimp only
  split
  · rfl
  · split <;> rfl

theorem moveNext_first {h : Held} {rest : List Held} (may : s.mayMove h.rcd = true) :
    s.moveNext [] (h :: rest) = some (h, rest) := by
  unfold State.moveNext
  exact if_pos (by rw [may]; rfl)

/-- A look at the sound descriptor of a record that may move leaves its ring as it was. -/
theorem descCache_ok_qRoom (q n : Nat) : (s.descCache .ok).qRoom q n = s.qRoom q n := by
  have level : (s.descCache .ok).qLevel q = s.qLevel q := by
    simp only [State.qLevel, State.descCache_ok_qIdx]
  have size : (s.descCache .ok).qSize q = s.qSize q := by
    simp only [State.qSize, State.descCache_ok_qWord]
  exact decide_eq_decide.mpr (by rw [level, size])

section
variable {h : Held} {rest : List Held} (first : s.qm.hold = h :: rest) (turn : s.mayPlace h.rcd.steep = true)
  (sound : s.qBad h.rcd.qid.toNat = false) (live : s.lineLive (0xFFC00000 + 4 * h.rcd.qid.toNat) = true)

/-- The state in which the record `h` has left the area and its descriptor has been looked at. -/
def State.heldOut (s : State) (rest : List Held) : State := State.descCache { s with qm := { s.qm with hold := rest } } .ok

/-- QM_HOLD_STAT after a move. -/
def State.moveShown (s : State) : State :=
  State.holdStat { s with qm := { s.qm with moving := s.qm.hold.any fun h => s.mayPlace h.rcd.steep } }

include first turn sound live

theorem holdMove_eq (goes : s.qEn h.rcd.qid.toNat = false ∨ s.qRoom h.rcd.qid.toNat h.rcd.units = true ∨
      s.qDrop h.rcd.qid.toNat = true)
    (fits : s.qEn h.rcd.qid.toNat = true → s.qRoom h.rcd.qid.toNat h.rcd.units = true →
      s.slotsFor (s.ringPlan h.rcd.qid.toNat h.rcd.units) = true) :
    s.holdMove = State.moveShown (if s.qEn h.rcd.qid.toNat = false
      then ((s.heldOut rest).offRec h.rcd.qid.toNat).recLost (s.holdRead h).1
      else if s.qRoom h.rcd.qid.toNat h.rcd.units = true
      then (((s.heldOut rest).rowsSeen (s.holdEcc h)).freshBy (s.holdEcc h).length).placeRec h.rcd.qid.toNat (s.holdRead h).1
        (s.holdRead h).2
      else ((s.heldOut rest).dropRec h.rcd.qid.toNat).recLost (s.holdRead h).1) := by
  have may : s.mayMove h.rcd = true := by
    simp only [State.mayMove, turn, sound, Bool.true_and, Bool.false_or, Bool.or_eq_true, Bool.not_eq_true']
    exact or_assoc.mpr goes
  have next_ : s.moveNext [] s.qm.hold = some (h, rest) := by rw [first, moveNext_first may]
  have look : State.queueUe { s with qm := { s.qm with hold := rest } } h.rcd.qid.toNat = s.heldOut rest :=
    State.queueUe_of_sound sound live
  have bad : (s.heldOut rest).qBad h.rcd.qid.toNat = false := (State.descCache_ok_qBad _ _).trans sound
  have on : (s.heldOut rest).qEn h.rcd.qid.toNat = s.qEn h.rcd.qid.toNat := State.descCache_ok_qEn _ _
  have room : (s.heldOut rest).qRoom h.rcd.qid.toNat h.rcd.units = s.qRoom h.rcd.qid.toNat h.rcd.units := descCache_ok_qRoom _ _
  have slot : ¬ (!s.qBad h.rcd.qid.toNat && s.qEn h.rcd.qid.toNat && s.qRoom h.rcd.qid.toNat h.rcd.units &&
      !s.slotsFor (s.ringPlan h.rcd.qid.toNat h.rcd.units)) = true := fun waits => by
    simp only [Bool.and_eq_true, Bool.not_eq_true'] at waits
    obtain ⟨⟨⟨-, en⟩, has⟩, full⟩ := waits
    exact Bool.false_ne_true (full.symm.trans (fits en has))
  rw [holdMove_of_next next_]
  unfold State.holdMoved
  simp only [holdRead_units, if_neg slot, look, bad, on, room, Bool.false_eq_true, if_false, Bool.not_eq_true']
  rfl

end

end Sys2Proof.Machine

namespace Sys2Proof

open Machine

/-- Settles O55: how an offer ends and what it leaves, the four producers, and the moves out of the holdover area. -/
theorem recordAcceptance : Obligations.RecordAcceptance := by
  refine ⟨fun r ecc s => ?_, fun o s => ⟨fun waits => ?_, fun answers comes => ?_⟩, fun x o r₀ s from_ answers past wait => ?_,
    fun c o s answers past => ?_, fun t o s from_ answers past => ?_, fun s answers past => ?_⟩
  · intro q v u gone ahead early fits
    have safe : u.safe = s.safe := descRead_safe (s := s) (e := ecc) q
    have refuses : u.siteRefuses r = true ↔ gone := by
      rw [State.siteRefuses, Bool.and_eq_true, decide_eq_true_eq, Bool.or_eq_true, Bool.not_eq_true']
    have stays (here : ¬ gone) : u.siteRefuses r = false := Bool.eq_false_of_not_eq_true fun h => here (refuses.mp h)
    refine ⟨fileRec_of_safe, fun serves sound => ?_, fun serves here bad seen raised => ?_⟩
    · have look : s.queueUe q ecc = u := queueUe_of_known fun bad => Bool.noConfusion (bad.symm.trans sound)
      refine ⟨fun leaves => fileRec_of_refused serves look (refuses.mpr leaves), fun here off => ?_,
        fun here on soon room plan => ?_, fun here on soon full => ?_, fun here on turn behind open_ => ?_, fun here on turn first => ?_⟩
      · have ends := fileEnd_of_disabled (safe.trans serves) (stays here) sound off
        exact ⟨ends, fileRec_of_off serves look ends⟩
      · have ends : u.fileEnd r = .filed := by
          rw [fileEnd_of_early (safe.trans serves) (stays here) sound on soon, room, if_pos rfl, fileAt_of_fits plan]
        refine ⟨ends, (fileRec_of_filed serves look ends).trans (if_pos ?_)⟩
        rw [Bool.or_eq_true, Bool.not_eq_true']
        exact soon.imp_right And.left
      · rw [fileEnd_of_early (safe.trans serves) (stays here) sound on soon, full, if_neg Bool.false_ne_true]
      · have ends := fileEnd_of_behind (safe.trans serves) (stays here) sound on turn behind open_
        exact ⟨ends, fileRec_of_waits serves look ends⟩
      · have ends := fileEnd_of_turn (safe.trans serves) (stays here) sound on turn first
        refine ⟨fun room plan => ?_, fun full drops => ?_, fun full keeps open_ => ?_⟩
        · rw [room, if_pos rfl, fileAt_of_fits plan] at ends
          refine ⟨ends, (fileRec_of_filed serves look ends).trans (if_neg ?_)⟩
          rw [turn, show (u.qm.hold.any fun x => x.rcd.qid = r.qid) = false from first]
          decide
        · rw [full, if_neg Bool.false_ne_true, if_pos (Bool.or_eq_true _ _ ▸ drops)] at ends
          intro t
          refine ⟨ends, (fileRec_of_lost serves look (safe.trans serves) (stays here) ends).trans (if_neg ?_)⟩
          exact ne_true_of_eq_false sound
        · rw [full, keeps, open_, if_neg Bool.false_ne_true] at ends
          exact ⟨ends, fileRec_of_waits serves look ends⟩
    · have look : s.queueUe q ecc = u := queueUe_of_known fun _ => ⟨seen, raised⟩
      exact (fileRec_of_lost serves look (safe.trans serves) (stays here) (fileEnd_of_bad bad)).trans (if_pos bad)
  · exact ⟨exec_recordAccept_of_recal waits, congrArg Host.Outcome.next (if_pos waits)⟩
  · exact ⟨exec_recordAccept_of_head answers comes,
      congrArg Host.Outcome.next ((if_neg (ne_true_of_eq_false answers)).trans (if_pos comes))⟩
  · intro q r i late
    rw [show exec i s = .next (s.acceptPush x o) from exec_recordAccept_push answers past from_]
    refine ⟨fun is => congrArg Host.Outcome.next (acceptPush_of_late wait is), fun due => ?_⟩
    rw [acceptPush_of_due wait due]
    refine ⟨fun ends => ?_, fun ends => ?_, fun ends => ?_, fun ends => ?_⟩
    · rw [ends]
      rfl
    · rw [ends]
      rfl
    · rw [ends]
      rfl
    · rcases ends with ends | ends
      · rw [ends]
        rfl
      · rw [ends]
        rfl
  · intro i
    refine ⟨fun r rest from_ oldest => ?_, fun from_ none_ => ?_, fun p k from_ offers => ?_, fun from_ none_ => ?_⟩
    · rw [show exec i s = .next (s.acceptMeas c o) from exec_recordAccept_meas answers past from_]
      refine ⟨fun waits => congrArg Host.Outcome.next ?_, fun first ends => congrArg Host.Outcome.next ?_,
        fun first goes fits => congrArg Host.Outcome.next ?_⟩
      · rcases waits with older | ends
        · exact acceptMeas_of_older oldest older
        · exact acceptMeas_of_waits oldest ends
      · exact acceptMeas_of_slot oldest first ends
      · exact acceptMeas_of_files oldest first goes fits
    · rw [show exec i s = .next (s.acceptMeas c o) from exec_recordAccept_meas answers past from_, acceptMeas_of_nil none_]
    · intro r older a
      rw [show exec i s = .next (s.acceptCap c o) from exec_recordAccept_capture answers past from_]
      exact ⟨fun is => congrArg Host.Outcome.next (acceptCap_of_older offers is),
        fun first ends => congrArg Host.Outcome.next (acceptCap_of_waits offers first ends),
        fun first ends => congrArg Host.Outcome.next (acceptCap_of_slot offers first ends),
        fun first sound goes fits => congrArg Host.Outcome.next (acceptCap_of_files offers first goes fits sound)⟩
    · rw [show exec i s = .next (s.acceptCap c o) from exec_recordAccept_capture answers past from_, acceptCap_of_none none_]
  · intro r i
    rw [show exec i s = .next (s.acceptTiu t o) from exec_recordAccept_tiu answers past from_]
    refine ⟨fun idle => congrArg Host.Outcome.next (acceptTiu_of_idle idle), fun done ends => ?_, fun done ends => ?_,
      fun done ends => ?_, fun done ends => ?_⟩
    all_goals rw [acceptTiu_of_done done]
    · rw [ends]
      rfl
    · rw [ends]
      rfl
    · rw [ends]
      rfl
    · rcases ends with ends | ends
      · rw [ends]
        rfl
      · rw [ends]
        rfl
  · have moves : exec .holdoverMove s = .next s.holdMove :=
      congrArg Host.Outcome.next ((if_neg (ne_true_of_eq_false answers)).trans (if_neg (ne_true_of_eq_false past)))
    rw [moves]
    refine ⟨fun none_ => ?_, fun h rest first turn sound live => ?_⟩
    · refine congrArg Host.Outcome.next ?_
      unfold State.holdMove
      simp only [none_, State.moveNext]
    · intro q r rows t done n
      refine ⟨fun off => congrArg Host.Outcome.next ?_, fun on room plan => congrArg Host.Outcome.next ?_,
        fun on full drops => congrArg Host.Outcome.next ?_⟩
      · refine (holdMove_eq first turn sound live (.inl off) fun on => Bool.noConfusion (off.symm.trans on)).trans ?_
        exact congrArg State.moveShown (if_pos off)
      · refine (holdMove_eq first turn sound live (.inr (.inl room)) fun _ _ => plan).trans ?_
        exact congrArg State.moveShown ((if_neg (ne_false_of_eq_true on)).trans (if_pos room))
      · refine (holdMove_eq first turn sound live (.inr (.inr drops)) fun _ has => Bool.noConfusion (full.symm.trans has)).trans ?_
        exact congrArg State.moveShown ((if_neg (ne_false_of_eq_true on)).trans (if_neg (ne_true_of_eq_false full)))

end Sys2Proof
end

section
/-!
SUPPORT. Patch loads, pass by pass, and the clocks.
-/
namespace Sys2Proof.Machine

variable {s : State}

/-! ### The two passes of a load -/

section
variable {l : Load} {flash : FlashRead}

variable {t : State} {f : FlashRead} (image : s.loadImage l flash = (t, f))
include image

section
variable {cause : Nat} (bad : readPatch t.romver f = .inr cause)
include bad

theorem passOne_of_bad : s.passOne l flash = (t.loadOver.mcInval cause).mcSweep := by
  unfold State.passOne
  rw [image]
  simp only [bad]

theorem passTwo_of_bad : s.passTwo l flash = t.mcTorn.mcSweep := by
  unfold State.passTwo
  rw [image]
  simp only [bad]
end

section
variable {a : Patch} (good : readPatch t.romver f = .inl a)
include good

theorem passOne_of_good : let z := t.each (List.range 32) fun k z => z.setRb (Off.mcMatch k) 31 false
    s.passOne l flash = State.setRg (State.setRf { z with mc := { z.mc with load := some { l with second := true } } }
      Off.mcver 0 16 0) Off.mccrc 0 := by
  intro z
  unfold State.passOne
  rw [image]
  simp only [good]
  rfl

theorem passTwo_of_good : s.passTwo l flash = ((t.loadOver.mcLoad a).setRb Off.mcLstat 30 true).mcSweep := by
  unfold State.passTwo
  rw [image]
  simp only [good]
end

end

section
variable {flash : FlashRead}

theorem loadGo_of_none (none_ : s.mc.load = none) : s.loadGo = s := by
  unfold State.loadGo
  simp only [none_]

theorem exec_patchLoadDone_of_none (none_ : s.mc.load = none) : exec (.patchLoadDone flash) s = .next s := by
  show Host.Outcome.next _ = _
  simp only [none_]

variable {l : Load} (runs : s.mc.load = some l)
include runs

theorem loadGo_of_waits (waits : l.second = true ∨ s.loadCan l = false) : s.loadGo = s := by
  unfold State.loadGo
  simp only [runs]
  exact if_pos (by rwa [Bool.or_eq_true, Bool.not_eq_true'])

theorem exec_patchLoadDone_of_waits (waits : s.loadCan l = false) : exec (.patchLoadDone flash) s = .next s := by
  show Host.Outcome.next _ = _
  simp only [runs, waits, Bool.not_false, if_true]

theorem loadGo_of_mem (first : l.second = false) (can : s.loadCan l = true) (mem : l.mem = true) :
    s.loadGo = s.passOne l { bytes := [], err := true } := by
  unfold State.loadGo
  simp only [runs, first, can, mem, Bool.not_true, Bool.or_self, Bool.false_eq_true, if_false]

theorem loadGo_of_image {f : FlashRead} (first : l.second = false) (can : s.loadCan l = true) (port : l.mem = false)
    (image : l.image = some f) : s.loadGo = s.passOne l f := by
  unfold State.loadGo
  simp only [runs, first, can, port, image, Bool.not_true, Bool.or_self, Bool.false_eq_true, if_false]

section
variable (can : s.loadCan l = true)
include can

theorem exec_patchLoadDone_of_second (second : l.second = true) : exec (.patchLoadDone flash) s = .next (s.passTwo l flash) := by
  show Host.Outcome.next _ = _
  simp only [runs, can, second, Bool.not_true, Bool.false_eq_true, if_false, if_true]

theorem exec_patchLoadDone_of_over (first : l.second = false) (over_ : (s.passOne l (l.image.getD flash)).mc.load = none) :
    exec (.patchLoadDone flash) s = .next (s.passOne l (l.image.getD flash)) := by
  show Host.Outcome.next _ = _
  simp only [runs, can, first, over_, Bool.not_true, Bool.false_eq_true, if_false]

theorem exec_patchLoadDone_of_both {k : Load} (first : l.second = false)
    (goes : (s.passOne l (l.image.getD flash)).mc.load = some k) :
    exec (.patchLoadDone flash) s = .next ((s.passOne l (l.image.getD flash)).passTwo k flash) := by
  show Host.Outcome.next _ = _
  simp only [runs, can, first, goes, Bool.not_true, Bool.false_eq_true, if_false]
end

end

theorem loadCan_iff {l : Load} : s.loadCan l = true ↔ if l.mem then s.vmWait = false else s.loadPort = true := by
  unfold State.loadCan
  by_cases mem : l.mem = true
  · rw [if_pos mem, if_pos mem, Bool.not_eq_true']
  · rw [if_neg mem, if_neg mem]

/-! ### Clocks -/

theorem unlock_refclk_rg (o : Nat) : (s.unlock true).rg o = (((((s.setRb Off.clkStat 31 false).setRb Off.clkStat 30
    true).setRb Off.clkStat 29 false).setRb Off.tiuTbstat 30 false).count Off.tiuTbstat 0 16 1).rg o := rfl

theorem unlock_lock_rg (o : Nat) :
    (s.unlock false).rg o = ((s.setRb Off.clkStat 31 false).setRb Off.clkStat 30 true).rg o := rfl

theorem unlock_refclk_clkStat : (s.unlock true).rg Off.clkStat =
    setFlag (setFlag (setFlag (s.rg Off.clkStat) 31 false) 30 true) 29 false := by
  rw [unlock_refclk_rg, State.rg_count_ne _ _ _ _ _ _ (by decide), State.rg_setRb_ne _ _ _ _ _ (by decide),
    State.rg_setRb_same, State.rg_setRb_same, State.rg_setRb_same]

theorem unlock_lock_clkStat : (s.unlock false).rg Off.clkStat = setFlag (setFlag (s.rg Off.clkStat) 31 false) 30 true := by
  rw [unlock_lock_rg, State.rg_setRb_same, State.rg_setRb_same]

/-- The oscillator runs the part after either loss. -/
theorem unlock_bypass (refclk : Bool) :
    flag ((s.unlock refclk).rg Off.clkStat) 31 = false ∧ flag ((s.unlock refclk).rg Off.clkStat) 30 = true := by
  cases refclk with
  | false =>
    rw [unlock_lock_clkStat]
    exact ⟨by rw [flag_setFlag_ne _ _ _ _ (by omega), flag_setFlag _ _ _ (by omega)], flag_setFlag _ _ _ (by omega)⟩
  | true =>
    rw [unlock_refclk_clkStat, flag_setFlag_ne _ _ _ _ (by omega), flag_setFlag_ne _ _ _ _ (by omega),
      flag_setFlag _ _ _ (by omega), flag_setFlag_ne _ _ _ _ (by omega), flag_setFlag _ _ _ (by omega)]
    exact ⟨rfl, rfl⟩

theorem unlock_refclk_gone :
    flag ((s.unlock true).rg Off.clkStat) 29 = false ∧ flag ((s.unlock true).rg Off.tiuTbstat) 30 = false := by
  refine ⟨?_, ?_⟩
  · rw [unlock_refclk_clkStat, flag_setFlag _ _ _ (by omega)]
  · rw [unlock_refclk_rg, State.rg_count_same, State.rg_setRb_same, flag_satAdd_apart _ _ _ _ _ (by omega),
      flag_setFlag _ _ _ (by omega)]

theorem exec_pllaLockTimeout_of_some {t : Nat} (locks : s.clk.lockAt = some t) :
    let u := State.count { s with clk := { s.clk with lockAt := some s.now } } Off.clkStat 8 8 1
    exec .pllaLockTimeout s = .next (if t + 120000 ≤ s.now ∧ s.rst.boot.isSome = true ∧ s.rb Off.clkStat 29 = true
      then if s.rst.ready then u.notice 0x9000 3 Off.clkStat else u else s) := by
  intro u
  show Host.Outcome.next _ = _
  simp only [locks]
  rfl

section
variable {k : Fin 6}

theorem exec_clkDelayStep_of_none (none_ : Tbl.find s.clk.delay k.val = none) : exec (.clkDelayStep k) s = .next s := by
  show Host.Outcome.next _ = _
  simp only [none_]

variable {d : Nat} (now_ : Tbl.find s.clk.delay k.val = some d)
include now_

theorem exec_clkDelayStep_of_early (early : s.now < Tbl.get 0 s.clk.stepAt k) : exec (.clkDelayStep k) s = .next s := by
  show Host.Outcome.next _ = _
  simp only [now_]
  exact congrArg Host.Outcome.next (if_pos early)

theorem exec_clkDelayStep_of_due (due : Tbl.get 0 s.clk.stepAt k ≤ s.now) :
    let goal := fld (s.ap (Off.clkOut k)) 0 6
    let e := if d < goal then d + 1 else if goal < d then d - 1 else d
    exec (.clkDelayStep k) s = .next { s with clk := { s.clk with
        stepAt := if e = d then s.clk.stepAt else Tbl.set 0 s.clk.stepAt k (s.now + 800)
        delay := if e ≠ goal ∨ Off.clkOut k ∈ s.dirty then tblPut k.val e s.clk.delay else Tbl.drop s.clk.delay k.val } } := by
  intro goal e
  have keeps : (decide (e ≠ goal) || s.dirty.contains (Off.clkOut k)) = true ↔ e ≠ goal ∨ Off.clkOut k ∈ s.dirty := by
    rw [Bool.or_eq_true, decide_eq_true_eq, List.contains_iff_mem]
  have delay : (if e ≠ goal ∨ Off.clkOut k ∈ s.dirty then tblPut k.val e s.clk.delay else Tbl.drop s.clk.delay k.val) =
      if decide (e ≠ goal) || s.dirty.contains (Off.clkOut k) then tblPut k.val e s.clk.delay else Tbl.drop s.clk.delay k.val :=
    (if_congr keeps rfl rfl).symm
  rw [delay]
  show Host.Outcome.next _ = _
  simp only [now_]
  exact congrArg Host.Outcome.next (if_neg (Nat.not_lt.mpr due))
end

end Sys2Proof.Machine

namespace Sys2Proof

open Machine

/-- Settles O57: MCP_CTL and the two passes of a load, the clocks, and the clock outputs. -/
theorem patchesAndClocks : Obligations.PatchesAndClocks := by
  refine ⟨fun p v flash s takes => ?_, fun l flash s => ?_, fun flash s => ⟨fun none_ => ?_, fun l runs => ?_⟩, fun s => ?_,
    fun refclk s => ?_, fun p k v s takes => ?_, fun k s => ?_⟩
  · intro u busy reject mem
    have load : exec (.patchLoad p v flash) s = .next (if p = .pf1 then u.mcpWrite v (some flash) else u) :=
      congrArg Host.Outcome.next (gateWrite_of_accepts takes found_mcpCtl)
    have clear : exec (.patchClear p v) s = .next (if p = .pf1 then u.mcpWrite v none else u) :=
      congrArg Host.Outcome.next (gateWrite_of_accepts takes found_mcpCtl)
    have rejected (image : Option FlashRead) (asks : flag v 0 = true ∨ flag v 1 = true) (is : busy = true) :
        u.mcpWrite v image = reject := by
      refine (if_neg ?_).trans (if_pos is)
      rw [Bool.and_eq_true, Bool.not_eq_true', Bool.not_eq_true']
      rintro ⟨no0, no1⟩
      rcases asks with ask | ask
      · exact Bool.noConfusion (no0.symm.trans ask)
      · exact Bool.noConfusion (no1.symm.trans ask)
    have cleared (image : Option FlashRead) (asks : flag v 1 = true) (free : busy = false) :
        u.mcpWrite v image = (u.mcZero.setRb Off.mcLstat 30 true).mcSweep := by
      refine (if_neg ?_).trans ((if_neg (ne_true_of_eq_false free)).trans (if_pos asks))
      rw [asks, Bool.not_true, Bool.and_false]
      exact Bool.false_ne_true
    rw [load, clear]
    refine ⟨fun other => ?_, fun pf1 asks is => ?_, fun pf1 asks free => ?_, fun pf1 stays asks free => ?_⟩
    · rw [if_neg other, if_neg other]
      exact ⟨rfl, rfl⟩
    · rw [if_pos pf1, if_pos pf1, rejected _ asks is, rejected _ asks is]
      exact ⟨rfl, rfl⟩
    · intro i listed
      rcases List.mem_pair.mp listed with rfl | rfl
      · rw [load, if_pos pf1, cleared _ asks free]
      · rw [clear, if_pos pf1, cleared _ asks free]
    · intro l
      rw [if_pos pf1]
      refine congrArg Host.Outcome.next ((if_neg ?_).trans ((if_neg (ne_true_of_eq_false free)).trans
        (if_neg (ne_true_of_eq_false stays))))
      rw [asks, Bool.not_true, Bool.false_and]
      exact Bool.false_ne_true
  · intro r over_
    exact ⟨fun cause bad => ⟨passOne_of_bad rfl bad, passTwo_of_bad rfl bad⟩,
      fun a good => ⟨passOne_of_good rfl good, passTwo_of_good rfl good⟩⟩
  · exact ⟨loadGo_of_none none_, exec_patchLoadDone_of_none none_⟩
  · intro can t
    have cans : s.loadCan l = true ↔ can := loadCan_iff
    have cannot (no : ¬ can) : s.loadCan l = false := Bool.eq_false_of_not_eq_true fun h => no (cans.mp h)
    exact ⟨fun waits => loadGo_of_waits runs (waits.imp_right cannot), fun first is mem => loadGo_of_mem runs first (cans.mpr is) mem,
      fun f first is port image => loadGo_of_image runs first (cans.mpr is) port image,
      fun no => exec_patchLoadDone_of_waits runs (cannot no),
      fun is second => exec_patchLoadDone_of_second runs (cans.mpr is) second,
      fun is first over_ => exec_patchLoadDone_of_over runs (cans.mpr is) first over_,
      fun k is first goes => exec_patchLoadDone_of_both runs (cans.mpr is) first goes⟩
  · intro b
    refine ⟨fun gone => ?_, fun here => ?_, fun no => ?_, fun locked here => ?_, fun here => ?_, fun gone => ?_,
      fun band locks boot here => ?_, fun band no => ?_, fun t locks => ⟨fun late boot here => ?_, fun early => ?_⟩, fun none_ => ?_,
      fun due => ?_, ?_, fun off => ?_, fun on => ?_⟩
    · exact congrArg Host.Outcome.next (if_pos ((Bool.not_eq_true' _).mpr gone))
    · exact congrArg Host.Outcome.next (if_neg (by rw [show s.rb Off.clkStat 29 = true from here]; decide))
    · refine congrArg Host.Outcome.next (if_pos ?_)
      rwa [Bool.not_eq_true', Bool.not_eq_true']
    · refine congrArg Host.Outcome.next (if_neg ?_)
      rw [show s.rb Off.clkStat 31 = true from locked, show s.rb Off.clkStat 29 = true from here]
      decide
    · exact congrArg Host.Outcome.next (if_pos here)
    · exact congrArg Host.Outcome.next (if_neg (ne_true_of_eq_false gone))
    · exact congrArg Host.Outcome.next (if_pos ⟨locks, boot, here⟩)
    · refine congrArg Host.Outcome.next (if_neg ?_)
      rintro ⟨locks, -, here⟩
      rcases no with none_ | gone
      · rw [none_] at locks
        exact Bool.false_ne_true locks
      · exact Bool.noConfusion (gone.symm.trans here)
    · exact (exec_pllaLockTimeout_of_some locks).trans (congrArg Host.Outcome.next (if_pos ⟨late, boot, here⟩))
    · exact (exec_pllaLockTimeout_of_some locks).trans
        (congrArg Host.Outcome.next (if_neg fun h => absurd h.1 (Nat.not_le.mpr early)))
    · exact congrArg Host.Outcome.next (if_neg (by rw [none_]; exact Bool.false_ne_true))
    · exact congrArg Host.Outcome.next (if_pos due)
    · exact congrArg Host.Outcome.next (if_congr (by rw [Bool.or_eq_true, Bool.not_eq_true']) rfl rfl)
    · exact congrArg Host.Outcome.next (if_neg (ne_true_of_eq_false off))
    · refine ⟨if Config.ovenLost s.freeCtr then 30 else 29, ?_, congrArg Host.Outcome.next (if_pos on)⟩
      by_cases lost : Config.ovenLost s.freeCtr = true
      · exact .inr (if_pos lost)
      · exact .inl (if_neg lost)
  · intro t
    obtain ⟨unlocked, bypass⟩ := unlock_bypass (s := s) refclk
    refine ⟨unlocked, bypass, fun is => ?_, rfl, fun is => ?_⟩
    · subst is
      exact ⟨unlock_refclk_gone.1, unlock_refclk_gone.2, rfl⟩
    · subst is
      rfl
  · intro u parked w w' now_
    have stored : exec (.clkOutWrite p k v) s = .next (u.clkOutWrite k v) :=
      congrArg Host.Outcome.next (gateWrite_of_accepts takes (found_clkOut k k.isLt))
    rw [stored]
    exact ⟨fun open_ => congrArg Host.Outcome.next (if_neg (ne_true_of_eq_false open_)),
      fun all => congrArg Host.Outcome.next (if_pos all)⟩
  · intro goal
    exact ⟨exec_clkDelayStep_of_none, fun d now_ => ⟨exec_clkDelayStep_of_early now_, exec_clkDelayStep_of_due now_⟩⟩

end Sys2Proof
end

section
/-!
SUPPORT. Resets: what a reset leaves, when READY comes, and that power-up up to the lock leaves the reset logic alone.
-/
namespace Sys2Proof.Machine

variable {s : State}

/-! ### What a reset leaves -/

theorem resetTo_rstStat (s : State) (cause step : Nat) :
    (s.resetTo cause step).rg Off.rstStat = setFld (setFld 0 24 3 cause) 16 4 step := State.rg_setRg_same _ _ _

theorem resetTo_rg_ne (s : State) (cause step : Nat) {o : Nat} (other : o ≠ Off.rstStat) :
    (s.resetTo cause step).rg o = State.reset.rg o := State.rg_setRg_ne _ _ _ _ other

theorem resetTo_cause (s : State) {cause step : Nat} (fitsCause : cause < 8) (fitsStep : step < 16) :
    fld ((s.resetTo cause step).rg Off.rstStat) 24 3 = cause ∧ fld ((s.resetTo cause step).rg Off.rstStat) 16 4 = step ∧
      flag ((s.resetTo cause step).rg Off.rstStat) 31 = false := by
  rw [resetTo_rstStat]
  refine ⟨?_, ?_, ?_⟩
  · rw [fld_setFld_apart _ _ _ _ _ _ (by omega) (by omega), fld_setFld _ _ _ _ (by omega), Nat.mod_eq_of_lt (by omega)]
  · rw [fld_setFld _ _ _ _ (by omega), Nat.mod_eq_of_lt (by omega)]
  · rw [flag_setFld_apart _ _ _ _ _ (by omega), flag_setFld_apart _ _ _ _ _ (by omega)]
    rfl

/-- A full reset lets what the card flash is programming end, and asks for nothing more where something is polled. -/
theorem flashKept_length (polled : ∃ x ∈ s.cp.polls, x.dev = 0) :
    s.flashKept.length = (s.cp.polls.filter fun x => x.dev = 0).length := by
  obtain ⟨x, listed, dev⟩ := polled
  have kept : x ∈ s.cp.polls.filter fun x => x.dev = 0 := List.mem_filter.mpr ⟨listed, decide_eq_true dev⟩
  have some_ : (s.cp.polls.filter fun x => decide (x.dev = 0)) ≠ [] := List.ne_nil_of_mem kept
  unfold State.flashKept
  extract_lets mapped fresh
  have busy : mapped.isEmpty = false := by simpa [mapped] using some_
  rw [busy, Bool.false_and, if_neg Bool.false_ne_true, List.append_nil, List.length_map]

/-! ### Power-up leaves the reset logic alone -/

theorem foldl_keeps {α β : Type} (g : State → α) {f : State → β → State} (keeps : ∀ s b, g (f s b) = g s) (l : List β) (s : State) :
    g (l.foldl f s) = g s := by
  induction l generalizing s with
  | nil => rfl
  | cons b l ih => exact (ih (f s b)).trans (keeps s b)

theorem notice_rst (src cause off : Nat) (site : Option Nat) : (s.notice src cause off site).rst = s.rst := by
  obtain ⟨reg, marks, win, fault, qm, form⟩ := hist_form (s := s)
    { cls := 0, src := src, cause := cause, off := off, site := site, wd := false } false
  unfold State.notice
  rw [form]
  rfl

theorem noticeAt_rst (off : Nat) (site : Option Nat) : (s.noticeAt off site).rst = s.rst := notice_rst _ _ _ _

theorem corrected_rst (m i : Nat) : (s.corrected m i).rst = s.rst := by
  unfold State.corrected
  extract_lets o t lv lv' t1 thr t2
  have rst1 : t1.rst = s.rst := by simp only [t1, t, State.setRf_rst, State.count_rst, State.setRg_rst]
  have rst2 : t2.rst = s.rst := by rw [← rst1, State.setRb_rst]
  split
  · split
    · exact rst2
    · obtain ⟨reg, marks, win, fault, qm, form⟩ := correctable_form (s := t2) (0x8000 + m) 1 o
      have rst3 : (t2.correctable (0x8000 + m) 1 o).rst = s.rst := by rw [form]; exact rst2
      exact rst3
  · exact rst1

theorem otpLoad_rst (b : Boot) : (s.otpLoad b).rst = s.rst := by
  unfold State.otpLoad
  extract_lets lost fixed header
  have lost_ : lost.rst = s.rst := by
    refine foldl_keeps (·.rst) (fun s w => ?_) _ _
    extract_lets t u c v
    have marked : v.rst = s.rst := rfl
    split
    · rw [noticeAt_rst, State.setRb_rst, marked]
    · exact marked
  have fixed_ : fixed.rst = s.rst := by
    refine (foldl_keeps (·.rst) (fun s w => ?_) _ _).trans lost_
    split
    · rfl
    · exact corrected_rst _ _
  have header_ : header.rst = s.rst := by
    refine Eq.trans ?_ fixed_
    show (if b.factoryOk then fixed else _).rst = _
    split
    · rfl
    · rw [noticeAt_rst, State.setRb_rst]
  refine Eq.trans ?_ header_
  refine State.each_keeps (·.rst) (fun s k => ?_) _ _
  rfl

theorem selfTest_rst (b : Boot) : (s.selfTest b).rst = s.rst := by
  refine foldl_keeps (·.rst) (fun s m => ?_) _ _
  rfl

theorem romSweep_rst (b : Boot) : (s.romSweep b).rst = s.rst := by
  unfold State.romSweep
  extract_lets bad swept
  refine (State.each_keeps (·.rst) (fun s x => ?_) _ _).trans ?_
  · rfl
  · rfl

theorem mcCover_rst : s.mcCover.rst = s.rst := by
  unfold State.mcCover
  refine State.each_keeps (·.rst) (fun s x => ?_) _ _
  rfl

theorem mcZero_rst : s.mcZero.rst = s.rst := by
  unfold State.mcZero
  extract_lets m t u v
  have disabled : u.rst = t.rst := by
    refine State.each_keeps (·.rst) (fun s k => ?_) _ _
    rfl
  clear_value u
  have shown : v.rst = u.rst := by rw [State.setRf_rst, State.setRg_rst, State.setRf_rst]
  rw [mcCover_rst, State.setRf_rst, shown, disabled]

theorem foldl_setRg_rst (l : List (Nat × Word)) (s : State) :
    (l.foldl (fun s e => s.setRg (Off.mcMatch e.1) e.2) s).rst = s.rst := foldl_keeps (·.rst) (fun _ _ => State.setRg_rst ..) l s

/-- The state with its control stores replaced. -/
def State.withMc (s : State) (m : McSt) : State := { s with mc := m }

theorem withMc_rst (m : McSt) : (s.withMc m).rst = s.rst := rfl

theorem mcLoad_eq (p : Patch) : s.mcLoad p = State.mcCover (State.setRf (State.setRf (State.setRg (State.setRf
    (((List.range p.entries.length).zip p.entries).foldl (fun s e => s.setRg (Off.mcMatch e.1) e.2)
      (s.mcZero.withMc { s.mc with ue := [], caddy := (List.range 17).flatMap fun x =>
        (((List.range p.micro.length).zip (p.micro.map microOf)).filter fun e => decide (e.2 ≠ 0)).map fun e =>
          (512 * x + e.1, e.2) }))
    Off.mcver 0 16 p.ver) Off.mccrc p.crc) Off.mcLstat 16 6 p.entries.length) Off.mcLstat 0 10 p.micro.length) := rfl

theorem mcLoad_rst (p : Patch) : (s.mcLoad p).rst = s.rst := by
  rw [mcLoad_eq, mcCover_rst, State.setRf_rst, State.setRf_rst, State.setRg_rst, State.setRf_rst, foldl_setRg_rst,
    withMc_rst, mcZero_rst]

theorem mcInval_rst (cause : Nat) : (s.mcInval cause).rst = s.rst := by
  unfold State.mcInval
  rw [noticeAt_rst, State.setRf_rst, State.setRb_rst]

theorem bootPatch_rst (f : FlashRead) : (s.bootPatch f).rst = s.rst := by
  unfold State.bootPatch
  split
  · rw [State.setRb_rst, mcLoad_rst]
  · exact mcInval_rst _

theorem userLoad_rst (a b : Option (Word × List (BitVec 16))) : (s.userLoad a b).rst = s.rst := by
  unfold State.userLoad
  split
  · exact noticeAt_rst _ _
  · extract_lets t c u v
    have used : v.rst = s.rst := by rw [State.setRg_rst, State.setRf_rst]
    split
    · rw [noticeAt_rst, State.setRb_rst, used]
    · exact used

theorem flashLoad_rst (b : Boot) : (s.flashLoad b).rst = s.rst := by
  unfold State.flashLoad
  split
  · extract_lets c t u v w
    have loaded : w.rst = s.rst := by
      rw [userLoad_rst, State.setRg_rst, State.setRg_rst, State.setRb_rst]
    split
    · rw [mcCover_rst, loaded]
    · rw [mcCover_rst, bootPatch_rst, loaded]
  · rw [mcCover_rst, userLoad_rst, noticeAt_rst]

/-- The reset is released, and power-up begins. -/
def State.released (s : State) (b : Boot) : State :=
  { s with rst := { s.rst with held := false, relAt := s.now, boot := some b, loaded := false } }

/-- The steps of power-up up to the lock of PLLA. -/
def State.booted (s : State) (b : Boot) : State :=
  ((((((State.nodesStart { s with rst := { s.rst with loaded := true } }).otpLoad b).selfTest b).romSweep b).flashLoad
    b).setRb Off.pllbStat 30 b.ovoWarm).setRf Off.rstStat 16 4 6

theorem booted_rst (b : Boot) : (s.booted b).rst = { s.rst with loaded := true } := by
  unfold State.booted
  rw [State.setRf_rst, State.setRb_rst, flashLoad_rst, romSweep_rst, selfTest_rst, otpLoad_rst]
  rfl

theorem booted_step (b : Boot) : fld ((s.booted b).rg Off.rstStat) 16 4 = 6 := by
  unfold State.booted
  rw [State.rg_setRf_same, fld_setFld _ _ _ _ (by omega)]
  rfl

theorem powerUp_of_busy {b : Boot} (busy : (s.released b).flashBusy = true) : s.powerUp b = s.released b :=
  if_pos (c := (false || false || (s.released b).flashBusy) = true) busy

theorem powerUp_of_free {b : Boot} (free : (s.released b).flashBusy = false) : s.powerUp b =
    if ((s.released b).booted b).rb Off.clkStat 29 then { (s.released b).booted b with
      clk := { ((s.released b).booted b).clk with lockAt := some ((s.released b).booted b).now } }
    else (s.released b).booted b :=
  if_neg (c := (false || false || (s.released b).flashBusy) = true) (ne_true_of_eq_false free)

/-! ### READY -/

theorem exec_ready_of_none (none_ : s.rst.boot = none) : exec .ready s = .next s := by
  show Host.Outcome.next _ = _
  simp only [none_]

theorem exec_ready_of_some {b : Boot} (boot : s.rst.boot = some b) : exec .ready s = .next (
    if s.rst.held = false ∧ s.rst.loaded = true ∧ s.rst.ready = false ∧ s.rb Off.clkStat 31 = true then s.readyUp b else s) := by
  have asked : (!s.rst.held && s.rst.loaded && !s.rst.ready && s.rb Off.clkStat 31) = true ↔
      s.rst.held = false ∧ s.rst.loaded = true ∧ s.rst.ready = false ∧ s.rb Off.clkStat 31 = true := by
    simp only [Bool.and_eq_true, Bool.not_eq_true', and_assoc]
  show Host.Outcome.next _ = _
  simp only [boot]
  exact congrArg Host.Outcome.next (if_congr asked rfl rfl)

/-! ### Requests and releases -/

theorem exec_resetDelayExpiry_of_some {t : Nat} {cause : BitVec 3} (asked : s.rst.reqAt = some (t, cause)) :
    exec .resetDelayExpiry s = .next (if t + 1600 ≤ s.now then s.resetTo cause.toNat 2 else s) := by
  show Host.Outcome.next _ = _
  simp only [asked]

theorem exec_resetDelayExpiry_of_none (none_ : s.rst.reqAt = none) : exec .resetDelayExpiry s = .next s := by
  show Host.Outcome.next _ = _
  simp only [none_]

theorem askReset_eq (cause : BitVec 3) :
    s.askReset cause = if s.rst.reqAt = none then { s with rst := { s.rst with reqAt := some (s.now, cause) } } else s := by
  cases asked : s.rst.reqAt with
  | none => exact if_neg (by rw [asked]; exact Bool.false_ne_true)
  | some r => exact if_pos (by rw [asked]; rfl)

theorem coldHeld_iff : s.coldHeld = true ↔ s.rst.held = true ∧ s.rst.cold = true := Bool.and_eq_true_iff

end Sys2Proof.Machine

namespace Sys2Proof

open Machine

/-- Settles O58: what resets leave, the commands of the reset logic, RST_REQ, and power-up. -/
theorem resets : Obligations.Resets := by
  refine ⟨fun cause step s => ?_, fun s => ?_, fun p v s takes => ?_, fun b s => ?_⟩
  · intro t
    refine ⟨rfl, State.sg_setSg_same _ _ _, rfl, rfl, rfl, rfl, rfl, rfl, fun cold => if_pos cold, fun polled full => ?_, rfl, rfl,
      rfl, fun fitsCause fitsStep => resetTo_cause s fitsCause fitsStep, fun o other => resetTo_rg_ne s cause step other⟩
    have polls : t.cp.polls = s.flashKept := if_neg (Nat.not_lt.mpr full)
    rw [polls, flashKept_length polled]
  · refine ⟨fun _ => rfl, ?_, rfl, exec_resetDelayExpiry_of_none, fun t cause asked => exec_resetDelayExpiry_of_some asked,
      fun b => ⟨rfl, ?_, ?_⟩, fun b boot released loaded early locked => ?_, fun waits => ?_⟩
    · intro u
      exact congrArg Host.Outcome.next (if_congr (coldHeld_iff (s := u)) rfl rfl)
    · intro u
      refine congrArg Host.Outcome.next (if_congr ?_ rfl rfl)
      rw [Bool.not_eq_true', ← coldHeld_iff, Bool.not_eq_true]
    · intro u
      refine congrArg Host.Outcome.next (if_congr ?_ rfl rfl)
      show (s.rst.held && !(s.rst.held && s.rst.cold)) = true ↔ _
      cases s.rst.held with
      | false => exact iff_of_false Bool.false_ne_true fun h => Bool.false_ne_true h.1
      | true => simp only [Bool.true_and, Bool.not_eq_true', true_and]
    · rw [exec_ready_of_some boot, if_pos ⟨released, loaded, early, locked⟩]
    · cases boot : s.rst.boot with
      | none => exact exec_ready_of_none boot
      | some b =>
        rw [exec_ready_of_some boot]
        refine congrArg Host.Outcome.next (if_neg ?_)
        rintro ⟨released, loaded, early, locked⟩
        simp [boot, released, loaded, early, locked] at waits
  · intro u
    have stored : exec (.rstRequest p v) s = .next (u.rstReqWrite p v) :=
      congrArg Host.Outcome.next (gateWrite_of_accepts takes found_rstReq)
    rw [stored]
    refine congrArg Host.Outcome.next (if_congr Iff.rfl rfl ?_)
    rw [askReset_eq]
    by_cases asks : flag v 0 = true
    · rw [if_pos asks]
      exact if_congr (and_iff_right asks).symm rfl rfl
    · rw [if_neg asks, if_neg fun h => asks h.1]
  · intro u t
    refine ⟨powerUp_of_busy, fun free => ?_⟩
    have goes : t = if (u.booted b).rb Off.clkStat 29
        then { u.booted b with clk := { (u.booted b).clk with lockAt := some (u.booted b).now } } else u.booted b :=
      powerUp_of_free free
    have same : t.rst = (u.booted b).rst ∧ t.reg = (u.booted b).reg := by
      rw [goes]
      split
      · exact ⟨rfl, rfl⟩
      · exact ⟨rfl, rfl⟩
    have word : t.rg Off.rstStat = (u.booted b).rg Off.rstStat := congrArg (tblGet resetPf0 · Off.rstStat) same.2
    exact ⟨same.1.trans (booted_rst b), by rw [word, booted_step]⟩

end Sys2Proof
end

section
/-!
SUPPORT. Register accesses: the gate of reads, one dword through the gate of writes, settings, RC registers, the halves of a
pair, and the window of PF1.
-/
namespace Sys2Proof.Machine

variable {s : State} {p : Party} {sp : Space}

/-! ### The gate of reads -/

section
variable {cmd : Instr} {act : State → State}

theorem gateRead_of_held (held : s.partyHeld p = true) : s.gateRead p sp cmd act = { s with held := s.held ++ [cmd] } := if_pos held

variable (free : s.partyHeld p = false)
include free

theorem gateRead_of_behind (behind : s.partyBehind p = true) : s.gateRead p sp cmd act = s.putBehind cmd :=
  (if_neg (ne_true_of_eq_false free)).trans (if_pos behind)

variable (first : s.partyBehind p = false)
include first

theorem gateRead_of_early (other : sp ≠ .win) (early : s.rst.ready = false) :
    s.gateRead p sp cmd act = s.answer p .unsupported := by
  unfold State.gateRead
  rw [if_neg (ne_true_of_eq_false free), if_neg (ne_true_of_eq_false first), if_pos ⟨other, by rw [early]; rfl⟩]

variable (answers : sp = .win ∨ s.rst.ready = true)
include answers

theorem gateRead_past_ready : s.gateRead p sp cmd act = if (!reaches p sp) = true then s
    else if sp = .win ∧ s.coldHeld = true then s.answer p (.data 0) else act s := by
  have past : ¬ (sp ≠ .win ∧ (!s.rst.ready) = true) := by
    rintro ⟨other, early⟩
    rcases answers with win | ready
    · exact other win
    · rw [ready] at early
      exact Bool.false_ne_true early
  unfold State.gateRead
  rw [if_neg (ne_true_of_eq_false free), if_neg (ne_true_of_eq_false first), if_neg past]

theorem gateRead_of_far (far : reaches p sp = false) : s.gateRead p sp cmd act = s := by
  rw [gateRead_past_ready free first answers, far]
  rfl

variable (reach : reaches p sp = true)
include reach

theorem gateRead_of_cold (win : sp = .win) (cold : s.coldHeld = true) : s.gateRead p sp cmd act = s.answer p (.data 0) := by
  rw [gateRead_past_ready free first answers, reach, if_neg (by decide), if_pos ⟨win, cold⟩]

theorem gateRead_of_through (warm : sp = .win → s.coldHeld = false) : s.gateRead p sp cmd act = act s := by
  rw [gateRead_past_ready free first answers, reach, if_neg (by decide), if_neg]
  rintro ⟨win, cold⟩
  exact Bool.false_ne_true ((warm win).symm.trans cold)

end

/-! ### Reads as commands -/

section
variable {off : BitVec 26} {shape : Shape} {i : Instr}

/-- What a read does once the gate has let it through. -/
def State.readActs (s : State) (p : Party) (sp : Space) (off : Nat) (shape : Shape) (cmd : Instr) : State :=
  if s.readWaits p cmd then s.putBehind cmd
  else if badShape p off shape then (s.count Off.regErr 16 8 1).answer p .abort
  else match shape with
    | .dwords _ => ((s.readReg p sp off).1.readReg p sp (off + 4)).1.answer p
        (pairOut (s.readReg p sp off).2 ((s.readReg p sp off).1.readReg p sp (off + 4)).2)
    | _ => (s.readReg p sp off).1.answer p (s.readReg p sp off).2

theorem exec_read (listed : i ∈ [Instr.lowWordRead p sp off shape, .readClear p sp off shape]) :
    exec i s = .next (s.gateRead p sp i fun s => s.readActs p sp off.toNat shape i) := by
  rcases List.mem_pair.mp listed with rfl | rfl
  · rfl
  · rfl

variable {o : Nat}

theorem readActs_of_waits (waits : s.readWaits p i = true) : s.readActs p sp o shape i = s.putBehind i := if_pos waits

variable (goes : s.readWaits p i = false)
include goes

theorem readActs_of_bad (bad : badShape p o shape = true) :
    s.readActs p sp o shape i = (s.count Off.regErr 16 8 1).answer p .abort :=
  (if_neg (ne_true_of_eq_false goes)).trans (if_pos bad)

variable (good : badShape p o shape = false)
include good

theorem readActs_of_one (one : ∀ hi, shape ≠ .dwords hi) :
    s.readActs p sp o shape i = (s.readReg p sp o).1.answer p (s.readReg p sp o).2 := by
  refine (if_neg (ne_true_of_eq_false goes)).trans ((if_neg (ne_true_of_eq_false good)).trans ?_)
  cases shape with
  | dword => rfl
  | dwords hi => exact absurd rfl (one hi)
  | other => rfl

theorem readActs_of_two {hi : Word} (two : shape = .dwords hi) : s.readActs p sp o shape i =
    ((s.readReg p sp o).1.readReg p sp (o + 4)).1.answer p
      (pairOut (s.readReg p sp o).2 ((s.readReg p sp o).1.readReg p sp (o + 4)).2) := by
  subst two
  exact (if_neg (ne_true_of_eq_false goes)).trans (if_neg (ne_true_of_eq_false good))

end

/-! ### Shapes -/

theorem badShape_of_bad {off : Nat} {shape : Shape} (host : p = .pf0 ∨ p = .pf1)
    (bad : shape = .other ∨ (shape = .dword ∧ off % 4 ≠ 0) ∨ ((∃ hi, shape = .dwords hi) ∧ off % 8 ≠ 0)) :
    badShape p off shape = true := by
  have party : (decide (p = .pf0) || decide (p = .pf1)) = true := by
    rw [Bool.or_eq_true, decide_eq_true_eq, decide_eq_true_eq]
    exact host
  unfold badShape
  rw [party, Bool.true_and]
  rcases bad with rfl | ⟨rfl, odd⟩ | ⟨⟨hi, rfl⟩, odd⟩
  · rfl
  · exact decide_eq_true odd
  · exact decide_eq_true odd

theorem badShape_dword {off : Nat} (aligned : off % 4 = 0) : badShape p off .dword = false := by
  unfold badShape
  simp only [aligned, ne_eq, not_true_eq_false, decide_false, Bool.and_false]

/-! ### One dword through the gate of writes -/

section
variable {off : BitVec 26} {shape : Shape} {v : Word}

theorem exec_registerWrite_of_bad (bad : badShape p off.toNat shape = true) (free : s.partyHeld p = false)
    (first : s.partyBehind p = false) : exec (.registerWrite p sp off shape v) s =
      .next (if s.rst.ready = true then s.count Off.regErr 16 8 1 else s.answer p .unsupported) :=
  congrArg Host.Outcome.next ((if_pos bad).trans ((if_neg (ne_true_of_eq_false free)).trans (if_neg (ne_true_of_eq_false first))))

variable (good : badShape p off.toNat shape = false)
include good

theorem exec_registerWrite_two {hi : Word} (two : shape = .dwords hi) : exec (.registerWrite p sp off shape v) s =
    .next ((s.regWrite p sp off.toNat v).regWrite p sp (off.toNat + 4) hi) := by
  subst two
  exact congrArg Host.Outcome.next (if_neg (ne_true_of_eq_false good))

theorem exec_registerWrite_one (one : ∀ hi, shape ≠ .dwords hi) :
    exec (.registerWrite p sp off shape v) s = .next (s.regWrite p sp off.toNat v) := by
  refine congrArg Host.Outcome.next ((if_neg (ne_true_of_eq_false good)).trans ?_)
  cases shape with
  | dword => rfl
  | dwords hi => exact absurd rfl (one hi)
  | other => rfl

end

section
variable {off : Nat} {v : Word}

theorem gateWrite_of_held {act lose drop : State → State} {via : Bool} (held : s.partyHeld p = true) :
    s.gateWrite p sp off v act via lose drop = s.hold (.registerWrite p sp (BitVec.ofNat 26 off) .dword v) := if_pos held

theorem protects_of_held (held : s.partyHeld p = true) : s.protects p sp off = false := by
  refine Bool.eq_false_of_not_eq_true fun h => ?_
  simp only [State.protects, Bool.and_eq_true, Bool.not_eq_true', decide_eq_true_eq] at h
  obtain ⟨⟨⟨⟨⟨rfl, -⟩, -⟩, -⟩, free⟩, -⟩ := h
  exact Bool.false_ne_true (free.symm.trans held)

theorem regWriteBase_of_held (held : s.partyHeld p = true) :
    s.regWriteBase p sp off v = s.hold (.registerWrite p sp (BitVec.ofNat 26 off) .dword v) := by
  unfold State.regWriteBase
  split
  case h_1 c found =>
    have inPf0 : sp = .pf0 := by
      by_contra other
      rw [edataOf, if_neg other] at found
      cases found
    subst inPf0
    rw [edataOf, if_pos rfl] at found
    have place : Off.tsEdata c = off := by simpa using List.find?_some found
    subst place
    exact gateWrite_of_held held
  case h_2 =>
    split
    case isTrue save =>
      obtain ⟨rfl, rfl⟩ := save
      exact gateWrite_of_held held
    case isFalse => exact gateWrite_of_held held

theorem regWrite_of_held (held : s.partyHeld p = true) :
    s.regWrite p sp off v = s.hold (.registerWrite p sp (BitVec.ofNat 26 off) .dword v) := by
  have stays : ¬ s.p1wWaits p = true := fun h => by
    simp only [State.p1wWaits, held, Bool.not_true, Bool.and_false, Bool.false_and, Bool.false_eq_true] at h
  unfold State.regWrite
  by_cases window : sp = .pf1 ∧ off = Off.p1wData
  · obtain ⟨rfl, rfl⟩ := window
    rw [if_pos ⟨rfl, rfl⟩, if_neg stays]
    exact gateWrite_of_held held
  · rw [if_neg window, if_neg (ne_true_of_eq_false (protects_of_held held))]
    exact regWriteBase_of_held held

theorem protects_of_mapped (mapped : p = .seqh → sp = .pf0 → Space.mapped .pf0 off = true) : s.protects p sp off = false := by
  refine Bool.eq_false_of_not_eq_true fun h => ?_
  simp only [State.protects, Bool.and_eq_true, Bool.not_eq_true', decide_eq_true_eq] at h
  obtain ⟨⟨⟨⟨⟨seqh, pf0⟩, outside⟩, -⟩, -⟩, -⟩ := h
  exact Bool.false_ne_true (outside.symm.trans (mapped seqh pf0))

theorem protects_of_outside (seqh : p = .seqh) (outside : Space.mapped .pf0 off = false) (ready : s.rst.ready = true)
    (free : s.partyHeld p = false) (first : s.partyBehind p = false) : s.protects p .pf0 off = true := by
  subst seqh
  simp only [State.protects, outside, ready, free, first, decide_true, Bool.not_false, Bool.and_self]

theorem regWrite_of_accepts (takes : s.accepts p sp off = true) (found : (findReg (Space.rows sp) off).isSome)
    (mapped : p = .seqh → sp = .pf0 → Space.mapped .pf0 off = true) (window : sp = .pf1 → off ≠ Off.p1wData)
    (ports : sp = .pf0 → off ≠ Off.calSave ∧ ∀ c : Fin 16, off ≠ Off.tsEdata c) :
    s.regWrite p sp off v = (s.took p sp off).writeReg p sp off v := by
  have other : edataOf sp off = none := by
    by_cases pf0 : sp = .pf0
    · subst pf0
      exact edataOf_eq_none (ports rfl).2
    · exact if_neg pf0
  unfold State.regWrite
  rw [if_neg fun h => window h.1 h.2, if_neg (ne_true_of_eq_false (protects_of_mapped mapped))]
  unfold State.regWriteBase
  rw [other]
  exact (if_neg fun h => (ports h.1).1 h.2).trans (gateWrite_of_accepts takes found)

end

/-! ### Settings -/

section
variable {off : Nat} {r : RegRow} {ix : List Nat}

theorem edata_notSetting : ∀ c : Fin 16, ((findReg pf0Rows (Off.tsEdata c)).all fun e => !isSetting e.1.id) = true := by
  decide +kernel

theorem calSave_notSetting : ((findReg pf0Rows Off.calSave).all fun e => !isSetting e.1.id) = true := by decide +kernel

theorem setting_ports (found : findReg pf0Rows off = some (r, ix)) (setting : isSetting r.id = true) :
    off ≠ Off.calSave ∧ ∀ c : Fin 16, off ≠ Off.tsEdata c := by
  refine ⟨fun is => ?_, fun c is => ?_⟩
  · have no := calSave_notSetting
    rw [← is, found, Option.all_some, setting] at no
    exact Bool.false_ne_true no
  · have no := edata_notSetting c
    rw [← is, found, Option.all_some, setting] at no
    exact Bool.false_ne_true no

theorem regKey_pf0 (off : Nat) : regKey .pf0 off = off := by
  rw [regKey, spaceNum, Nat.zero_mul, Nat.add_zero]

/-- The settings that are not limited as they are stored are plain. -/
theorem writePf0_of_setting {v : Word} {i j : Nat} (setting : isSetting r.id = true) (steep : r.id ≠ .steep)
    (pour : r.id ≠ .pourCtl) (clSteep : r.id ≠ .clSteep) : s.writePf0 p r i j off v = s.setShadow off
      ((s.rg off &&& ~~~BitVec.ofNat 32 r.rw &&& ~~~(v &&& BitVec.ofNat 32 r.w1c &&& ~~~s.setNow off)) |||
        (v &&& BitVec.ofNat 32 r.rw)) := by
  have plain : s.storePlain .pf0 r off v = s.setShadow off
      ((s.rg off &&& ~~~BitVec.ofNat 32 r.rw &&& ~~~(v &&& BitVec.ofNat 32 r.w1c &&& ~~~s.setNow off)) |||
        (v &&& BitVec.ofNat 32 r.rw)) := by
    rw [show s.setNow off = s.setNowAt .pf0 off from congrArg s.setNow (regKey_pf0 off).symm]
    exact if_pos setting
  refine Eq.trans ?_ plain
  unfold isSetting at setting
  split at setting
  case h_1 is => exact absurd is steep
  case h_2 is => exact absurd is pour
  case h_3 is => exact absurd is clSteep
  case h_28 => cases setting
  all_goals
    next is =>
      unfold State.writePf0
      simp only [is]

end

/-! ### Reads of a register that no window or pair changes -/

/-- The registers whose reads step an index, look at a descriptor, or keep half of a pair. -/
def specialReads : List RegId :=
  [.calUdata, .calFdata, .tsEdata, .qdW, .steepNumLo, .tstampLo, .dmaErraddrLo, .steepNumHi, .tstampHi, .dmaErraddrHi,
    .tiuLast, .tiuMean, .tiuMin, .tiuMax, .fuHist]

theorem rc_notSpecial : (pf0Rows.all fun r => decide (r.rc = 0) || decide (r.id ∉ specialReads)) = true := by decide +kernel

theorem pairOf_notSpecial {rid : RegId} (plain : rid ∉ specialReads) (j off : Nat) : pairOf rid j off = none := by
  unfold pairOf
  split
  case h_12 => rfl
  all_goals exact absurd (by decide) plain

section
variable {off : Nat} {r : RegRow} {ix : List Nat}

theorem readBase_of_plain (found : findReg (Space.rows sp) off = some (r, ix)) (plain : r.id ∉ specialReads) :
    s.readBase p sp off = (s.readClear (secureParty p) sp r (ix.getD 0 0) off, .data (s.rcValue (secureParty p) sp r (ix.getD 0 0)
      off (s.view (secureParty p) r.id (ix.getD 0 0) (ix.getD 1 0) (s.regAt sp off)))) := by
  have single := pairOf_notSpecial plain (ix.getD 1 0) off
  have noDesc : r.id ≠ .qdW := fun is => plain (by rw [is]; decide)
  unfold State.readBase
  simp only [found]
  split
  case h_1 is => exact absurd (by rw [is]; decide) plain
  case h_2 is => exact absurd (by rw [is]; decide) plain
  case h_3 is => exact absurd (by rw [is]; decide) plain
  case h_4 => simp only [if_neg noDesc, single]

theorem readReg_of_pf0 (mapped : p = .seqh → Space.mapped .pf0 off = true) : s.readReg p .pf0 off = s.readBase p .pf0 off := by
  unfold State.readReg
  rw [if_neg fun h => Space.noConfusion h.1, if_neg fun h => Space.noConfusion h.1,
    if_neg (ne_true_of_eq_false (protects_of_mapped fun seqh _ => mapped seqh))]

/-! ### RC registers -/

/-- What an RC register held before the part changed it in the CCLK, as its mark or the unit behind it tells. -/
def State.rcWas (s : State) (off : Nat) (sees : Word) (m : Mark) : Word :=
  match s.pre.find? fun e => e.1 = off with
  | some e => e.2
  | none => if rcUnits.contains off then sees else m.was

/-- What an RC read returns: the register as it stood before the part changed it in the CCLK. -/
def State.rcReturned (s : State) (off : Nat) (rc sees : Word) : Word :=
  match s.marks.find? fun m => m.off = off with
  | some m => (s.rcWas off sees m &&& ~~~rc) ||| (m.was &&& rc)
  | none => sees

theorem rcValue_of_acts {high : Bool} {i : Nat} {sees : Word} (acts : s.rcActs high r i = true) :
    s.rcValue high .pf0 r i off sees = s.rcReturned off (BitVec.ofNat 32 r.rc) sees := by
  unfold State.rcValue State.rcReturned State.rcWas
  simp only [acts, if_true, regKey_pf0]
  cases s.marks.find? fun m => m.off = off with
  | none => rfl
  | some m =>
    cases s.pre.find? fun e => e.1 = off with
    | none => simp only [true_and]
    | some e => rfl

theorem readClear_of_acts {high : Bool} {i : Nat} (acts : s.rcActs high r i = true) :
    let rc := BitVec.ofNat 32 r.rc
    let kept := s.setRg off ((s.rg off &&& ~~~rc) ||| ((((s.marks.find? fun m => m.off = off).map (·.new)).getD 0) &&& rc))
    s.readClear high .pf0 r i off =
      { kept with marks := kept.marks.map fun m => if m.off = off then { m with was := m.was &&& ~~~rc } else m } := by
  intro rc kept
  unfold State.readClear State.setNowAt State.setNow
  simp only [acts, if_true, regKey_pf0]
  rfl

end

/-! ### The number of the steep, half by half -/

theorem found_steepNumLo : findReg pf0Rows Off.steepNumLo = some (⟨.steepNumLo, 0x20, [], 0, 0, 0, 0⟩, []) := by decide +kernel

theorem found_steepNumHi : findReg pf0Rows Off.steepNumHi = some (⟨.steepNumHi, 0x24, [], 0, 0, 0, 0⟩, []) := by decide +kernel

theorem low_word (n : BitVec 64) : n.setWidth 32 = BitVec.ofNat 32 n.toNat := by
  refine BitVec.eq_of_toNat_eq ?_
  rw [BitVec.toNat_setWidth, BitVec.toNat_ofNat]

theorem high_word (n : BitVec 64) : (n >>> 32).setWidth 32 = BitVec.ofNat 32 (n.toNat / 2 ^ 32) := by
  refine BitVec.eq_of_toNat_eq ?_
  rw [BitVec.toNat_setWidth, BitVec.toNat_ofNat, BitVec.toNat_ushiftRight, Nat.shiftRight_eq_div_pow]

theorem live_steepNumHi : s.live Off.steepNumHi = BitVec.ofNat 32 (s.steep.num.toNat / 2 ^ 32) := by
  unfold State.live
  simp only [found_steepNumHi]
  exact high_word _

theorem readBase_steepNumLo : s.readBase p .pf0 Off.steepNumLo =
    ({ s with snap := tblPut (rankOf p) (Off.steepNumLo, BitVec.ofNat 32 (s.steep.num.toNat / 2 ^ 32)) s.snap },
      .data (BitVec.ofNat 32 s.steep.num.toNat)) := by
  rw [← live_steepNumHi, ← low_word]
  unfold State.readBase
  simp only [Space.rows, found_steepNumLo]
  rfl

theorem readBase_steepNumHi {v : Word} (kept : Tbl.find s.snap (rankOf p) = some (Off.steepNumLo, v)) :
    s.readBase p .pf0 Off.steepNumHi = (s, .data v) := by
  unfold State.readBase
  simp only [Space.rows, found_steepNumHi, reduceCtorEq, if_false, pairOf, State.pairRead, if_true, kept]
  rfl

/-- A register without RC fields is read at once. -/
theorem readWaits_of_noRc {off : BitVec 26} {r : RegRow} {ix : List Nat} (found : findReg pf0Rows off.toNat = some (r, ix))
    (noRc : r.rc = 0) : s.readWaits p (.lowWordRead p .pf0 off .dword) = false := by
  have reads : ∀ e ∈ s.readsOf (.lowWordRead p .pf0 off .dword), e = (p, .pf0, off.toNat) := by
    intro e listed
    simp only [State.readsOf, shapeReads, List.flatMap_cons, List.flatMap_nil, List.append_nil, reduceCtorEq, false_and,
      if_false] at listed
    split at listed
    · cases listed
    · exact List.mem_singleton.mp listed
  refine List.any_eq_false.mpr fun e listed => ?_
  rw [reads e listed]
  simp only [Space.rows, found, Option.any_some, noRc, ne_eq, not_true_eq_false, decide_false, Bool.false_and,
    Bool.false_eq_true, not_false_eq_true]

/-! ### The window of PF1 -/

theorem exec_p1wDataRead_eq : exec .p1wDataRead s =
    .next (s.gateRead .pf1 .pf1 .p1wDataRead fun s => s.readActs .pf1 .pf1 Off.p1wData .dword .p1wDataRead) := rfl

theorem readReg_p1wData : s.readReg .pf1 .pf1 Off.p1wData = s.p1wRead := if_pos ⟨rfl, rfl⟩

theorem exec_p1wDataWrite_eq (v : Word) : exec (.p1wDataWrite v) s = .next (if s.p1wWaits .pf1 = true
    then s.putBehind (.registerWrite .pf1 .pf1 (BitVec.ofNat 26 Off.p1wData) .dword v)
    else s.gateWrite .pf1 .pf1 Off.p1wData v fun s => s.p1wWrite v) := rfl

end Sys2Proof.Machine

namespace Sys2Proof

open Machine

/-- Settles O59: shapes, reach, settings, RC registers, the number of the steep, and the window of PF1. -/
theorem registerAccess : Obligations.RegisterAccess := by
  refine ⟨fun p off shape v s host bad free first sp => ?_, fun p sp off shape v s => ?_, fun p off v r ix s found => ?_,
    fun p s free first reach ready => ?_, fun s => ?_⟩
  · have wrong := badShape_of_bad host bad
    refine ⟨fun ready => ?_, fun early => ?_, fun i listed other ready reach goes => ?_⟩
    · rw [exec_registerWrite_of_bad wrong free first, if_pos ready]
    · rw [exec_registerWrite_of_bad wrong free first, if_neg (ne_true_of_eq_false early)]
    · rw [exec_read listed, gateRead_of_through free first (.inr ready) reach fun win => absurd win other,
        readActs_of_bad goes wrong]
  · intro first own
    refine ⟨fun i listed => ?_, fun good hi two => exec_registerWrite_two good two, fun good one => ?_,
      fun free ready seqh pf0 outside => ?_⟩
    · rw [exec_read listed]
      refine ⟨fun held => congrArg Host.Outcome.next (gateRead_of_held held),
        fun free behind => congrArg Host.Outcome.next (gateRead_of_behind free behind),
        fun ok other early => congrArg Host.Outcome.next (gateRead_of_early ok.1 ok.2 other early),
        fun ok answers far => congrArg Host.Outcome.next (gateRead_of_far ok.1 ok.2 answers far),
        fun ok win reach cold => congrArg Host.Outcome.next (gateRead_of_cold ok.1 ok.2 (.inl win) reach win cold),
        fun ok answers reach => ?_⟩
      have through : (s.gateRead p sp i fun s => s.readActs p sp off.toNat shape i) = s.readActs p sp off.toNat shape i := by
        by_cases win : sp = .win
        · rw [if_pos win] at answers
          exact gateRead_of_through ok.1 ok.2 (.inl win) reach fun _ => answers
        · rw [if_neg win] at answers
          exact gateRead_of_through ok.1 ok.2 (.inr answers) reach fun is => absurd is win
      rw [through]
      refine ⟨fun waits => congrArg Host.Outcome.next (readActs_of_waits waits), fun goes good => ⟨fun one => ?_, fun hi two => ?_⟩⟩
      · exact congrArg Host.Outcome.next (readActs_of_one goes good one)
      · exact congrArg Host.Outcome.next (readActs_of_two goes good two)
    · refine ⟨fun held => ?_, fun takes found mapped window ports => ?_⟩
      · rw [exec_registerWrite_one good one, regWrite_of_held held, BitVec.ofNat_toNat, BitVec.setWidth_eq]
        rfl
      · rw [exec_registerWrite_one good one, regWrite_of_accepts takes found mapped window ports]
    · subst pf0
      have good : badShape p off.toNat .dword = false := by
        subst seqh
        rfl
      rw [exec_registerWrite_one good fun hi is => Shape.noConfusion is]
      refine congrArg Host.Outcome.next ((if_neg fun h => Space.noConfusion h.1).trans (if_pos ?_))
      exact protects_of_outside seqh outside ready free.1 free.2
  · intro u rw_ rc mark sees kept was
    refine ⟨fun setting steep pour clSteep takes mapped aligned => ?_,
      fun hasRc acts reach free first ready aligned mapped goes => ?_⟩
    · rw [exec_registerWrite_one (badShape_dword aligned) fun hi is => Shape.noConfusion is,
        regWrite_of_accepts takes (by rw [Space.rows, found]; rfl) (fun seqh _ => mapped seqh) (fun is => Space.noConfusion is)
          fun _ => setting_ports found setting]
      unfold State.writeReg
      simp only [Space.rows, found]
      exact congrArg Host.Outcome.next (writePf0_of_setting setting steep pour clSteep)
    · have plain : r.id ∉ specialReads := by
        have row := List.all_eq_true.mp rc_notSpecial r (findReg_mem found).1
        rw [Bool.or_eq_true, decide_eq_true_eq, decide_eq_true_eq] at row
        exact row.resolve_left hasRc
      rw [exec_read (List.mem_pair.mpr (.inr rfl)), gateRead_of_through free first (.inr ready) reach fun is => Space.noConfusion is,
        readActs_of_one goes (badShape_dword aligned) fun hi is => Shape.noConfusion is, readReg_of_pf0 mapped,
        readBase_of_plain (sp := .pf0) found plain, readClear_of_acts acts]
      rw [rcValue_of_acts acts]
      rfl
  · intro hi
    have low : (BitVec.ofNat 26 Off.steepNumLo).toNat = Off.steepNumLo := rfl
    have high : (BitVec.ofNat 26 Off.steepNumHi).toNat = Off.steepNumHi := rfl
    refine ⟨?_, fun v kept => ?_⟩
    · rw [exec_read (List.mem_pair.mpr (.inl rfl)), gateRead_of_through free first (.inr ready) reach fun is => Space.noConfusion is,
        readActs_of_one (readWaits_of_noRc (low ▸ found_steepNumLo) rfl) (badShape_dword rfl) fun hi is => Shape.noConfusion is,
        low, readReg_of_pf0 fun _ => rfl, readBase_steepNumLo]
    · rw [exec_read (List.mem_pair.mpr (.inl rfl)), gateRead_of_through free first (.inr ready) reach fun is => Space.noConfusion is,
        readActs_of_one (readWaits_of_noRc (high ▸ found_steepNumHi) rfl) (badShape_dword rfl) fun hi is => Shape.noConfusion is,
        high, readReg_of_pf0 fun _ => rfl, readBase_steepNumHi kept]
  · intro at_ step own
    refine ⟨fun free first ready => ⟨fun waits => ?_, fun goes => ?_⟩, fun v takes => ?_⟩
    · rw [exec_p1wDataRead_eq, gateRead_of_through free first (.inr ready) rfl fun is => Space.noConfusion is, readActs_of_waits waits]
    · rw [exec_p1wDataRead_eq, gateRead_of_through free first (.inr ready) rfl fun is => Space.noConfusion is,
        readActs_of_one goes (badShape_dword rfl) fun hi is => Shape.noConfusion is, readReg_p1wData]
      rfl
    · intro t
      rw [exec_p1wDataWrite_eq]
      refine ⟨fun waits => congrArg Host.Outcome.next (if_pos waits), fun goes => congrArg Host.Outcome.next ?_⟩
      exact (if_neg (ne_true_of_eq_false goes)).trans (gateWrite_of_accepts takes found_p1wData)

end Sys2Proof
end

section
/-!
SUPPORT. The service port: SP_CMD, the start of an access, and its end.
-/
namespace Sys2Proof.Machine

variable {s : State}

/-! ### SP_CMD -/

theorem spCmdWrite_eq (s : State) (v : Word) :
    let key := fld v 16 16
    let safe := if flag v 0 = true ∧ key = 0x5AFE
      then (if s.rst.ready then s.safeFrom 0xD002 else { s with rst := { s.rst with safeReq := true } }) else s
    let asked := if flag v 1 = true ∧ key = 0xB007 ∧ safe.rst.reqAt = none
      then { safe with rst := { safe.rst with reqAt := some (safe.now, 3) } } else safe
    s.spCmdWrite v = if (key ≠ 0x5AFE ∧ key ≠ 0xB007) ∨ (flag v 0 = true ∧ key ≠ 0x5AFE) ∨ (flag v 1 = true ∧ key ≠ 0xB007)
      then asked.changeWg Off.spStat fun w => setFlag w 29 true else asked := by
  intro key safe asked
  have asks : (if flag v 1 = true ∧ key = 0xB007 then safe.askReset 3 else safe) = asked := by
    by_cases is : flag v 1 = true ∧ key = 0xB007
    · rw [if_pos is, askReset_eq]
      exact if_congr ⟨fun none_ => ⟨is.1, is.2, none_⟩, fun h => h.2.2⟩ rfl rfl
    · rw [if_neg is]
      exact (if_neg fun h => is ⟨h.1, h.2.1⟩).symm
  rw [← asks]
  rfl

/-! ### The start of an access -/

theorem spMay_eq_false {ptr : Word} : s.spMay ptr = false ↔ s.rst.ready = false ∨
    Space.mapped (if flag ptr 31 then .pf1 else .pf0) (4 * fld ptr 2 24) = false := Bool.and_eq_false_iff

theorem spStart_eq (s : State) (write : Bool) (data : Word) :
    let sec := flag (s.wg Off.spPtr) 31
    let off := 4 * fld (s.wg Off.spPtr) 2 24
    s.spStart write data = if s.rst.ready = false ∨ Space.mapped (if sec then .pf1 else .pf0) off = false
      then s.changeWg Off.spStat fun w => setFlag w 29 true
      else State.changeWg { s with spp := { s.spp with busy := some (write, sec, off, data), start := s.now } } Off.spStat
        fun w => setFlag w 31 true :=
  if_congr ((iff_of_eq (Bool.not_eq_true' _)).trans spMay_eq_false) rfl rfl

/-! ### The end of an access -/

theorem spAccessDone_noRead (noRead : s.readsOf .spAccessDone = []) : s.readWaits .sp .spAccessDone = false := by
  unfold State.readWaits
  rw [noRead]
  rfl

theorem exec_spAccessDone_of_waits (waits : s.readWaits .sp .spAccessDone = true) :
    exec .spAccessDone s = .next (s.putBehind .spAccessDone) := congrArg Host.Outcome.next (if_pos waits)

theorem exec_spAccessDone_of_goes (goes : s.readWaits .sp .spAccessDone = false) : exec .spAccessDone s = .next s.spAccess :=
  congrArg Host.Outcome.next (if_neg (ne_true_of_eq_false goes))

theorem spAccess_of_idle (idle : s.spp.busy = none) : s.spAccess = s := by
  unfold State.spAccess
  simp only [idle]

section
variable {sec : Bool} {off : Nat} {data : Word}

theorem spAccess_of_write (busy : s.spp.busy = some (true, sec, off, data)) :
    let z := State.regWrite { s with spp := { s.spp with busy := none } } .sp (if sec then .pf1 else .pf0) off data
    s.spAccess = ((if flag (z.wg Off.spPtr) 30 then z.spAdvance else z).spFlag 31 false).spFlag 30 true := by
  intro z
  unfold State.spAccess
  simp only [busy, if_true]
  rfl

theorem spAccess_of_read {t : State} {w : Word} (busy : s.spp.busy = some (false, sec, off, data))
    (reads : State.readReg { s with spp := { s.spp with busy := none } } .sp (if sec then .pf1 else .pf0) off = (t, .data w)) :
    s.spAccess = ((t.setWg Off.spData w).spFlag 31 false).spFlag 30 true := by
  unfold State.spAccess
  simp only [busy, Bool.false_eq_true, if_false]
  rw [reads]

theorem readsOf_of_write (busy : s.spp.busy = some (true, sec, off, data)) : s.readsOf .spAccessDone = [] := by
  unfold State.readsOf
  simp only [busy]

theorem readsOf_of_idle (idle : s.spp.busy = none) : s.readsOf .spAccessDone = [] := by
  unfold State.readsOf
  simp only [idle]

end

end Sys2Proof.Machine

namespace Sys2Proof

open Machine

/-- Settles O60: SP_CMD, the start and the end of an access, and framing errors. -/
theorem servicePort : Obligations.ServicePort := by
  refine ⟨fun v s takes => ?_, fun v s => ?_, fun s => ?_⟩
  · intro u key safe asked wrong i listed
    have stored : exec i s = .next (u.spCmdWrite v) := by
      rcases List.mem_pair.mp listed with rfl | rfl
      · exact congrArg Host.Outcome.next (gateWrite_of_accepts takes found_spCmd)
      · exact congrArg Host.Outcome.next (gateWrite_of_accepts takes found_spCmd)
    rw [stored, spCmdWrite_eq]
    exact ⟨fun right => congrArg Host.Outcome.next (if_neg right), fun is => congrArg Host.Outcome.next (if_pos is)⟩
  · intro err start refused
    have starts (z : State) (write : Bool) (data : Word) : z.spStart write data = start z write data := spStart_eq z write data
    refine ⟨fun takes => ?_, fun takes => ?_, fun free first warm => ?_⟩
    · intro u z
      have stored : exec (.spPtrWrite v) s = .next (u.spPtrWrite v) :=
        congrArg Host.Outcome.next (gateWrite_of_accepts takes found_spPtr)
      have asks : (u.spp.busy.isSome || (flag v 29 && !u.spMay v)) = true ↔
          u.spp.busy.isSome = true ∨ (flag v 29 = true ∧ refused v) := by
        rw [Bool.or_eq_true, Bool.and_eq_true, Bool.not_eq_true', spMay_eq_false]
        rfl
      rw [stored, ← starts]
      exact congrArg Host.Outcome.next (if_congr asks rfl rfl)
    · intro u
      have stored : exec (.spDataWrite v) s = .next (u.spDataWrite v) :=
        congrArg Host.Outcome.next (gateWrite_of_accepts takes found_spData)
      have asks : (u.spp.busy.isSome || !u.spMay (u.wg Off.spPtr)) = true ↔
          u.spp.busy.isSome = true ∨ refused (u.wg Off.spPtr) := by
        rw [Bool.or_eq_true, Bool.not_eq_true', spMay_eq_false]
        rfl
      rw [stored, ← starts]
      exact congrArg Host.Outcome.next (if_congr asks rfl rfl)
    · intro u ptr
      have read : exec .spDataRead s = .next u.spDataTaken :=
        congrArg Host.Outcome.next (gateRead_of_through free first (.inl rfl) rfl fun _ => warm)
      have asks : (flag (u.wg Off.spPtr) 30 = true ∧ flag (u.wg Off.spPtr) 29 = true ∧ u.spp.busy.isNone = true) ↔
          flag ptr 30 = true ∧ flag ptr 29 = true ∧ s.spp.busy = none := by
        rw [Option.isNone_iff_eq_none]
        rfl
      rw [read, ← starts]
      exact congrArg Host.Outcome.next (if_congr asks rfl rfl)
  · intro bit done u i
    refine ⟨exec_spAccessDone_of_waits, fun idle => ?_, fun sec off data busy => ?_, fun sec off data t w busy goes reads => ?_,
      fun cold => ?_, fun warm => ?_⟩
    · rw [show exec i s = .next s.spAccess from exec_spAccessDone_of_goes (spAccessDone_noRead (readsOf_of_idle idle)),
        spAccess_of_idle idle]
    · intro z
      rw [show exec i s = .next s.spAccess from exec_spAccessDone_of_goes (spAccessDone_noRead (readsOf_of_write busy)),
        spAccess_of_write busy]
      rfl
    · rw [show exec i s = .next s.spAccess from exec_spAccessDone_of_goes goes, spAccess_of_read busy reads]
      rfl
    · exact congrArg Host.Outcome.next (if_pos cold)
    · intro z
      exact congrArg Host.Outcome.next (if_neg (ne_true_of_eq_false warm))

end Sys2Proof
end
